-- ==== Sys2Proof/Word.lean ====
section
/-! DEFINITION. The word types of the KK7 model and their plainest readings. -/

namespace Sys2Proof

/-- One byte. -/
abbrev Byte := BitVec 8
/-- A 32-bit word; FP32 values travel as their bit patterns. -/
abbrev W32 := BitVec 32
/-- A 64-bit word: registers, addresses and counters. -/
abbrev W64 := BitVec 64
/-- A predicate register (R57). -/
abbrev Pred := BitVec 128
/-- A vector register of 512 bytes (R56). -/
abbrev VReg := BitVec 4096
/-- A 64-byte queue entry, descriptor or command. -/
abbrev W512 := BitVec 512

end Sys2Proof
end

