-- ==== Sys2Proof/Syntax.lean ====
section
/-! DEFINITION. The commands of the KK7 block: one constructor of `Instr` for each row of the table of operations and
events (spec/opcode_table.json), with its operands. A thread instruction carries the thread that issues it and the
fields of its format (Tables 03-4 and 03-5), reserved fields included; an event carries what arrives or is measured. -/

namespace Sys2Proof

/-- A thread slot of a core (R12, R23). -/
structure Tid where
  core : Fin 256
  slot : Fin 64
  deriving DecidableEq, Repr

/-- Format S (Table 03-5). -/
structure SOp where
  pred : BitVec 3 := 0
  pneg : Bool := false
  gd : BitVec 6 := 0
  ga : BitVec 6 := 0
  gb : BitVec 6 := 0
  gc : BitVec 6 := 0
  w : Bool := false
  ord : BitVec 2 := 0
  rsv : BitVec 25 := 0
  deriving DecidableEq, Repr

/-- Format I (Table 03-5). -/
structure IOp where
  pred : BitVec 3 := 0
  pneg : Bool := false
  gd : BitVec 6 := 0
  ga : BitVec 6 := 0
  rsv : BitVec 8 := 0
  imm : BitVec 32 := 0
  deriving DecidableEq, Repr

/-- Format M (Table 03-5). -/
structure MOp where
  pred : BitVec 3 := 0
  pneg : Bool := false
  gd : BitVec 6 := 0
  ga : BitVec 6 := 0
  sz : BitVec 3 := 0
  ord : BitVec 2 := 0
  rlx : Bool := false
  rsv : BitVec 2 := 0
  off : BitVec 32 := 0
  deriving DecidableEq, Repr

/-- Format V (Table 03-5). -/
structure VOp where
  pred : BitVec 3 := 0
  pneg : Bool := false
  vd : BitVec 5 := 0
  va : BitVec 5 := 0
  vb : BitVec 5 := 0
  vc : BitVec 5 := 0
  et : BitVec 3 := 0
  pd : BitVec 3 := 0
  gs : BitVec 6 := 0
  lane : BitVec 9 := 0
  rsv : BitVec 11 := 0
  deriving DecidableEq, Repr

/-- Format A (Table 03-5). -/
structure AOp where
  pred : BitVec 3 := 0
  pneg : Bool := false
  gd : BitVec 6 := 0
  ga : BitVec 6 := 0
  arr : Bool := false
  tag : BitVec 8 := 0
  rsv : BitVec 31 := 0
  deriving DecidableEq, Repr

/-- Format B (Table 03-5). -/
structure BOp where
  pred : BitVec 3 := 0
  pneg : Bool := false
  gd : BitVec 6 := 0
  ga : BitVec 6 := 0
  rsv : BitVec 8 := 0
  disp : BitVec 32 := 0
  deriving DecidableEq, Repr

/-- A matrix array of a core (R12). -/
structure ArrRef where
  core : Fin 256
  arr : Fin 2
  deriving DecidableEq, Repr

/-- A queue: host queue n of VF p + 1, or device queue q of partition p (R46, R281, R416). -/
inductive QRef where
  | host (p : Fin 128) (n : Fin 32)
  | dev (p : Fin 128) (q : Fin 8)
  deriving DecidableEq, Repr

/-- A ring register written by QUEUE_RING_WRITE (Tables 11-11 and 17-3). -/
inductive RingReg where
  | sqBase | sqEntries | cqBase | cqEntries | coalesce | ringCfg
  deriving DecidableEq, Repr

/-- What the code says of an arriving flit: its codewords clean, one of them corrected, with the symbols corrected by lane, or a
codeword beyond correction (R243, R245, R249). -/
inductive FlitCheck where
  | clean
  | corrected (symbols : List Nat)
  | uncorrectable
  deriving DecidableEq, Repr

/-- A flit: its header and its 304 bytes (R243, R244). -/
structure Flit where
  hdr : BitVec 128
  payload : List Byte
  deriving DecidableEq, Repr

/-- How a host-ring access failed (R419). -/
inductive RingCause where
  | translation | readError | writeError
  deriving DecidableEq, Repr

/-- The path a dictionary access takes: the CAN FD node, or a mailbox (R382, R383). -/
inductive Acc where
  | can
  | mbx (m : Fin 256)
  deriving DecidableEq, Repr

/-- A dictionary entry and a byte offset in it (R373). -/
structure OdAddr where
  index : BitVec 16
  sub : Byte
  offset : Nat := 0
  deriving DecidableEq, Repr

/-- What is written into a mailbox for one command: TARGET, LENGTH, the SEQ and reserved bits of GO, and the DATA
bytes (Table 15-4). -/
structure MbxCmd where
  target : W64
  length : W64 := 0
  seq : W32 := 0
  rsv : BitVec 24 := 0
  data : List Byte := []
  deriving DecidableEq, Repr

/-- A hardware site whose faults are counted (Table 13-2). -/
inductive Site where
  | channel (x : Fin 512)
  | subchannel (x : Fin 32)
  | core (k : Fin 256)
  | laneHalf (x : Fin 48)
  | port (n : Fin 24)
  | package (c : BitVec 12)
  deriving DecidableEq, Repr

/-- What a failed check names (R334): an instruction's residue or parity check in a task, an uncorrectable error in a
task's tile store, table slot or thread state, or an uncorrectable error in a 64-byte line of memory, found by a read. -/
inductive CheckSite where
  | residue (task : Nat) (pc : W64)
  | state (task : Nat)
  | line (addr : BitVec 52) (syndrome : W64)
  deriving DecidableEq, Repr

/-- A segment of a casting call: its header (Table 08-4) and the bytes that follow (Table 08-5). -/
structure Segment where
  hdr : W512
  body : List Byte := []
  deriving DecidableEq, Repr

/-- A collective segment: COLL_ID, the sender's participant index, the stage and chunk or partial position, the status,
and the payload bytes (R270 to R277). -/
structure CollSegment where
  collId : W32
  sender : Nat
  stage : Nat := 0
  pos : Nat := 0
  status : Byte := 0
  body : List Byte := []
  deriving DecidableEq, Repr

/-- Bytes that arrive from a source outside the package's memory, the indices of its uncorrectable 64-byte lines, and
the status the source gave (R229, R235). -/
structure Arrival where
  bytes : List Byte := []
  bad : List Nat := []
  status : Byte := 0
  deriving DecidableEq, Repr

/-- The segment a COLL request carries, of a collective or of a casting call (R206, R270); none in another request. -/
inductive FabSeg where
  | none
  | coll (g : CollSegment)
  | cast (g : Segment)
  deriving DecidableEq, Repr

/-- A fabric request as it arrives on a port: the fields of Table 10-6 but OP, which the command names, and the payload.
`die` is the Cerain die of the sender that asks, for the directory of R267; `seg` the segment of a COLL request. -/
structure FabReq where
  port : Fin 24
  dst : BitVec 12
  src : BitVec 12
  jobId : BitVec 16 := 0
  cls : BitVec 2 := 0
  lenM1 : BitVec 12 := 0
  addr : BitVec 52 := 0
  seq : W32 := 0
  tag : W32 := 0
  ctag : W32 := 0
  die : Fin 4 := 0
  body : List Byte := []
  seg : FabSeg := .none
  /-- what the context committed when it arrived said of it: the receiving partition, or that it fails (R264); none as it arrives -/
  checked : Option (Option Nat) := .none
  deriving DecidableEq, Repr

/-- A fabric response: the coordinate that answers, the SEQ it answers, its status and its data (Table 10-6); `dest` is its DST where
that is another package, which it is passed on to (R252), with its OP and JOB_ID; `nak` marks an end-to-end NAK, whose SEQ is the one
expected (R261). -/
structure FabResp where
  port : Fin 24
  dst : BitVec 12
  seq : W32
  status : Byte := 0
  body : List Byte := []
  dest : Option (BitVec 12) := .none
  op : Nat := 0
  jobId : BitVec 16 := 0
  nak : Bool := false
  deriving DecidableEq, Repr

/-- The identity record of a far port end (R247), and the one-way latency measured at training. -/
structure Identity where
  serial : W64
  port : Nat
  role : BitVec 2 := 0
  coord : BitVec 12
  halves : BitVec 2
  ns : W32 := 0
  deriving DecidableEq, Repr

/-- One append of the key-value writer: the context, layer and head group, which of the step's rows it is, the FP32 key
and value rows, and, for a node of a verification tree, its index (R169, R188). -/
structure KvWrite where
  p : Fin 128
  ref : W64
  layer : Nat
  group : Nat
  row : Nat := 0
  node : Option Nat := none
  keys : List W32
  vals : List W32
  deriving DecidableEq, Repr

/-- What the boot ROM finds at a start: whether each bank reads back unchanged, and its RECORDS section, whether the PUF response reproduces the
helper data's hash, the strap levels, and the sizes of the DDR5 modules that train, in GiB (R14, R396, R400, R432). -/
structure StartReport where
  bank0Reads : Bool := true
  bank1Reads : Bool := true
  records0Read : Bool := true
  records1Read : Bool := true
  pufOk : Bool := true
  nodeId : BitVec 7 := 0
  trayPos : BitVec 2 := 0
  modules : List Nat := []
  deriving DecidableEq, Repr

/-- The outcome of the start-up self-tests: the sites that fail (R403). -/
structure SelfTest where
  failed : List Site := []
  deriving DecidableEq, Repr

/-- The commands: one constructor for each row of the table of operations and events. -/
inductive Instr where
  /-- NOP (R63). -/
  | nop (t : Tid) (f : SOp)
  /-- ADD (R63). -/
  | add (t : Tid) (f : SOp)
  /-- SUB (R63). -/
  | sub (t : Tid) (f : SOp)
  /-- MUL (R63). -/
  | mul (t : Tid) (f : SOp)
  /-- MULHU (R63). -/
  | mulhu (t : Tid) (f : SOp)
  /-- MULHS (R63). -/
  | mulhs (t : Tid) (f : SOp)
  /-- DIVU (R64). -/
  | divu (t : Tid) (f : SOp)
  /-- DIVS (R64). -/
  | divs (t : Tid) (f : SOp)
  /-- REMU (R64). -/
  | remu (t : Tid) (f : SOp)
  /-- REMS (R64). -/
  | rems (t : Tid) (f : SOp)
  /-- AND (R63). -/
  | and (t : Tid) (f : SOp)
  /-- OR (R63). -/
  | or (t : Tid) (f : SOp)
  /-- XOR (R63). -/
  | xor (t : Tid) (f : SOp)
  /-- SHL (R63). -/
  | shl (t : Tid) (f : SOp)
  /-- SHR (R63). -/
  | shr (t : Tid) (f : SOp)
  /-- SRA (R63). -/
  | sra (t : Tid) (f : SOp)
  /-- MINS (R63). -/
  | mins (t : Tid) (f : SOp)
  /-- MAXS (R63). -/
  | maxs (t : Tid) (f : SOp)
  /-- POPC (R63). -/
  | popc (t : Tid) (f : SOp)
  /-- CLZ (R63). -/
  | clz (t : Tid) (f : SOp)
  /-- CMP (R63). -/
  | cmp (t : Tid) (f : SOp)
  /-- SEL (R63). -/
  | sel (t : Tid) (f : SOp)
  /-- ADDI (R63). -/
  | addi (t : Tid) (f : IOp)
  /-- ANDI (R63). -/
  | andi (t : Tid) (f : IOp)
  /-- ORI (R63). -/
  | ori (t : Tid) (f : IOp)
  /-- XORI (R63). -/
  | xori (t : Tid) (f : IOp)
  /-- SHLI (R63). -/
  | shli (t : Tid) (f : IOp)
  /-- SHRI (R63). -/
  | shri (t : Tid) (f : IOp)
  /-- MOVHI (R63). -/
  | movhi (t : Tid) (f : IOp)
  /-- FADD (R65). -/
  | fadd (t : Tid) (f : SOp)
  /-- FMUL (R65). -/
  | fmul (t : Tid) (f : SOp)
  /-- FFMA (R65). -/
  | ffma (t : Tid) (f : SOp)
  /-- FCVTSF (R65). -/
  | fcvtsf (t : Tid) (f : SOp)
  /-- FCVTFS (R65). -/
  | fcvtfs (t : Tid) (f : SOp)
  /-- RDS (R58). -/
  | rds (t : Tid) (f : IOp)
  /-- WRS (R58). -/
  | wrs (t : Tid) (f : IOp)
  /-- LD (R43). -/
  | ld (t : Tid) (f : MOp)
  /-- ST (R42). -/
  | st (t : Tid) (f : MOp)
  /-- LDV (R62). -/
  | ldv (t : Tid) (f : MOp)
  /-- STV (R68). -/
  | stv (t : Tid) (f : MOp)
  /-- LDAI (R66). -/
  | ldai (t : Tid) (f : SOp)
  /-- ATADD (R67). -/
  | atadd (t : Tid) (f : SOp)
  /-- ATFADD (R67). -/
  | atfadd (t : Tid) (f : SOp)
  /-- CAS (R67). -/
  | cas (t : Tid) (f : SOp)
  /-- FPADD32 (R82). -/
  | fpadd32 (t : Tid) (f : SOp)
  /-- VADD (R65). -/
  | vadd (t : Tid) (f : VOp)
  /-- VSUB (R65). -/
  | vsub (t : Tid) (f : VOp)
  /-- VMUL (R65). -/
  | vmul (t : Tid) (f : VOp)
  /-- VFMA (R65). -/
  | vfma (t : Tid) (f : VOp)
  /-- VMAX (R65). -/
  | vmax (t : Tid) (f : VOp)
  /-- VMIN (R65). -/
  | vmin (t : Tid) (f : VOp)
  /-- VAND (R62). -/
  | vand (t : Tid) (f : VOp)
  /-- VOR (R62). -/
  | vor (t : Tid) (f : VOp)
  /-- VXOR (R62). -/
  | vxor (t : Tid) (f : VOp)
  /-- VSHL (R62). -/
  | vshl (t : Tid) (f : VOp)
  /-- VSHR (R62). -/
  | vshr (t : Tid) (f : VOp)
  /-- VCMP (R63). -/
  | vcmp (t : Tid) (f : VOp)
  /-- VSEL (R62). -/
  | vsel (t : Tid) (f : VOp)
  /-- VCVT (R69). -/
  | vcvt (t : Tid) (f : VOp)
  /-- VBCAST (R62). -/
  | vbcast (t : Tid) (f : VOp)
  /-- VEXT (R62). -/
  | vext (t : Tid) (f : VOp)
  /-- VINS (R62). -/
  | vins (t : Tid) (f : VOp)
  /-- VPERM (R62). -/
  | vperm (t : Tid) (f : VOp)
  /-- VREDSUM (R70). -/
  | vredsum (t : Tid) (f : VOp)
  /-- VREDMAX (R70). -/
  | vredmax (t : Tid) (f : VOp)
  /-- VREDMIN (R70). -/
  | vredmin (t : Tid) (f : VOp)
  /-- SFE (R150). -/
  | sfe (t : Tid) (f : VOp)
  /-- SFLOAD (R153). -/
  | sfload (t : Tid) (f : VOp)
  /-- SFLOAD_COMPLETE (R147). -/
  | sfloadComplete (t : Tid) (far : List Byte) (status : Byte)
  /-- ACMD (R72). -/
  | acmd (t : Tid) (f : AOp)
  /-- AWAIT (R73). -/
  | await (t : Tid) (f : AOp)
  /-- ASTAT (R72). -/
  | astat (t : Tid) (f : AOp)
  /-- FLYHINT (R74). -/
  | flyhint (t : Tid) (f : SOp)
  /-- FENCE (R44). -/
  | fence (t : Tid) (f : SOp)
  /-- FENCE_COMPLETE (R44). -/
  | fenceComplete (t : Tid)
  /-- RELEASE_ISSUE (R42). -/
  | releaseIssue (t : Tid)
  /-- FFENCE (R49). -/
  | ffence (t : Tid) (f : SOp)
  /-- INV (R38). -/
  | inv (t : Tid) (f : SOp)
  /-- BAR (R75). -/
  | bar (t : Tid) (f : SOp)
  /-- WAITV (R76). -/
  | waitv (t : Tid) (f : SOp)
  /-- WAITV_TIMEOUT (R76). -/
  | waitvTimeout (t : Tid)
  /-- BR (R59). -/
  | br (t : Tid) (f : BOp)
  /-- CALL (R59). -/
  | call (t : Tid) (f : BOp)
  /-- JR (R59). -/
  | jr (t : Tid) (f : BOp)
  /-- END (R24). -/
  | endThread (t : Tid) (f : BOp)
  /-- ERET (R81). -/
  | eret (t : Tid) (f : BOp)
  /-- ERETS (R81). -/
  | erets (t : Tid) (f : BOp)
  /-- BRK (R79). -/
  | brk (t : Tid) (f : BOp)
  /-- YIELD (R83). -/
  | yield (t : Tid) (f : BOp)
  /-- LOAD (R88). -/
  | load (a : ArrRef)
  /-- STREAM (R97). -/
  | stream (a : ArrRef)
  /-- RELEASE (R87). -/
  | release (a : ArrRef)
  /-- ARRAY_COMMAND_COMPLETE (R106). -/
  | arrayCommandComplete (a : ArrRef)
  /-- TASK_ENTRY (R288). -/
  | taskEntry (q : QRef) (e : W512)
  /-- STEP_BEGIN (R287). -/
  | stepBegin (q : QRef) (e : W512)
  /-- STEP_BOUNDARY (R287). -/
  | stepBoundary (p : Fin 128)
  /-- STEP_TIMEOUT (R289). -/
  | stepTimeout (p : Fin 128)
  /-- DISPATCH (R291). -/
  | dispatch (d : Fin 4)
  /-- PARTITION_RESET_COMPLETE (R308). -/
  | partitionResetComplete (p : Fin 128)
  /-- TASK_COMPLETE (R285). -/
  | taskComplete (k : Nat)
  /-- TASK_COMMIT (R333). -/
  | taskCommit (k : Nat)
  /-- COMPLETION_NOTICE (R46). -/
  | completionNotice (q : QRef)
  /-- KV_APPEND (R169). -/
  | kvAppend (u : KvWrite)
  /-- NORM_VERDICT (R133). -/
  | normVerdict (p : Fin 128) (l : Fin 1024) (grad : Bool)
  /-- ENCORE_RESERVATION (R238). -/
  | encoreReservation (p : Fin 128) (l : Fin 1024)
  /-- REQ_OPEN (R294). -/
  | reqOpen (q : QRef) (e : W512)
  /-- REQ_TOKENS (R296). -/
  | reqTokens (q : QRef) (e : W512)
  /-- REQ_PAUSE (R302). -/
  | reqPause (q : QRef) (e : W512)
  /-- REQ_RESUME (R302). -/
  | reqResume (q : QRef) (e : W512)
  /-- REQ_CLOSE (R298). -/
  | reqClose (q : QRef) (e : W512)
  /-- CALL_MONITOR_TICK (R299). -/
  | callMonitorTick
  /-- BUDGET_REFILL (R301). -/
  | budgetRefill
  /-- SWITCH_OUT (R304). -/
  | switchOut (k : Nat)
  /-- CAST_RESUME (R305). -/
  | castResume (k : Nat)
  /-- CHECK_FAILURE (R334). -/
  | checkFailure (c : CheckSite)
  /-- REPLAY_COMPLETE (R336). -/
  | replayComplete (p : Fin 128)
  /-- SITE_PERMANENT (R326). -/
  | sitePermanent (x : Site)
  /-- LANE_COPY_COMPLETE (R220). -/
  | laneCopyComplete (tierD : Bool) (region : Nat) (lane : Nat) (bad : List Nat)
  /-- DIE_LINK_FLIT_ERROR (R17). -/
  | dieLinkFlitError (l : Fin 9)
  /-- DIE_LINK_RETRY_LIMIT (R17). -/
  | dieLinkRetryLimit (l : Fin 9) (retries : Nat)
  /-- POOL (R177). -/
  | pool (q : QRef) (e : W512)
  /-- CTX_ALLOC (R179). -/
  | ctxAlloc (q : QRef) (e : W512)
  /-- CTX_RELEASE (R180). -/
  | ctxRelease (q : QRef) (e : W512)
  /-- CTX_RELEASE_COMPLETE (R180). -/
  | ctxReleaseComplete (i : Fin 2097152)
  /-- PUBLISH (R179). -/
  | publish (q : QRef) (e : W512)
  /-- MAP (R179). -/
  | map (q : QRef) (e : W512)
  /-- UNPUBLISH (R179). -/
  | unpublish (q : QRef) (e : W512)
  /-- CTX_QUERY (R179). -/
  | ctxQuery (q : QRef) (e : W512)
  /-- CASTING_CALL (R196). -/
  | castingCall (k : Nat)
  /-- SCORES_SEGMENT (R200). -/
  | scoresSegment (r : FabReq) (g : Segment)
  /-- OFFERS_SEGMENT (R201). -/
  | offersSegment (r : FabReq) (g : Segment)
  /-- RESPONSES_SEGMENT (R201). -/
  | responsesSegment (r : FabReq) (g : Segment)
  /-- NOTICES_SEGMENT (R200). -/
  | noticesSegment (r : FabReq) (g : Segment)
  /-- COUNTS_SEGMENT (R204). -/
  | countsSegment (r : FabReq) (g : Segment)
  /-- DISPATCH_SEGMENT (R208). -/
  | dispatchSegment (r : FabReq) (g : Segment)
  /-- RETURN_SEGMENT (R208). -/
  | returnSegment (r : FabReq) (g : Segment)
  /-- FAIL_SEGMENT (R207). -/
  | failSegment (r : FabReq) (g : Segment)
  /-- SLOT_LIST_FINAL (R209). -/
  | slotListFinal (p : Fin 128) (j : Fin 64)
  /-- CAST_TIMEOUT (R198). -/
  | castTimeout (p : Fin 128)
  /-- ALLOC (R222). -/
  | alloc (q : QRef) (e : W512)
  /-- FREE (R229). -/
  | free (q : QRef) (e : W512)
  /-- OBJ_REGISTER (R224). -/
  | objRegister (q : QRef) (e : W512)
  /-- OBJ_RETIRE (R229). -/
  | objRetire (q : QRef) (e : W512)
  /-- FILL (R229). -/
  | fill (q : QRef) (e : W512)
  /-- FILL_COMPLETE (R229). -/
  | fillComplete (k : Nat) (b : Arrival)
  /-- KEY_LOAD (R227). -/
  | keyLoad (q : QRef) (e : W512)
  /-- KEY_DROP (R229). -/
  | keyDrop (q : QRef) (e : W512)
  /-- CUE_LOAD (R230). -/
  | cueLoad (q : QRef) (e : W512)
  /-- CUE_SELECT (R231). -/
  | cueSelect (q : QRef) (e : W512)
  /-- CUE_SELECT_COMPLETE (R231). -/
  | cueSelectComplete (p : Fin 128)
  /-- CUE_UNLOAD (R229). -/
  | cueUnload (q : QRef) (e : W512)
  /-- CUE_ENTRY_START (R232). -/
  | cueEntryStart (p : Fin 128) (i : Nat)
  /-- CUE_ENTRY_PLACED (R234). -/
  | cueEntryPlaced (p : Fin 128) (i : Nat) (b : Arrival)
  /-- FLIT (R245). -/
  | flit (n : Fin 24) (h : Flit) (check : FlitCheck)
  /-- RETRAIN (R245). -/
  | retrain (n : Fin 24)
  /-- RETRAIN_COMPLETE (R246). -/
  | retrainComplete (n : Fin 24) (far : Identity)
  /-- RETRAIN_TIMEOUT (R246). -/
  | retrainTimeout (n : Fin 24)
  /-- LIGHT_DETECTED (R246). -/
  | lightDetected (n : Fin 24) (halves : BitVec 2)
  /-- LIGHT_LOST (R246). -/
  | lightLost (n : Fin 24)
  /-- TRAINING_COMPLETE (R248). -/
  | trainingComplete (n : Fin 24) (far : Identity)
  /-- TRAINING_TIMEOUT (R246). -/
  | trainingTimeout (n : Fin 24)
  /-- TRAINING_RETRY (R246). -/
  | trainingRetry (n : Fin 24)
  /-- LOAD_REQUEST (R261). -/
  | loadRequest (r : FabReq)
  /-- STORE_REQUEST (R261). -/
  | storeRequest (r : FabReq)
  /-- ATADD_REQUEST (R265). -/
  | ataddRequest (r : FabReq)
  /-- ATFADD_REQUEST (R265). -/
  | atfaddRequest (r : FabReq)
  /-- CAS_REQUEST (R265). -/
  | casRequest (r : FabReq)
  /-- FPADD32_REQUEST (R266). -/
  | fpadd32Request (r : FabReq)
  /-- INVAL (R38). -/
  | inval (r : FabReq)
  /-- INVALIDATE_COMPLETE (R38). -/
  | invalidateComplete (src : BitVec 12) (seq : W32)
  /-- FENCE_REQUEST (R49). -/
  | fenceRequest (r : FabReq)
  /-- FREQ_CUE (R364). -/
  | freqCue (r : FabReq)
  /-- ROUTE_UPDATE (R342). -/
  | routeUpdate (r : FabReq)
  /-- ASSUME (R257). -/
  | assume (r : FabReq)
  /-- HALT (R341). -/
  | halt (r : FabReq)
  /-- COLL (R275). -/
  | coll (r : FabReq) (g : CollSegment)
  /-- UNKNOWN_OPERATION (R260). -/
  | unknownOperation (r : FabReq) (op : Byte)
  /-- RESPONSE (R260). -/
  | response (r : FabResp)
  /-- E2E_RESEND (R262). -/
  | e2eResend (dst : BitVec 12) (seq : W32)
  /-- COHERENCE_INVALIDATE (R267). -/
  | coherenceInvalidate (die : Fin 4) (line : W64)
  /-- COHERENCE_ACK (R267). -/
  | coherenceAck (line : W64)
  /-- PORT_DOWN_TIMEOUT (R341). -/
  | portDownTimeout (c : BitVec 12)
  /-- SWITCH_IN_COMPLETE (R257). -/
  | switchInComplete (c : BitVec 12)
  /-- COLLECTIVE (R270). -/
  | collective (k : Nat)
  /-- COLL_TIMEOUT (R277). -/
  | collTimeout (p : Fin 128)
  /-- FOH_LATENCY_MEASURE (R268). -/
  | fohLatencyMeasure (n : Fin 24) (ns : W32)
  /-- POWER_ESTIMATE (R357). -/
  | powerEstimate (pFix : Nat) (pDyn : Nat) (shares : List Nat)
  /-- GAIN_UPDATE (R357). -/
  | gainUpdate (estimated : Nat) (measured : Nat)
  /-- HOP_COMPLETE (R355). -/
  | hopComplete
  /-- VOLTAGE_CONFIRM (R430). -/
  | voltageConfirm
  /-- VOLTAGE_TIMEOUT (R356). -/
  | voltageTimeout (rail : Fin 12)
  /-- VOLTAGE_RETRY (R356). -/
  | voltageRetry
  /-- DROOP_STRETCH (R360). -/
  | droopStretch (c : Fin 256)
  /-- DROOP_RECOVERY (R360). -/
  | droopRecovery (c : Fin 256)
  /-- DROOP_RATE_CHECK (R361). -/
  | droopRateCheck
  /-- DROOP_PERMIT_RESTORE (R361). -/
  | droopPermitRestore
  /-- LOCK_FORCE (R364). -/
  | lockForce
  /-- TEMP_SAMPLE (R366). -/
  | tempSample (ts : List Int)
  /-- THERMAL_PERMIT_RISE (R366). -/
  | thermalPermitRise
  /-- HBM_TEMP_READ (R366). -/
  | hbmTempRead (ts : List Int)
  /-- HBM_PERMIT_RISE (R366). -/
  | hbmPermitRise
  /-- COOLANT_OK_FALL (R367). -/
  | coolantOkFall
  /-- COOLANT_STOP (R367). -/
  | coolantStop
  /-- COOLANT_OK_RISE (R367). -/
  | coolantOkRise
  /-- COOLANT_RETURNED (R367). -/
  | coolantReturned
  /-- COOLANT_HOLD_EXPIRY (R367). -/
  | coolantHoldExpiry
  /-- COOLANT_REENABLE (R368). -/
  | coolantReenable (a : Acc) (d : List Byte)
  /-- CAP (R362). -/
  | cap (a : Acc) (d : List Byte)
  /-- STEP_MAX (R358). -/
  | stepMax (a : Acc) (d : List Byte)
  /-- CURRENT_LIMIT (R358). -/
  | currentLimit (a : Acc) (d : List Byte)
  /-- READ (R383). -/
  | read (m : Fin 256) (c : MbxCmd)
  /-- WRITE (R383). -/
  | write (m : Fin 256) (c : MbxCmd)
  /-- READ_WINGS (R377). -/
  | readWings (m : Fin 256) (c : MbxCmd)
  /-- MAILBOX_RELEASE (R384). -/
  | mailboxRelease (m : Fin 256) (c : MbxCmd)
  /-- MAILBOX_CLAIM_TIMEOUT (R384). -/
  | mailboxClaimTimeout (m : Fin 256)
  /-- DICTIONARY_WRITE (R375). -/
  | dictionaryWrite (a : Acc) (x : OdAddr) (d : List Byte)
  /-- CURTAIN (R378). -/
  | curtain (a : Acc) (d : List Byte)
  /-- DISCARD (R379). -/
  | discard (a : Acc) (d : List Byte)
  /-- LAYER_COUNTERS (R121). -/
  | layerCounters (a : Acc) (p : Fin 128) (d : List Byte)
  /-- PART_RESET (R307). -/
  | partReset (a : Acc) (p : Fin 128) (d : List Byte)
  /-- ERROR_COUNT (R392). -/
  | errorCount (a : Acc) (d : List Byte)
  /-- STORE (R387). -/
  | store (a : Acc) (sub : Fin 256) (d : List Byte)
  /-- RESTORE (R387). -/
  | restore (a : Acc) (sub : Fin 256) (d : List Byte)
  /-- FLY_UCODE_GO (R345). -/
  | flyUcodeGo (a : Acc) (d : List Byte)
  /-- FLY_UCODE_ENGINE_LOADED (R345). -/
  | flyUcodeEngineLoaded (e : Fin 16) (version : W32)
  /-- PORT_RETRAIN (R346). -/
  | portRetrain (a : Acc) (n : Fin 24) (d : List Byte)
  /-- USDO_INITIATE (R385). -/
  | usdoInitiate (write : Bool) (x : OdAddr) (d : List Byte) (segmented : Bool)
  /-- USDO_SEGMENT (R385). -/
  | usdoSegment (d : List Byte) (last : Bool)
  /-- USDO_TIMEOUT (R381). -/
  | usdoTimeout
  /-- NMT_START (R389). -/
  | nmtStart
  /-- NMT_STOP (R389). -/
  | nmtStop
  /-- NMT_PRE_OPERATIONAL (R389). -/
  | nmtPreOperational
  /-- NMT_RESET_COMMUNICATION (R389). -/
  | nmtResetCommunication
  /-- NMT_RESET_NODE (R389). -/
  | nmtResetNode
  /-- HEARTBEAT (R389). -/
  | heartbeat
  /-- TPDO_EVENT (R390). -/
  | tpdoEvent (n : Fin 4)
  /-- EMCY_INHIBIT (R391). -/
  | emcyInhibit
  /-- BUS_OFF (R388). -/
  | busOff
  /-- PACKAGE_START (R402). -/
  | packageStart (u : StartReport)
  /-- SHOW_READY (R403). -/
  | showReady (u : SelfTest)
  /-- START_TIMEOUT (R404). -/
  | startTimeout
  /-- WATCHDOG_EXPIRY (R404). -/
  | watchdogExpiry
  /-- HM_RESTART_COMPLETE (R344). -/
  | hmRestartComplete
  /-- BEGIN (R409). -/
  | storeBegin (a : Acc) (d : List Byte)
  /-- IMAGE (R409). -/
  | image (a : Acc) (off : Nat) (d : List Byte)
  /-- ACTIVATE (R410). -/
  | activate (a : Acc) (d : List Byte)
  /-- ABANDON (R409). -/
  | abandon (a : Acc) (d : List Byte)
  /-- RETRY_START (R409). -/
  | retryStart (a : Acc) (d : List Byte)
  /-- GHOST_NEXT (R409). -/
  | ghostNext (a : Acc) (d : List Byte)
  /-- OWNER_REQUEST (R408). -/
  | ownerRequest (a : Acc) (d : List Byte)
  /-- BANK_WRITE (R398). -/
  | bankWrite
  /-- BANK_WRITE_COMPLETE (R399). -/
  | bankWriteComplete (failed : Option (Fin 8)) (otherBad : Bool)
  /-- NONCE (R411). -/
  | nonce (a : Acc) (d : List Byte)
  /-- REPORT_SIGNED (R411). -/
  | reportSigned
  /-- SQ_TAIL (R417). -/
  | sqTail (q : QRef) (v : W64)
  /-- CQ_HEAD (R417). -/
  | cqHead (q : QRef) (v : W64)
  /-- QRESET (R281). -/
  | qreset (q : QRef) (v : W64)
  /-- QUEUE_RESET_COMPLETE (R281). -/
  | queueResetComplete (q : QRef)
  /-- QUEUE_RING_WRITE (R281). -/
  | queueRingWrite (q : QRef) (r : RingReg) (v : W64)
  /-- ENABLE_SET (R416). -/
  | enableSet (q : QRef) (v : W64)
  /-- ENABLE_CLEAR (R416). -/
  | enableClear (q : QRef) (v : W64)
  /-- PERST (R414). -/
  | perst
  /-- FLR (R414). -/
  | flr (f : Fin 129)
  /-- BAR4_READ (R422). -/
  | bar4Read (f : Fin 129) (off : BitVec 36) (n : Nat)
  /-- BAR4_WRITE (R422). -/
  | bar4Write (f : Fin 129) (off : BitVec 36) (d : List Byte)
  /-- BAR4_FAULT_STATUS_READ (R421). -/
  | bar4FaultStatusRead (f : Fin 129)
  /-- INTERRUPT_TIMER (R420). -/
  | interruptTimer (p : Fin 128) (n : Fin 32)
  /-- MSIX_UNMASK (R420). -/
  | msixUnmask (f : Fin 129) (v : Fin 33)
  /-- ATS_INVALIDATE (R419). -/
  | atsInvalidate (f : Fin 129)
  /-- MGMT_RST (R427). -/
  | mgmtRst
  /-- VAUX_LOSS (R427). -/
  | vauxLoss
  /-- RAIL_FAULT (R428). -/
  | railFault (rail : Fin 18) (mv : Nat)
  /-- REFCLK_LOSS (R428). -/
  | refclkLoss
  /-- REFCLK_RETURN (R428). -/
  | refclkReturn
  /-- LASER_OK_CHANGE (R435). -/
  | laserOkChange (q : Fin 6) (high : Bool)
  /-- UNKNOWN_ENTRY_CLASS (R280). -/
  | unknownEntryClass (q : QRef) (e : W512)
  /-- APERTURE (R421). -/
  | aperture (f : Fin 129) (v : W64)
  /-- NUMVFS (R414). -/
  | numvfs (n : Fin 129)
  /-- PROMPT_BOOK_PARITY_ERROR (R325). -/
  | promptBookParityError (die : Fin 4)
  /-- LOCK_UP (R325). -/
  | lockUp (engine : Bool) (n : Fin 16)
  /-- BUS_OFF_WINDOW_EXPIRY (R392). -/
  | busOffWindowExpiry
  /-- SWITCH_OUT_COMPLETE (R305). -/
  | switchOutComplete (k : Nat)
  /-- RING_ACCESS_ERROR (R419). -/
  | ringAccessError (p : Fin 128) (n : Fin 32) (cause : RingCause)
  deriving DecidableEq, Repr

end Sys2Proof
end

