-- ==== Sys2Proof/Decode.lean ====
section
/-! DEFINITION. Commands as words. The table of operations and events gives no row its bits: the block takes commands, not encoded
words. The 64-bit instruction words of the spec's own threads (Tables 03-4 to 03-11) are read here: an instruction fetch looks at
the word at the PC. -/

namespace Sys2Proof

/-- The command a word of nbits bits spells by the table: none, for every word. -/
def decodeTableWord (_nbits _w : Nat) : Option Instr := none

/-! ## The fields of an instruction word (Tables 03-4 and 03-5) -/

/-- OPC. -/
def wordOpc (w : BitVec 64) : Nat := (w.extractLsb' 56 8).toNat

/-- Format S. -/
def wordS (w : BitVec 64) : SOp :=
  { pred := w.extractLsb' 53 3, pneg := w.getLsbD 52, gd := w.extractLsb' 46 6, ga := w.extractLsb' 40 6, gb := w.extractLsb' 34 6
    gc := w.extractLsb' 28 6, w := w.getLsbD 27, ord := w.extractLsb' 25 2, rsv := w.extractLsb' 0 25 }

/-- Format I. -/
def wordI (w : BitVec 64) : IOp :=
  { pred := w.extractLsb' 53 3, pneg := w.getLsbD 52, gd := w.extractLsb' 46 6, ga := w.extractLsb' 40 6, rsv := w.extractLsb' 32 8
    imm := w.extractLsb' 0 32 }

/-- Format M. -/
def wordM (w : BitVec 64) : MOp :=
  { pred := w.extractLsb' 53 3, pneg := w.getLsbD 52, gd := w.extractLsb' 46 6, ga := w.extractLsb' 40 6, sz := w.extractLsb' 37 3
    ord := w.extractLsb' 35 2, rlx := w.getLsbD 34, rsv := w.extractLsb' 32 2, off := w.extractLsb' 0 32 }

/-- Format V. -/
def wordV (w : BitVec 64) : VOp :=
  { pred := w.extractLsb' 53 3, pneg := w.getLsbD 52, vd := w.extractLsb' 47 5, va := w.extractLsb' 42 5, vb := w.extractLsb' 37 5
    vc := w.extractLsb' 32 5, et := w.extractLsb' 29 3, pd := w.extractLsb' 26 3, gs := w.extractLsb' 20 6, lane := w.extractLsb' 11 9
    rsv := w.extractLsb' 0 11 }

/-- Format A. -/
def wordA64 (w : BitVec 64) : AOp :=
  { pred := w.extractLsb' 53 3, pneg := w.getLsbD 52, gd := w.extractLsb' 46 6, ga := w.extractLsb' 40 6, arr := w.getLsbD 39
    tag := w.extractLsb' 31 8, rsv := w.extractLsb' 0 31 }

/-- Format B. -/
def wordB64 (w : BitVec 64) : BOp :=
  { pred := w.extractLsb' 53 3, pneg := w.getLsbD 52, gd := w.extractLsb' 46 6, ga := w.extractLsb' 40 6, rsv := w.extractLsb' 32 8
    disp := w.extractLsb' 0 32 }

/-! ## The opcodes (Tables 03-6 to 03-11) -/

/-- Opcodes of format S. -/
def opsS : List (Nat × (Tid → SOp → Instr)) :=
  [ (0x00, .nop), (0x01, .add), (0x02, .sub), (0x03, .mul), (0x04, .mulhu), (0x05, .mulhs), (0x06, .divu), (0x07, .divs),
    (0x08, .remu), (0x09, .rems), (0x0A, .and), (0x0B, .or), (0x0C, .xor), (0x0D, .shl), (0x0E, .shr), (0x0F, .sra),
    (0x10, .mins), (0x11, .maxs), (0x12, .popc) ] ++
  [ (0x13, .clz), (0x14, .cmp), (0x15, .sel), (0x20, .fadd), (0x21, .fmul), (0x22, .ffma), (0x23, .fcvtsf), (0x24, .fcvtfs),
    (0x34, .ldai), (0x38, .atadd), (0x39, .atfadd), (0x3A, .cas), (0x3B, .fpadd32), (0x78, .flyhint), (0xC0, .fence),
    (0xC1, .ffence), (0xC2, .inv), (0xC8, .bar), (0xC9, .waitv) ]

/-- Opcodes of format I. -/
def opsI : List (Nat × (Tid → IOp → Instr)) :=
  [ (0x18, .addi), (0x19, .andi), (0x1A, .ori), (0x1B, .xori), (0x1C, .shli), (0x1D, .shri), (0x1E, .movhi), (0x2E, .rds),
    (0x2F, .wrs) ]

/-- Opcodes of format M. -/
def opsM : List (Nat × (Tid → MOp → Instr)) :=
  [ (0x30, .ld), (0x31, .st), (0x32, .ldv), (0x33, .stv) ]

/-- Opcodes of format V. -/
def opsV : List (Nat × (Tid → VOp → Instr)) :=
  [ (0x40, .vadd), (0x41, .vsub), (0x42, .vmul), (0x43, .vfma), (0x44, .vmax), (0x45, .vmin), (0x46, .vand), (0x47, .vor),
    (0x48, .vxor), (0x49, .vshl), (0x4A, .vshr), (0x4B, .vcmp), (0x4C, .vsel), (0x4D, .vcvt), (0x4E, .vbcast),
    (0x4F, .vext), (0x50, .vins), (0x51, .vperm), (0x52, .vredsum), (0x53, .vredmax), (0x54, .vredmin), (0x58, .sfe),
    (0x59, .sfload) ]

/-- Opcodes of format A. -/
def opsA : List (Nat × (Tid → AOp → Instr)) :=
  [ (0x70, .acmd), (0x71, .await), (0x72, .astat) ]

/-- Opcodes of format B. -/
def opsB : List (Nat × (Tid → BOp → Instr)) :=
  [ (0xD0, .br), (0xD1, .call), (0xD2, .jr), (0xD3, .endThread), (0xD4, .eret), (0xD5, .erets), (0xD6, .brk),
    (0xD7, .yield) ]

/-- The OPC values that Tables 03-6 to 03-11 list. -/
def opcList : List Nat :=
  opsS.map Prod.fst ++ opsI.map Prod.fst ++ opsM.map Prod.fst ++ opsV.map Prod.fst ++ opsA.map Prod.fst ++ opsB.map Prod.fst

/-- Whether a word's OPC is listed (R63). -/
def opcListed (w : BitVec 64) : Bool := opcList.contains (wordOpc w)

/-- The command of a thread whose word is w: by its OPC the instruction, by the fields of its format the operands; none for an OPC
that no table lists. -/
def decodeThreadWord (t : Tid) (w : BitVec 64) : Option Instr :=
  let at_ {α : Type} (l : List (Nat × α)) : Option α := (l.find? fun e => e.1 == wordOpc w).map Prod.snd
  ((at_ opsS).map fun f => f t (wordS w)) <|> ((at_ opsI).map fun f => f t (wordI w)) <|> ((at_ opsM).map fun f => f t (wordM w)) <|>
    ((at_ opsV).map fun f => f t (wordV w)) <|> ((at_ opsA).map fun f => f t (wordA64 w)) <|> (at_ opsB).map fun f => f t (wordB64 w)

end Sys2Proof
end

