-- ==== Sys2Proof/Config.lean ====
section
/-! DEFINITION. What one implementation or one standard fixes and the spec leaves open: uninterpreted constants (free
values, with no body) and the fixed figures of the KK7-96L. -/

namespace Sys2Proof.Config

/-- Free value: whether 0 × ∞ + quiet NaN sets INVALID; IEEE 754-2019, which R65 names, leaves it to the implementation. -/
opaque fmaInvalidWithNan : Bool
/-- Free value: whether CMP and VCMP codes 0x6 and 0x7 set INVALID on a quiet NaN; the spec does not say (R63, R65). -/
opaque cmpInvalidOnQuietNan : Bool

/-- SHA3-256 (FIPS 202), named by R226, R396, R407 and not laid down in the spec: uninterpreted. -/
opaque sha3 : List Byte → BitVec 256
/-- ML-DSA-65 verification with an empty context (FIPS 204): key, message, signature. Uninterpreted. -/
opaque mldsaVerify : List Byte → List Byte → List Byte → Bool
/-- ML-DSA-65 signature by the package's identity key over a message (R411). Uninterpreted. -/
opaque mldsaSign : List Byte → List Byte
/-- ML-KEM-768 decapsulation with the package's key-transport key (R227). Uninterpreted. -/
opaque mlkemDecap : List Byte → List Byte
/-- AES-256-GCM decryption: key, IV, additional data, ciphertext, tag; none when the tag fails. Uninterpreted. -/
opaque gcmOpen : List Byte → List Byte → List Byte → List Byte → List Byte → Option (List Byte)
/-- SHA3-256 of the vendor key held by the boot ROM (R407). -/
opaque vendorKeyHash : BitVec 256
/-- SHA3-256 of the boot ROM (M0, Table 16-8). -/
opaque romHash : BitVec 256
/-- The identity public key (1,952 bytes) and the KEM encapsulation key (1,184 bytes), by byte (R400). -/
opaque identityPk : Nat → Byte
/-- The ML-KEM-768 encapsulation key, by byte (R400). -/
opaque kemEk : Nat → Byte
/-- The endorsement written at manufacture (R401), by byte. -/
opaque endorsement : Nat → Byte
/-- The package serial number (0x2000:05). -/
opaque serial : BitVec 64
/-- Free value: CAUSE of the class 3 record of a job fault that Table 13-7 gives no cause (R325, R348). -/
opaque jobFaultCause : Byte
/-- Free value: CAUSE of the record of an unreachable direction, which R252 asks for and Table 13-7 does not list. -/
opaque unreachableCause : Byte
/-- Free value: CAUSE of the record of an atomic whose tag is committed and not logged, which R265 asks for and Table 13-7
does not list. -/
opaque staleAtomicCause : Byte
/-- Free value: CAUSE of the record of a stage-manager or fly-engine lock-up (R325), which Table 13-7 does not list. -/
opaque lockUpCause : Byte
/-- Free value: CAUSE of the record of a site that fails a self-test at a start (R403, Table 13-1), which Table 13-7 does not
list. -/
opaque selfTestCause : Byte
/-- Free value: CAUSE of the record of a watchdog expiry (R404), which Table 13-7 does not list. -/
opaque watchdogCause : Byte
/-- Free value: VERSION of the boot ROM's built-in fly-engine microcode (R406). -/
opaque romUcodeVersion : BitVec 32
/-- Free value: SHA3-256 of the signed part of the boot ROM's built-in microcode (R406, Table 16-8). -/
opaque romUcodeHash : BitVec 256
/-- Free value: whether a coordinate behind the switch stage has a route-table entry; the spec says what such an entry does
and not which coordinates have one (R28, R253). -/
opaque fohEntry : BitVec 12 → Bool
/-- Free value: OBJECT_ID of a key-value tile, by its address (Table 05-6 gives it no value). -/
opaque kvObjectId : Nat → BitVec 64
/-- Free value: TILE_INDEX of a key-value tile, by its address. -/
opaque kvTileIndex : Nat → BitVec 32
/-- Free value: GEN of a key-value tile, by its address. -/
opaque kvGen : Nat → BitVec 32
/-- Free value: the characters of HW_VERSION, the stepping (0x1009), by byte. -/
opaque hwVersion : Nat → Byte
/-- Free value: the characters by which SW_VERSION (0x100A) reports a VERSION, by byte. -/
opaque swVersion : BitVec 32 → Nat → Byte
/-- Free value: byte of PORT_STATUS (0x2400), whose fields Table 10-12 names without their places or codes: state, lanes,
far serial, far port, latency, retired halves, then the byte. -/
opaque portStatus : Nat → Nat → BitVec 64 → Nat → BitVec 32 → Nat → Nat → Byte
/-- Free value: byte of a bank header (Table 16-2) that tells of a section whose layout the spec does not give (RECORDS, PUF,
OBJECTS: hashes and lengths), by the bank's SEQ and the byte. -/
opaque headerByte : BitVec 64 → Nat → Byte
/-- Free bytes of read data of operations whose value the spec leaves open, by draw number. -/
opaque freeByte : Nat → Byte
/-- Free word, by draw number. -/
opaque freeWord : Nat → BitVec 64

/-- One dimmer step of Table 14-2: PLL multiplier N, CLK_A in MHz, V_core in mV. -/
structure DimStep where
  n : Nat
  mhz : Nat
  mv : Nat
  deriving DecidableEq, Repr

/-- Table 14-2. -/
def dimTable : List DimStep :=
  [ ⟨24, 600, 550⟩, ⟨26, 650, 560⟩, ⟨28, 700, 570⟩, ⟨30, 750, 580⟩, ⟨32, 800, 590⟩, ⟨34, 850, 600⟩,
    ⟨36, 900, 610⟩, ⟨38, 950, 620⟩, ⟨40, 1000, 630⟩, ⟨42, 1050, 640⟩, ⟨44, 1100, 650⟩, ⟨46, 1150, 660⟩ ] ++
  [ ⟨48, 1200, 670⟩, ⟨50, 1250, 680⟩, ⟨52, 1300, 690⟩, ⟨54, 1350, 700⟩, ⟨56, 1400, 710⟩, ⟨58, 1450, 720⟩,
    ⟨60, 1500, 730⟩, ⟨64, 1600, 754⟩, ⟨68, 1700, 778⟩, ⟨72, 1800, 802⟩, ⟨76, 1900, 826⟩, ⟨80, 2000, 850⟩ ]

/-- A dimmer step by its number; a number above 23 reads as step 23. -/
def dimStep (s : Nat) : DimStep := dimTable.getD s ⟨80, 2000, 850⟩

end Sys2Proof.Config
end

