-- ==== Sys2Proof/Machine/Bits.lean ====
section
/-! DEFINITION. Bit fields, little-endian byte order (R4), CRC-64 (R315), and the small list helpers of the model. -/

namespace Sys2Proof

/-- Bits [hi:lo] of a word as a number; bit 0 is the least significant. -/
def fld {w : Nat} (x : BitVec w) (hi lo : Nat) : Nat := (x.toNat >>> lo) % 2 ^ (hi + 1 - lo)

/-- One bit of a word. -/
def bit {w : Nat} (x : BitVec w) (i : Nat) : Bool := x.getLsbD i

/-- Whether bits [hi:lo] are all zero. -/
def zeroFld {w : Nat} (x : BitVec w) (hi lo : Nat) : Bool := fld x hi lo == 0

/-- Replaces bits [hi:lo] of a word by the low bits of a number. -/
def setFld {w : Nat} (x : BitVec w) (hi lo v : Nat) : BitVec w :=
  BitVec.ofNat w (x.toNat - (fld x hi lo) * 2 ^ lo + (v % 2 ^ (hi + 1 - lo)) * 2 ^ lo)

/-- The n low bytes of a number, least significant first (R4). -/
def bytesLE : Nat → Nat → List Byte
  | 0, _ => []
  | n + 1, v => BitVec.ofNat 8 v :: bytesLE n (v / 256)

/-- The number that bytes spell, least significant first (R4). -/
def leNat : List Byte → Nat
  | [] => 0
  | b :: bs => b.toNat + 256 * leNat bs

/-- A word of w bits from bytes, least significant first. -/
def leWord (w : Nat) (bs : List Byte) : BitVec w := BitVec.ofNat w (leNat bs)

/-- Elements of a list in groups of n (n above 0), the last one possibly short. -/
def chunks {α : Type} (n : Nat) (xs : List α) : List (List α) :=
  let rec go : Nat → List α → List (List α)
    | 0, _ => []
    | _ + 1, [] => []
    | f + 1, x :: xs => (x :: xs).take n :: go f ((x :: xs).drop n)
  go xs.length xs

/-- Rounds a number up to a multiple. -/
def roundUp (m n : Nat) : Nat := (n + m - 1) / m * m

/-- Quotient rounded up. -/
def ceilDiv (n m : Nat) : Nat := (n + m - 1) / m

/-- Sign extension of an n-bit number to 64 bits. -/
def sext64 (n v : Nat) : W64 :=
  if v % 2 ^ n < 2 ^ (n - 1) then BitVec.ofNat 64 (v % 2 ^ n) else BitVec.ofNat 64 (2 ^ 64 + v % 2 ^ n - 2 ^ n)

/-- One step of CRC-64 (ECMA-182): a byte taken most significant bit first (R315). -/
def crc64Byte (crc : W64) (b : Byte) : W64 :=
  let rec go : Nat → W64 → W64
    | 0, c => c
    | n + 1, c => go n (if c.msb then (c <<< 1) ^^^ 0x42F0E1EBA9EA3693#64 else c <<< 1)
  go 8 (crc ^^^ (BitVec.setWidth 64 b <<< 56))

/-- The tile digest: CRC-64 (ECMA-182), initial value 0, no reflection, no final XOR (R315). -/
def crc64 (bs : List Byte) : W64 := bs.foldl crc64Byte 0#64

/-- One step of CRC-32 (IEEE 802.3): a byte taken least significant bit first (R244). -/
def crc32Byte (crc : W32) (b : Byte) : W32 :=
  let rec go : Nat → W32 → W32
    | 0, c => c
    | n + 1, c => go n (if c.getLsbD 0 then (c >>> 1) ^^^ 0xEDB88320#32 else c >>> 1)
  go 8 (crc ^^^ BitVec.setWidth 32 b)

/-- CRC-32 (IEEE 802.3): initial value all ones, reflected, the result inverted. -/
def crc32 (bs : List Byte) : W32 := ~~~ (bs.foldl crc32Byte 0xFFFFFFFF#32)

/-- Whether [a, a+n) and [b, b+m) share an address. -/
def overlap (a n b m : Nat) : Bool := decide (a < b + m) && decide (b < a + n) && decide (0 < n) && decide (0 < m)

/-- Whether [a, a+n) lies within [b, b+m). -/
def inside (a n b m : Nat) : Bool := decide (b ≤ a) && decide (a + n ≤ b + m)

/-- Sorts by a key, keeping the order of equals (insertion sort). -/
def insertBy {α : Type} (le : α → α → Bool) (x : α) : List α → List α
  | [] => [x]
  | y :: ys => if le x y then x :: y :: ys else y :: insertBy le x ys

/-- Stable sort by a comparison. -/
def sortBy {α : Type} (le : α → α → Bool) (xs : List α) : List α := xs.foldr (insertBy le) []

/-- The first element with the least key under a comparison. -/
def leastBy {α : Type} (lt : α → α → Bool) : List α → Option α
  | [] => none
  | x :: xs => some (xs.foldl (fun b y => if lt y b then y else b) x)

/-- Floor of the square root, one binary digit at a time. -/
def isqrt (n : Nat) : Nat :=
  let rec go : Nat → Nat → Nat
    | 0, r => r
    | k + 1, r => let c := r + 2 ^ k; go k (if c * c ≤ n then c else r)
  go (Nat.log2 n / 2 + 1) 0

end Sys2Proof
end

