-- ==== Sys2Proof/Machine/Fp.lean ====
section
/-! DEFINITION. IEEE 754 arithmetic under the rules of R65: exact operands, one rounding to nearest with ties to even,
subnormals kept, tininess after rounding, canonical quiet NaN. Values are exact dyadic numbers until they are rounded. -/

namespace Sys2Proof

/-- A binary interchange format by its exponent and mantissa widths. -/
structure Fmt where
  ebits : Nat
  mbits : Nat
  deriving DecidableEq, Repr

/-- FP32 (binary32). -/
def Fmt.fp32 : Fmt := { ebits := 8, mbits := 23 }
/-- BF16. -/
def Fmt.bf16 : Fmt := { ebits := 8, mbits := 7 }
/-- Exponent bias. -/
def Fmt.bias (f : Fmt) : Nat := 2 ^ (f.ebits - 1) - 1
/-- Exponent of the unit of a subnormal. -/
def Fmt.qmin (f : Fmt) : Int := 1 - (f.bias : Int) - (f.mbits : Int)
/-- Bit pattern of +∞. -/
def Fmt.infBits (f : Fmt) : Nat := (2 ^ f.ebits - 1) * 2 ^ f.mbits
/-- Bit pattern of the canonical quiet NaN (R65). -/
def Fmt.nanBits (f : Fmt) : Nat := f.infBits + 2 ^ (f.mbits - 1)
/-- Width of the format in bits. -/
def Fmt.width (f : Fmt) : Nat := 1 + f.ebits + f.mbits

/-- A decoded value: a NaN (signaling or not), an infinity, or (−1)^neg × m × 2^e. -/
inductive FVal where
  | nan (signaling : Bool)
  | inf (neg : Bool)
  | fin (neg : Bool) (m : Nat) (e : Int)
  deriving DecidableEq, Repr

/-- The sticky flags of Table 03-3, bits 4 to 0: invalid, division by zero, overflow, underflow, inexact. -/
abbrev FpFlags := BitVec 5

/-- No flag. -/
def FpFlags.none : FpFlags := 0#5
/-- INVALID, bit 4. -/
def FpFlags.invalid : FpFlags := 0b10000#5
/-- OVERFLOW with INEXACT. -/
def FpFlags.overflow : FpFlags := 0b00101#5
/-- UNDERFLOW, bit 1. -/
def FpFlags.underflow : FpFlags := 0b00010#5
/-- INEXACT, bit 0. -/
def FpFlags.inexact : FpFlags := 0b00001#5

/-- Decodes a bit pattern. -/
def fpDecode (f : Fmt) (x : Nat) : FVal :=
  let neg := x.testBit (f.ebits + f.mbits)
  let ef := (x >>> f.mbits) % 2 ^ f.ebits
  let mf := x % 2 ^ f.mbits
  if ef = 2 ^ f.ebits - 1 then
    (if mf = 0 then .inf neg else .nan (!mf.testBit (f.mbits - 1)))
  else if ef = 0 then .fin neg mf f.qmin
  else .fin neg (mf + 2 ^ f.mbits) (f.qmin + ef - 1)

/-- Puts a sign on a magnitude pattern. -/
def fpSign (f : Fmt) (neg : Bool) (mag : Nat) : Nat := if neg then mag + 2 ^ (f.ebits + f.mbits) else mag

/-- Rounds a magnitude m × 2^(−shift), plus a fraction below one unit when sticky is set, to an integer, ties to even;
says whether the result is inexact. -/
def roundShift (m : Nat) (shift : Nat) (sticky : Bool) : Nat × Bool :=
  let k := m >>> shift
  let r := m % 2 ^ shift
  if shift = 0 then (m, sticky)
  else
    let half := 2 ^ (shift - 1)
    let up := decide (half < r) || (decide (r = half) && (sticky || k % 2 == 1))
    (if up then k + 1 else k, decide (r ≠ 0) || sticky)

/-- Whether m × 2^e, with a fraction below it where sticky is set, is tiny (R65): rounded to `mbits` bits after the leading
one, as if the exponent range were unbounded, it lies below 2^emin. -/
def tinyRounded (mbits : Nat) (emin : Int) (m : Nat) (e : Int) (sticky : Bool) : Bool :=
  let top : Int := (Nat.log2 m : Int) + e
  let qn : Int := top - mbits
  let k := if qn ≤ e then m <<< (e - qn).toNat else (roundShift m (qn - e).toNat sticky).1
  decide (top < emin) && !(decide (top + 1 = emin) && decide (k = 2 ^ (mbits + 1)))

/-- One rounding of the magnitude (m + fraction) × 2^e, where the fraction is in (0, 1) when sticky is set and 0
otherwise (a caller with a fraction gives at least two bits more than the format holds): the magnitude's bits and the
flags of R65. -/
def fpRoundMag (f : Fmt) (m : Nat) (e : Int) (sticky : Bool) : Nat × FpFlags :=
  if m = 0 then (0, if sticky then FpFlags.underflow ||| FpFlags.inexact else FpFlags.none)
  else
    let top : Int := (Nat.log2 m : Int) + e
    let q : Int := max (top - f.mbits) f.qmin
    let (k, inexact) :=
      if q ≤ e then (m <<< (e - q).toNat, sticky) else roundShift m (q - e).toNat sticky
    let bits := (q - f.qmin).toNat * 2 ^ f.mbits + k
    if f.infBits ≤ bits then (f.infBits, FpFlags.overflow)
    else
      (bits, if inexact then (if tinyRounded f.mbits (f.qmin + f.mbits) m e sticky then FpFlags.underflow ||| FpFlags.inexact else FpFlags.inexact)
             else FpFlags.none)

/-- One rounding of a decoded value; a NaN gives the canonical quiet NaN (R65). -/
def fpRound (f : Fmt) : FVal → Nat × FpFlags
  | .nan s => (f.nanBits, if s then FpFlags.invalid else FpFlags.none)
  | .inf n => (fpSign f n f.infBits, FpFlags.none)
  | .fin n m e => let (b, fl) := fpRoundMag f m e false; (fpSign f n b, fl)

/-- The integer a finite value stands for at a common exponent. -/
def fpInt (neg : Bool) (m : Nat) (e lo : Int) : Int :=
  let v : Int := (m * 2 ^ (e - lo).toNat : Nat)
  if neg then -v else v

/-- Exact sum of two values; a zero sum of opposite signs is +0 (round to nearest). -/
def fpSumExact (a b : FVal) : FVal × FpFlags :=
  match a, b with
  | .nan s, .nan t => (.nan false, if s || t then FpFlags.invalid else FpFlags.none)
  | .nan s, _ => (.nan false, if s then FpFlags.invalid else FpFlags.none)
  | _, .nan t => (.nan false, if t then FpFlags.invalid else FpFlags.none)
  | .inf n, .inf m => if n = m then (.inf n, FpFlags.none) else (.nan false, FpFlags.invalid)
  | .inf n, .fin _ _ _ => (.inf n, FpFlags.none)
  | .fin _ _ _, .inf n => (.inf n, FpFlags.none)
  | .fin n1 m1 e1, .fin n2 m2 e2 =>
    let lo := min e1 e2
    let z := fpInt n1 m1 e1 lo + fpInt n2 m2 e2 lo
    if z = 0 then (.fin (n1 && n2) 0 lo, FpFlags.none)
    else (.fin (decide (z < 0)) z.natAbs lo, FpFlags.none)

/-- Exact product of two values. -/
def fpMulExact (a b : FVal) : FVal × FpFlags :=
  match a, b with
  | .nan s, .nan t => (.nan false, if s || t then FpFlags.invalid else FpFlags.none)
  | .nan s, _ => (.nan false, if s then FpFlags.invalid else FpFlags.none)
  | _, .nan t => (.nan false, if t then FpFlags.invalid else FpFlags.none)
  | .inf n, .inf m => (.inf (n != m), FpFlags.none)
  | .inf n, .fin m k _ => if k = 0 then (.nan false, FpFlags.invalid) else (.inf (n != m), FpFlags.none)
  | .fin m k _, .inf n => if k = 0 then (.nan false, FpFlags.invalid) else (.inf (n != m), FpFlags.none)
  | .fin n1 m1 e1, .fin n2 m2 e2 => (.fin (n1 != n2) (m1 * m2) (e1 + e2), FpFlags.none)

/-- Negates a value. -/
def FVal.negate : FVal → FVal
  | .nan s => .nan s
  | .inf n => .inf (!n)
  | .fin n m e => .fin (!n) m e

/-- Sum with one rounding (R65). -/
def fpAdd (f : Fmt) (a b : Nat) : Nat × FpFlags :=
  let (v, fl) := fpSumExact (fpDecode f a) (fpDecode f b)
  let (r, fr) := fpRound f v
  (r, fl ||| fr)

/-- Difference with one rounding (R65). -/
def fpSub (f : Fmt) (a b : Nat) : Nat × FpFlags :=
  let (v, fl) := fpSumExact (fpDecode f a) (fpDecode f b).negate
  let (r, fr) := fpRound f v
  (r, fl ||| fr)

/-- Product with one rounding (R65). -/
def fpMul (f : Fmt) (a b : Nat) : Nat × FpFlags :=
  let (v, fl) := fpMulExact (fpDecode f a) (fpDecode f b)
  let (r, fr) := fpRound f v
  (r, fl ||| fr)

/-- a × b + c with one rounding (R65). Whether 0 × ∞ + quiet NaN signals INVALID is left open by the standard the spec
names: a free value of Config. -/
def fpFma (f : Fmt) (a b c : Nat) : Nat × FpFlags :=
  let (p, fp) := fpMulExact (fpDecode f a) (fpDecode f b)
  let fp := match fpDecode f a, fpDecode f b, fpDecode f c with
    | .inf _, .fin _ _ _, .nan false => if fp = FpFlags.invalid then
        (if Config.fmaInvalidWithNan then FpFlags.invalid else FpFlags.none) else fp
    | .fin _ _ _, .inf _, .nan false => if fp = FpFlags.invalid then
        (if Config.fmaInvalidWithNan then FpFlags.invalid else FpFlags.none) else fp
    | _, _, _ => fp
  let (v, fl) := fpSumExact p (fpDecode f c)
  let (r, fr) := fpRound f v
  (r, fp ||| fl ||| fr)

/-- Sign of the comparison of two non-NaN values: −1, 0 or 1. Zeros compare equal. -/
def fpOrder (a b : FVal) : Int :=
  match a, b with
  | .inf n, .inf m => if n = m then 0 else if n then -1 else 1
  | .inf n, _ => if n then -1 else 1
  | _, .inf n => if n then 1 else -1
  | .fin n1 m1 e1, .fin n2 m2 e2 =>
    let lo := min e1 e2
    let z := fpInt n1 m1 e1 lo - fpInt n2 m2 e2 lo
    if z < 0 then -1 else if z = 0 then 0 else 1
  | _, _ => 0

/-- Whether a value is a NaN. -/
def FVal.isNan : FVal → Bool
  | .nan _ => true
  | _ => false

/-- Whether a value is finite. -/
def FVal.isFin : FVal → Bool
  | .fin _ _ _ => true
  | _ => false

/-- Whether a value is zero of either sign. -/
def FVal.isZero : FVal → Bool
  | .fin _ 0 _ => true
  | _ => false

/-- Sign bit of a non-NaN value. -/
def FVal.neg : FVal → Bool
  | .nan _ => false
  | .inf n => n
  | .fin n _ _ => n

/-- a < b, false when either is NaN. -/
def fpLt (f : Fmt) (a b : Nat) : Bool :=
  let x := fpDecode f a; let y := fpDecode f b
  !x.isNan && !y.isNan && decide (fpOrder x y < 0)

/-- a ≤ b, false when either is NaN. -/
def fpLe (f : Fmt) (a b : Nat) : Bool :=
  let x := fpDecode f a; let y := fpDecode f b
  !x.isNan && !y.isNan && decide (fpOrder x y ≤ 0)

/-- a = b as IEEE values, false when either is NaN. -/
def fpEq (f : Fmt) (a b : Nat) : Bool :=
  let x := fpDecode f a; let y := fpDecode f b
  !x.isNan && !y.isNan && decide (fpOrder x y = 0)

/-- INVALID of an operand pair: set by a signaling NaN. -/
def fpNanFlags (f : Fmt) (a b : Nat) : FpFlags :=
  if fpDecode f a = .nan true ∨ fpDecode f b = .nan true then FpFlags.invalid else FpFlags.none

/-- Maximum: NaN if either is NaN, −0 below +0 (R65). -/
def fpMax (f : Fmt) (a b : Nat) : Nat :=
  let x := fpDecode f a; let y := fpDecode f b
  if x.isNan || y.isNan then f.nanBits
  else if fpOrder x y = 0 then (if x.neg then b else a)
  else if fpOrder x y < 0 then b else a

/-- Minimum: NaN if either is NaN, −0 below +0 (R65). -/
def fpMin (f : Fmt) (a b : Nat) : Nat :=
  let x := fpDecode f a; let y := fpDecode f b
  if x.isNan || y.isNan then f.nanBits
  else if fpOrder x y = 0 then (if x.neg then a else b)
  else if fpOrder x y < 0 then a else b

/-- Rounds the exact rational (−1)^neg × n / d × 2^e, d above 0. -/
def fpRoundRat (f : Fmt) (neg : Bool) (n d : Nat) (e : Int) : Nat × FpFlags :=
  let k := Nat.log2 d + f.mbits + 4
  let m := (n <<< k) / d
  let sticky := decide ((n <<< k) % d ≠ 0)
  let (b, fl) := fpRoundMag f m (e - k) sticky
  (fpSign f neg b, fl)

/-- Quotient with one rounding. -/
def fpDiv (f : Fmt) (a b : Nat) : Nat :=
  match fpDecode f a, fpDecode f b with
  | .nan _, _ => f.nanBits
  | _, .nan _ => f.nanBits
  | .inf _, .inf _ => f.nanBits
  | .inf n, .fin m _ _ => fpSign f (n != m) f.infBits
  | .fin n _ _, .inf m => fpSign f (n != m) 0
  | .fin n1 m1 e1, .fin n2 m2 e2 =>
    if m2 = 0 then (if m1 = 0 then f.nanBits else fpSign f (n1 != n2) f.infBits)
    else (fpRoundRat f (n1 != n2) m1 m2 (e1 - e2)).1

/-- Square root, rounded once; −0 gives −0 and a negative operand gives NaN (R132). -/
def fpSqrt (f : Fmt) (a : Nat) : Nat :=
  match fpDecode f a with
  | .nan _ => f.nanBits
  | .inf n => if n then f.nanBits else f.infBits
  | .fin n m e =>
    if m = 0 then fpSign f n 0
    else if n then f.nanBits
    else
      let k : Nat := 2 * (f.mbits + 4)
      let k := if (e - k) % 2 = 0 then k else k + 1
      let r := isqrt (m <<< k)
      (fpRoundMag f r ((e - k) / 2) (decide (r * r ≠ m <<< k))).1

/-- Rounds a value to an integer, to nearest with ties to even; says whether the result is inexact. -/
def fpToInt (n : Bool) (m : Nat) (e : Int) : Int × Bool :=
  let (k, ix) := if 0 ≤ e then (m <<< e.toNat, false) else roundShift m (-e).toNat false
  (if n then -(k : Int) else k, ix)

/-- Saturating conversion to a signed integer of w bits; NaN gives 0 (FCVTFS, VCVT). -/
def fpToSInt (f : Fmt) (w : Nat) (a : Nat) : Int × FpFlags :=
  let hi : Int := 2 ^ (w - 1) - 1
  let lo : Int := -2 ^ (w - 1)
  match fpDecode f a with
  | .nan _ => (0, FpFlags.invalid)
  | .inf n => (if n then lo else hi, FpFlags.invalid)
  | .fin n m e =>
    let (z, ix) := fpToInt n m e
    if hi < z then (hi, FpFlags.invalid) else if z < lo then (lo, FpFlags.invalid)
    else (z, if ix then FpFlags.inexact else FpFlags.none)

/-- Conversion of a signed integer, rounded once. -/
def fpOfInt (f : Fmt) (z : Int) : Nat × FpFlags :=
  let (b, fl) := fpRoundMag f z.natAbs 0 false
  (fpSign f (decide (z < 0)) b, fl)

/-- FP32 sum with one rounding, flags dropped (round_fp32 of a sum). -/
def f32Add (a b : W32) : W32 := BitVec.ofNat 32 (fpAdd .fp32 a.toNat b.toNat).1
/-- FP32 difference with one rounding. -/
def f32Sub (a b : W32) : W32 := BitVec.ofNat 32 (fpSub .fp32 a.toNat b.toNat).1
/-- FP32 product with one rounding. -/
def f32Mul (a b : W32) : W32 := BitVec.ofNat 32 (fpMul .fp32 a.toNat b.toNat).1
/-- FP32 fused multiply-add with one rounding. -/
def f32Fma (a b c : W32) : W32 := BitVec.ofNat 32 (fpFma .fp32 a.toNat b.toNat c.toNat).1
/-- The canonical quiet NaN of FP32 (R65). -/
def f32NaN : W32 := 0x7FC00000#32
/-- FP32 less than. -/
def f32Lt (a b : W32) : Bool := fpLt .fp32 a.toNat b.toNat
/-- Whether an FP32 pattern is a NaN. -/
def f32IsNan (a : W32) : Bool := (fpDecode .fp32 a.toNat).isNan
/-- Whether an FP32 pattern is finite. -/
def f32IsFin (a : W32) : Bool := (fpDecode .fp32 a.toNat).isFin
/-- FP32 to BF16, one rounding. -/
def f32ToBf16 (a : W32) : BitVec 16 := BitVec.ofNat 16 (fpRound .bf16 (fpDecode .fp32 a.toNat)).1
/-- BF16 to FP32, exact; a NaN becomes the canonical quiet NaN. -/
def bf16ToF32 (a : BitVec 16) : W32 := BitVec.ofNat 32 (fpRound .fp32 (fpDecode .bf16 a.toNat)).1

end Sys2Proof
end

