-- ==== Sys2Proof/Machine/Formats.lean ====
section
/-! DEFINITION. Narrow element formats, block scales and the encoder of blocks (chapter 05, R111 to R120). -/

namespace Sys2Proof

/-- An element format: the floating formats of Table 05-1, or a two's-complement integer of P bits whose unit is
2^exp (MXINT8 with unit 2^−6, INT8 and key-value elements with unit 1). -/
inductive ElemFmt where
  | e4m3 | e5m2 | e3m2 | e2m3 | e2m1 | bf16
  | int (bits : Nat) (exp : Int)
  deriving DecidableEq, Repr

/-- Element width in bits (Table 05-1). -/
def ElemFmt.width : ElemFmt → Nat
  | .e4m3 => 8 | .e5m2 => 8 | .e3m2 => 6 | .e2m3 => 6 | .e2m1 => 4 | .bf16 => 16
  | .int b _ => b

/-- Exponent width, mantissa width and bias of a floating element (Table 05-1). -/
def ElemFmt.layout : ElemFmt → Nat × Nat × Nat
  | .e4m3 => (4, 3, 7) | .e5m2 => (5, 2, 15) | .e3m2 => (3, 2, 3) | .e2m3 => (2, 3, 1) | .e2m1 => (2, 1, 1)
  | .bf16 => (8, 7, 127)
  | .int _ _ => (0, 0, 0)

/-- Code of the largest finite magnitude M_f (Table 05-1); 2^(P−1) − 1 for an integer element (R117). -/
def ElemFmt.maxCode : ElemFmt → Nat
  | .e4m3 => 0x7E | .e5m2 => 0x7B | .e3m2 => 0x1F | .e2m3 => 0x1F | .e2m1 => 0x7 | .bf16 => 0x7F7F
  | .int b _ => 2 ^ (b - 1) - 1

/-- The value of an element code (R111). -/
def elemDecode (f : ElemFmt) (x : Nat) : FVal :=
  match f with
  | .int b e =>
    let v := x % 2 ^ b
    if v < 2 ^ (b - 1) then .fin false v e else .fin true (2 ^ b - v) e
  | .bf16 => fpDecode .bf16 x
  | _ =>
    let (eb, mb, bias) := f.layout
    let neg := x.testBit (eb + mb)
    let ef := (x >>> mb) % 2 ^ eb
    let mf := x % 2 ^ mb
    let q : Int := 1 - (bias : Int) - mb
    if f = .e4m3 ∧ x % 128 = 0x7F then .nan false
    else if f = .e5m2 ∧ ef = 31 then (if mf = 0 then .inf neg else .nan false)
    else if ef = 0 then .fin neg mf q
    else .fin neg (mf + 2 ^ mb) (q + ef - 1)

/-- rne_sat of R118: one rounding to the element format, subnormals kept, magnitudes beyond M_f and infinities giving
±M_f. The sign of a zero result is the operand's here; R117 writes +0. Answers the code and whether a finite operand
saturated. A NaN gives code 0x7F (R120). -/
def elemRound (f : ElemFmt) (v : FVal) : Nat × Bool :=
  match f, v with
  | _, .nan _ => (0x7F, false)
  | .int b _, .inf n => (if n then 2 ^ b - f.maxCode else f.maxCode, false)
  | .int b ex, .fin n m e =>
    let (z, _) := fpToInt n m (e - ex)
    let mx : Int := f.maxCode
    if mx < z then (f.maxCode, true)
    else if z < -mx then (2 ^ b - f.maxCode, true)
    else ((if z < 0 then (2 ^ b - z.natAbs) else z.natAbs), false)
  | _, .inf n =>
    let (eb, mb, _) := f.layout
    (if n then f.maxCode + 2 ^ (eb + mb) else f.maxCode, false)
  | _, .fin n m e =>
    let (eb, mb, bias) := f.layout
    let qmin : Int := 1 - (bias : Int) - mb
    let q : Int := max ((Nat.log2 m : Int) + e - mb) qmin
    let k := if m = 0 then 0 else if q ≤ e then m <<< (e - q).toNat else (roundShift m (q - e).toNat false).1
    let code := (q - qmin).toNat * 2 ^ mb + k
    let code := if m = 0 then 0 else code
    let sat := decide (f.maxCode < code)
    let code := if sat then f.maxCode else code
    (if n then code + 2 ^ (eb + mb) else code, sat)

/-- The value of a decoded number times 2^k. -/
def FVal.scale (k : Int) : FVal → FVal
  | .fin n m e => .fin n m (e + k)
  | v => v

/-- Elements of width w from a packed little-endian bit stream (R112). -/
def unpackElems (w n : Nat) (bs : List Byte) : List Nat :=
  let v := leNat bs
  (List.range n).map fun i => (v >>> (w * i)) % 2 ^ w

/-- Packs elements of width w into bytes, the last byte filled with zeros (R112). -/
def packElems (w : Nat) (xs : List Nat) : List Byte :=
  bytesLE (ceilDiv (w * xs.length) 8) (xs.foldr (fun x acc => x % 2 ^ w + 2 ^ w * acc) 0)

/-- What an encoder of a block adds to the sticky counters of its layer (Table 05-4). -/
structure EncCounts where
  zeroBlocks : Nat := 0
  nanBlocks : Nat := 0
  clipped : Nat := 0
  satElems : Nat := 0
  satBlocks : Nat := 0
  deriving DecidableEq, Repr

/-- Sum of two counts. -/
def EncCounts.add (a b : EncCounts) : EncCounts :=
  { zeroBlocks := a.zeroBlocks + b.zeroBlocks, nanBlocks := a.nanBlocks + b.nanBlocks
    clipped := a.clipped + b.clipped, satElems := a.satElems + b.satElems, satBlocks := a.satBlocks + b.satBlocks }

/-- An encoded block: its scale code and element codes. -/
structure EncBlock where
  code : Nat
  elems : List Nat
  deriving DecidableEq, Repr

/-- Magnitude comparison of finite values: the larger of two by |v|. -/
def maxMag (a b : FVal) : FVal :=
  match a, b with
  | .fin _ m1 e1, .fin _ m2 e2 =>
    if fpOrder (.fin false m1 e1) (.fin false m2 e2) < 0 then .fin false m2 e2 else .fin false m1 e1
  | _, b => b

/-- The smallest x with a × 2^−x ≤ M_f, for finite a above 0 (R117). -/
def scaleExp (f : ElemFmt) (a : FVal) : Int :=
  match a, elemDecode f f.maxCode with
  | .fin _ m e, .fin _ mm me =>
    let x0 : Int := (Nat.log2 m : Int) + e - ((Nat.log2 mm : Int) + me)
    if fpOrder (.fin false m (e - x0)) (.fin false mm me) ≤ 0 then x0 else x0 + 1
  | _, _ => 0

/-- The encoder of R117 for one block of FP32 values: `static` is the layer's STATIC_CODE when SCALE_MODE is static. -/
def encodeBlock (f : ElemFmt) (static : Option Nat) (vs : List W32) : EncBlock × EncCounts :=
  let xs := vs.map fun v => fpDecode .fp32 v.toNat
  if xs.any FVal.isNan then
    ({ code := 0xFF, elems := xs.map fun _ => 0 }, { nanBlocks := 1 })
  else
    let infs := xs.countP fun v => !v.isFin
    let a := xs.foldl (fun m v => if v.isFin then maxMag m v else m) (.fin false 0 0)
    if a.isZero && infs == 0 then
      ({ code := 0, elems := xs.map fun _ => 0 }, { zeroBlocks := 1 })
    else
      let code := match static with
        | some c => c
        | none =>
          if a.isZero then 0xFE
          else (max 1 (min 0xFE (scaleExp f a + 127))).toNat
      let es := xs.map fun v => (v, elemRound f (v.scale (127 - (code : Int))))
      let sat := es.countP fun e => e.2.2
      let whole := es.all fun e => e.2.2 || !e.1.isFin
      ({ code := code, elems := es.map fun e => if (elemDecode f e.2.1).isZero then 0 else e.2.1 },
       { clipped := infs, satElems := sat, satBlocks := if whole then 1 else 0 })

/-- What a reader makes of a block under the tests of R115: NaN block, or values with the number of infinities read as
±M_f. `scaled` says whether the format carries a block scale. -/
def readBlock (f : ElemFmt) (scaled : Bool) (code : Nat) (elems : List Nat) : Option (List FVal) × Nat :=
  if scaled && code == 0xFF then (none, 0)
  else if scaled && code == 0 then (some (elems.map fun _ => .fin false 0 0), 0)
  else
    let vs := elems.map (elemDecode f)
    if vs.any FVal.isNan then (none, 0)
    else
      let k : Int := if scaled then (code : Int) - 127 else 0
      let clip := vs.countP fun v => !v.isFin
      let mf := elemDecode f f.maxCode
      (some (vs.map fun v => match v with
        | .inf n => (if n then mf.negate else mf).scale k
        | v => v.scale k), clip)

/-- Decodes a block to FP32 values: exact, a NaN block giving the canonical quiet NaN throughout (R115, R123). A value beyond the range of
FP32 has no exact one and becomes ±infinity (DESIGN CHOICE, log 92). -/
def blockToF32 (f : ElemFmt) (code : Nat) (elems : List Nat) : List W32 × Nat :=
  match readBlock f true code elems with
  | (none, c) => (elems.map fun _ => f32NaN, c)
  | (some vs, c) => (vs.map fun v => BitVec.ofNat 32 (fpRound .fp32 v).1, c)

end Sys2Proof
end

