-- ==== Sys2Proof/Machine/OdTable.lean ====
section
/-! DEFINITION. The object dictionary as tables (chapter 15 and the entry tables of the other chapters): every entry with
its size, access code, qualifier, record size and persistence, and the defaults of the entries that hold settings. -/

namespace Sys2Proof.Machine

open Sys2Proof

/-- Access codes (Table 00-2). -/
inductive OdAccess where
  | ro | wo | rw | const
  deriving DecidableEq, Repr

/-- Qualifiers (R375 to R377). -/
inductive OdQual where
  | none | live | idle | staged
  deriving DecidableEq, Repr

/-- A dictionary row: index (0x3000 stands for 0x3000 + p), subindices, size in bytes, whether it is a DOMAIN, its access
and qualifier, the record size of a DOMAIN (0 none), persistence, and whether it may be mapped to a TPDO (R390). -/
structure OdRow where
  index : Nat
  subLo : Nat
  subHi : Nat
  size : Nat
  dom : Bool := false
  acc : OdAccess := .ro
  qual : OdQual := .none
  recSize : Nat := 0
  persist : Bool := false
  deriving DecidableEq, Repr

/-- Communication profile (Table 15-9). -/
def odRowsProfile : List OdRow :=
  [ { index := 0x1000, subLo := 0, subHi := 0, size := 4, acc := .const },
    { index := 0x1001, subLo := 0, subHi := 0, size := 1 },
    { index := 0x1003, subLo := 0, subHi := 0, size := 1, acc := .rw, qual := .live },
    { index := 0x1003, subLo := 1, subHi := 0x10, size := 4 },
    { index := 0x1008, subLo := 0, subHi := 0, size := 7, acc := .const },
    { index := 0x1009, subLo := 0, subHi := 0, size := 8, acc := .const },
    { index := 0x100A, subLo := 0, subHi := 0, size := 4 },
    { index := 0x1010, subLo := 1, subHi := 3, size := 4, acc := .rw, qual := .live },
    { index := 0x1011, subLo := 1, subHi := 3, size := 4, acc := .rw, qual := .live },
    { index := 0x1014, subLo := 0, subHi := 0, size := 4, acc := .rw, qual := .live, persist := true },
    { index := 0x1015, subLo := 0, subHi := 0, size := 2, acc := .rw, qual := .live, persist := true },
    { index := 0x1017, subLo := 0, subHi := 0, size := 2, acc := .rw, qual := .live, persist := true },
    { index := 0x1018, subLo := 1, subHi := 4, size := 4, acc := .const } ]

/-- TPDO communication and mapping entries (Table 15-9) for TPDO n. -/
def odRowsTpdo (n : Nat) : List OdRow :=
  [ { index := 0x1800 + n, subLo := 1, subHi := 1, size := 4, acc := .rw, qual := .live, persist := true },
    { index := 0x1800 + n, subLo := 2, subHi := 2, size := 1, acc := .rw, qual := .live, persist := true },
    { index := 0x1800 + n, subLo := 3, subHi := 3, size := 2, acc := .rw, qual := .live, persist := true },
    { index := 0x1800 + n, subLo := 5, subHi := 5, size := 2, acc := .rw, qual := .live, persist := true },
    { index := 0x1A00 + n, subLo := 0, subHi := 0, size := 1, acc := .rw, qual := .idle, persist := true },
    { index := 0x1A00 + n, subLo := 1, subHi := 0x10, size := 4, acc := .rw, qual := .idle, persist := true } ]

/-- Status, clocks, temperatures and tiers (Tables 15-11, 14-7, 09-12). -/
def odRowsClocks : List OdRow :=
  [ { index := 0x2000, subLo := 1, subHi := 4, size := 1 },
    { index := 0x2000, subLo := 5, subHi := 5, size := 8, acc := .const },
    { index := 0x2000, subLo := 6, subHi := 8, size := 2 },
    { index := 0x2000, subLo := 9, subHi := 9, size := 8 },
    { index := 0x2000, subLo := 0x0A, subHi := 0x0A, size := 1 },
    { index := 0x2100, subLo := 1, subHi := 1, size := 2, acc := .rw, qual := .live, persist := true },
    { index := 0x2100, subLo := 2, subHi := 2, size := 1, acc := .rw, qual := .live, persist := true },
    { index := 0x2100, subLo := 3, subHi := 5, size := 1 },
    { index := 0x2100, subLo := 6, subHi := 6, size := 24, dom := true },
    { index := 0x2100, subLo := 7, subHi := 7, size := 2, acc := .rw, qual := .live, persist := true },
    { index := 0x2100, subLo := 8, subHi := 8, size := 1, acc := .rw, qual := .staged, persist := true },
    { index := 0x2100, subLo := 9, subHi := 9, size := 8, dom := true, acc := .rw, qual := .staged, recSize := 8,
      persist := true },
    { index := 0x2100, subLo := 0x0A, subHi := 0x0A, size := 96, dom := true, acc := .const } ] ++
  [ { index := 0x2100, subLo := 0x0B, subHi := 0x0B, size := 16, dom := true },
    { index := 0x2200, subLo := 1, subHi := 1, size := 12, dom := true },
    { index := 0x2200, subLo := 2, subHi := 2, size := 16, dom := true },
    { index := 0x2200, subLo := 3, subHi := 4, size := 2, acc := .const },
    { index := 0x2200, subLo := 5, subHi := 5, size := 1 },
    { index := 0x2200, subLo := 6, subHi := 6, size := 1, acc := .wo, qual := .live },
    { index := 0x2200, subLo := 7, subHi := 7, size := 2, acc := .rw, qual := .live, persist := true },
    { index := 0x2200, subLo := 8, subHi := 8, size := 8 } ]

/-- Tier and fabric entries (Tables 09-12, 10-12). -/
def odRowsTiers : List OdRow :=
  [ { index := 0x2300, subLo := 1, subHi := 3, size := 8 },
    { index := 0x2300, subLo := 4, subHi := 4, size := 4 },
    { index := 0x2300, subLo := 5, subHi := 6, size := 2, acc := .rw, qual := .live, persist := true },
    { index := 0x2300, subLo := 7, subHi := 7, size := 1, acc := .rw, qual := .staged, persist := true },
    { index := 0x2301, subLo := 1, subHi := 1, size := 786432, dom := true },
    { index := 0x2301, subLo := 2, subHi := 2, size := 98304, dom := true },
    { index := 0x2302, subLo := 1, subHi := 1, size := 64, dom := true, persist := true },
    { index := 0x2302, subLo := 2, subHi := 2, size := 4, persist := true },
    { index := 0x2310, subLo := 1, subHi := 0x80, size := 32, dom := true, acc := .rw, qual := .staged, recSize := 32 },
    { index := 0x2311, subLo := 1, subHi := 0x80, size := 32, dom := true },
    { index := 0x2312, subLo := 1, subHi := 0x80, size := 144, dom := true } ] ++
  [ { index := 0x2400, subLo := 1, subHi := 0x18, size := 32, dom := true },
    { index := 0x2401, subLo := 1, subHi := 1, size := 384, dom := true, acc := .rw, qual := .staged, recSize := 16,
      persist := true },
    { index := 0x2402, subLo := 1, subHi := 1, size := 4, acc := .rw, qual := .staged, persist := true },
    { index := 0x2403, subLo := 0, subHi := 0, size := 4, acc := .rw, qual := .live },
    { index := 0x2404, subLo := 1, subHi := 1, size := 32768, dom := true },
    { index := 0x2405, subLo := 1, subHi := 0x18, size := 40, dom := true },
    { index := 0x2406, subLo := 1, subHi := 1, size := 72, dom := true },
    { index := 0x2410, subLo := 1, subHi := 0x80, size := 2112, dom := true, acc := .rw, qual := .staged, recSize := 0 } ]

/-- Scheduler, precision, special-function, key-value and routing entries (Tables 11-12, 05-11, 06-7, 07-9, 08-6). -/
def odRowsWork : List OdRow :=
  [ { index := 0x2600, subLo := 1, subHi := 6, size := 8 },
    { index := 0x2601, subLo := 1, subHi := 1, size := 131072, dom := true },
    { index := 0x2700, subLo := 1, subHi := 6, size := 8 },
    { index := 0x2701, subLo := 1, subHi := 0x80, size := 16384, dom := true, acc := .rw, qual := .staged, recSize := 16 },
    { index := 0x2702, subLo := 1, subHi := 0x80, size := 32768, dom := true },
    { index := 0x2703, subLo := 1, subHi := 0x80, size := 32768, dom := true, acc := .rw, qual := .live },
    { index := 0x2708, subLo := 1, subHi := 0x80, size := 216, dom := true },
    { index := 0x2709, subLo := 1, subHi := 0x80, size := 216, dom := true },
    { index := 0x270A, subLo := 1, subHi := 0x80, size := 48, dom := true },
    { index := 0x270B, subLo := 1, subHi := 0x80, size := 48, dom := true },
    { index := 0x270C, subLo := 1, subHi := 0x80, size := 104, dom := true },
    { index := 0x270D, subLo := 1, subHi := 0x80, size := 104, dom := true } ] ++
  [ { index := 0x270E, subLo := 1, subHi := 0x80, size := 32768, dom := true, acc := .rw, qual := .staged, recSize := 32 },
    { index := 0x270F, subLo := 0, subHi := 0, size := 4, acc := .rw, qual := .live },
    { index := 0x2800, subLo := 1, subHi := 1, size := 1, acc := .rw, qual := .staged, persist := true },
    { index := 0x2800, subLo := 2, subHi := 3, size := 8 },
    { index := 0x2801, subLo := 1, subHi := 0x80, size := 16, dom := true, acc := .rw, qual := .staged, recSize := 16 },
    { index := 0x2802, subLo := 1, subHi := 0x80, size := 16384, dom := true, acc := .rw, qual := .staged, recSize := 16 },
    { index := 0x2803, subLo := 1, subHi := 0x80, size := 32768, dom := true },
    { index := 0x2804, subLo := 1, subHi := 0x80, size := 32768, dom := true, acc := .wo, qual := .staged, recSize := 32 },
    { index := 0x2805, subLo := 1, subHi := 0x80, size := 32776, dom := true },
    { index := 0x2806, subLo := 1, subHi := 0x80, size := 512, dom := true } ]

/-- Fault, throttle, commit, store, CAN FD and telemetry entries (Tables 13-8, 14-7, 15-11, 16-9). -/
def odRowsFaults : List OdRow :=
  [ { index := 0x2900, subLo := 1, subHi := 0x0A, size := 8 },
    { index := 0x2901, subLo := 1, subHi := 1, size := 131072, dom := true },
    { index := 0x2902, subLo := 1, subHi := 1, size := 4 },
    { index := 0x2903, subLo := 1, subHi := 1, size := 32, dom := true, persist := true },
    { index := 0x2903, subLo := 2, subHi := 2, size := 8, persist := true },
    { index := 0x2903, subLo := 3, subHi := 3, size := 512, dom := true, persist := true },
    { index := 0x2904, subLo := 1, subHi := 1, size := 1, acc := .wo, qual := .staged, persist := true },
    { index := 0x2905, subLo := 1, subHi := 4, size := 4194304, dom := true },
    { index := 0x2905, subLo := 5, subHi := 8, size := 65536, dom := true },
    { index := 0x2906, subLo := 1, subHi := 1, size := 8, acc := .rw, qual := .live },
    { index := 0x2906, subLo := 2, subHi := 2, size := 2, acc := .wo, qual := .live },
    { index := 0x2906, subLo := 3, subHi := 3, size := 64, dom := true },
    { index := 0x2907, subLo := 1, subHi := 0x18, size := 1, acc := .wo, qual := .live },
    { index := 0x2A00, subLo := 1, subHi := 8, size := 16, dom := true },
    { index := 0x2A00, subLo := 9, subHi := 9, size := 1 },
    { index := 0x2A00, subLo := 0x0A, subHi := 0x0A, size := 8 } ] ++
  [ { index := 0x2F00, subLo := 1, subHi := 2, size := 2, acc := .wo, qual := .live },
    { index := 0x2F00, subLo := 3, subHi := 3, size := 32, dom := true },
    { index := 0x2F00, subLo := 4, subHi := 5, size := 8 },
    { index := 0x2F00, subLo := 6, subHi := 6, size := 32, dom := true },
    { index := 0x2F08, subLo := 1, subHi := 1, size := 1 },
    { index := 0x2F08, subLo := 2, subHi := 2, size := 4 },
    { index := 0x2F08, subLo := 3, subHi := 3, size := 450, dom := true },
    { index := 0x2F09, subLo := 1, subHi := 1, size := 16777216, dom := true, acc := .wo, qual := .live },
    { index := 0x2F0A, subLo := 1, subHi := 1, size := 4, acc := .wo, qual := .live },
    { index := 0x2F0C, subLo := 1, subHi := 1, size := 136, dom := true, persist := true },
    { index := 0x2F0C, subLo := 2, subHi := 2, size := 5325, dom := true, acc := .wo, qual := .live, recSize := 5325 } ] ++
  [ { index := 0x2F0D, subLo := 1, subHi := 1, size := 32, dom := true, acc := .wo, qual := .live, recSize := 32 },
    { index := 0x2F0D, subLo := 2, subHi := 2, size := 6701, dom := true },
    { index := 0x2F0D, subLo := 3, subHi := 3, size := 1 },
    { index := 0x2F0E, subLo := 1, subHi := 1, size := 1952, dom := true },
    { index := 0x2F0E, subLo := 2, subHi := 2, size := 1184, dom := true },
    { index := 0x2F0E, subLo := 3, subHi := 3, size := 3349, dom := true, persist := true },
    { index := 0x2F20, subLo := 1, subHi := 1, size := 1, acc := .rw, qual := .idle, persist := true },
    { index := 0x2F20, subLo := 2, subHi := 3, size := 4, acc := .rw, qual := .live },
    { index := 0x2F20, subLo := 4, subHi := 4, size := 32, dom := true },
    { index := 0x2F30, subLo := 1, subHi := 4, size := 2 } ]

/-- Partition and customer entries (Table 11-12). -/
def odRowsPart : List OdRow :=
  [ { index := 0x3000, subLo := 1, subHi := 1, size := 64, dom := true, acc := .rw, qual := .staged, recSize := 64,
      persist := true },
    { index := 0x3000, subLo := 2, subHi := 2, size := 1 },
    { index := 0x3000, subLo := 3, subHi := 3, size := 72, dom := true },
    { index := 0x3000, subLo := 4, subHi := 4, size := 1, acc := .wo, qual := .live },
    { index := 0x3000, subLo := 5, subHi := 5, size := 256, dom := true, acc := .rw, qual := .staged, recSize := 16,
      persist := true },
    { index := 0x4000, subLo := 1, subHi := 1, size := 131072, dom := true, acc := .rw, qual := .live, recSize := 32,
      persist := true } ]

/-- Every row of the dictionary. -/
def odRows : List OdRow :=
  odRowsProfile ++ odRowsTpdo 0 ++ odRowsTpdo 1 ++ odRowsTpdo 2 ++ odRowsTpdo 3 ++ odRowsClocks ++ odRowsTiers ++
    odRowsWork ++ odRowsFaults ++ odRowsPart

/-- The index under which an entry is listed: 0x3000 + p under 0x3000. -/
def odListed (index : Nat) : Nat := if 0x3000 ≤ index ∧ index < 0x3080 then 0x3000 else index

/-- Variables: one value at subindex 0 (R371). -/
def odVariables : List Nat :=
  [0x1000, 0x1001, 0x1008, 0x1009, 0x100A, 0x1014, 0x1015, 0x1017, 0x2403, 0x270F]

/-- Whether an index is listed (R371). -/
def odKnown (index : Nat) : Bool := odRows.any fun r => r.index == odListed index

/-- The row of an entry. -/
def odRow? (index sub : Nat) : Option OdRow :=
  odRows.find? fun r => r.index == odListed index && decide (r.subLo ≤ sub) && decide (sub ≤ r.subHi)

/-- Highest subindex of an index (R371). -/
def odHighest (index : Nat) : Nat :=
  (odRows.filter fun r => r.index == odListed index).foldl (fun m r => max m r.subHi) 0

/-- Whether an index holds one entry per partition at subindex p + 1 (R371, R377). -/
def odPerPartition (index : Nat) : Bool :=
  [0x2310, 0x2311, 0x2312, 0x2410, 0x2701, 0x2702, 0x2703, 0x270C, 0x270D, 0x270E, 0x2801, 0x2802, 0x2803, 0x2804,
    0x2805, 0x2806].contains index

/-- Default mapping of a TPDO (Table 15-6): index, subindex and length of each mapped value. -/
def tpdoMap (n : Nat) : List Nat :=
  if n = 0 then
    [0x20000108, 0x10010008, 0x21000308, 0x21000408, 0x21000508, 0x22000508, 0x2A000908, 0x2F300110, 0x2F300210,
      0x2F300310, 0x2F300410]
  else if n = 1 then [0x29000240, 0x29000340, 0x26000140, 0x26000640]
  else []

/-- The default record of a setting and its size in bytes; entries not listed default to zero. The node identifier enters
the CAN identifiers (Table 15-9). -/
def odDefaultRec (nodeId index sub : Nat) : Nat × Nat :=
  if index = 0x2701 then
    (16, 0x40000000 * 2 ^ 96 + 0x40000000 * 2 ^ 64 + 0x10 * 2 ^ 56 + 4 * 2 ^ 52 + 0x7F * 2 ^ 40)
  else if index = 0x270E then (32, 0xFF800000 * 2 ^ 224 + 0x3F800000 * 2 ^ 160)
  else if index = 0x270F ∨ index = 0x2403 then (4, 1000)
  else if index = 0x2300 ∧ sub = 5 then (2, 4)
  else if index = 0x2300 ∧ sub = 7 then (1, 16)
  else if odListed index = 0x3000 ∧ sub = 1 then (64, 2 ^ 80)
  else if index = 0x2100 ∧ sub = 1 then (2, 2400)
  else if index = 0x2100 ∧ sub = 2 then (1, 23)
  else if index = 0x2100 ∧ sub = 7 then (2, 480)
  else if index = 0x2200 ∧ sub = 7 then (2, 500)
  else if index = 0x1014 then (4, 0x80 + nodeId)
  else if index = 0x1015 then (2, 10)
  else if index = 0x1017 then (2, 100)
  else if index = 0x2F20 ∧ sub = 1 then (1, 2)
  else if 0x1800 ≤ index ∧ index ≤ 0x1803 then
    (if sub = 1 then (4, if index = 0x1800 then 0x180 + nodeId else if index = 0x1801 then 0x280 + nodeId
                         else 0x80000000)
     else if sub = 2 then (1, 0xFE)
     else if sub = 5 then (2, if index = 0x1800 then 10 else if index = 0x1801 then 100 else 0)
     else (2, 0))
  else if 0x1A00 ≤ index ∧ index ≤ 0x1A03 then
    (if sub = 0 then (1, (tpdoMap (index - 0x1A00)).length) else (4, (tpdoMap (index - 0x1A00)).getD (sub - 1) 0))
  else (1, 0)

/-- Default byte of a setting. -/
def odDefault (nodeId index sub off : Nat) : Byte :=
  let (n, v) := odDefaultRec nodeId index sub
  BitVec.ofNat 8 (v >>> (8 * (off % n)))

/-- The map key of a dictionary byte. -/
def odKey (index sub off : Nat) : Nat := (index * 256 + sub) * 2 ^ 25 + off

end Sys2Proof.Machine
end

