-- ==== Sys2Proof/Machine/SMap.lean ====
section
/-! DEFINITION. Sparse maps from natural keys, as lists in one canonical form: keys strictly rising, and (where the
map has a default) no entry equal to the default. Registers, memory, counters and tables of the model are such maps. -/

namespace Sys2Proof

/-- A sparse map: key and value pairs, keys strictly rising. -/
abbrev SMap (α : Type) := List (Nat × α)

namespace SMap

variable {α : Type}

/-- The value stored under a key. -/
def find? (k : Nat) : SMap α → Option α
  | [] => none
  | (j, v) :: m => if k = j then some v else if k < j then none else find? k m

/-- The value under a key, or the default. -/
def get (d : α) (m : SMap α) (k : Nat) : α := (find? k m).getD d

/-- Removes a key. -/
def del (k : Nat) : SMap α → SMap α
  | [] => []
  | (j, v) :: m => if k = j then m else if k < j then (j, v) :: m else (j, v) :: del k m

/-- Stores a value under a key. -/
def put (k : Nat) (x : α) : SMap α → SMap α
  | [] => [(k, x)]
  | (j, v) :: m =>
    if k = j then (k, x) :: m else if k < j then (k, x) :: (j, v) :: m else (j, v) :: put k x m

/-- Stores a value in a map with a default: the default itself is not listed. -/
def set [DecidableEq α] (d : α) (m : SMap α) (k : Nat) (x : α) : SMap α :=
  if x = d then del k m else put k x m

/-- Keys strictly rising, all at or above a bound. -/
def sortedFrom : Nat → SMap α → Bool
  | _, [] => true
  | lo, (j, _) :: m => decide (lo ≤ j) && sortedFrom (j + 1) m

/-- Keys strictly rising. -/
def sorted (m : SMap α) : Bool := sortedFrom 0 m

/-- The canonical form of a map with a default. -/
def wf [DecidableEq α] (d : α) (m : SMap α) : Bool := sorted m && m.all fun e => decide (e.2 ≠ d)

/-- The values, in key order. -/
def values (m : SMap α) : List α := m.map Prod.snd

/-- Keeps the pairs that pass a test. -/
def keep (f : Nat → α → Bool) (m : SMap α) : SMap α := m.filter fun e => f e.1 e.2

/-- Changes every value. -/
def mapVals (f : Nat → α → α) (m : SMap α) : SMap α := m.map fun e => (e.1, f e.1 e.2)

/-- The lowest natural below a bound that is no key. -/
def lowestFree (bound : Nat) (m : SMap α) : Option Nat :=
  let rec go : Nat → Nat → SMap α → Option Nat
    | 0, _, _ => none
    | _ + 1, k, [] => if k < bound then some k else none
    | f + 1, k, (j, _) :: m => if k < j then (if k < bound then some k else none) else go f (j + 1) m
  go (m.length + 1) 0 m

end SMap

end Sys2Proof
end

