-- ==== Sys2Proof/Machine/State.lean ====
section
/-! DEFINITION. The state of the KK7 block: every register, memory, queue, buffer, counter, mode and pin the spec gives
the machine, as plain data. What the spec indexes (threads, arrays, queues, partitions, ports) is a sparse map whose
default is the unit's reset value. Cycle and tick counts are numbers. -/

namespace Sys2Proof.Machine

open Sys2Proof

/-! ## Threads -/

/-- A declared range of a task: global base, size in bytes, output flag (Table 11-4). -/
structure Range where
  base : W64
  size : Nat
  out : Bool
  deriving DecidableEq, Repr

/-- The four atomics (Table 03-8). -/
inductive AtomOp where
  | atadd | atfadd | cas | fpadd
  deriving DecidableEq, Repr

/-- An access whose release waits for earlier ones (R42): a store of pieces (address, bytes), or an atomic. -/
inductive RelAccess where
  | store (pieces : List (W64 × List Byte))
  | atomic (op : AtomOp) (addr : W64) (wide : Bool) (b c : W64) (gd : Nat) (acquire : Bool)
  deriving DecidableEq, Repr

/-- What a thread waits for. A stalled instruction has not been performed: the PC still names it. -/
inductive Wait where
  /-- ready to issue -/
  | ready
  /-- ACMD to a full or foreign array (R72, R87) -/
  | acmd (arr : Nat)
  /-- AWAIT of command number `seq` (R73) -/
  | await (arr seq gd : Nat)
  /-- FENCE (R44) -/
  | fence (gd : Nat)
  /-- a release held by R42 -/
  | release (x : RelAccess)
  /-- BAR (R75) -/
  | bar
  /-- WAITV polling (R76); `last` is the last value read, `polled` says whether there is one -/
  | waitv (gd : Nat) (addr expect last : W64) (polled : Bool) (once : Bool)
  /-- a near store or atomic waiting for invalidation acknowledgements (R267) -/
  | home
  /-- a far load, atomic or fabric fence outstanding under its request (R43, R49, R67) -/
  | far (dst : BitVec 12) (seq : W32)
  /-- SFLOAD into a slot from an address (R153) -/
  | sfload (slot : Nat) (addr : W64)
  /-- an access held by a replay, a lane copy or an earlier access to the same place (R41, R220, R336) -/
  | held
  /-- an atomic that waits for a record of the fabric-operation log, or for the tag limit (R265, R332) -/
  | log
  deriving DecidableEq, Repr

/-- A thread slot in use (R23, R55 to R58, R81, R84). Registers not listed read zero. -/
structure Thread where
  task : Nat
  tid : Nat
  pc : W64 := 0
  g : SMap W64 := []
  v : SMap VReg := []
  p : SMap Pred := []
  /-- registers written since the cast started (R84) -/
  liveG : List Nat := []
  liveV : List Nat := []
  liveP : List Nat := []
  excCode : W64 := 0
  excPc : W64 := 0
  excAddr : W64 := 0
  excStatus : W64 := 0
  farAddr : W64 := 0
  fpFlags : W64 := 0
  /-- worst status of failed stores and invalidates since the last FENCE (R78) -/
  failStatus : Byte := 0
  inHandler : Bool := false
  ended : Bool := false
  wait : Wait := .ready
  /-- the cycle before which the thread issues nothing (YIELD, R83) -/
  yieldUntil : Nat := 0
  deriving DecidableEq, Repr

/-! ## Arrays -/

/-- One command queued on an array (R72, R103). -/
structure ArrCmd where
  seq : Nat
  tag : Nat
  task : Nat
  word : W512
  /-- the command has run and awaits its completion -/
  ran : Bool := false
  status : Byte := 0
  /-- T of the latest LOAD accepted before it (R104) -/
  cols : Nat := 0
  /-- the redirected, encore form (R138, R238) -/
  encore : Bool := false
  /-- tiles of the run whose header read has waited (R234) -/
  late : List Nat := []
  /-- cycle from which its lead runs, for a command accepted behind another (R104, R106) -/
  lead : Option Nat := none
  /-- row or plane cycles of its run that have yet to pass (R107) -/
  left : Nat := 0
  deriving DecidableEq, Repr

/-- The stationary block of an array with its feeder's values (R88 to R92, R440). Maps are keyed 128 k + t or 128 j + t. -/
structure Block where
  cols : Nat
  align : Bool
  q : SMap Int := []
  ea : SMap Int := []
  sums : SMap Int := []
  nan : SMap Bool := []
  poisoned : Bool := false
  /-- exact element values (m, e) of R89 with sign, for wide rehearsal (R142), keyed 128 k + t -/
  x : SMap (Int × Int) := []
  deriving DecidableEq, Repr

/-- A matrix array (R85 to R109). -/
structure ArrayUnit where
  /-- owning cast, by task number (R87) -/
  owner : Option Nat := none
  queue : List ArrCmd := []
  nextSeq : Nat := 0
  /-- T of the latest LOAD the cast has accepted since it started or released the array (R104) -/
  loadCols : Option Nat := none
  /-- protected source and scale ranges of the latest LOAD: base, length (R93) -/
  guarded : List (Nat × Nat) := []
  /-- the stationary block (R88 to R92), and the word of the LOAD that formed it, which a resumed cast runs again (R108) -/
  block : Option Block := none
  loaded : Option W512 := none
  deriving DecidableEq, Repr

/-- A special-function table slot (R148, R157): its 4,160 bytes as one word, TABLE_ID within it. -/
structure TableSlot where
  part : Nat
  source : W64
  image : BitVec 33280
  deriving DecidableEq, Repr

/-- A core's shared units: table slots, retirement, droop stretch (R71, R328, R360). -/
structure Core where
  tables : SMap TableSlot := []
  /-- unready and poisoned 128-byte tile-store units (R234): ready bits are held inverted -/
  unready : List Nat := []
  poisonUnits : List Nat := []
  stretched : Bool := false
  stretches : Nat := 0
  /-- SFLOADs in progress: cycle of issue and thread slot (R157) -/
  loads : List (Nat × Nat) := []
  deriving DecidableEq, Repr

/-! ## Tasks and queues -/

/-- Where a task stands (R285, R333, R336, R305). -/
inductive TaskPhase where
  | waiting | running | complete | switchingOut | switchedOut
  deriving DecidableEq, Repr

/-- A record of the fabric-operation log (R332): one atomic of an uncommitted task, by its place in the thread's run. -/
structure AtomRec where
  tid : Nat
  index : Nat
  dst : BitVec 12
  tag : W32
  result : Option (Byte × W64) := none
  deriving DecidableEq, Repr

/-- An accepted task, casting call or collective, with its prompt-book record (Tables 11-2, 13-3). -/
structure Task where
  part : Nat
  desc : W512
  /-- local address of the descriptor, when its ring is local -/
  descAddr : Option Nat := none
  step : Nat
  home : Nat
  phase : TaskPhase := .waiting
  core : Nat := 0
  slots : List Nat := []
  tsBase : Nat := 0
  tsSize : Nat := 0
  dispatched : Bool := false
  dseq : Nat := 0
  readyAt : Option Nat := none
  ranges : List Range := []
  /-- declared output and input extents (R335), and local ranges read-only until the commit (R197, R284, R331), as
  (address, length) in the one address order of `gkey` -/
  outs : List (Nat × Nat) := []
  ins : List (Nat × Nat) := []
  guards : List (Nat × Nat) := []
  /-- place in its prompt-book ring, and its first record in the fabric-operation log (Table 13-3) -/
  bookIdx : Nat := 0
  logFirst : Nat := 0
  status : Byte := 0
  gateStatus : Byte := 0
  replays : Nat := 0
  replaying : Bool := false
  /-- the run was stopped and waits to be dispatched again (R336, R138) -/
  rerun : Bool := false
  encore : Bool := false
  noOutput : Bool := false
  /-- appended by a switch to a stand-in (R300) -/
  standin : Bool := false
  /-- completed undispatched under R295, R300 or R302: it ends no request -/
  skipped : Bool := false
  /-- a casting call or collective handed to its unit (R196, R270) -/
  handed : Bool := false
  /-- the last thread of the running cast has ended: its slots are free, its arrays may still run (R24, R60, R87) -/
  castOver : Bool := false
  /-- what a casting call answered: its slots with no token and their experts (R210) -/
  answer : Option (List (Nat × Nat)) := none
  /-- table slots loaded or read, with their tables (R158) -/
  tables : SMap TableSlot := []
  /-- latest command number accepted and latest status completed by array × 256 + TAG (R73) -/
  arrSeq : SMap Nat := []
  arrDone : SMap Byte := []
  /-- 4 KiB granules of the allotted range written since the cast started (R305) -/
  granules : List Nat := []
  /-- threads and array queues saved at a switch-out (R305) -/
  saved : List (Nat × Thread) := []
  savedArrays : List (Nat × ArrayUnit) := []
  savedTile : List (Nat × List Byte) := []
  savedBytes : Nat := 0
  log : List AtomRec := []
  /-- records of the fabric-operation log that its segments hold (R332) -/
  segs : Nat := 0
  atomCount : SMap Nat := []
  /-- the context of its request, where that has ended before it (R180) -/
  ctx : W64 := 0
  deriving DecidableEq, Repr

/-- What kind of entry was accepted (Table 11-1). -/
inductive EntryKind where
  | fly | context | task | stepBegin | request | unknown
  deriving DecidableEq, Repr

/-- An accepted queue entry awaiting its notice (R46, R288). -/
structure Entry where
  queue : Nat
  submit : Nat
  part : Nat
  kind : EntryKind
  word : W512
  /-- local address it was read from, for a local ring -/
  addr : Option Nat := none
  /-- status and result once the work is committed -/
  done : Option (Byte × W64) := none
  deriving DecidableEq, Repr

/-- The registers of a host or device queue (Tables 11-11 and 17-3). -/
structure Queue where
  sqBase : W64 := 0
  sqEntries : W64 := 16
  cqBase : W64 := 0
  cqEntries : W64 := 16
  ringCfg : W64 := 0
  coalesce : W64 := 0
  sqTail : Nat := 0
  sqHead : Nat := 0
  cqHead : Nat := 0
  cqTail : Nat := 0
  /-- QSTATUS of a host queue, or 2 for a device queue in error -/
  status : Nat := 0
  cause : Nat := 0
  submit : Nat := 0
  phase : Bool := true
  /-- completion entries since the last message (R420) -/
  sinceMsg : Nat := 0
  /-- tick of the first of those entries -/
  firstTick : Nat := 0
  resetWanted : Bool := false
  /-- notices of entries accepted before this number are discarded (R281, R419) -/
  discardBelow : Nat := 0
  deriving DecidableEq, Repr

/-- A request slot in use (R294 to R302). -/
structure Request where
  part : Nat
  ctx : W64 := 0
  result : W64 := 0
  budgetUs : Nat := 0
  estTotal : Nat := 0
  cEst : Nat := 0
  sarg : W64 := 0
  customer : Nat := 0
  cls : Nat := 0
  standin : Nat := 0
  state : Nat := 1
  paused : Bool := false
  tokens : Nat := 0
  ttft : Nat := 0
  firstDone : Bool := false
  lastTick : Nat := 0
  tbtMax : Nat := 0
  tbtSum : Nat := 0
  opened : Nat := 0
  status : Byte := 0
  sawEncore : Bool := false
  switched : Bool := false
  lateCounted : Bool := false
  /-- whether the switch that scripted mode held back has been counted (Table 12-1) -/
  scriptHeld : Bool := false
  missCounted : Bool := false
  /-- candidates the latest verification accepted, and the tokens that verifications have emitted (R189) -/
  accepted : Nat := 0
  emitted : List W32 := []
  deriving DecidableEq, Repr

/-- A customer's bucket beside its configured RATE and DEPTH (Table 11-8). -/
structure Customer where
  level : Int := 0
  charged : W64 := 0
  refused : W32 := 0
  deriving DecidableEq, Repr

/-! ## Contexts and key-value state -/

/-- A page pool (R177): reference counts by slot; a slot with no entry is free. -/
structure Pool where
  base : Nat
  size : Nat
  dblk : Nat
  pmax : Nat
  train : Bool
  counts : SMap Nat := []
  /-- precision of the page in a slot, taken when its first row is written (R166) -/
  precs : SMap Nat := []
  deriving DecidableEq, Repr

/-- A published prefix (R178): shape, length, chain pages by (layer, group, page) key, snapshots by (layer, group) key. -/
structure Prefix where
  len : Nat
  layerBase : Nat
  layersM1 : Nat
  groupsM1 : Nat
  dblkM1 : Nat
  pool : Nat
  pages : SMap Nat := []
  snaps : SMap Nat := []
  deriving DecidableEq, Repr

/-- The scratch page of a tree verification (R188) for one (layer, group): its address and the rows used. -/
structure Scratch where
  page : Nat
  rows : Nat := 0
  deriving DecidableEq, Repr

/-- Per-context progress beside its descriptor (R169, R170, R180): rows appended in this step and scratch pages by
(layer, group) key, and the entry of a release that is held. -/
structure CtxExtra where
  appended : SMap Nat := []
  scratch : SMap Scratch := []
  releasing : Option Nat := none
  deriving DecidableEq, Repr

/-! ## Casting -/

/-- An offer or acceptance of a token for a slot (R200, R201): group token index, biased score, weight. -/
structure Offer where
  tau : Nat
  slot : Nat
  biased : W32
  weight : W32
  deriving DecidableEq, Repr

/-- One assignment held at a home: local token, expert, weight (R202). -/
structure Assign where
  token : Nat
  expert : Nat
  weight : W32
  deriving DecidableEq, Repr

/-- Per-expert counters OFFERED, CHOSEN, SPILLED, UNCHOSEN (R204). -/
structure ExpCount where
  offered : Nat := 0
  chosen : Nat := 0
  spilled : Nat := 0
  unchosen : Nat := 0
  deriving DecidableEq, Repr

/-- What a casting call waits for (R200, R201, R204): a phase of segments, or only its final lists. -/
inductive CastWait where
  | scores | offers | responses | notices | counts | lists
  deriving DecidableEq, Repr

/-- A casting call in progress (R196 to R207). -/
structure CastCall where
  task : Nat
  word : W512
  cfg : BitVec 256
  step : Nat
  mapCrc : W64
  biasCrc : W64
  cfgCrc : W64
  startTick : Nat := 0
  waits : CastWait := .lists
  round : Nat := 0
  /-- rounds of offers run -/
  rounds : Nat := 0
  /-- segments received, in order of arrival -/
  segs : List Segment := []
  /-- owner side: tokens taken; rejected offers of other homes' tokens whose fate is not known, by expert -/
  accepted : List Offer := []
  others : SMap Nat := []
  /-- owner side: homes and experts of the other homes' offers rejected in this round -/
  lost : List (Nat × Nat) := []
  /-- home side: (token, expert) offers of this round -/
  offers : List (Nat × Nat) := []
  /-- home side: re-offers made, by token; assignments -/
  reoffers : SMap Nat := []
  assigns : List Assign := []
  /-- counters of the experts owned here -/
  counts : SMap ExpCount := []
  nanScores : Nat := 0
  biasClamps : Nat := 0
  sharedOnly : Nat := 0
  /-- the owner's lists are settled; slots whose lists are written (R209) -/
  selected : Bool := false
  finalSlots : List Nat := []
  deriving DecidableEq, Repr

/-! ## Tiers, objects and cue sheets -/

/-- An allocation of tier H or D (R222). -/
structure Alloc where
  size : Nat
  part : Nat
  deriving DecidableEq, Repr

/-- A registered object (Table 09-4). -/
structure Object where
  desc : W512
  part : Nat
  deriving DecidableEq, Repr

/-- A key slot (R227). -/
structure KeySlot where
  part : Nat
  keyId : W64
  key : List Byte
  deriving DecidableEq, Repr

/-- A cue entry as loaded (Table 09-9) with its position. -/
structure CueEntry where
  word : BitVec 256
  pos : Nat
  deriving DecidableEq, Repr

/-- A loaded cue sheet (R230): header address and extents to protect, layers by position, entries. -/
structure Sheet where
  header : Nat
  sheetId : W64
  layers : List Nat
  entriesAddr : Nat
  entries : List CueEntry
  lead : Nat
  deriving DecidableEq, Repr

/-- Progress of a cue entry in the current step (R232 to R236). -/
inductive EntryPhase where
  | idle
  /-- the engine that reads it -/
  | started (e : Nat)
  | placed
  /-- placed, and its position has committed since: its bits are cleared (R234, R239) -/
  | cleared
  | skipped
  deriving DecidableEq, Repr

/-- A redirection record of an encore (R238): merged tile's address and the base tile's length. -/
structure Redirect where
  addr : Nat
  baseLen : Nat
  deriving DecidableEq, Repr

/-- An encore of a layer (R138, R238): kinds judged, and the reservation by core with its redirections. -/
structure Encore where
  kinds : List Bool
  ranges : List (Nat × Nat × Nat) := []
  placed : Bool := false
  redirects : List (Nat × Nat × Redirect) := []
  /-- place in the order in which the partition's reservations were chosen -/
  order : Nat := 0
  /-- the re-run has its verdicts, or has failed; the reservation stands until the layer commits -/
  judged : Bool := false
  /-- a verdict of the re-run has raised ENCORE_UNRESOLVED -/
  unresolved : Bool := false
  deriving DecidableEq, Repr

/-! ## Norm watch and digests -/

/-- One kind's mean, count, consecutive flags and latest norm (Table 05-10). -/
structure NwKind where
  mean : W32 := 0
  count : Nat := 0
  consec : Nat := 0
  lastN : W32 := 0
  deriving DecidableEq, Repr

/-- A layer's state record (Table 05-10). -/
structure NwLayer where
  out : NwKind := {}
  grad : NwKind := {}
  lastReason : Nat := 0
  lastStep : W64 := 0
  deriving DecidableEq, Repr

/-- Reports of one layer and kind in the current step: J and the report of each index (R131). -/
structure NwReports where
  total : Nat := 0
  vals : SMap W32 := []
  judged : Bool := false
  failed : Bool := false
  deriving DecidableEq, Repr

/-- A layer's sticky counters (Table 05-4). -/
structure Sticky where
  zero : W32 := 0
  nan : W32 := 0
  clipped : W32 := 0
  satElems : W32 := 0
  satBlocks : W32 := 0
  lastStep : W64 := 0
  deriving DecidableEq, Repr

/-- A layer-digest record (Table 12-3). -/
structure Digest where
  digest : W64 := 0
  step : W64 := 0
  tiles : W32 := 0
  failed : W32 := 0
  outside : W32 := 0
  incomplete : Bool := false
  scripted : Bool := false
  deriving DecidableEq, Repr

/-- A step-history entry (Table 12-4). -/
structure StepDigest where
  digest : W64 := 0
  step : W64 := 0
  layers : Nat := 0
  encores : Nat := 0
  incomplete : Bool := false
  scripted : Bool := false
  deriving DecidableEq, Repr

/-! ## Collectives -/

/-- A posted collective (R270 to R277): segments received, in order; those not yet used; FP32 values by element as they
stand here; encoded final chunks by owner; the stage it has reached. -/
structure CollRun where
  task : Nat
  desc : W512
  index : Nat
  n : Nat
  startTick : Nat
  /-- segments accepted, in order; those that wait to be, with their requests -/
  segs : List CollSegment := []
  wait : List FabReq := []
  /-- the sender whose queue the merge unit looks at first (R275) -/
  turn : Nat := 0
  /-- partials that wait for credit at the root (R275) -/
  toSend : List CollSegment := []
  /-- participants that replayed and were sent this one's segments again (R277) -/
  resent : List (BitVec 12) := []
  acc : SMap W32 := []
  pieces : SMap (List Byte) := []
  stage : Nat := 0
  /-- the phase of the casting segments an all-to-all carries, 5 or 6 (R208) -/
  rowPhase : Option Nat := none
  ended : Option Byte := none
  deriving DecidableEq, Repr

/-! ## Partitions -/

/-- States of Table 11-10. -/
inductive PartPhase where
  | off | active | reset
  deriving DecidableEq, Repr

/-- A gate: count and status (R286). -/
structure Gate where
  count : Nat := 0
  status : Byte := 0
  deriving DecidableEq, Repr

/-- What a partition holds beside its configuration records (chapters 05, 07, 08, 09, 11, 12). -/
structure Part where
  phase : PartPhase := .off
  step : W64 := 0
  gates : SMap Gate := []
  /-- accepted STEP_BEGIN entries whose boundaries have not fallen (R288) -/
  stepBegins : List Nat := []
  /-- entries accepted in RESET, or behind a release that is held, that have yet to run (R180, R307) -/
  held : List Nat := []
  /-- a task, call or collective of the current step has been dispatched; when the first was (R231, R289) -/
  dispatchedAny : Bool := false
  firstDispatchTick : Nat := 0
  /-- cycle before which the step's first dispatch may not fall (R287) -/
  dispatchFrom : Nat := 0
  scripted : Bool := false
  sheets : SMap Sheet := []
  selected : Option Nat := none
  pendingSel : Option Nat := none
  /-- CUE_SELECT entries whose selection is not complete (R231) -/
  selecting : List Nat := []
  selectRunning : Bool := false
  /-- CUE_SELECT entries below this number complete with the running selection -/
  selectLimit : Nat := 0
  entryPhase : SMap EntryPhase := []
  closedPos : Nat := 0
  /-- tasks of the step that raised its highest POS when they were accepted: POS and acceptance number (R233) -/
  posMarks : List (Nat × Nat) := []
  committedPos : List Nat := []
  /-- positions whose entries were run again after their commit: they commit again with their tasks (R233, R239) -/
  reopened : List Nat := []
  /-- entries that are run again for a task that waits for them (R239) -/
  rerunEntries : List Nat := []
  startedPos : Nat := 0
  cancelled : List W64 := []
  pools : SMap Pool := []
  handles : SMap Prefix := []
  call : Option CastCall := none
  /-- casting calls of the current step that committed: layer, and the slots with no token and their experts, or none
  where the call ended without an answer (R210, R283) -/
  answered : List (Nat × Option (List (Nat × Nat))) := []
  /-- slots of the current step whose final list is empty: layer, slot, expert (R210) -/
  emptySlots : List (Nat × Nat × Nat) := []
  /-- calls of the current step that have ended well, by layer: their segments serve a replay and the layer's all-to-alls (R208, R213) -/
  endedCalls : SMap CastCall := []
  /-- all-to-alls posted in the current step: layer and COLL_ID, in order (R208) -/
  allToAlls : List (Nat × W32) := []
  /-- (layer, slot) whose digest term of R210 has been added in this step -/
  emptyTerms : List (Nat × Nat) := []
  colls : SMap CollRun := []
  /-- COLL requests held against their credits: of collectives not posted, of casting calls that do not run (R198, R270) -/
  earlySegs : List FabReq := []
  /-- segments sent, by COLL_ID, kept for a participant that replays (R277) -/
  sentSegs : SMap (List (BitVec 12 × CollSegment)) := []
  heldSegs : List FabReq := []
  /-- casting segments already received, by key (R207); collectives completed in the step -/
  heardSegs : List Nat := []
  doneColls : List W32 := []
  nw : SMap NwLayer := []
  reports : SMap NwReports := []
  encores : SMap Encore := []
  encoresRun : Nat := 0
  layerCfg : SMap (BitVec 128) := []
  sticky : SMap Sticky := []
  digestCfg : SMap (BitVec 128) := []
  digestRun : SMap Digest := []
  digestPub : SMap Digest := []
  history : List StepDigest := []
  preset : Option (SMap NwLayer) := none
  snapshotStep : W64 := 0
  snapshot : SMap NwLayer := []
  seed : W64 := 0
  /-- replay set: members by task number (R336) -/
  replay : List Nat := []
  rosterWritten : Bool := false
  /-- parts of a split that have completed, in order: index and status, by `splitKey` (R185); listed once a part is
  dispatched -/
  splits : SMap (List (Nat × Byte)) := []
  /-- COLLECT and RS of a split, by `splitKey`, once two of its slots are known (R184) -/
  splitAreas : SMap (Nat × Nat) := []
  /-- LEN increments due when the step's last layer commits: context index, rows (R170) -/
  appends : SMap Nat := []
  deriving DecidableEq, Repr

/-! ## Fabric -/

/-- States of Table 10-2. -/
inductive PortPhase where
  | dark | training | checking | up | retrain | held | retired
  deriving DecidableEq, Repr

/-- An optical port (R243 to R249). -/
structure Port where
  phase : PortPhase := .dark
  lanes : Nat := 0
  farSerial : W64 := 0
  farPort : Nat := 0
  farRole : BitVec 2 := 0
  farCoord : BitVec 12 := 0
  ns : W32 := 0
  retiredHalves : BitVec 2 := 0
  light : BitVec 2 := 0
  /-- next flit SEQ expected, the last SEQ acknowledged, run of NAKs naming one SEQ (R245) -/
  rxSeq : Nat := 0
  acked : Nat := 4095
  nakSeq : Nat := 0
  nakRun : Nat := 0
  creditReq : Nat := 64
  creditRsp : Nat := 64
  creditCc : Nat := 64
  /-- credits to return with the next flit, by channel (R244) -/
  owedReq : Nat := 0
  owedRsp : Nat := 0
  owedCc : Nat := 0
  /-- next SEQ to send; flits that wait to be sent, by channel and payload; flits sent and not acknowledged; every flit put on the fibre
  (R245) -/
  txNext : Nat := 0
  txQueue : List (Nat × List Byte) := []
  unacked : List (BitVec 128 × List Byte) := []
  line : List (BitVec 128 × List Byte) := []
  /-- symbols corrected on each lane, by the reference tick (R249) -/
  symbols : List (Nat × List Nat) := []
  /-- training failed and its retry is due (R246) -/
  retryDue : Bool := false
  /-- it was HELD when its light was lost (Table 10-2) -/
  wasHeld : Bool := false
  deriving DecidableEq, Repr

/-- What an engine reads from another package or from a storage port for: a FILL by its entry, entry i of a partition's selected
sheet, the extension of entry i for the encore of a layer, or the SFLOAD of a thread (R50, R269). -/
inductive EngineJob where
  | fill (k : Nat)
  | cue (p i : Nat)
  | ext (p l i : Nat)
  | sfload (t : Tid)
  deriving DecidableEq, Repr

/-- What an outstanding request of this package is for. -/
inductive PendKind where
  /-- `off` is where the bytes start in what returns -/
  | load (t : Tid) (gd : BitVec 6) (n off : Nat)
  | loadV (t : Tid) (vd : BitVec 5) (mask : Pred)
  | poll (t : Tid) (off : Nat)
  | store (t : Tid)
  | atomic (t : Tid) (gd : BitVec 6) (wide : Bool) (ret : Bool) (index : Nat)
  | fence (t : Tid) (gd : BitVec 6)
  | inval (t : Tid) (ga : W64)
  /-- a piece, at an offset, of a numbered BAR4 read -/
  | bar4Read (f : Nat) (id pos : Nat)
  | bar4Write (f : Nat)
  | control
  /-- a LOAD of a fly engine or of a special-function unit, whose bytes the command that ends the work brings -/
  | engine (j : EngineJob)
  /-- a segment of a partition's collective, or of its casting call of a step and layer -/
  | coll (p id : Nat)
  | cast (p step layer : Nat)
  deriving DecidableEq, Repr

/-- A request that waits to be sent: the sending partition, none for the house manager, its operation, header and purpose. -/
structure SendReq where
  part : Option Nat
  op : Nat
  req : FabReq
  kind : PendKind
  /-- the task that takes a record of the fabric-operation log as it is sent (R332) -/
  task : Option Nat := none
  deriving DecidableEq, Repr

/-- A far read of an engine in progress (R50, R262, R269): its work and partition, the next address to request and the bytes left, the
port its LOADs last left on, and the status of those that failed. -/
structure FarRead where
  job : EngineJob
  part : Nat
  addr : W64
  left : Nat
  port : Nat := 0
  status : Byte := 0
  deriving DecidableEq, Repr

/-- A request kept until it is acknowledged end to end (R262): its operation, its header and payload as sent, and what it
is for. -/
structure PendReq where
  op : Nat
  req : FabReq
  task : Option Nat
  kind : PendKind
  resends : Nat := 0
  /-- it was sent again on a new route (R47) -/
  moved : Bool := false
  /-- its fill is dropped when it lands: an invalidate or an acquire has passed it, or a store of this package to the line has been
  performed since it was sent (R38, R41, R43) -/
  noFill : Bool := false
  /-- an invalidate that is being served has passed it (R38) -/
  passed : Bool := false
  deriving DecidableEq, Repr

/-- The state a package keeps for one peer coordinate (R261, R265). -/
structure Peer where
  nextOrdered : Nat := 1
  nextUnordered : Nat := 1
  nextTag : Nat := 1
  expect : Nat := 1
  early : List (Nat × Nat × FabReq) := []
  seen : List Nat := []
  /-- statuses of its latest requests that did not succeed, for a duplicate's acknowledgement -/
  refused : List (W32 × Byte) := []
  latestCtag : Nat := 0
  /-- atomic log of this source: slot → tag, result, status (R265) -/
  atoms : SMap (Nat × W64 × Byte) := []
  /-- an OC0 operation to it has failed TARGET_LOST; later ones fail until the route changes (R47) -/
  broken : Bool := false
  deriving DecidableEq, Repr

/-- An invalidate being served (R38): its source and number, the lines' home and range, and the thread that waits for it
when it is this package's own. -/
structure Serving where
  src : BitVec 12
  seq : W32
  home : BitVec 12
  lo : Nat
  n : Nat
  own : Option Tid := none
  task : Option Nat := none
  jobId : BitVec 16 := 0
  deriving DecidableEq, Repr

/-- Who asked for an access that waits: a thread, a thread of a task that has since ended or stopped, an engine or manager of this
package, whose bytes are in memory already, a peer's request, a BAR4 access of a function, or a doorbell of a host queue, by its
QUEUE code, that waits for earlier BAR4 writes (R417). -/
inductive HomeAct where
  | thread (t : Tid) (x : RelAccess)
  | orphan (task : Nat) (x : RelAccess)
  | engine
  | request (op : Nat) (r : FabReq)
  | host (f : Nat) (addr : Nat) (bytes : List Byte)
  | hostRead (f id pos : Nat) (addr n : Nat)
  | bell (code : Nat) (tail : Bool) (v : W64)
  deriving DecidableEq, Repr

/-- A near store waiting for invalidation acknowledgements (R267): lines with the dies whose acknowledgement is due. -/
structure HomeStore where
  waits : List (Nat × Nat)
  act : HomeAct
  deriving DecidableEq, Repr

/-- A BAR4 read in progress: its function, its bytes as they arrive by offset, the pieces still due (R422). -/
structure HostRead where
  fn : Nat
  n : Nat
  bytes : SMap Byte := []
  left : Nat
  ok : Bool := true
  deriving DecidableEq, Repr

/-- A switch-in this package runs (R257). -/
structure SwitchIn where
  coord : BitVec 12
  tenure : Nat
  usport : Nat
  deriving DecidableEq, Repr

/-- The fabric side of the package. -/
structure Fabric where
  ports : SMap Port := []
  peers : SMap Peer := []
  pend : List PendReq := []
  /-- segments and control messages that wait to be sent, in order (R262) -/
  sendq : List SendReq := []
  /-- coherence messages that wait for a port: target, die, line, whether an acknowledgement (R267) -/
  cohWait : List (BitVec 12 × Nat × Nat × Bool) := []
  /-- route table: entries of Table 10-4 by coordinate -/
  routes : SMap W64 := []
  directory : SMap Nat := []
  homeStores : List HomeStore := []
  /-- accesses of peers and of the host held by a replay or a lane copy, in order (R220, R336) -/
  held : List HomeAct := []
  hostReads : SMap HostRead := []
  nextRead : Nat := 0
  jobs : List FarRead := []
  serving : List Serving := []
  switchIns : List SwitchIn := []
  /-- switch-ins recorded in this package's store (R250, R257) -/
  switched : List SwitchIn := []
  /-- logical coordinate held, none for an understudy before a switch-in (R256) -/
  coord : Option (BitVec 12) := some 0
  tenure : Nat := 0
  lost : List (BitVec 12) := []
  /-- destinations reported to the house manager after 8 resends (R262) -/
  reported : List (BitVec 12) := []
  /-- next index of the fabric-operation log (R332) -/
  logNext : Nat := 0
  deriving DecidableEq, Repr

/-! ## Dimmer, temperature, coolant -/

/-- Where a dimmer move stands (R355). -/
inductive Move where
  | still
  /-- lowering: the hop to a step is under way, then the voltage follows -/
  | lowerHop (target : Nat)
  | lowerVolt (target : Nat)
  /-- raising: the voltage is under way, then the hop -/
  | raiseVolt (target : Nat)
  | raiseHop (target : Nat)
  /-- a failed voltage move waits for its retry (R356) -/
  | retry (target : Nat)
  deriving DecidableEq, Repr

/-- Phases of a cap slew (R362). -/
inductive Slew where
  | none | blackout | hop | voltage | release
  deriving DecidableEq, Repr

/-- One throttle reason (R369). -/
structure Reason where
  binds : Bool := false
  events : W64 := 0
  ticks : Nat := 0
  deriving DecidableEq, Repr

/-- The dimmer (R353 to R369). Powers are in mW, voltages in mV. -/
structure Dimmer where
  freqStep : Nat := 15
  voltMv : Nat := 700
  move : Move := .still
  fails : Nat := 0
  voltHold : Option Nat := none
  pFix : Nat := 0
  pDyn : Nat := 0
  measured : Nat := 0
  /-- gain G as a quotient -/
  gainNum : Nat := 1
  gainDen : Nat := 1
  flags : W32 := 0
  railShares : List Nat := []
  /-- local permit P_loc as last computed -/
  permit : Nat := 23
  capPermit : Nat := 23
  currentPermit : Nat := 23
  diePermit : Nat := 23
  hbmPermit : Nat := 23
  droopPermit : Nat := 23
  blackout : Bool := false
  blackoutFor : List Nat := []
  slew : Slew := .none
  slewStart : Nat := 0
  slewRecord : List Nat := [0, 0, 0, 0]
  /-- request table of the lock by coordinate; 23 where nothing is listed (R364) -/
  requests : SMap Nat := []
  jobStep : Nat := 23
  /-- the J in force, applied at barriers -/
  jobApplied : Nat := 23
  forceDue : Bool := false
  reasons : SMap Reason := []
  deriving DecidableEq, Repr

/-- Temperatures and the coolant stop (R366, R367). Die sensors are in 1/4 °C, in the order C0 to C3, Z0, Z1; HBM stacks
in 1/16 °C. -/
structure Thermal where
  die : List Int := []
  hbm : List Int := []
  /-- sensors that read 115.0 °C or more in the latest sample -/
  hot : List Nat := []
  refresh2x : List Nat := []
  coolantState : Nat := 0
  coolantOk : Bool := true
  returning : Bool := false
  stopTick : Nat := 0
  deriving DecidableEq, Repr

/-! ## Faults -/

/-- A fault record (Table 13-6) without its TIME. -/
structure FaultRec where
  detail : W64 := 0
  unit : Nat := 0
  unitType : Nat := 0
  cls : Nat := 0
  cause : Nat := 0
  status : Byte := 0
  part : Nat := 0xFF
  count : Nat := 0
  detail2 : W64 := 0
  deriving DecidableEq, Repr

/-- A queued emergency message (Table 15-7). -/
structure Emcy where
  eec : Nat
  cls : Nat
  cause : Nat
  part : Nat := 0xFF
  unit : Nat := 0
  index : W32 := 0xFFFFFFFF
  deriving DecidableEq, Repr

/-- A lane being copied to a new home (R220). -/
structure LaneCopy where
  tierD : Bool
  region : Nat
  lane : Nat
  chan : Nat
  slot : Nat
  deriving DecidableEq, Repr

/-- Fault, retirement and repair state (chapter 13). -/
structure FaultState where
  log : SMap (Nat × FaultRec) := []
  next : Nat := 0
  /-- transient ticks by site number, newest first (R326) -/
  transients : SMap (List Nat) := []
  retiredCores : List Nat := []
  retiredOptics : List Nat := []
  retiredPositions : List Nat := []
  retiredH : List Nat := []
  retiredD : List Nat := []
  withdrawnH : List Nat := []
  withdrawnD : List Nat := []
  lanesH : SMap (Nat × Nat) := []
  lanesD : SMap (Nat × Nat) := []
  copies : List LaneCopy := []
  deriving DecidableEq, Repr

/-! ## Management: house manager, dictionary, CAN, store -/

/-- A mailbox (Table 15-4), with its claim (R384). -/
structure Mailbox where
  target : W64 := 0
  length : W64 := 0
  seq : W32 := 0
  abort : W32 := 0
  count : W32 := 0
  size : W32 := 0
  state : Nat := 0
  data : SMap Byte := []
  claim : Option (BitVec 12) := none
  deriving DecidableEq, Repr

/-- NMT states (Table 15-5). -/
inductive Nmt where
  | preOperational | operational | stopped
  deriving DecidableEq, Repr

/-- A segmented USDO transfer in progress (R385). -/
structure Usdo where
  write : Bool
  addr : OdAddr
  data : List Byte
  deriving DecidableEq, Repr

/-- The CAN FD node and its emergency queue (R388 to R392). -/
structure Can where
  nmt : Nmt := .preOperational
  usdo : Option Usdo := none
  queue : List Emcy := []
  history : List W32 := []
  busOffRecent : Bool := false
  /-- a boot-up message follows the restart in progress (Table 15-5) -/
  bootDue : Bool := false
  /-- CAN_DATA_RATE in force -/
  rate : Nat := 2
  /-- the EMCY inhibit time runs (R391) -/
  inhibited : Bool := false
  errorReg : Byte := 0
  deriving DecidableEq, Repr

/-- What RECORDS keeps of retirements and switch-ins (R327, R257): sites in the order they were retired. -/
structure Retired where
  cores : List Nat := []
  optics : List Nat := []
  positions : List Nat := []
  channels : List Nat := []
  subchannels : List Nat := []
  switchIns : List SwitchIn := []
  deriving DecidableEq, Repr

/-- One store bank as the boot ROM and house manager see it (Tables 16-1, 16-2). -/
structure Bank where
  valid : Bool := true
  /-- its RECORDS section matches the header's hash (R406) -/
  recordsOk : Bool := true
  seq : W64 := 0
  failedStarts : Nat := 0
  ghostRequest : Bool := false
  hm : List Byte := []
  /-- the HM image has not failed the test of R407 since it was written -/
  hmOk : Bool := true
  fly : List Byte := []
  ownerKeys : List (BitVec 256) := [0, 0, 0, 0]
  ownerGen : W64 := 0
  puf : Bool := true
  /-- persisted dictionary objects, by dictionary byte key (R387) -/
  objects : SMap Byte := []
  /-- retirement lists and switch-in records -/
  lists : Retired := {}
  /-- groups of persistent entries saved: bit 0 communication, bit 1 device; and the node identifier then in force, which
  the defaults of the communication group depend on -/
  savedGroups : Nat := 0
  savedNode : BitVec 7 := 0
  deriving DecidableEq, Repr

/-- A change to the store that waits for or runs in a bank write (R398, R399). -/
inductive StoreJob where
  | records
  | save (sub : Nat)
  | restore (sub : Nat)
  | image
  | owner (slot : Nat) (hash : BitVec 256)
  | countUp
  | countZero (reset : Bool)
  | ghost
  | ghostClear
  deriving DecidableEq, Repr

/-- The store, its commands, attestation and start-up (chapter 16). -/
structure Store where
  bank0 : Bank := {}
  bank1 : Bank := { seq := 0, valid := false }
  /-- bank the package booted from, and its SEQ then -/
  boot : Nat := 0
  bootSeq : W64 := 0
  /-- STORE_STATE, STORE_RESULT -/
  state : Nat := 0
  result : W32 := 0
  jobs : List StoreJob := []
  /-- the change whose bank write runs -/
  writing : Option StoreJob := none
  /-- emergencies that wait for a bank write, and those that follow the one that runs (R327, R399) -/
  emcyDue : List Emcy := []
  emcyNext : List Emcy := []
  stagingType : Nat := 0
  staging : SMap Byte := []
  attest : Nat := 0
  nonce : List Byte := []
  report : List Byte := []
  /-- VERSION of the running house-manager image, and SHA3-256 of its signed part -/
  hmVersion : W32 := 0
  hmHash : BitVec 256 := 0
  /-- VERSION and SHA3-256 of the signed part of each engine's microcode -/
  ucode : SMap (W32 × BitVec 256) := []
  ucodeMask : Nat := 0
  ucodeImage : List Byte := []
  romRecovery : Bool := false
  identityOk : Bool := false
  deriving DecidableEq, Repr

/-- A dictionary access that is ready and waits for the house manager to serve (R344, R382): a mailbox command with its OP,
or a USDO access. -/
inductive Ready where
  | mbx (m op : Nat)
  | usdo (write : Bool) (x : OdAddr) (d : List Byte) (segmented : Bool)
  deriving DecidableEq, Repr

/-- The house manager and the package's standing (R402 to R405). -/
structure House where
  /-- accesses that wait while it restarts, in order -/
  ready : List Ready := []
  deviceState : Nat := 0
  ghostReason : Nat := 0
  haltCause : Nat := 0
  started : Bool := false
  running : Bool := false
  restarting : Bool := false
  spreadNow : Nat := 0
  curtainFault : W64 := 0
  modules : List Nat := []
  /-- placement record in force since the start (R250, R279) -/
  placement : W32 := 0
  nodeId : BitVec 7 := 0
  trayPos : BitVec 2 := 0
  deriving DecidableEq, Repr

/-- The pins of Table 18-3 that hold a level. -/
structure Pins where
  mgmtRst : Bool := false
  refclk : Bool := true
  pkgReady : Bool := false
  thermTrip : Bool := false
  laserOk : BitVec 6 := 0b111111
  laserReq : BitVec 24 := 0
  deriving DecidableEq, Repr

/-- A function's page and MSI-X bits (Tables 17-5, R420). -/
structure HostFn where
  aperture : W64 := 0
  faultAddr : W64 := 0
  faultStatus : Byte := 0
  /-- vectors unmasked, vectors pending -/
  unmasked : List Nat := []
  pendingVec : List Nat := []
  deriving DecidableEq, Repr

/-- An error the package reports under AER (Table 17-6): a refused or failed BAR4 access, a failed ring access, which ends as its
cause says, or the end of a BAR4 read in a halt. -/
inductive AerError where
  | unsupportedRequest
  | ring (cause : RingCause)
  | internal
  deriving DecidableEq, Repr

/-- An output of the package, as it leaves (the model's own record of what is sent). -/
inductive Out where
  | request (op : Nat) (r : FabReq)
  | response (src : BitVec 12) (seq : W32) (op : Nat) (status : Byte) (body : List Byte)
  | nak (port : Nat) (seq : Nat)
  | e2eNak (src : BitVec 12) (expect : Nat)
  | coherence (die : Nat) (line : Nat) (ack : Bool)
  /-- the identity record sent while a port trains (R247) -/
  | identity (port : Nat) (own : Identity)
  /-- the status an append completes with (R169) -/
  | kvDone (ref : W64) (st : Byte)
  | can (kind : Nat) (bytes : List Byte)
  | msix (f vec : Nat)
  | hostWrite (addr : W64) (bytes : List Byte)
  | completion (f : Nat) (ok : Bool) (bytes : List Byte)
  | atsDone (f : Nat)
  /-- an error report of a function (R423) -/
  | aer (f : Nat) (e : AerError)
  /-- a broadcast voltage write on an AVSBus interface (R430) -/
  | avs (iface mv : Nat)
  deriving DecidableEq, Repr

/-! ## Counters -/

/-- The 64-bit counters the dictionary, the queues and the function pages report, by name; each is kept per unit. -/
inductive CtrName where
  -- package
  | corrected | transients | permanents | partitionFatal | replays | replayedTasks | replayHolds | bookFullWaits
  | logFullWaits | emcyDropped | nwFlags | encores | encoreUnresolved | encoreNotRun | nwRebases | nwStops
  | scriptTraps | scriptHolds | fctxRefusals | dupRequests | dupAtomics | e2eResends | atomicWaits | switchIns
  | collectives | collTimeouts | mergePartials | dispatches | preemptions | standinSwitches | deadlineMisses
  | budgetRefusals | partitionResets | cuesIgnored | coolantStops | mbxIgnored | scopeRefusals | aborts
  | curtainRefusals | commitGen | busOffs | errorFrames | usdoAborts | usdoTimeouts
  -- per core
  | tsCollisions | rehearsalCycles | sfeEvals | sfBelow | sfAbove | sfFlushed | tableLoads | tableLoadFails
  -- per array (2 × core + array)
  | rowCycles | planeCycles | zeroPlanes | alignZeroed | nanBlocks | fusedSlices | combOvf | poisonTiles | lateTile
  | headerWait | gated | leadWait | ownerWait
  -- per partition
  | engineTime | vclock | ttftMisses | tbtMisses | lateNoSwitch | staleTasks | intermissionSkips | saveFull
  | kvAppends | vtileRewrites | pagesOpened | pageCopies | handlePublishes | handleMaps | handleMisses | splitMerges
  | emptyParts | failedMerges | specTrees | specNodes | specAccepted
  | calls | offered | chosen | spilled | unchosen | sharedOnly | nanScores | emptySlots | rounds | biasClamps
  | mapMismatch | dupSegments | castTimeouts
  | tilesPlaced | bytesH | bytesD | bytesF | bytesL | lateTiles | destWait | cancelledTiles | droppedHints
  | checkFails | mergeRefusals | tagFails | poisonedEntries | encoreMerges | replayRefetch | quotaRefusals
  | keyRejects | cueRefused
  -- per port
  | cwCorrected | cwUncorrected | flitRetries | retrains | creditWait
  -- per queue (QUEUE code) and per function
  | doorbellErrors | cqFullWaits | fnDoorbellErrors | fnCqFullWaits | bar4Refusals
  deriving DecidableEq, Repr

/-! ## The whole -/

/-- The package's counts of time (R3, R58, R296). -/
structure Clock where
  /-- CLK_A cycles -/
  cycle : Nat := 0
  /-- reference ticks of 10 ns since package reset -/
  ticks : Nat := 0
  /-- part of a tick passed, in units of 1 / CLK_A MHz -/
  part : Nat := 0
  deriving DecidableEq, Repr

/-- The state of the block. -/
structure State where
  /-- commands waiting, first in first out -/
  pending : List Instr := []
  clk : Clock := {}
  /-- local memory: tiers, pinned windows, tile stores. An unlisted byte reads 0. -/
  mem : SMap Byte := []
  /-- 64-byte lines that hold an uncorrectable error, by line number (R220) -/
  poison : SMap Unit := []
  /-- lines of tile stores written since the last cycle: by line, the input (0 own network, 1 Z0, 2 Z1), address and bytes of each
  write, in order (R20) -/
  tileWrites : SMap (List (Nat × Nat × List Byte)) := []
  /-- lines of other packages held in die caches: key die × 2^58 + global line number (R36, R37) -/
  lines : SMap W512 := []
  threads : SMap Thread := []
  cores : SMap Core := []
  arrays : SMap ArrayUnit := []
  /-- next acceptance number, next dispatch number -/
  nextNo : Nat := 0
  nextDseq : Nat := 0
  entries : SMap Entry := []
  tasks : SMap Task := []
  queues : SMap Queue := []
  parts : SMap Part := []
  requests : SMap Request := []
  customers : SMap Customer := []
  ctxs : SMap W512 := []
  ctxExtra : SMap CtxExtra := []
  allocs : SMap Alloc := []
  objects : SMap Object := []
  keys : SMap KeySlot := []
  fills : SMap Entry := []
  fab : Fabric := {}
  dim : Dimmer := {}
  therm : Thermal := {}
  faults : FaultState := {}
  /-- committed dictionary bytes that differ from their defaults, and the wings (R375, R377) -/
  od : SMap Byte := []
  wings : SMap Byte := []
  /-- entries a wing holds, by index × 256 + sub -/
  wingEntries : SMap Unit := []
  mailboxes : SMap Mailbox := []
  can : Can := {}
  store : Store := {}
  house : House := {}
  pins : Pins := {}
  hostFns : SMap HostFn := []
  numVfs : Nat := 0
  counters : SMap W64 := []
  outbox : List Out := []
  /-- the model's own draw counter for free values; no field of the spec -/
  draws : Nat := 0
  deriving DecidableEq, Repr

/-- Reasons a step stops with a fault: there is none. Every failure the spec describes is a next state of the block (an
exception, a status, an abort code, a partition reset, a halt), so the type has no constructor. Safe. -/
inductive Fault where
  deriving DecidableEq, Repr

/-- Reasons a command is refused: only that it has no meaning yet. Safe. -/
inductive Refusal where
  | notModelled (mnemonic : String)
  deriving DecidableEq, Repr

/-- The block right after reset: every field at its reset value, nothing waiting. -/
def State.reset : State := {}

end Sys2Proof.Machine
end

