-- ==== Sys2Proof/Machine/Ops.lean ====
section
/-! DEFINITION. The named readings and updates of State that every meaning uses: statuses, counters, the units by
number, the committed settings of the dictionary, and memory by byte. -/

namespace Sys2Proof.Machine

open Sys2Proof

/-- The outcome of a command. -/
abbrev Result := Host.Outcome State Fault Refusal

/-! ## Status codes (Table 00-3) -/

/-- OK. -/
def stOk : Byte := 0x00
/-- OK_REPLAYED. -/
def stReplayed : Byte := 0x01
/-- OK_STANDIN. -/
def stStandin : Byte := 0x02
/-- OK_ENCORE. -/
def stEncore : Byte := 0x03
/-- POISON. -/
def stPoison : Byte := 0x10
/-- TARGET_LOST. -/
def stLost : Byte := 0x11
/-- CONTEXT_LOST. -/
def stCtxLost : Byte := 0x12
/-- QUOTA. -/
def stQuota : Byte := 0x13
/-- BUDGET. -/
def stBudget : Byte := 0x14
/-- DENIED. -/
def stDenied : Byte := 0x15
/-- SCRIPT_TRAP. -/
def stScript : Byte := 0x16
/-- PARTITION_RESET. -/
def stReset : Byte := 0x1F

/-- Precedence of a status: the lower one is reported (R9, Table 00-3). A code outside the table ranks last. -/
def statusRank (b : Byte) : Nat :=
  match b.toNat with
  | 0x1F => 1 | 0x11 => 2 | 0x12 => 3 | 0x15 => 4 | 0x16 => 5 | 0x13 => 6 | 0x14 => 7 | 0x10 => 8
  | 0x02 => 9 | 0x03 => 10 | 0x01 => 11 | 0x00 => 12
  | _ => 13

/-- The R9 choice of two statuses. -/
def worst (a b : Byte) : Byte := if statusRank b < statusRank a then b else a

/-- Whether a status reports failure (R8). -/
def failing (b : Byte) : Bool := decide (0x10 ≤ b.toNat)

/-- Whether a byte is a code of Table 00-3 (R10). -/
def knownStatus (b : Byte) : Bool := decide (statusRank b < 13)

/-! ## Counters -/

/-- Key of a counter of a unit. -/
def ctrKey (c : CtrName) (unit : Nat) : Nat := c.ctorIdx * 2 ^ 20 + unit

/-- A counter's value. -/
def State.ctr (s : State) (c : CtrName) (unit : Nat := 0) : W64 := SMap.get 0#64 s.counters (ctrKey c unit)

/-- Adds to a counter; 64-bit counters wrap to zero. -/
def State.count (s : State) (c : CtrName) (unit : Nat := 0) (n : Nat := 1) : State :=
  { s with counters := SMap.set 0#64 s.counters (ctrKey c unit) (s.ctr c unit + BitVec.ofNat 64 n) }

/-- Sets a counter. -/
def State.setCtr (s : State) (c : CtrName) (unit : Nat) (v : W64) : State :=
  { s with counters := SMap.set 0#64 s.counters (ctrKey c unit) v }

/-- Adds one to a 32-bit counter that saturates. -/
def satInc (v : W32) (n : Nat := 1) : W32 := BitVec.ofNat 32 (min 0xFFFFFFFF (v.toNat + n))

/-! ## Units -/

/-- Key of a thread slot. -/
def tidKey (t : Tid) : Nat := t.core.val * 64 + t.slot.val

/-- Key of an array. -/
def arrKey (a : ArrRef) : Nat := a.core.val * 2 + a.arr.val

/-- QUEUE of Table 17-4. -/
def qCode : QRef → Nat
  | .host p n => 0x8000 + p.val * 128 + n.val
  | .dev p q => p.val * 128 + q.val

/-- The partition a queue serves. -/
def qPart : QRef → Nat
  | .host p _ => p.val
  | .dev p _ => p.val

/-- Whether a queue is a host queue. -/
def qIsHost : QRef → Bool
  | .host _ _ => true
  | .dev _ _ => false

/-- A thread slot in use. -/
def State.thread? (s : State) (t : Tid) : Option Thread := SMap.find? (tidKey t) s.threads
/-- Replaces a thread. -/
def State.setThread (s : State) (t : Tid) (x : Thread) : State := { s with threads := SMap.put (tidKey t) x s.threads }
/-- A core. -/
def State.core (s : State) (k : Nat) : Core := SMap.get {} s.cores k
/-- Replaces a core. -/
def State.setCore (s : State) (k : Nat) (x : Core) : State := { s with cores := SMap.put k x s.cores }
/-- An array, by key. -/
def State.array (s : State) (k : Nat) : ArrayUnit := SMap.get {} s.arrays k
/-- Replaces an array. -/
def State.setArray (s : State) (k : Nat) (x : ArrayUnit) : State := { s with arrays := SMap.put k x s.arrays }
/-- A task. -/
def State.task? (s : State) (k : Nat) : Option Task := SMap.find? k s.tasks
/-- Replaces a task. -/
def State.setTask (s : State) (k : Nat) (x : Task) : State := { s with tasks := SMap.put k x s.tasks }
/-- A partition. -/
def State.part (s : State) (p : Nat) : Part := SMap.get {} s.parts p
/-- Replaces a partition. -/
def State.setPart (s : State) (p : Nat) (x : Part) : State := { s with parts := SMap.put p x s.parts }
/-- Changes a partition. -/
def State.modPart (s : State) (p : Nat) (f : Part → Part) : State := s.setPart p (f (s.part p))
/-- A queue, by QUEUE code. -/
def State.queue (s : State) (c : Nat) : Queue := SMap.get {} s.queues c
/-- Replaces a queue. -/
def State.setQueue (s : State) (c : Nat) (x : Queue) : State := { s with queues := SMap.put c x s.queues }
/-- A port. -/
def State.port (s : State) (n : Nat) : Port := SMap.get {} s.fab.ports n
/-- Replaces a port. -/
def State.setPort (s : State) (n : Nat) (x : Port) : State :=
  { s with fab := { s.fab with ports := SMap.put n x s.fab.ports } }
/-- What is kept for a peer. -/
def State.peer (s : State) (c : BitVec 12) : Peer := SMap.get {} s.fab.peers c.toNat
/-- Replaces what is kept for a peer. -/
def State.setPeer (s : State) (c : BitVec 12) (x : Peer) : State :=
  { s with fab := { s.fab with peers := SMap.put c.toNat x s.fab.peers } }
/-- A mailbox. -/
def State.mailbox (s : State) (m : Nat) : Mailbox := SMap.get {} s.mailboxes m
/-- Replaces a mailbox. -/
def State.setMailbox (s : State) (m : Nat) (x : Mailbox) : State := { s with mailboxes := SMap.put m x s.mailboxes }
/-- A function's page (0 the PF, p + 1 a VF). -/
def State.hostFn (s : State) (f : Nat) : HostFn := SMap.get {} s.hostFns f
/-- Replaces a function's page. -/
def State.setHostFn (s : State) (f : Nat) (x : HostFn) : State := { s with hostFns := SMap.put f x s.hostFns }
/-- A customer. -/
def State.customer (s : State) (c : Nat) : Customer := SMap.get {} s.customers c
/-- Replaces a customer. -/
def State.setCustomer (s : State) (c : Nat) (x : Customer) : State :=
  { s with customers := SMap.put c x s.customers }
/-- Appends an output. -/
def State.send (s : State) (o : Out) : State := { s with outbox := s.outbox ++ [o] }

/-- CLK_A frequency of the current dimmer step, MHz. -/
def State.mhz (s : State) : Nat := (Config.dimStep s.dim.freqStep).mhz

/-- Draws the next free word: a value the spec leaves open. -/
def State.draw (s : State) : W64 × State := (Config.freeWord s.draws, { s with draws := s.draws + 1 })

/-! ## Committed settings (chapter 15) -/

/-- A byte of a committed setting. -/
def State.cfgByte (s : State) (idx sub off : Nat) : Byte :=
  SMap.get (odDefault s.house.nodeId.toNat idx sub off) s.od (odKey idx sub off)

/-- n bytes of a committed setting as a number. -/
def State.cfgNum (s : State) (idx sub off n : Nat) : Nat := leNat ((List.range n).map fun i => s.cfgByte idx sub (off + i))

/-- Writes a byte of a committed setting. -/
def State.setCfgByte (s : State) (idx sub off : Nat) (b : Byte) : State :=
  { s with od := SMap.set (odDefault s.house.nodeId.toNat idx sub off) s.od (odKey idx sub off) b }

/-- Writes bytes of a committed setting. -/
def State.setCfg (s : State) (idx sub off : Nat) : List Byte → State
  | [] => s
  | b :: bs => (s.setCfgByte idx sub off b).setCfg idx sub (off + 1) bs

/-- The partition record (Table 11-9). -/
def State.partRec (s : State) (p : Nat) : W512 := BitVec.ofNat 512 (s.cfgNum (0x3000 + p) 1 0 64)
/-- CORESET of a partition. -/
def State.coreset (s : State) (p : Nat) : BitVec 256 := BitVec.ofNat 256 (fld (s.partRec p) 511 256)
/-- SHARES of a partition. -/
def State.shares (s : State) (p : Nat) : Nat := fld (s.partRec p) 95 80
/-- The quota record (Table 09-3). -/
def State.quotaRec (s : State) (p : Nat) : BitVec 256 := BitVec.ofNat 256 (s.cfgNum 0x2310 (p + 1) 0 32)
/-- The tile-store part of a partition: first byte and length within a core's tile store (R223). -/
def State.tsPart (s : State) (p : Nat) : Nat × Nat :=
  let q := s.quotaRec p
  (fld q 143 136 * 0x10000, fld q 135 128 * 0x10000)
/-- PINNED_MIB. -/
def State.pinnedMib (s : State) : Nat := s.cfgNum 0x2300 7 0 1
/-- The fabric context header (Table 10-8). -/
def State.fctx (s : State) (p : Nat) : W512 := BitVec.ofNat 512 (s.cfgNum 0x2410 (p + 1) 0 64)
/-- A fabric window entry (Table 10-9). -/
def State.fwin (s : State) (p w : Nat) : BitVec 256 := BitVec.ofNat 256 (s.cfgNum 0x2410 (p + 1) (64 + 32 * w) 32)
/-- JOB_ID of a partition's fabric context. -/
def State.jobId (s : State) (p : Nat) : Nat := fld (s.fctx p) 383 368
/-- The placement record (Table 10-12). -/
def State.placement (s : State) : W32 := BitVec.ofNat 32 (s.cfgNum 0x2402 1 0 4)
/-- The SCRIPTED value in effect for a partition's current step (R310). -/
def State.scripted (s : State) (p : Nat) : Bool := (s.part p).scripted
/-- SCRIPTED as committed for the package (0x2800:01). -/
def State.scriptedCfg (s : State) : Bool := s.cfgNum 0x2800 1 0 1 % 2 == 1

/-! ## Memory by byte -/

/-- The byte at a local address; an unlisted byte reads 0. -/
def State.byte (s : State) (a : Nat) : Byte := SMap.get 0#8 s.mem a

/-- n bytes from a local address. -/
def State.bytes (s : State) (a n : Nat) : List Byte := (List.range n).map fun i => s.byte (a + i)

/-- n bytes from a local address as a little-endian number (R4). -/
def State.num (s : State) (a n : Nat) : Nat := leNat (s.bytes a n)

/-- A 64-byte word of memory. -/
def State.word512 (s : State) (a : Nat) : W512 := BitVec.ofNat 512 (s.num a 64)

/-- Writes bytes at a local address. -/
def memPut (m : SMap Byte) (a : Nat) : List Byte → SMap Byte
  | [] => m
  | b :: bs => memPut (SMap.set 0#8 m a b) (a + 1) bs

/-- The poisoned lines left after n bytes are written at a: a full 64-byte store replaces a poisoned line (R220). -/
def unpoison (ps : SMap Unit) (a n : Nat) : SMap Unit :=
  SMap.keep (fun l _ => !inside (l * 64) 64 a n) ps

/-- The inputs of a tile store (R20): the die's own network, the link from Z0, the link from Z1. -/
def inputOwn : Nat := 0
/-- The input of the Zwiune die that holds fly engine e, 0 to 7 on Z0 and 8 to 15 on Z1 (Table 01-1, R20). -/
def inputOfEngine (e : Nat) : Nat := if e < 8 then 1 else 2
/-- The input of the Zwiune die that holds port n, 0 to 11 on Z0 and 12 to 23 on Z1 (Table 01-3, R20). -/
def inputOfPort (n : Nat) : Nat := if n < 12 then 1 else 2

/-- The pieces of a write by 64-byte line: address and bytes. -/
def linePieces (a : Nat) (bs : List Byte) : List (Nat × List Byte) :=
  let f := 64 - a % 64
  (a, bs.take f) :: (chunks 64 (bs.drop f)).zipIdx.map fun e => (a + f + 64 * e.2, e.1)

/-- Notes a write through an input of a tile store, by line (R20). -/
def noteTile (m : SMap (List (Nat × Nat × List Byte))) (a : Nat) (bs : List Byte) (input : Nat) :
    SMap (List (Nat × Nat × List Byte)) :=
  if bs.length = 0 ∨ a + bs.length ≤ 0x31000000000 ∨ 0x31040000000 ≤ a then m
  else (linePieces a bs).foldl (fun m e => SMap.put (e.1 / 64) (SMap.get [] m (e.1 / 64) ++ [(input, e.1, e.2)]) m) m

/-- Stores bytes at a local address; in a tile store they come in through one of its inputs. -/
def State.writeMem (s : State) (a : Nat) (bs : List Byte) (input : Nat := inputOwn) : State :=
  { s with mem := memPut s.mem a bs, poison := unpoison s.poison a bs.length
           tileWrites := noteTile s.tileWrites a bs input }

/-- Stores (address, bytes) pieces in order. -/
def State.writeAll (s : State) (ps : List (Nat × List Byte)) : State := ps.foldl (fun s p => s.writeMem p.1 p.2) s

/-- Whether a line of [a, a+n) holds an uncorrectable error. -/
def State.poisoned (s : State) (a n : Nat) : Bool :=
  decide (0 < n) && s.poison.any fun e => overlap (e.1 * 64) 64 a n

/-- First poisoned line of [a, a+n), by address. -/
def State.poisonAt (s : State) (a n : Nat) : Option Nat :=
  ((s.poison.filter fun e => decide (0 < n) && overlap (e.1 * 64) 64 a n).map fun e => e.1 * 64).head?

/-- Marks a 64-byte line as holding an uncorrectable error. -/
def State.addPoison (s : State) (line : Nat) : State := { s with poison := SMap.put line () s.poison }

end Sys2Proof.Machine
end

