-- ==== Sys2Proof/Machine/Layouts.lean ====
section
/-! DEFINITION. The fields of the array commands (Tables 04-2 to 04-4) and of the task descriptor (Table 11-2), and the
extents they name. -/

namespace Sys2Proof.Machine

open Sys2Proof

/-! ## Array commands -/

/-- TYPE of an array command. -/
def cmdType (w : W512) : Nat := fld w 3 0

/-- Element format of an AFMT code and whether it carries block scales (Table 04-1); none for a reserved code. -/
def afmt (c : Nat) : Option (ElemFmt × Bool) :=
  match c with
  | 0 => some (.e4m3, false) | 1 => some (.e5m2, false) | 2 => some (.e4m3, true) | 3 => some (.e5m2, true)
  | 4 => some (.e3m2, true) | 5 => some (.e2m3, true) | 6 => some (.e2m1, true)
  | 7 => some (.int 8 (-6), true) | 8 => some (.int 8 0, false) | 9 => some (.bf16, false)
  | _ => none

/-- T of a LOAD. -/
def loadT (w : W512) : Nat := fld w 38 32 + 1
/-- KV of a LOAD. -/
def loadKv (w : W512) : Nat := fld w 47 40 + 1
/-- Bytes of one source row of a LOAD (R88). -/
def loadRowLen (w : W512) : Nat :=
  match afmt (fld w 7 4) with
  | some (f, _) => ceilDiv (loadT w * f.width) 8
  | none => 0
/-- Source extent of a LOAD: first address and length. -/
def loadSrcExt (w : W512) : Nat × Nat := (fld w 127 64, (loadKv w - 1) * fld w 63 48 + loadRowLen w)
/-- MX scale extent of a LOAD; length 0 where the format has no scales. The blocks that hold supplied rows are read. -/
def loadScaleExt (w : W512) : Nat × Nat :=
  match afmt (fld w 7 4) with
  | some (_, true) => (fld w 191 128, 128 * (ceilDiv (loadKv w) 32 - 1) + loadT w)
  | _ => (0, 0)

/-- What a LOAD reads, row by row: its source rows, then its rows of scale bytes (R88, R89). -/
def loadReads (w : W512) : List (Nat × Nat) :=
  ((List.range (loadKv w)).map fun r => (fld w 127 64 + r * fld w 63 48, loadRowLen w)) ++
    (if (loadScaleExt w).2 = 0 then []
     else (List.range (ceilDiv (loadKv w) 32)).map fun j => (fld w 191 128 + 128 * j, loadT w))

/-- NT of a STREAM. -/
def streamNt (w : W512) : Nat := fld w 19 16 + 1
/-- Bytes of one output element of a STREAM. -/
def streamE (w : W512) : Nat := if bit w 5 then 2 else 4
/-- Output extent of a STREAM against T columns (R104). -/
def streamOutExt (w : W512) (t : Nat) : Nat × Nat :=
  (fld w 191 128, (64 * streamNt w - 1) * fld w 207 192 + t * streamE w)

/-- Reserved fields and values of a command (Tables 04-2 to 04-4). -/
def cmdFieldsOk (w : W512) : Bool :=
  match cmdType w with
  | 1 =>
    match afmt (fld w 7 4) with
    | none => false
    | some (_, scaled) =>
      zeroFld w 511 192 && zeroFld w 39 39 && zeroFld w 23 9 && decide (fld w 31 24 ≠ 0xFF) &&
      decide (fld w 127 64 % 64 = 0) && decide (fld w 191 128 % 64 = 0) &&
      (scaled || zeroFld w 191 128) &&
      decide (fld w 63 48 ≠ 0) && decide (fld w 63 48 % 64 = 0) && decide (loadRowLen w ≤ fld w 63 48)
  | 2 =>
    zeroFld w 511 208 && zeroFld w 63 20 && zeroFld w 15 12 && zeroFld w 7 6 && decide (fld w 11 8 ≤ 8) &&
    decide (fld w 191 128 % 64 = 0) && decide (fld w 127 64 % 128 = 0) &&
    decide (fld w 207 192 ≠ 0) && decide (fld w 207 192 % 64 = 0) && !(bit w 4 && bit w 5)
  | 3 => zeroFld w 511 4
  | _ => false

/-! ## Task descriptors -/

/-- TYPE. -/
def dType (d : W512) : Nat := fld d 7 0
/-- CODE. -/
def dCode (d : W512) : Nat := fld d 511 448
/-- Code range: first address and length. -/
def dCodeExt (d : W512) : Nat × Nat := (dCode d, fld d 255 232 * 64)
/-- ARG. -/
def dArg (d : W512) : W64 := BitVec.ofNat 64 (fld d 447 384)
/-- RANGES. -/
def dRanges (d : W512) : Nat := fld d 383 320
/-- AUX. -/
def dAux (d : W512) : Nat := fld d 319 256
/-- HANDLER, as an address, when HEN is set. -/
def dHandler (d : W512) : Option Nat := if bit d 130 then some (dCode d + 8 * fld d 231 208) else none
/-- Bytes of tile store allotted. -/
def dTile (d : W512) : Nat := fld d 207 198 * 4096
/-- Threads of the cast. -/
def dThreads (d : W512) : Nat := fld d 197 192 + 1
/-- LAYER. -/
def dLayer (d : W512) : Nat := fld d 191 182
/-- POS. -/
def dPos (d : W512) : Nat := fld d 181 172
/-- WAIT_GATE. -/
def dWaitGate (d : W512) : Nat := fld d 171 160
/-- WAIT_COUNT. -/
def dWaitCount (d : W512) : Nat := fld d 159 144
/-- SIGNAL_GATE when SIGNAL is set. -/
def dSignal (d : W512) : Option Nat := if bit d 131 then some (fld d 143 132) else none
/-- NW. -/
def dNw (d : W512) : Nat := fld d 129 128
/-- NW_INDEX. -/
def dNwIndex (d : W512) : Nat := fld d 127 112
/-- NW_COUNT. -/
def dNwCount (d : W512) : Nat := fld d 111 96
/-- REQ when REQ_EN is set. -/
def dReq (d : W512) : Option Nat := if bit d 83 then some (fld d 95 84) else none
/-- FINAL. -/
def dFinal (d : W512) : Bool := bit d 82
/-- EST. -/
def dEst (d : W512) : Nat := fld d 79 64
/-- SPLIT of an ATTN task. -/
def dSplit (d : W512) : Nat := fld d 63 57
/-- PART of an ATTN task. -/
def dPart (d : W512) : Nat := fld d 56 51
/-- MASK of an ATTN task. -/
def dMask (d : W512) : Nat := fld d 50 49
/-- COLLECT of an ATTN task. -/
def dCollect (d : W512) : Bool := dType d == 0x61 && bit d 48
/-- SLOT of an EXPERT task. -/
def dSlot (d : W512) : Nat := fld d 63 58
/-- Whether a task runs as a cast on a core. -/
def dIsCast (d : W512) : Bool := dType d == 0x60 || dType d == 0x61 || dType d == 0x62

/-! ## Splits (R184, R185) -/

/-- Key of a split: layer, gate and S. -/
def splitKey (d : W512) (gate : Nat) : Nat := (dLayer d * 4096 + gate) * 128 + dSplit d

/-- The split a part or a collector belongs to. -/
def splitOf (d : W512) : Option Nat :=
  if dType d ≠ 0x61 then none
  else if dCollect d then some (splitKey d (dWaitGate d))
  else (dSignal d).map (splitKey d)

/-! ## Sizes of a call (Table 08-3, R202) -/

/-- Score stride SSTR (Table 08-3). -/
def castSstr (e : Nat) : Nat := 64 * ceilDiv (4 * e) 64
/-- Owner-list size OSZ (R202). -/
def castOsz (c : Nat) : Nat := 64 * ceilDiv (8 + 8 * c) 64

/-! ## Casting calls (Tables 08-2 and 08-3) -/

/-- Routed experts E. -/
def CastCall.experts (c : CastCall) : Nat := fld c.cfg 63 53 + 1
/-- Capacity C. -/
def CastCall.cap (c : CastCall) : Nat := fld c.cfg 52 41 + 1
/-- Token-choice k. -/
def CastCall.k (c : CastCall) : Nat := fld c.cfg 40 38 + 1
/-- MODE: 1 expert choice, 2 token choice. -/
def CastCall.mode (c : CastCall) : Nat := fld c.cfg 33 32
/-- Address of the scores. -/
def CastCall.scores (c : CastCall) : Nat := fld c.word 511 448
/-- Address of the expert map. -/
def CastCall.map (c : CastCall) : Nat := fld c.word 447 384
/-- Address of the owner lists. -/
def CastCall.out (c : CastCall) : Nat := fld c.word 319 256
/-- Address of the assignment table. -/
def CastCall.assign (c : CastCall) : Nat := fld c.word 255 192
/-- Address of the counters. -/
def CastCall.countsAt (c : CastCall) : Nat := fld c.word 191 128
/-- Group size G. -/
def CastCall.group (c : CastCall) : Nat := fld c.word 87 80 + 1
/-- This package's rank. -/
def CastCall.rank (c : CastCall) : Nat := fld c.word 79 72
/-- Layer. -/
def CastCall.layer (c : CastCall) : Nat := fld c.word 71 62
/-- Tokens on this package. -/
def CastCall.tokens (c : CastCall) : Nat := fld c.word 61 45

/-- Bytes of the entries of the assignment table: A_max entries of 8 bytes (R197). -/
def CastCall.assignMax (c : CastCall) : Nat :=
  if c.mode = 1 then c.experts * min c.cap c.tokens else min (c.experts * min c.cap c.tokens) (c.k * c.tokens)

/-- Offset of the assignment entries (R202). -/
def CastCall.assignOff (c : CastCall) : Nat := 64 * ceilDiv (4 * (c.tokens + 1)) 64

/-- Address of bias buffer b (Table 08-3). -/
def CastCall.bias (c : CastCall) (b : Nat) : Nat := fld c.word 383 320 + b % 2 * castSstr (fld c.cfg 63 53 + 1)

/-- Extents a call reads: scores, map, current bias (R197). -/
def CastCall.reads (c : CastCall) : List (Nat × Nat) :=
  [(c.scores, c.tokens * castSstr c.experts), (c.map, 512 + 16 * c.experts), (c.bias c.step, castSstr c.experts)]

/-- Extents a call writes: owner lists, assignment table, counters, next bias (R197). -/
def CastCall.writes (c : CastCall) : List (Nat × Nat) :=
  [(c.out, 64 * castOsz c.cap), (c.assign, c.assignOff + 8 * c.assignMax), (c.countsAt, 16 * c.experts + 64),
    (c.bias (c.step + 1), castSstr c.experts)]

/-! ## Collective descriptors (Table 10-10) -/

/-- SRC. -/
def cSrc (d : W512) : Nat := fld d 511 448
/-- DST. -/
def cDst (d : W512) : Nat := fld d 447 384
/-- AUX. -/
def cAux (d : W512) : Nat := fld d 383 320
/-- COUNT. -/
def cCount (d : W512) : Nat := fld d 319 288
/-- COLL_ID. -/
def cId (d : W512) : W32 := BitVec.ofNat 32 (fld d 287 256)
/-- ROOT. -/
def cRoot (d : W512) : BitVec 12 := BitVec.ofNat 12 (fld d 255 244)
/-- LAYER. -/
def cLayer (d : W512) : Nat := fld d 243 234
/-- KIND. -/
def cKind (d : W512) : Nat := fld d 233 230

/-! ## Contexts -/

/-- Local address of a context's page table and its length (R174). -/
def ctxTableExt (d : W512) : Nat × Nat :=
  (fld d 447 384, 8 * (fld d 319 304 + 1) * (fld d 303 298 + 1) * (fld d 351 336 + 1))
/-- STATE of a context descriptor. -/
def ctxState (d : W512) : Nat := fld d 274 272

end Sys2Proof.Machine
end

