-- ==== Sys2Proof/Machine/Address.lean ====
section
/-! DEFINITION. Addresses: the coordinate of a global address (R27, R28), the local map and what of it is populated
(R30, R31), what a partition reaches (R26), and the ranges that refuse a store (R52 and the rules that refuse as it
does). -/

namespace Sys2Proof.Machine

open Sys2Proof

/-! ## Coordinates -/

/-- Coordinate bits of a global address. -/
def gcoord (a : W64) : BitVec 12 := BitVec.ofNat 12 (fld a 63 52)
/-- LOCAL bits of a global address. -/
def glocal (a : W64) : Nat := fld a 51 0
/-- COORD_X, COORD_Y, COORD_Z. -/
def cx (c : BitVec 12) : Nat := fld c 11 8
/-- COORD_Y. -/
def cy (c : BitVec 12) : Nat := fld c 7 4
/-- COORD_Z. -/
def cz (c : BitVec 12) : Nat := fld c 3 0

/-- The self alias or the package's own logical coordinate (R28 items 1 and 2). -/
def State.isOwn (s : State) (c : BitVec 12) : Bool := c == 0xFFF || s.fab.coord == some c

/-- Route-table entry of a coordinate. -/
def State.route (s : State) (c : BitVec 12) : W64 := SMap.get 0#64 s.fab.routes c.toNat
/-- VALID of a route-table entry. -/
def routeValid (e : W64) : Bool := bit e 63
/-- FOH of a route-table entry. -/
def routeFoh (e : W64) : Bool := bit e 62
/-- TENURE of a route-table entry. -/
def routeTenure (e : W64) : Nat := fld e 61 58
/-- STATE of a route-table entry. -/
def routeState (e : W64) : Nat := fld e 57 56

/-- Whether a coordinate lies in the job block of a partition's fabric context (Table 10-8). -/
def State.inBlock (s : State) (p : Nat) (c : BitVec 12) : Bool :=
  let h := s.fctx p
  decide (fld h 367 364 ≤ cx c) && decide (cx c ≤ fld h 363 360) &&
  decide (fld h 359 356 ≤ cy c) && decide (cy c ≤ fld h 355 352) &&
  decide (fld h 351 348 ≤ cz c) && decide (cz c ≤ fld h 347 344)

/-- FOH_OK of a partition's fabric context. -/
def State.fohOk (s : State) (p : Nat) : Bool := bit (s.fctx p) 343

/-- Where an access of a partition goes (R28). -/
inductive Place where
  /-- this package, at a local address -/
  | here (l : Nat)
  /-- another package -/
  | far (c : BitVec 12)
  /-- refused and counted -/
  | refused
  deriving DecidableEq, Repr

/-- Resolution of a coordinate for a partition (R28, R264). -/
def State.resolve (s : State) (p : Nat) (a : W64) : Place :=
  let c := gcoord a
  if s.isOwn c then .here (glocal a)
  else
    let e := s.route c
    if !routeValid e || s.jobId p == 0 then .refused
    else if s.inBlock p c then .far c
    else if routeFoh e && s.fohOk p then .far c
    else .refused

/-- Counts a refusal of R28. -/
def State.refuseCount (s : State) : State := s.count .fctxRefusals

/-- Two coordinates of one tray (R29). -/
def sameTray (a b : BitVec 12) : Bool := cy a == cy b && cz a == cz b && decide (cx a < 4) && decide (cx b < 4)

/-- Whether a coordinate is in this package's tray. -/
def State.near (s : State) (c : BitVec 12) : Bool :=
  match s.fab.coord with
  | some o => sameTray o c
  | none => false

/-- One order for all addresses an access may name: an own address as the self alias, any other as it stands. -/
def State.gkey (s : State) (a : W64) : Nat :=
  if s.isOwn (gcoord a) then 0xFFF * 2 ^ 52 + glocal a else a.toNat

/-- The same order for a local address. -/
def lkey (l : Nat) : Nat := 0xFFF * 2 ^ 52 + l

/-! ## The local map (R30, Table 02-2) -/

/-- A window of the local map. -/
inductive Window where
  | tierH
  | tierD
  /-- the pinned window of a die -/
  | pinned (die : Nat)
  /-- the tile store of a core -/
  | tile (core : Nat)
  | control
  | reserved
  deriving DecidableEq, Repr

/-- Base of tier D. -/
def baseD : Nat := 0x10000000000
/-- Base of the pinned die-cache windows. -/
def basePin : Nat := 0x30000000000
/-- Base of the tile stores. -/
def baseTile : Nat := 0x31000000000
/-- Base of the control windows. -/
def baseCtl : Nat := 0x32000000000
/-- Base of a core's tile store. -/
def tileBase (k : Nat) : Nat := baseTile + k * 0x400000

/-- The window a local address falls in. -/
def windowOf (l : Nat) : Window :=
  if l < baseD then .tierH
  else if l < basePin then .tierD
  else if l < basePin + 0x20000000 then .pinned ((l - basePin) / 0x8000000)
  else if baseTile ≤ l ∧ l < baseTile + 0x40000000 then .tile ((l - baseTile) / 0x400000)
  else if baseCtl ≤ l ∧ l < baseCtl + 0x10000000 then .control
  else .reserved

/-- Bytes of a tier-H region. -/
def regionH : Nat := 0x80000000
/-- Present subchannels N, from the modules that trained (R14, R218). -/
def State.lanesD (s : State) : Nat := 2 * (s.house.modules.filter (0 < ·)).length
/-- Bytes of a tier-D region. -/
def State.regionD (s : State) : Nat := s.lanesD * 0x4000000
/-- Smallest present module, GiB. -/
def State.leastModule (s : State) : Nat := ((s.house.modules.filter (0 < ·)).min?).getD 0
/-- Tier-D regions before withdrawals (R218). -/
def State.regionsD (s : State) : Nat := s.leastModule * 8

/-- Whether a list of withdrawn regions of a size touches [o, o+n). -/
def touchesRegion (rs : List Nat) (size o n : Nat) : Bool := rs.any fun r => overlap (r * size) size o n

/-- Whether two addresses lie in one window of Table 02-2: the tile stores are one window. -/
def sameWindow : Window → Window → Bool
  | .tile _, .tile _ => true
  | v, w => decide (v = w)

/-- Whether [l, l+n) lies wholly in one window and is populated (R31): of the doorbell window the images of functions 0 to 128
(R415). The fly-engine control window holds no page of any function and is refused by R26. -/
def State.populated (s : State) (l n : Nat) : Bool :=
  decide (0 < n) && sameWindow (windowOf l) (windowOf (l + n - 1)) &&
  match windowOf l with
  | .tierH => decide (l + n ≤ 0xC000000000) && !touchesRegion s.faults.withdrawnH regionH l n
  | .tierD => decide (l - baseD + n ≤ s.regionsD * s.regionD) &&
      !touchesRegion s.faults.withdrawnD s.regionD (l - baseD) n
  | .pinned _ => decide ((l - basePin) % 0x8000000 + n ≤ s.pinnedMib * 0x100000)
  | .tile _ => true
  | .control => decide (l - baseCtl + n ≤ 0x5000000) && !overlap (l - baseCtl) n 0x1810000 0x7F0000
  | .reserved => false

/-- Whether a local range lies in tier H or tier D. -/
def inTiers (l : Nat) : Bool := decide (l < basePin)

/-! ## What a partition reaches (R26) -/

/-- The part of [a, a+n) still uncovered after a range that covers its start. -/
def coverStep (cur : Nat) (r : Nat × Nat) : Nat :=
  if r.1 ≤ cur ∧ cur < r.1 + r.2 then r.1 + r.2 else cur

/-- Whether ranges together cover [a, a+n); the ranges are taken in ascending base. -/
def covers (rs : List (Nat × Nat)) (a n : Nat) : Bool :=
  decide (a + n ≤ (sortBy (fun x y => decide (x.1 ≤ y.1)) rs).foldl coverStep a)

/-- Allocations of a partition. -/
def State.allocsOf (s : State) (p : Nat) : List (Nat × Nat) :=
  (s.allocs.filter fun e => e.2.part == p).map fun e => (e.1, e.2.size)

/-- Whether [l, l+n) lies within a partition's tier-H and tier-D allocations and is populated. -/
def State.inAllocs (s : State) (p l n : Nat) : Bool :=
  inTiers l && s.populated l n && covers (s.allocsOf p) l n

/-- Whether [l, l+n) lies within a partition's tier-H allocations. -/
def State.inAllocsH (s : State) (p l n : Nat) : Bool := decide (l + n ≤ baseD) && s.inAllocs p l n

/-- Whether a core is in a partition's core set. -/
def State.ownsCore (s : State) (p k : Nat) : Bool := (s.coreset p).getLsbD k

/-- Whether [o, o+n) of the control window lies in a page mapped to partition p's function (R26, R281, R383, R415). -/
def ctlPage (p o n : Nat) : Bool :=
  inside o n (p * 0x10000) 0x10000 || inside o n (0x1000000 + (p + 1) * 0x10000) 0x10000 ||
  (List.range 4).any fun d => inside o n (0x4000000 + d * 0x400000 + p * 0x8000) 0x8000

/-- Whether a partition reaches [l, l+n) of this package (R26). -/
def State.reaches (s : State) (p l n : Nat) : Bool :=
  match windowOf l with
  | .tierH => covers (s.allocsOf p) l n
  | .tierD => covers (s.allocsOf p) l n
  | .pinned _ =>
    let q := s.quotaRec p
    inside ((l - basePin) % 0x8000000) n (fld q 127 120 * 0x100000) (fld q 119 112 * 0x100000)
  | .tile k => (List.range ((l + n - 1 - tileBase k) / 0x400000 + 1)).all fun i => s.ownsCore p (k + i)
  | .control => ctlPage p (l - baseCtl) n
  | .reserved => false

/-- Populated and reached. -/
def State.permits (s : State) (p l n : Nat) : Bool := s.populated l n && s.reaches p l n

/-- Whether [l, l+n) lies within a partition's allocations: its ranges of tiers H and D, and its share of a pinned window, which is its
tier-L allocation (R223). -/
def State.inGrant (s : State) (p l n : Nat) : Bool :=
  s.inAllocs p l n || (match windowOf l with | .pinned _ => s.permits p l n | _ => false)

/-! ## Ranges that refuse a store -/

/-- Local extents of a registered object on this package: base part, extension part, tag table (R52, R226). -/
def objectExts (o : W512) : List (Nat × Nat) :=
  let nb := ceilDiv (fld o 255 224 * 4096) 0x400000
  let ne := ceilDiv (fld o 223 192 * 4096) 0x400000
  (if fld o 149 148 = 2 then [] else [(fld o 447 384, fld o 255 224 * 4096)]) ++
  (if fld o 383 320 = 0 ∨ fld o 147 146 = 2 then [] else [(fld o 383 320, fld o 223 192 * 4096)]) ++
  (if bit o 151 then [(fld o 319 256, 16 * (nb + ne))] else [])

/-- Uncommitted tasks of a partition's current step at a position. -/
def State.openAt (s : State) (p pos : Nat) : Bool :=
  s.tasks.any fun e => e.2.part == p && e.2.step == (s.part p).step.toNat && dPos e.2.desc == pos

/-- Whether a position of the selected sheet still holds its objects: it has not committed, or a task of it is
uncommitted (R52, R233, R239). -/
def State.holdsPos (s : State) (p pos : Nat) : Bool :=
  !(s.part p).committedPos.contains pos || s.openAt p pos

/-- The selected sheet of a partition. -/
def State.selSheet (s : State) (p : Nat) : Option Sheet :=
  match (s.part p).selected with
  | some i => SMap.find? i (s.part p).sheets
  | none => none

/-- Extents of the objects a partition's selected sheet holds read-only (R52). -/
def State.sheetGuards (s : State) (p : Nat) : List (Nat × Nat) :=
  match s.selSheet p with
  | none => []
  | some sh =>
    (sh.entries.filter fun e => s.holdsPos p e.pos).flatMap fun e =>
      match SMap.find? (fld e.word 255 192) s.objects with
      | some o => objectExts o.desc
      | none => []

/-- Extents of a loaded sheet's header, layer table and entries (R230). -/
def sheetExts (sh : Sheet) : List (Nat × Nat) :=
  [(sh.header, 64 + 8 * sh.layers.length), (sh.entriesAddr, 32 * sh.entries.length)]

/-- Whether a task's cast is live: on a core with a thread that has not ended, in switch or switched out (R24, R60, R305). -/
def Task.live (t : Task) : Bool :=
  dIsCast t.desc && ((t.phase == .running && !t.castOver) || t.phase == .switchingOut || t.phase == .switchedOut)

/-- Extents held by an array: LOAD sources (R93) and the outputs of queued and running STREAMs (R105). -/
def arrayGuards (a : ArrayUnit) : List (Nat × Nat) :=
  a.guarded ++ a.queue.filterMap fun c => if cmdType c.word = 2 then some (streamOutExt c.word c.cols) else none

/-- What a live or dispatched task holds read-only: its code range (R60), its guards, its tables' sources (R158), and
what the arrays of a switched-out cast hold (R93, R105). -/
def State.taskGuards (s : State) (t : Task) : List (Nat × Nat) :=
  (if t.live then dCodeExt t.desc :: (t.tables.filterMap fun e =>
      if s.isOwn (gcoord e.2.source) then some (glocal e.2.source, 4160) else none) else []) ++
  t.guards ++ t.savedArrays.flatMap fun e => arrayGuards e.2

/-- Extents a partition holds: loaded sheets, selected objects, pools (R177) and the roster (R303). -/
def State.partGuards (s : State) (p : Nat) (x : Part) : List (Nat × Nat) :=
  (x.sheets.flatMap fun e => sheetExts e.2) ++ s.sheetGuards p ++ (x.pools.map fun e => (e.2.base, e.2.size)) ++
  (if x.rosterWritten then [(fld (s.partRec p) 159 96, 512)] else [])

/-- Page tables of the contexts that are not FREE (R174). -/
def State.ctxGuards (s : State) : List (Nat × Nat) :=
  s.ctxs.filterMap fun e => if ctxState e.2 = 0 then none else some (ctxTableExt e.2)

/-- Every local range that refuses a store as R52 lays down. -/
def State.guards (s : State) : List (Nat × Nat) :=
  (s.parts.flatMap fun e => s.partGuards e.1 e.2) ++ (s.tasks.flatMap fun e => s.taskGuards e.2) ++
  (s.arrays.flatMap fun e => arrayGuards e.2) ++ s.ctxGuards

/-- Whether a store to [l, l+n) is refused as R52 refuses one. -/
def State.guarded (s : State) (l n : Nat) : Bool := s.guards.any fun g => overlap g.1 g.2 l n

/-- Whether a local load is allowed to partition p. -/
def State.mayLoad (s : State) (p l n : Nat) : Bool := s.permits p l n
/-- Whether a local store or atomic is allowed to partition p, R25 aside. -/
def State.mayStore (s : State) (p l n : Nat) : Bool := s.permits p l n && !s.guarded l n

/-! ## What a task may write (R25) -/

/-- Whether a task may store to [a, a+n): a declared output range, its allotted tile-store range, or a control window of any
package: the limit is on memory, and such a store writes a register. -/
def State.taskWrites (s : State) (t : Task) (a : W64) (n : Nat) : Bool :=
  windowOf (glocal a) == .control ||
  (t.tsSize ≠ 0 && s.isOwn (gcoord a) && inside (glocal a) n t.tsBase t.tsSize) ||
  covers ((t.ranges.filter (·.out)).map fun r => (s.gkey r.base, r.size)) (s.gkey a) n

/-- Whether what a task b reads gives way to the new run of a task a: a member of its replay, or of its encore, that b
waits for (R138, R336), or a part of the split that b collects (R185). -/
def givesWay (a b : Task) : Bool :=
  a.part == b.part &&
    ((b.dispatched && b.phase == .waiting && ((a.replaying && b.replaying) || (a.encore && b.encore))) ||
      (a.step == b.step && dCollect b.desc && !dCollect a.desc && (splitOf b.desc).isSome && splitOf a.desc == splitOf b.desc))

/-- Whether only inputs that give way to a task stand in the way of its store to [l, l+n), in its declared outputs. -/
def State.mayRewrite (s : State) (t : Task) (l n : Nat) : Bool :=
  covers ((t.ranges.filter (·.out)).map fun r => (s.gkey r.base, r.size)) (lkey l) n &&
    !State.guarded { s with tasks := SMap.mapVals (fun _ b => if givesWay t b then { b with guards := [] } else b) s.tasks } l n

/-- What a task holds read-only to this package's threads and host in other packages: the sources of its tables while its cast lives
(R158), its declared inputs from its dispatch (R284). -/
def State.farGuards (s : State) (t : Task) : List (Nat × Nat) :=
  (if t.live then (t.tables.filter fun e => !s.isOwn (gcoord e.2.source)).map fun e => (s.gkey e.2.source, 4160) else []) ++
  (if t.dispatched then (t.ranges.filter fun r => !r.out && !s.isOwn (gcoord r.base)).map fun r => (s.gkey r.base, r.size) else [])

/-- Whether a store or atomic of a task, or of the host, to [a, a+n) of another package is refused; what gives way to the task's new run
of its declared outputs does not stand in its way. -/
def State.farGuarded (s : State) (t : Option Task) (a : W64) (n : Nat) : Bool :=
  s.tasks.any fun e =>
    !(t.any fun t => givesWay t e.2 && covers ((t.ranges.filter (·.out)).map fun r => (s.gkey r.base, r.size)) (s.gkey a) n) &&
      (s.farGuards e.2).any fun g => overlap g.1 g.2 (s.gkey a) n

/-- Whether a thread of a task may store to or update [l, l+n) of this package, R25 aside. -/
def State.taskMayStore (s : State) (t : Task) (l n : Nat) : Bool :=
  s.mayStore t.part l n || (s.permits t.part l n && s.mayRewrite t l n)

/-! ## Held lines (R220, R336) -/

/-- Whether [l, l+n) touches a lane that is being copied to a new home (R217, R218, R220). -/
def State.copying (s : State) (l n : Nat) : Bool :=
  s.faults.copies.any fun c =>
    if c.tierD then
      let o := l - baseD
      decide (windowOf l = .tierD) && (List.range (n / 4096 + 2)).any fun i =>
        let a := o / 4096 * 4096 + i * 4096
        decide (a < o + n) && decide (a / s.regionD = c.region) && decide (a % s.regionD / 4096 % s.lanesD = c.lane)
    else
      decide (windowOf l = .tierH) && (List.range (n / 1024 + 2)).any fun i =>
        let a := l / 1024 * 1024 + i * 1024
        decide (a < l + n) && decide (a / regionH = c.region) && decide (a % regionH / 1024 % 512 = c.lane)

/-- Whether an access to [a, a+n) of the one address order is held by a replay of which `task` is no member (R336). -/
def State.replayHeld (s : State) (task : Option Nat) (a n : Nat) : Bool :=
  s.tasks.any fun e => e.2.replaying && some e.1 != task &&
    !((match task with | some k => (s.task? k).any (·.replaying) | none => false)) &&
    e.2.outs.any fun r => overlap r.1 r.2 a n

/-- Whether a store that waits for acknowledgements covers a line of [l, l + n). -/
def State.lineWaits (s : State) (l n : Nat) : Bool :=
  s.fab.homeStores.any fun h => h.waits.any fun w => overlap (w.1 * 64) 64 l n

/-- Whether an access to [l, l + n) by a task (none: from outside) must wait (R220, R267, R336). -/
def State.homeHeld (s : State) (task : Option Nat) (l n : Nat) : Bool :=
  s.copying l n || s.replayHeld task (lkey l) n || s.lineWaits l n

/-- Counts an access that a replay holds. -/
def State.countHold (s : State) (task : Option Nat) (l n : Nat) : State :=
  if s.replayHeld task (lkey l) n then s.count .replayHolds else s

end Sys2Proof.Machine
end

