-- ==== Sys2Proof/Machine/Routes.lean ====
section
/-! DEFINITION. Routes (R250 to R252, R256 to R259, R268), the headers and bytes of packets (Table 10-6), and the sending side of
a port: flits, credits, and the flits kept until they are acknowledged (R244, R245). -/

namespace Sys2Proof.Machine

open Sys2Proof

/-! ## Placement (R250, R255, Table 10-12) -/

/-- Physical coordinate of this package: X from TRAY_POS, Y and Z from the placement in force. -/
def State.physCoord (s : State) : BitVec 12 :=
  BitVec.ofNat 12 (s.house.trayPos.toNat * 256 + fld s.house.placement 31 28 * 16 + fld s.house.placement 27 24)
/-- Length of axis 0 X, 1 Y or 2 Z. -/
def State.axisLen (s : State) (ax : Nat) : Nat :=
  if ax = 0 then 4 else if ax = 1 then fld s.house.placement 23 20 + 1 else fld s.house.placement 19 16 + 1
/-- The spare axis: 1 Y, 2 Z. -/
def State.spareAxis (s : State) : Nat := if fld s.house.placement 15 14 = 2 then 2 else 1
/-- ROLE of this package: 0 active, 1 primary understudy, 2 secondary understudy. -/
def State.role (s : State) : Nat := fld s.house.placement 13 12
/-- Position of a coordinate along an axis. -/
def axisPos (c : BitVec 12) (ax : Nat) : Nat := if ax = 0 then cx c else if ax = 1 then cy c else cz c
/-- A coordinate moved to a position along an axis. -/
def axisSet (c : BitVec 12) (ax v : Nat) : BitVec 12 :=
  if ax = 0 then BitVec.ofNat 12 (v % 16 * 256 + cy c * 16 + cz c)
  else if ax = 1 then BitVec.ofNat 12 (cx c * 256 + v % 16 * 16 + cz c)
  else BitVec.ofNat 12 (cx c * 256 + cy c * 16 + v % 16)

/-- First port of a torus direction group: axis and whether it is the + direction (Table 01-3). -/
def groupBase (ax : Nat) (plus : Bool) : Nat := 6 * ax + (if plus then 0 else 3)

/-- The UP ports of a direction group, ascending. -/
def State.groupUp (s : State) (ax : Nat) (plus : Bool) : List Nat :=
  ((List.range 3).map (groupBase ax plus + ·)).filter fun n => (s.port n).phase == .up

/-- PHYS of a route-table entry. -/
def routePhys (e : W64) : BitVec 12 := BitVec.ofNat 12 (fld e 55 44)
/-- USPORT of a route-table entry. -/
def routeUsport (e : W64) : Nat := fld e 43 43

/-- Bounds of the job block of a partition along an axis; house-manager traffic spans every axis. -/
def State.blockAxis (s : State) (p : Option Nat) (ax : Nat) : Nat × Nat :=
  match p with
  | none => (0, s.axisLen ax - 1)
  | some p =>
    let h := s.fctx p
    if ax = 0 then (fld h 367 364, fld h 363 360)
    else if ax = 1 then (fld h 359 356, fld h 355 352) else (fld h 351 348, fld h 347 344)

/-- Whether the block spans an axis in full (R251). -/
def State.spans (s : State) (p : Option Nat) (ax : Nat) : Bool :=
  let b := s.blockAxis p ax
  b.2 + 1 - b.1 == s.axisLen ax

/-- Axes in the order a route takes them: the spare axis last (R252). -/
def State.axisOrder (s : State) : List Nat := (([0, 1, 2] : List Nat).filter (· ≠ s.spareAxis)) ++ [s.spareAxis]

/-- How the next hop along an axis leaves: a port, or the unreachable direction. -/
inductive Hop where
  | port (n : Nat)
  | unreachable (ax : Nat) (plus : Bool)
  deriving DecidableEq, Repr

/-- The port within a working group for a destination: position (X + Y + Z) mod w; collective traffic spreads over the group by
`salt` (R252). -/
def pickPort (ports : List Nat) (dst : BitVec 12) (salt : Nat := 0) : Option Nat :=
  ports[(cx dst + cy dst + cz dst + salt) % ports.length]?

/-- The first hop from this package towards a physical coordinate (R252). -/
def State.hopTo (s : State) (p : Option Nat) (target dst : BitVec 12) (salt : Nat := 0) : Hop :=
  let here := s.physCoord
  match s.axisOrder.find? fun ax => axisPos here ax ≠ axisPos target ax with
  | none => .unreachable 0 true
  | some ax =>
    let n := s.axisLen ax
    let d := (axisPos target ax + n - axisPos here ax) % n
    let spanned := s.spans p ax
    let plus := if spanned then decide (d ≤ n - d) else decide (axisPos here ax < axisPos target ax)
    match pickPort (s.groupUp ax plus) dst salt with
    | some q => .port q
    | none =>
      if spanned then
        match pickPort (s.groupUp ax (!plus)) dst salt with
        | some q => .port q
        | none => .unreachable ax plus
      else .unreachable ax plus

/-- The ring neighbour along S that hands a request over to the understudy of a position: the lower one inside the job block, the
upper one where there is none, and the one outside a block of length 1 (R258). -/
def State.handNeighbour (s : State) (p : Option Nat) (phys : BitVec 12) : BitVec 12 :=
  let ax := s.spareAxis
  let n := s.axisLen ax
  let b := s.blockAxis p ax
  let v := axisPos phys ax
  if s.spans p ax then axisSet phys ax ((v + n - 1) % n)
  else if b.1 < v then axisSet phys ax (v - 1)
  else if v < b.2 then axisSet phys ax (v + 1)
  else axisSet phys ax ((v + n - 1) % n)

/-- Where a route to a coordinate served by an understudy leads: PHYS itself when the last hop is along S, else the neighbour that hands
over (R258). -/
def State.handover (s : State) (p : Option Nat) (phys : BitVec 12) : BitVec 12 :=
  if axisPos s.physCoord s.spareAxis ≠ axisPos phys s.spareAxis then phys else s.handNeighbour p phys

/-- Whether this package is a neighbour of a position along the spare axis with every other axis equal. -/
def State.spareNeighbour (s : State) (phys : BitVec 12) : Bool :=
  let ax := s.spareAxis
  let n := s.axisLen ax
  let d := (axisPos phys ax + n - axisPos s.physCoord ax) % n
  axisSet phys ax 0 == axisSet s.physCoord ax 0 && (d == 1 || d + 1 == n)

/-- A port that is UP, or the direction as unreachable. -/
def State.hopUp (s : State) (n ax : Nat) (plus : Bool) : Hop := if (s.port n).phase == .up then .port n else .unreachable ax plus

/-- Whether every coordinate of this understudy's tray is served by its spare tray, and a coordinate is one of them (R259). -/
def State.trayTaken (s : State) (c dst : BitVec 12) : Bool :=
  sameTray c dst && (List.range 4).all fun x =>
    let e := s.route (axisSet c 0 x)
    routeState e == 2 && routeUsport e + 1 == s.role

/-- The hop of an understudy: the X ring of its spare tray to another coordinate of a tray taken over, the shorter way round, else the
torus port of the ring neighbour that hands over to it (R256, R258, R259). -/
def State.spareHop (s : State) (p : Option Nat) (dst : BitVec 12) : Hop :=
  match s.fab.coord with
  | none => .unreachable 0 true
  | some c =>
    if s.trayTaken c dst && cx dst != cx s.physCoord then
      let d := (cx dst + 4 - cx s.physCoord) % 4
      let n := if d ≤ 2 then 16 else 17
      if (s.port n).phase == .up then .port n else s.hopUp (33 - n) 0 (decide (2 < d))
    else s.hopUp (axisPos (s.handNeighbour p (routePhys (s.route c))) s.spareAxis) s.spareAxis false

/-- The port a request to a coordinate leaves on (R252, R258, R268). -/
def State.firstHop (s : State) (p : Option Nat) (dst : BitVec 12) (salt : Nat := 0) : Hop :=
  let e := s.route dst
  if routeFoh e then
    let n := if (cx dst + cy dst + cz dst) % 2 = 0 then 22 else 23
    let n := if (s.port n).phase == .up then n else 45 - n
    if (s.port n).phase == .up then .port n else .unreachable 3 true
  else if s.role ≠ 0 then s.spareHop p dst
  else
    let phys := routePhys e
    if routeState e = 2 then
      if s.spareNeighbour phys then s.hopUp (18 + routeUsport e) s.spareAxis true
      else s.hopTo p (s.handover p phys) dst salt
    else s.hopTo p phys dst salt

/-! ## Packets (Table 10-6) -/

/-- The header of Table 10-6 from its fields. -/
def packHeader (dst src : BitVec 12) (job : BitVec 16) (cls : BitVec 2) (op : Nat) (st : Byte) (lenM1 : BitVec 12) (l : BitVec 52)
    (seq tag ctag : W32) : BitVec 256 :=
  dst ++ src ++ job ++ cls ++ BitVec.ofNat 8 op ++ st ++ lenM1 ++ l ++ seq ++ tag ++ ctag ++ 0#38

/-- Payload of a segment: a casting segment's header and what follows it (Table 08-4); of a collective's, the spec gives no layout and
this is the model's (DESIGN CHOICE, log 96): COLL_ID, sender, stage, status, position, then the bytes. -/
def segBytes : FabSeg → List Byte
  | .none => []
  | .cast g => bytesLE 64 g.hdr.toNat ++ g.body
  | .coll g => bytesLE 4 g.collId.toNat ++ bytesLE 2 g.sender ++ bytesLE 1 g.stage ++ [g.status] ++ bytesLE 8 g.pos ++ g.body

/-- LEN_M1 of a payload. -/
def lenField (n : Nat) : BitVec 12 := BitVec.ofNat 12 (n - 1)

/-- The bytes of a request: its header and its payload. -/
def reqPacket (op : Nat) (r : FabReq) : List Byte :=
  bytesLE 32 (packHeader r.dst r.src r.jobId r.cls op 0 r.lenM1 r.addr r.seq r.tag r.ctag).toNat ++ r.body ++ segBytes r.seg

/-- The bytes of a response: class 11, its request's OP with bit 7 set, its request's SEQ (R260); LOCAL and the tags are 0 (DESIGN
CHOICE, log 96). -/
def respPacket (dst src : BitVec 12) (job : BitVec 16) (op : Nat) (seq : W32) (st : Byte) (body : List Byte) : List Byte :=
  bytesLE 32 (packHeader dst src job 3 (128 + op % 128) st (lenField body.length) 0 seq 0 0).toNat ++ body

/-- The partition whose committed fabric context alone holds a JOB_ID (R263). -/
def State.jobPart (s : State) (job : BitVec 16) : Option Nat :=
  if job = 0 then none
  else
    match (List.range 128).filter fun p => s.jobId p == job.toNat with
    | [p] => some p
    | _ => none

/-! ## Flits (R244, R245) -/

/-- CRC of a flit: CRC-32 over bits [127:32] of its header and its payload. -/
def flitCrc (h : BitVec 128) (payload : List Byte) : W32 := crc32 (bytesLE 12 (h.toNat / 2 ^ 32) ++ payload)

/-- The payloads a packet is cut into: 304 bytes each, the last filled up with 0 (R243, R260). -/
def flitsOf (bs : List Byte) : List (List Byte) := (chunks 304 bs).map fun b => b ++ List.replicate (304 - b.length) 0

/-- Credits a port holds on a channel; an idle flit takes none. -/
def Port.credit (x : Port) (vc : Nat) : Nat := match vc with | 0 => x.creditReq | 1 => x.creditRsp | 2 => x.creditCc | _ => 1

/-- A credit spent. -/
def Port.spend (x : Port) (vc : Nat) : Port :=
  match vc with
  | 0 => { x with creditReq := x.creditReq - 1 }
  | 1 => { x with creditRsp := x.creditRsp - 1 }
  | 2 => { x with creditCc := x.creditCc - 1 }
  | _ => x

/-- The buffer of a flit that has been taken is free again: its credit goes back with the next flit. -/
def Port.owe (x : Port) (vc : Nat) : Port :=
  match vc with
  | 0 => { x with owedReq := x.owedReq + 1 }
  | 1 => { x with owedRsp := x.owedRsp + 1 }
  | 2 => { x with owedCc := x.owedCc + 1 }
  | _ => x

/-- A flit on the fibre: its ACK names the last flit received in order, its CRC is computed. -/
def Port.wire (x : Port) (h : BitVec 128) (payload : List Byte) : Port :=
  let h := setFld h 115 104 ((x.rxSeq + 4095) % 4096)
  { x with line := x.line ++ [(setFld h 31 0 (flitCrc h payload).toNat, payload)] }

/-- Sends one flit: it takes the next SEQ and the credits due, and is kept until it is acknowledged. -/
def Port.launch (x : Port) (vc : Nat) (nak : Bool) (payload : List Byte) : Port :=
  let h : BitVec 128 := BitVec.ofNat 128 (x.txNext * 2 ^ 116 + (if nak then 2 ^ 103 else 0) + vc * 2 ^ 100 + min 255 x.owedReq * 2 ^ 92 +
    min 255 x.owedRsp * 2 ^ 84 + min 255 x.owedCc * 2 ^ 76)
  let x := (x.spend vc).wire h payload
  { x with
    txNext := (x.txNext + 1) % 4096, unacked := x.unacked ++ [(h, payload)]
    owedReq := x.owedReq - min 255 x.owedReq, owedRsp := x.owedRsp - min 255 x.owedRsp, owedCc := x.owedCc - min 255 x.owedCc }

/-- Flits in flight at most (R245). -/
def flitWindow : Nat := 2048

/-- Sends the flits that the window and the credits of their channels let go, oldest first within a channel: none waits behind another
channel's (R244). -/
def Port.pump : Nat → Port → Port
  | 0, x => x
  | m + 1, x =>
    if flitWindow ≤ x.unacked.length then x
    else
      match x.txQueue.findIdx? fun f => x.credit f.1 != 0 with
      | none => x
      | some i =>
        let f := x.txQueue.getD i (3, [])
        Port.pump m (({ x with txQueue := x.txQueue.eraseIdx i } : Port).launch f.1 false f.2)

/-- Every flit that is not acknowledged is sent again, in order. -/
def Port.resend (x : Port) : Port := x.unacked.foldl (fun x f => x.wire f.1 f.2) x

/-- Takes an ACK: the flits up to and including it are acknowledged. -/
def Port.takeAck (x : Port) (ack : Nat) : Port :=
  match x.unacked.findIdx? fun f => fld f.1 127 116 == ack with
  | some i => { x with unacked := x.unacked.drop (i + 1) }
  | none => x

/-- An idle flit, which carries an ACK or a NAK where nothing else is to be sent. -/
def Port.idle (x : Port) (nak : Bool) : Port :=
  if flitWindow ≤ x.unacked.length then x else x.launch 3 nak (List.replicate 304 0)

/-- A link that has trained afresh: both ends count from 0 with every credit. -/
def Port.afresh (x : Port) : Port :=
  { x with
    rxSeq := 0, acked := 4095, nakSeq := 0, nakRun := 0, creditReq := 64, creditRsp := 64, creditCc := 64
    owedReq := 0, owedRsp := 0, owedCc := 0, txNext := 0, txQueue := [], unacked := [] }

/-- Puts a packet on a channel of a port. -/
def State.portSend (s : State) (n vc : Nat) (bs : List Byte) : State :=
  let x := s.port n
  let x := { x with txQueue := x.txQueue ++ (flitsOf bs).map fun b => (vc, b) }
  s.setPort n (if x.phase == .up then x.pump x.txQueue.length else x)

/-- A request leaves on its port (R260). -/
def State.emit (s : State) (op : Nat) (r : FabReq) : State := (s.send (.request op r)).portSend r.port.val 0 (reqPacket op r)

/-- A response leaves for a coordinate, on its route or on the port given (R252, R260). One with no port to leave on is not sent: its
source asks again (R262). -/
def State.respondTo (s : State) (via : Option Nat) (dst : BitVec 12) (job : BitVec 16) (op : Nat) (seq : W32) (st : Byte)
    (body : List Byte) : State :=
  let s := s.send (.response dst seq op st body)
  match via with
  | some n => s.portSend n 1 (respPacket dst (s.fab.coord.getD 0) job op seq st body)
  | none =>
    match s.firstHop (s.jobPart job) dst with
    | .port n => s.portSend n 1 (respPacket dst (s.fab.coord.getD 0) job op seq st body)
    | .unreachable _ _ => s

/-- Answers a request; a status other than OK is kept for a duplicate (R261). -/
def State.respond (s : State) (op : Nat) (r : FabReq) (st : Byte) (body : List Byte) : State :=
  let p := s.peer r.src
  let s := if st = stOk then s else s.setPeer r.src { p with refused := ((r.seq, st) :: p.refused).take 4096 }
  s.respondTo (if r.jobId = 0 ∧ op = 0x0C then some r.port.val else none) r.src r.jobId op r.seq st body

/-- Sends an end-to-end NAK, which names the SEQ expected (R261). Its form is the model's: a response of no OP (DESIGN CHOICE, log 96). -/
def State.sendNak (s : State) (r : FabReq) (expect : Nat) : State :=
  let s := s.send (.e2eNak r.src expect)
  match s.firstHop (s.jobPart r.jobId) r.src with
  | .port n => s.portSend n 1 (respPacket r.src (s.fab.coord.getD 0) r.jobId 0 (BitVec.ofNat 32 expect) stOk [])
  | .unreachable _ _ => s

/-- Queues a request that may have to wait: a segment or a control message (R262). -/
def State.post (s : State) (p : Option Nat) (op : Nat) (r : FabReq) (kind : PendKind) (task : Option Nat := none) : State :=
  { s with fab := { s.fab with sendq := s.fab.sendq ++ [{ part := p, op := op, req := r, kind := kind, task := task }] } }

/-- Posts a segment to a coordinate as a COLL request, in OC1 (R206, R270), for a task; one sent again holds its record already. -/
def State.postSeg (s : State) (p : Nat) (dst : BitVec 12) (g : FabSeg) (kind : PendKind) (task : Option Nat) : State :=
  s.post (some p) 0x10 { port := 0, dst := dst, src := 0, cls := 1, lenM1 := lenField (segBytes g).length, seg := g } kind task

/-! ## Coherence messages (R267) -/

/-- The bytes of a coherence message, which the spec lays out nowhere (DESIGN CHOICE, log 96): line, die, 1 for an acknowledgement. -/
def cohBytes (die line : Nat) (ack : Bool) : List Byte := bytesLE 8 line ++ bytesLE 1 die ++ [if ack then 1 else 0]

/-- Puts a coherence message on channel 2 of a port: on the X ring, or on the route of R258 where an understudy has part in it. One with
no port that is UP waits for one. -/
def State.cohPort (s : State) (dst : BitVec 12) (die line : Nat) (ack : Bool) : State :=
  match s.firstHop none dst with
  | .port n => s.portSend n 2 (cohBytes die line ack)
  | .unreachable _ _ => { s with fab := { s.fab with cohWait := s.fab.cohWait ++ [(dst, die, line, ack)] } }

/-- Sends a coherence message to a coordinate of the tray. -/
def State.cohSend (s : State) (dst : BitVec 12) (die line : Nat) (ack : Bool) : State :=
  (s.send (.coherence die line ack)).cohPort dst die line ack

/-- Sends on the coherence messages that waited for a port. -/
def State.cohPump (s : State) : State :=
  s.fab.cohWait.foldl (fun s w => s.cohPort w.1 w.2.1 w.2.2.1 w.2.2.2) { s with fab := { s.fab with cohWait := [] } }

end Sys2Proof.Machine
end

