-- ==== Sys2Proof/Machine/FaultOps.lean ====
section
/-! DEFINITION. Reporting: emergencies and the error register (R391, R392), the fault log (R348), transients by site
(R326), message interrupts (R420) and the halt of the package (R330). -/

namespace Sys2Proof.Machine

open Sys2Proof

/-! ## Message interrupts -/

/-- Whether a function exists: the PF always, VF p + 1 while NumVFs ≥ p + 1 (R414). -/
def State.fnExists (s : State) (f : Nat) : Bool := decide (f ≤ s.numVfs)

/-- Sends a vector of a function, or sets its Pending Bit while it is masked (R420). -/
def State.msix (s : State) (f v : Nat) : State :=
  if !s.fnExists f then s
  else
    let h := s.hostFn f
    if h.unmasked.contains v then s.send (.msix f v)
    else s.setHostFn f { h with pendingVec := if h.pendingVec.contains v then h.pendingVec else v :: h.pendingVec }

/-! ## Error register and emergencies -/

/-- Throttle reason n of 0x2A00 (1 CAP, 2 CAP_SLEW, 3 CURRENT, 4 THERMAL_DIE, 5 THERMAL_HBM, 6 DROOP, 7 JOB_LOCK,
8 COOLANT). -/
def State.reason (s : State) (n : Nat) : Reason := SMap.get {} s.dim.reasons n

/-- A bit as a number. -/
def b2n (b : Bool) (k : Nat) : Nat := if b then 2 ^ k else 0

/-- The error register 0x1001 (R392). -/
def State.errorReg (s : State) : Byte :=
  let r := b2n (s.reason 3).binds 1 + b2n ((s.reason 6).binds || s.dim.voltHold.isSome) 2 +
    b2n ((s.reason 4).binds || (s.reason 5).binds || decide (1 ≤ s.therm.coolantState ∧ s.therm.coolantState ≤ 4)) 3 +
    b2n (s.fab.ports.any (fun e => e.2.phase == .held) || s.can.busOffRecent) 4 +
    b2n (s.parts.any (fun e => e.2.phase == .reset) || s.house.deviceState == 3 || s.house.deviceState == 2) 7
  BitVec.ofNat 8 (if r = 0 then 0 else r + 1)

/-- Emergency error code of a cause (Table 15-8, with the extensions of R96, R399 and R428). -/
def causeEec (cause : Nat) : Nat :=
  if [0x03, 0x04, 0x05, 0x0A, 0x0B, 0x0E, 0x0F].contains cause then 0x8100
  else if cause = 0x0D then 0x6000
  else if cause = 0x10 ∨ cause = 0x15 then 0x3200
  else if cause = 0x11 then 0x4200
  else if cause = 0x12 ∨ cause = 0x13 ∨ cause = 0x16 then 0x9000
  else 0x5000

/-- The bytes of an EMCY (R391, Table 15-7). -/
def emcyBytes (e : Emcy) (er : Byte) : List Byte :=
  bytesLE 2 e.eec ++ [er] ++ bytesLE 1 e.cls ++ bytesLE 1 e.cause ++ bytesLE 1 e.part ++ bytesLE 2 e.unit ++
    bytesLE 4 e.index.toNat

/-- Whether the house manager serves: it runs and is not restarting (R344). -/
def State.hmServes (s : State) : Bool := s.house.running && !s.house.restarting

/-- Whether EMCYs may go out now: the house manager serves, the node has an identifier, is not stopped and no inhibit
time runs (R388, R389, R391). -/
def State.emcyFree (s : State) : Bool :=
  s.hmServes && s.house.nodeId != 0#7 && s.can.nmt != .stopped && !s.can.inhibited

/-- Kinds of CAN frames in the outbox: 0 NMT error control, 1 EMCY, 2 TPDO, 3 USDO. -/
def canEmcy : Nat := 1

/-- Sends an EMCY frame; the inhibit time then runs unless INHIBIT_EMCY is 0. -/
def State.emcySend (s : State) (e : Emcy) : State :=
  let s := s.send (.can canEmcy (emcyBytes e s.errorReg))
  { s with can := { s.can with inhibited := decide (s.cfgNum 0x1015 0 0 2 ≠ 0) } }

/-- Raises an EMCY: it enters the history, goes out or waits with up to 64 others, and signals vector 1 of the PF. In the
stopped state, and while bit 31 of COB_ID_EMCY is set, it is not sent (R389, Table 15-9). -/
def State.emcy (s : State) (e : Emcy) : State :=
  let w : W32 := BitVec.ofNat 32 (e.eec + e.cause * 2 ^ 16 + e.cls * 2 ^ 24)
  let s := { s with can := { s.can with history := (w :: s.can.history).take 16 } }
  let s :=
    if (s.hmServes && s.can.nmt == .stopped) || s.cfgByte 0x1014 0 3 ≥ 0x80 then s
    else if s.emcyFree && s.can.queue.isEmpty then s.emcySend e
    else if s.can.queue.length < 64 then { s with can := { s.can with queue := s.can.queue ++ [e] } }
    else s.count .emcyDropped
  s.msix 0 1

/-- Sends queued emergencies while they may go out (R391). -/
def State.emcyDrain : Nat → State → State
  | 0, s => s
  | n + 1, s =>
    if !s.emcyFree then s
    else
      match s.can.queue with
      | [] => s
      | e :: es => (({ s with can := { s.can with queue := es } }).emcySend e).emcyDrain n

/-- Sends what may be sent of the queue. -/
def State.emcyGo (s : State) : State := s.emcyDrain s.can.queue.length

/-- Recomputes the error register; its return to 0 sends an EMCY (R391, R392). -/
def State.settle (s : State) : State :=
  let old := s.can.errorReg
  let now := s.errorReg
  let s := { s with can := { s.can with errorReg := now } }
  if old ≠ 0 ∧ now = 0 then s.emcy { eec := 0, cls := 0, cause := 0 } else s

/-! ## The fault log -/

/-- Writes a fault record (R348); answers the emergency that tells of it. -/
def State.logOnly (s : State) (r : FaultRec) : State × Emcy :=
  let i := s.faults.next
  ({ s with faults := { s.faults with log := SMap.put i (s.clk.ticks, r) s.faults.log, next := (i + 1) % 4096 } },
    { eec := causeEec r.cause, cls := r.cls, cause := r.cause, part := r.part, unit := r.unit, index := BitVec.ofNat 32 i })

/-- Writes a fault record and then sends its EMCY (R348, R391). -/
def State.logFault (s : State) (r : FaultRec) : State :=
  let (s, e) := s.logOnly r
  s.emcy e

/-- UNIT_TYPE and UNIT of a site (Table 13-6). -/
def siteUnit : Site → Nat × Nat
  | .channel x => (1, x.val)
  | .subchannel x => (2, x.val)
  | .core k => (3, k.val)
  | .laneHalf x => (4, x.val)
  | .port n => (5, n.val)
  | .package c => (6, c.toNat)

/-- Key of a site. -/
def siteKey (x : Site) : Nat := (siteUnit x).1 * 0x1000 + (siteUnit x).2

/-- Reference ticks in 10 s. -/
def tenSeconds : Nat := 1000000000

/-- Transients of a site within the last 10 s (R326). -/
def State.recent (s : State) (x : Site) : Nat :=
  ((SMap.get [] s.faults.transients (siteKey x)).filter fun t => decide (s.clk.ticks < t + tenSeconds)).length

/-- Counts a transient at a site (R326), keeping those within 10 s. -/
def State.noteTransient (s : State) (x : Site) : State :=
  let ts := (SMap.get [] s.faults.transients (siteKey x)).filter fun t => decide (s.clk.ticks < t + tenSeconds)
  ({ s with faults := { s.faults with transients := SMap.put (siteKey x) (s.clk.ticks :: ts) s.faults.transients } }).count
    .transients

/-- A transient with its class 1 record (Table 13-1). -/
def State.transient (s : State) (x : Site) (cause : Nat) (detail detail2 : W64) (status : Byte := 0) (part : Nat := 0xFF) :
    State :=
  let s := s.noteTransient x
  s.logFault { detail := detail, unit := (siteUnit x).2, unitType := (siteUnit x).1, cls := 1, cause := cause
               status := status, part := part, count := s.recent x, detail2 := detail2 }

/-! ## Sites of memory -/

/-- Present subchannels in ascending order (R14). -/
def State.presentSubs (s : State) : List Nat :=
  (List.range 16).flatMap fun n => if 0 < s.house.modules.getD n 0 then [2 * n, 2 * n + 1] else []

/-- CHANNEL and SLOT of a tier-H lane (R217). -/
def State.laneH (s : State) (region lane : Nat) : Nat × Nat :=
  SMap.get (lane, region) s.faults.lanesH (512 * region + lane)

/-- CHANNEL and SLOT of a tier-D lane (R218). -/
def State.laneD (s : State) (region lane : Nat) : Nat × Nat :=
  SMap.get (s.presentSubs.getD lane 0, region) s.faults.lanesD (s.lanesD * region + lane)

/-- The site that holds a local line (Table 13-2): a pseudo-channel, a subchannel or a core's tile store. -/
def State.siteOf (s : State) (l : Nat) : Option Site :=
  match windowOf l with
  | .tierH =>
    let c := (s.laneH (l / regionH) (l % regionH / 1024 % 512)).1
    if h : c < 512 then some (.channel ⟨c, h⟩) else none
  | .tierD =>
    let o := l - baseD
    let c := (s.laneD (o / s.regionD) (o % s.regionD / 4096 % s.lanesD)).1
    if h : c < 32 then some (.subchannel ⟨c, h⟩) else none
  | .tile k => if h : k < 256 then some (.core ⟨k, h⟩) else none
  | _ => none

/-- Records an uncorrectable error met in a line (CAUSE 0x01, class 1). A line of a pinned window has no site of
Table 13-2: its record names none. -/
def State.memError (s : State) (l : Nat) (syndrome : W64) (status : Byte) (part : Nat) : State :=
  match s.siteOf l with
  | some x => s.transient x 0x01 (BitVec.ofNat 64 l) syndrome status part
  | none => (s.count .transients).logFault { detail := BitVec.ofNat 64 l, cls := 1, cause := 0x01, status := status, part := part,
                                             detail2 := syndrome }

/-! ## Halt -/

/-- Whether cores, arrays, engines and the casting unit run: show-ready and not held by a coolant stop (R330, R367). -/
def State.working (s : State) : Bool :=
  s.house.deviceState == 1 && !(s.therm.coolantState == 2 || s.therm.coolantState == 3)

/-- Whether the package has started and is neither halted nor in ghost-light mode. -/
def State.serving (s : State) : Bool := s.house.deviceState == 1

/-- Whether the fabric carries traffic: started, a coolant stop included. -/
def State.fabricUp (s : State) : Bool := s.house.deviceState == 1

/-- A device-fatal fault (R330): HALT on every UP port, ports and lasers off, the reason recorded, an EMCY sent.
Outstanding BAR4 reads complete with UR (R423). -/
def State.haltNow (s : State) (r : FaultRec) : State :=
  if s.house.deviceState = 3 then s
  else
    let up := s.fab.ports.filter fun e => e.2.phase == .up
    let s := up.foldl (fun s e => s.emit 0x0D
      { port := Fin.ofNat 24 e.1, dst := e.2.farCoord, src := s.fab.coord.getD 0, cls := 2, lenM1 := 7
        body := bytesLE 8 r.cause }) s
    let s := s.fab.hostReads.foldl (fun s e => (s.send (.aer e.2.fn .internal)).send (.completion e.2.fn false [])) s
    let s := { s with
      fab := { s.fab with
        ports := SMap.mapVals (fun _ (x : Port) => if x.phase == PortPhase.retired then x else { x with phase := PortPhase.dark }) s.fab.ports
        hostReads := []
        pend := s.fab.pend.filter fun q => match q.kind with | .bar4Read _ _ _ => false | _ => true }
      pins := { s.pins with laserReq := 0, pkgReady := false }
      house := { s.house with deviceState := 3, haltCause := r.cause } }
    (s.logFault { r with cls := 4 }).settle

end Sys2Proof.Machine
end

