-- ==== Sys2Proof/Machine/Coherence.lean ====
section
/-! DEFINITION. Copies of lines: other packages' lines in this package's die caches (R36 to R39), and the directory of
this package's lines that tray peers hold (R267). -/

namespace Sys2Proof.Machine

open Sys2Proof

/-! ## Lines of other packages -/

/-- Key of a line in a die's cache. -/
def lineKey (die line : Nat) : Nat := die * 2 ^ 58 + line

/-- Line number of a global address. -/
def lineOf (a : W64) : Nat := a.toNat / 64

/-- Whether the line of an address may be held in a die cache (R32): tier H or tier D. -/
def cacheable (a : W64) : Bool := windowOf (glocal a) == .tierH || windowOf (glocal a) == .tierD

/-- The copy a die holds of a line. -/
def State.cached? (s : State) (die line : Nat) : Option W512 := SMap.find? (lineKey die line) s.lines

/-- Drops the lines that pass a test of die and line. -/
def State.dropLines (s : State) (f : Nat → Nat → Bool) : State :=
  { s with lines := SMap.keep (fun k _ => !f (k / 2 ^ 58) (k % 2 ^ 58)) s.lines }

/-- Lines a die's cache holds beside its pinned window: 96 MiB less PINNED_MIB (Table 01-1, R37). -/
def State.cacheRoom (s : State) : Nat := (96 - s.pinnedMib) * 16384

/-- Eviction by capacity at a fill (R37): which line of the die goes, if one does, is a free value; a full cache evicts one. -/
def State.evict (s : State) (die : Nat) : State :=
  let mine := (s.lines.map Prod.fst).filter fun k => k / 2 ^ 58 == die
  let (w, s) := s.draw
  let go := w.getLsbD 63 || decide (s.cacheRoom ≤ mine.length)
  match mine[w.toNat % 2 ^ 63 % (max 1 mine.length)]? with
  | some k => if go then { s with lines := SMap.del k s.lines } else s
  | none => s

/-- A fill lands in a die's cache. -/
def State.cacheFill (s : State) (die line : Nat) (w : W512) : State :=
  if s.cacheRoom = 0 then s
  else
    let s := if (s.cached? die line).isSome then s else s.evict die
    { s with lines := SMap.put (lineKey die line) w s.lines }

/-! ## Fills and stores in flight -/

/-- Bytes a pending access covers at its home, rounded out to lines. -/
def PendReq.meetsLines (q : PendReq) (a n : Nat) : Bool :=
  overlap (q.req.addr.toNat / 64 * 64) ((q.req.addr.toNat % 64 + q.req.lenM1.toNat) / 64 * 64 + 64) a n

/-- Whether a pending request brings a line into a die's cache. -/
def PendReq.isFill (q : PendReq) : Bool :=
  match q.kind with | .load _ _ _ _ => true | .loadV _ _ _ => true | .poll _ _ => true | _ => false

/-- Whether a pending request writes at its home: a store or an atomic. -/
def PendReq.writes (q : PendReq) : Bool := decide (2 ≤ q.op ∧ q.op ≤ 6)

/-- Marks the fills in flight that pass a test: they are dropped when they land. -/
def State.markIf (s : State) (f : PendReq → Bool) : State :=
  let mark (q : PendReq) : PendReq := if q.isFill && f q then { q with noFill := true } else q
  { s with fab := { s.fab with pend := s.fab.pend.map mark } }

/-- Marks the fills in flight of lines an invalidate of `home` has passed; with `served` its completion waits for them (R38). -/
def State.markFills (s : State) (home : BitVec 12) (l n : Nat) (served : Bool) : State :=
  let mark (q : PendReq) : PendReq :=
    if q.isFill && q.req.dst == home && q.meetsLines l n && !(served && s.near home) then
      { q with noFill := true, passed := q.passed || served }
    else q
  { s with fab := { s.fab with pend := s.fab.pend.map mark } }

/-- Whether a store or atomic of this package to a line of [l, l + n) of a package is outstanding. -/
def State.writeOut (s : State) (dst : BitVec 12) (l n : Nat) : Bool :=
  s.fab.pend.any fun q => q.writes && q.req.dst == dst && q.meetsLines l n

/-- Replaces the bytes of a word that a store covers: word of line at byte address `base`. -/
def patchWord (w : W512) (base a : Nat) (bs : List Byte) : W512 :=
  leWord 512 ((List.range 64).map fun i =>
    let x := base + i
    if a ≤ x ∧ x < a + bs.length then bs.getD (x - a) 0 else BitVec.ofNat 8 (w.toNat >>> (8 * i)))

/-- Updates every copy this package holds of the lines a store covers (R36). -/
def State.cacheStore (s : State) (a : W64) (bs : List Byte) : State :=
  let upd (k : Nat) (w : W512) : W512 :=
    let base := k % 2 ^ 58 * 64
    if overlap base 64 a.toNat bs.length then patchWord w base a.toNat bs else w
  { s with lines := SMap.mapVals upd s.lines }

/-- A store or atomic to a near line leaves for its home: the home invalidates the other copies of the tray (R34), and the issuing
die evicts its own, so that no access of the tray reads an older value once the store is performed. -/
def State.nearDrop (s : State) (die : Nat) (a : W64) (n : Nat) : State :=
  if s.near (gcoord a) then s.dropLines fun d l => d == die && overlap (l * 64) 64 a.toNat n else s

/-- A store or atomic of this package has been performed at its home: fills of its lines that are in flight bring older bytes and
are dropped (R41). Copies of a far line take a store's bytes (R36); they are evicted (R37) where another write of this package to
the line is outstanding, whose place in the coherence order is not known here, or where an atomic's result is not. -/
def State.writeDone (s : State) (q : PendReq) : State :=
  let l := q.req.addr.toNat
  let n := q.req.lenM1.toNat + 1
  let a : W64 := BitVec.ofNat 64 (q.req.dst.toNat * 2 ^ 52 + l)
  let s := s.markIf fun r => r.req.dst == q.req.dst && r.meetsLines l n
  if s.near q.req.dst then s
  else if q.op = 2 && !s.writeOut q.req.dst l n then s.cacheStore a q.req.body
  else s.dropLines fun _ x => overlap (x * 64) 64 a.toNat n

/-- Coordinate of a cached line. -/
def lineCoord (line : Nat) : BitVec 12 := BitVec.ofNat 12 (line / 2 ^ 46)

/-- Whether a cached line is far (R29). -/
def State.lineFar (s : State) (line : Nat) : Bool := !s.near (lineCoord line)

/-- Whether the far lines of [l, l + 64 k), l a line's global address, meet the range of an acquire: n of all ones is every line. -/
def acquireMeets (b n : W64) (l k : Nat) : Bool := n == BitVec.allOnes 64 || overlap l k b.toNat n.toNat

/-- Drops a die's far lines of [b, b + n), rounded outwards to whole lines; n of all ones drops every far line (R39, R66). Fills of
such lines that the die has in flight are dropped when they land (R43). -/
def State.acquireDrop (s : State) (die : Nat) (b n : W64) : State :=
  if n = 0 then s
  else
    (s.dropLines fun d l => d == die && s.lineFar l && acquireMeets b n (l * 64) 64).markIf fun q =>
      q.req.die.val == die && !s.near q.req.dst &&
        acquireMeets b n (q.req.dst.toNat * 2 ^ 52 + q.req.addr.toNat / 64 * 64) ((q.req.addr.toNat % 64 + q.req.lenM1.toNat) / 64 * 64 + 64)

/-- Performs an invalidate at this package (R38): copies of lines homed at `home` whose local addresses fall in
[l, l + n) leave all four die caches. Only far lines are touched. -/
def State.invalidate (s : State) (home : BitVec 12) (l n : Nat) : State :=
  s.dropLines fun _ x => lineCoord x == home && s.lineFar x && overlap (x % 2 ^ 46 * 64) 64 l n

/-! ## The directory of own lines -/

/-- Notes that a die of a tray peer holds lines of [l, l + n) (R267). -/
def State.noteCopies (s : State) (die l n : Nat) : State :=
  let lines := (List.range (n / 64 + 2)).map (l / 64 + ·) |>.filter fun x => overlap (x * 64) 64 l n
  { s with fab := { s.fab with
      directory := lines.foldl (fun d x => SMap.put x (SMap.get 0 d x ||| 2 ^ die) d) s.fab.directory } }

/-- Dies that hold copies of lines of [l, l + n), other than the issuing one: (line, dies). -/
def State.copies (s : State) (l n : Nat) (except : Option Nat) : List (Nat × List Nat) :=
  s.fab.directory.filterMap fun e =>
    if !overlap (e.1 * 64) 64 l n then none
    else
      let ds := (List.range 16).filter fun d => e.2.testBit d && some d != except
      if ds.isEmpty then none else some (e.1, ds)

/-- Sends the invalidations for [l, l + n) and drops the directory bits they answer for (R267). -/
def State.dropCopies (s : State) (l n : Nat) (except : Option Nat) : State :=
  let cs := s.copies l n except
  let tray (d : Nat) : BitVec 12 := match s.fab.coord with | some o => axisSet o 0 (d / 4) | none => 0
  let s := cs.foldl (fun s c => c.2.foldl (fun s d => s.cohSend (tray d) d c.1 false) s) s
  { s with fab := { s.fab with
      directory := cs.foldl (fun d c =>
        SMap.set 0 d c.1 (c.2.foldl (fun v x => v - 2 ^ x) (SMap.get 0 d c.1))) s.fab.directory } }

/-- A write by an engine or manager of this package at a local address: copies in the tray are invalidated. Until the last of them is
acknowledged every access from outside to the lines waits, so the write counts as performed only then (R34, R46, R267). -/
def State.homeWrite (s : State) (a : Nat) (bs : List Byte) (input : Nat := inputOwn) : State :=
  let waits := s.copies a bs.length none
  let s := (s.dropCopies a bs.length none).writeMem a bs input
  if waits.isEmpty then s
  else { s with fab := { s.fab with homeStores := s.fab.homeStores ++
    [{ waits := waits.map fun c => (c.1, c.2.foldl (fun v d => v ||| 2 ^ d) 0), act := .engine }] } }

/-- Writes of an engine or manager, in order. -/
def State.homeWrites (s : State) (ps : List (Nat × List Byte)) : State :=
  ps.foldl (fun s p => s.homeWrite p.1 p.2) s

end Sys2Proof.Machine
end

