-- ==== Sys2Proof/Machine/Sched.lean ====
section
/-! DEFINITION. The shared operations of the stage manager: completing entries, ending casts, calls, collectives and
requests, signalling gates, digests, the replay set (R335, R336) and the partition reset (R308). -/

namespace Sys2Proof.Machine

open Sys2Proof

/-! ## Entries -/

/-- Completes an accepted entry with a status and a result; an entry completes once. -/
def State.finish (s : State) (k : Nat) (st : Byte) (result : W64 := 0) : State :=
  match SMap.find? k s.entries with
  | some e => if e.done.isSome then s else { s with entries := SMap.put k { e with done := some (st, result) } s.entries }
  | none => s

/-- SCRIPTED as a partition uses it (R310). -/
def State.isScripted (s : State) (p : Nat) : Bool := (s.part p).scripted

/-! ## Casts and arrays -/

/-- Notes the 4 KiB granules of a cast's allotted range that [a, a+n) touches (R305). -/
def Task.noteWrite (t : Task) (a n : Nat) : Task :=
  if n = 0 ∨ !inside a n t.tsBase t.tsSize then t
  else
    let g0 := (a - t.tsBase) / 4096
    let g1 := (a + n - 1 - t.tsBase) / 4096
    { t with granules := t.granules ++ (((List.range (g1 - g0 + 1)).map (g0 + ·)).filter fun g => !t.granules.contains g) }

/-- Threads of a task. -/
def State.threadsOf (s : State) (k : Nat) : SMap Thread := SMap.keep (fun _ t => t.task == k) s.threads

/-- Ends the far reads of the engines that pass a test: nothing of them stays outstanding. -/
def State.dropJobs (s : State) (f : EngineJob → Bool) : State :=
  { s with fab := { s.fab with
      jobs := s.fab.jobs.filter fun j => !f j.job
      pend := s.fab.pend.filter fun q => match q.kind with | .engine j => !f j | _ => true } }

/-- Removes the threads of a task. An access of one that waits for acknowledgements stays as the task's own (R54), and an SFLOAD of
one is no longer in its core's order, nor read (R157). -/
def State.freeThreads (s : State) (k : Nat) : State :=
  let mine (x : Nat) : Bool := (SMap.find? x s.threads).any fun t => t.task == k
  let act (a : HomeAct) : HomeAct :=
    match a with
    | .thread t x => if mine (tidKey t) then .orphan k x else a
    | a => a
  let gone (j : EngineJob) : Bool := match j with | .sfload t => mine (tidKey t) | _ => false
  let s := s.dropJobs gone
  { s with
    threads := SMap.keep (fun _ t => t.task != k) s.threads
    cores := SMap.mapVals (fun c (x : Core) => { x with loads := x.loads.filter fun e => !mine (c * 64 + e.2) }) s.cores
    fab := { s.fab with homeStores := s.fab.homeStores.map fun h => { h with act := act h.act } } }

/-- A free array. -/
def ArrayUnit.freed (a : ArrayUnit) : ArrayUnit := { nextSeq := a.nextSeq }

/-- Wakes the threads that wait to put a command on an array: they issue again. -/
def State.wakeAcmd (s : State) (arr : Nat) : State :=
  { s with threads := SMap.mapVals (fun _ t => if t.wait = .acmd arr then { t with wait := .ready } else t) s.threads }

/-- Releases every array of a task at once and discards its queue (R87). -/
def State.releaseArrays (s : State) (k : Nat) : State :=
  let mine := (s.arrays.filter fun e => e.2.owner == some k).map Prod.fst
  let s := { s with arrays := SMap.mapVals (fun _ a => if a.owner == some k then a.freed else a) s.arrays }
  mine.foldl State.wakeAcmd s

/-- Threads held by a replay, a lane copy or the log issue again. -/
def State.wakeHeld (s : State) : State :=
  { s with threads := SMap.mapVals (fun _ t => if t.wait = .held ∨ t.wait = .log then { t with wait := .ready } else t) s.threads }

/-- The worst status among failed stores that no FENCE collected, over a task's threads (R78). -/
def State.uncollected (s : State) (k : Nat) : Byte :=
  (s.threadsOf k).foldl (fun b e => worst b e.2.failStatus) stOk

/-- Merges a status into a task's (R9). -/
def State.taskStatus (s : State) (k : Nat) (st : Byte) : State :=
  match s.task? k with
  | some t => s.setTask k { t with status := worst t.status st }
  | none => s

/-- Ends a cast by exception or by its last END: slots free, statuses collected; an exception also releases the arrays
in the same cycle (R24, R78, R81, R87). -/
def State.endCast (s : State) (k : Nat) (st : Byte) (abrupt : Bool) : State :=
  let s := (s.taskStatus k (worst st (s.uncollected k))).freeThreads k
  let s := match s.task? k with | some t => s.setTask k { t with castOver := true } | none => s
  if abrupt then s.releaseArrays k
  else
    let idle := (s.arrays.filter fun e => e.2.owner == some k && e.2.queue.isEmpty).map Prod.fst
    let free (_ : Nat) (a : ArrayUnit) : ArrayUnit := if a.owner == some k && a.queue.isEmpty then a.freed else a
    let s := { s with arrays := SMap.mapVals free s.arrays }
    idle.foldl State.wakeAcmd s

/-! ## Gates -/

/-- Signals a gate: the count saturates and the status is merged (R286). -/
def Part.signal (x : Part) (g : Nat) (st : Byte) : Part :=
  let q := SMap.get {} x.gates g
  { x with gates := SMap.put g { count := min 0xFFFFFFFF (q.count + 1), status := worst q.status st } x.gates }

/-! ## Requests -/

/-- The record of Table 11-6 with a status and a state, at a tick. -/
def Request.record (r : Request) (now : Nat) (st : Byte) (state : Nat) : List Byte :=
  let sat (n v : Nat) : List Byte := bytesLE n (min (2 ^ (8 * n) - 1) v)
  [st] ++ bytesLE 1 r.cls ++ bytesLE 1 state ++ [0] ++ sat 4 r.tokens ++ sat 4 r.ttft ++ sat 4 r.tbtMax ++
    sat 8 r.tbtSum ++ sat 4 (now - r.opened) ++ bytesLE 4 0

/-- Whether an open DEADLINE request has passed its budget at a tick, and that is not counted yet (R299). -/
def Request.missed (r : Request) (now : Nat) : Bool := r.cls == 2 && decide (100 * r.budgetUs < now - r.opened) && !r.missCounted

/-- Ends a request: the record is written at RESULT and the slot freed (R297, R298); a deadline it missed since the last look of the call
monitor is counted (R299). Its tasks that have yet to commit go on naming its context (R180). -/
def State.endRequest (s : State) (slot : Nat) (extra : Byte) : State :=
  match SMap.find? slot s.requests with
  | none => s
  | some r =>
    let st := worst (worst r.status extra) (if r.sawEncore then stEncore else stOk)
    let s := if r.missed s.clk.ticks then s.count .deadlineMisses else s
    let s := s.homeWrite r.result.toNat (r.record s.clk.ticks st 0)
    let named (t : Task) : Bool := t.part == r.part && dReq t.desc == some slot && t.ctx == 0
    { s with
      requests := SMap.del slot s.requests
      tasks := SMap.mapVals (fun _ t => if named t then { t with ctx := r.ctx } else t) s.tasks }

/-! ## Digests (R315 to R318) -/

/-- Rotates a 64-bit word left. -/
def rotl64 (x : W64) (n : Nat) : W64 := x.rotateLeft (n % 64)

/-- The digest record of a layer as it stood when the step began (Table 12-2). -/
def Part.digestRec (x : Part) (l : Nat) : BitVec 128 := SMap.get 0#128 x.digestCfg l

/-- Adds to a layer's running digest. -/
def Part.digestAdd (x : Part) (l : Nat) (f : Digest → Digest) : Part :=
  { x with digestRun := SMap.put l (f (SMap.get {} x.digestRun l)) x.digestRun }

/-- The term of one output tile: declared range bytes at commit, rotated by its index (R315, R316). The bytes of a range
that lies in another package are not held here, so its tile digest is a free value. -/
def State.digestRange (s : State) (p l : Nat) (r : Range) : State :=
  let x := s.part p
  let c := x.digestRec l
  let base := fld c 127 64
  if r.base.toNat < base then s.setPart p (x.digestAdd l fun d => { d with outside := d.outside + 1 })
  else
    let i := (r.base.toNat - base) >>> fld c 7 2
    let (dg, s) := if s.isOwn (gcoord r.base) then (crc64 (s.bytes (glocal r.base) r.size), s) else s.draw
    s.setPart p (x.digestAdd l fun d => { d with digest := d.digest + rotl64 dg i, tiles := d.tiles + 1 })

/-- What a committing task adds to its layer's digest (R316, R317). -/
def State.digestTask (s : State) (t : Task) (st : Byte) : State :=
  let l := dLayer t.desc
  let x := s.part t.part
  if !bit (x.digestRec l) 0 then s
  else if failing st then s.setPart t.part (x.digestAdd l fun d => { d with failed := d.failed + 1 })
  else if t.noOutput then s
  else (t.ranges.filter (·.out)).foldl (fun s r => s.digestRange t.part l r) s

/-! ## Positions -/

/-- The acceptance number at which a position's tasks are all counted: that of the first STEP_BEGIN waiting or of the first task of a
higher POS, the earlier (R233). -/
def Part.closesAt (x : Part) (pos : Nat) : Option Nat :=
  (x.stepBegins ++ (x.posMarks.filter fun m => decide (pos < m.1)).map Prod.snd).min?

/-- Entries of a kind that have been accepted, up to a number, and have yet to run (R288, R307). -/
def State.heldUpTo (s : State) (p k : Nat) (kind : EntryKind) : List (Nat × Entry) :=
  (s.part p).held.filterMap fun j => ((SMap.find? j s.entries).filter fun e => decide (j < k) && e.kind == kind).map fun e => (j, e)

/-- STEP_BEGIN entries accepted before an entry, whose boundaries have not fallen (R288); one with a reserved bit set closes no step. -/
def State.beginsBefore (s : State) (p k : Nat) : Nat :=
  ((s.part p).stepBegins.countP fun j => decide (j < k)) + (s.heldUpTo p k .stepBegin).countP fun e => zeroFld e.2.word 511 8

/-- Whether a position has committed: its tasks are all counted, and every one counted has committed (R233). One that was opened again
commits with every task it has (R239). -/
def State.posDone (s : State) (p pos : Nat) : Bool :=
  let x := s.part p
  if x.reopened.contains pos then !s.openAt p pos else
  (x.closesAt pos).any fun c =>
    (s.heldUpTo p c .task).all (fun e => dPos e.2.word != pos || s.beginsBefore p e.1 != 0) &&
      !s.tasks.any fun e => e.2.part == p && e.2.step == x.step.toNat && dPos e.2.desc == pos && decide (e.1 < c)

/-- Notes the tasks of the current step that raise its highest POS, in acceptance order (R233). -/
def State.markPos (s : State) (p : Nat) : State :=
  let x := s.part p
  (s.tasks.filter fun e => e.2.part == p && e.2.step == x.step.toNat).foldl (fun s e =>
    s.modPart p fun x =>
      let j := dPos e.2.desc
      if j = 0 ∨ x.posMarks.any (fun m => decide (j ≤ m.1 ∧ m.2 ≤ e.1)) then x
      else { x with closedPos := max x.closedPos j, posMarks := x.posMarks ++ [(j, e.1)] }) s

/-- Recomputes which positions of the current step have committed (R233); the bits of their entries clear (R234). -/
def State.positions (s : State) (p : Nat) : State :=
  let s := s.markPos p
  let x := s.part p
  match s.selSheet p with
  | none => s
  | some sh =>
    let done := (List.range sh.layers.length).filter fun j => x.committedPos.contains j || s.posDone p j
    let newly := done.filter fun j => !x.committedPos.contains j
    let gone := (sh.entries.zipIdx.filter fun e => newly.contains e.1.pos && SMap.get .idle x.entryPhase e.2 == .placed).map Prod.snd
    let s := s.setPart p { x with
      committedPos := done, entryPhase := gone.foldl (fun m i => SMap.put i .cleared m) x.entryPhase }
    -- the ready and poison bits of the committed positions clear (R234)
    newly.foldl (fun s j => (sh.entries.filter fun e => e.pos == j).foldl (fun s e =>
      let k := fld e.word 66 59
      let c := s.core k
      let d := fld e.word 58 44
      let n := fld e.word 151 136
      let units := (List.range n).map (d + ·)
      s.setCore k { c with
        unready := (c.unready.filter fun u => !(decide (d ≤ u) && decide (u < d + n))) ++ units
        poisonUnits := c.poisonUnits.filter fun u => !(decide (d ≤ u) && decide (u < d + n)) }) s) s

/-! ## Commit -/

/-- Frees the encore reservation of a layer; the poison bits in its ranges clear (R234, R238). -/
def State.freeEncore (s : State) (p l : Nat) : State :=
  match SMap.find? l (s.part p).encores with
  | none => s
  | some e =>
    let s := e.ranges.foldl (fun s r =>
      let c := s.core r.1
      let lo := (r.2.1 - tileBase r.1) / 128
      s.setCore r.1 { c with poisonUnits := c.poisonUnits.filter fun u => !(decide (lo ≤ u) && decide (u < lo + r.2.2 / 128)) }) s
    s.modPart p fun x => { x with encores := SMap.del l x.encores }

/-- Frees every encore reservation of a partition. -/
def State.freeEncores (s : State) (p : Nat) : State := (s.part p).encores.foldl (fun s e => s.freeEncore p e.1) s

/-- A layer whose re-run is over frees its reservation once none of its tasks is left uncommitted (R238). -/
def State.layerDone (s : State) (p l : Nat) : State :=
  let x := s.part p
  if (SMap.find? l x.encores).any (·.judged) &&
      !s.tasks.any fun e => e.2.part == p && e.2.step == x.step.toNat && dLayer e.2.desc == l then s.freeEncore p l else s

/-- Everything a commit does but the key-value side: gate, digest, request, entry, prompt-book record (R285, R286, R298,
R299, R316, R332). -/
def State.commitTask (s : State) (k : Nat) : State :=
  match s.task? k with
  | none => s
  | some t =>
    let st := worst t.status (worst t.gateStatus (if t.replays ≠ 0 then stReplayed else stOk))
    let s := s.digestTask t st
    let s := match dSignal t.desc with
      | some g => s.modPart t.part fun x => x.signal g st
      | none => s
    let s := match dReq t.desc with
      | some r =>
        match SMap.find? r s.requests with
        | some q =>
          if q.part = t.part ∧ t.skipped = false then
            let q := { q with status := worst q.status st, cEst := q.cEst + dEst t.desc }
            let s := { s with requests := SMap.put r q s.requests }
            if dFinal t.desc then s.endRequest r (if t.standin then stStandin else stOk) else s
          else s
        | none => s
      | none => s
    let s := { s.finish k st with tasks := SMap.del k s.tasks }
    (s.layerDone t.part (dLayer t.desc)).positions t.part

/-! ## Calls and collectives -/

/-- Header word of an exchange segment (Table 08-4). -/
def segHeader (step : Nat) (mapCrc biasCrc cfgCrc : W64) (layer phase round src dst : Nat) (st : Byte) (entries : Nat) :
    W512 :=
  BitVec.ofNat 512 (step % 2 ^ 64 * 2 ^ 448 + mapCrc.toNat * 2 ^ 384 + biasCrc.toNat * 2 ^ 320 + cfgCrc.toNat * 2 ^ 256 +
    layer % 1024 * 2 ^ 246 + phase % 8 * 2 ^ 243 + round % 16 * 2 ^ 239 + src % 256 * 2 ^ 231 + dst % 256 * 2 ^ 223 +
    st.toNat * 2 ^ 215 + entries % 2 ^ 32 * 2 ^ 183)

/-- A header of a call's segment. -/
def CastCall.header (c : CastCall) (phase round dst : Nat) (st : Byte) (entries : Nat) : W512 :=
  segHeader c.step c.mapCrc c.biasCrc c.cfgCrc (fld c.word 71 62) phase round (fld c.word 79 72) dst st entries

/-- Key of a segment (R207): step, layer, phase, round, sender. -/
def segKey (h : W512) : Nat :=
  (((fld h 511 448 * 1024 + fld h 255 246) * 8 + fld h 245 243) * 16 + fld h 242 239) * 256 + fld h 238 231
/-- STEP of a key. -/
def keyStep (k : Nat) : Nat := k / 2 ^ 25
/-- Key of a casting segment that is held. -/
def heldKey (r : FabReq) : Option Nat := match r.seg with | .cast g => some (segKey g.hdr) | _ => none

/-- Coordinate of a rank in a call's map (R194). -/
def State.rankCoord (s : State) (c : CastCall) (r : Nat) : BitVec 12 := BitVec.ofNat 12 (s.num (c.map + 2 * r) 2)

/-- The purpose of a call's segments. -/
def CastCall.kind (c : CastCall) (p : Nat) : PendKind := .cast p c.step c.layer

/-- A segment of the casting unit that is held though its request has been answered. -/
def heldSeg (g : FabSeg) : FabReq := { port := 0, dst := 0xFFF, src := 0xFFF, cls := 1, seg := g }

/-- Adds what a call has counted to the counters of Table 08-7, whatever status it ends with (R214). -/
def State.countCall (s : State) (p : Nat) (c : CastCall) : State :=
  let sum (f : ExpCount → Nat) : Nat := c.counts.foldl (fun a e => a + f e.2) 0
  let empty := c.finalSlots.countP fun j => !c.accepted.any fun o => o.slot == j
  (((((((((s.count .calls p).count .offered p (sum (·.offered))).count .chosen p (sum (·.chosen))).count .spilled p
    (sum (·.spilled))).count .unchosen p (sum (·.unchosen))).count .sharedOnly p c.sharedOnly).count .nanScores p
    c.nanScores).count .emptySlots p empty).count .rounds p c.rounds).count .biasClamps p c.biasClamps

/-- Ends the running call of a partition with a failure: FAIL segments go to every other rank, the next bias buffer is a copy
of the current one except after PARTITION_RESET (R205, R213). -/
def State.failCall (s : State) (p : Nat) (st : Byte) (tell : Bool) : State :=
  match (s.part p).call with
  | none => s
  | some c =>
    let s := if tell then ((List.range c.group).filter (· ≠ c.rank)).foldl
      (fun s r => s.postSeg p (s.rankCoord c r) (.cast { hdr := c.header 7 0 r st 0 }) (c.kind p) (some c.task)) s else s
    let s := if st = stReset then s
      else s.homeWrite (c.bias (c.step + 1)) (s.bytes (c.bias c.step) (4 * (fld c.cfg 63 53 + 1)))
    let s := (s.taskStatus c.task st).countCall p c
    s.modPart p fun x => { x with call := none }

/-- Participants of a collective in index order (R271). -/
def State.collMembers (s : State) (p : Nat) (d : W512) : List (BitVec 12) :=
  if bit d 229 then
    (List.range (fld d 228 221 + 1)).map fun i => BitVec.ofNat 12 (s.num (fld d 383 320 + 2 * i) 2)
  else
    let h := s.fctx p
    let x0 := fld h 367 364; let y0 := fld h 359 356; let z0 := fld h 351 348
    let bx := fld h 363 360 + 1 - x0; let bY := fld h 355 352 + 1 - y0; let bz := fld h 347 344 + 1 - z0
    (List.range (bx * bY * bz)).map fun i =>
      BitVec.ofNat 12 ((x0 + i % bx) * 256 + (y0 + i / bx % bY) * 16 + (z0 + i / bx / bY))

/-- A row of the segment table of an ALL_TO_ALL at AUX, as this model lays it out, 32 bytes a participant: offset and length
sent to it from SRC, offset and length received from it at DST. -/
def State.a2aRow (s : State) (d : W512) (i : Nat) : Nat × Nat × Nat × Nat :=
  let a := cAux d + 32 * i
  (s.num a 8, s.num (a + 8) 8, s.num (a + 16) 8, s.num (a + 24) 8)

/-- Extents a collective reads and the extent it writes. -/
def State.collExts (s : State) (d : W512) (n : Nat) : List (Nat × Nat) × (Nat × Nat) :=
  let c := cCount d
  let rows := (List.range n).map (s.a2aRow d)
  match cKind d with
  | 2 => ([(cSrc d, 4 * c)], (cDst d, 4 * ceilDiv c n))
  | 3 => ([(cSrc d, c)], (cDst d, n * c))
  | 4 => ((cAux d, 32 * n) :: rows.map (fun r => (cSrc d + r.1, r.2.1)), (cDst d, rows.foldl (fun m r => max m (r.2.2.1 + r.2.2.2)) 0))
  | 6 => ([(cSrc d, 16 * c)], (cDst d, 16 * c))
  | _ => ([(cSrc d, 4 * c)], (cDst d, 4 * c))

/-- Whether an extent lies in a partition's allocations; an empty one does. -/
def State.extOk (s : State) (p : Nat) (e : Nat × Nat) : Bool := e.2 == 0 || s.inAllocs p e.1 e.2

/-- The casting call of a dispatched task, with the record and the step that hold (R195, R196). -/
def State.callOf (s : State) (k : Nat) (t : Task) : CastCall :=
  let w := s.word512 (dAux t.desc)
  let cfg : BitVec 256 := BitVec.ofNat 256 (s.cfgNum 0x270E (t.part + 1) (32 * fld w 71 62) 32)
  { task := k, word := w, cfg := cfg, step := (s.part t.part).step.toNat, mapCrc := 0, biasCrc := 0, cfgCrc := 0, startTick := s.clk.ticks }

/-- What a casting call or a collective reads and writes (R45, R197, R270). -/
def State.unitExts (s : State) (k : Nat) (t : Task) : List (Nat × Nat) × List (Nat × Nat) :=
  if !s.inAllocs t.part (dAux t.desc) 64 then ([], [])
  else if dType t.desc = 0x63 then ((s.callOf k t).reads, (s.callOf k t).writes)
  else if dType t.desc = 0x64 then
    let d := s.word512 (dAux t.desc)
    let e := s.collExts d (s.collMembers t.part d).length
    (e.1, [e.2])
  else ([], [])

/-- Ends a posted collective with a status; with `tell`, every other participant is sent a segment of that status
(R277). -/
def State.endColl (s : State) (p : Nat) (id : Nat) (st : Byte) (tell : Bool) : State :=
  match SMap.find? id (s.part p).colls with
  | none => s
  | some c =>
    if c.ended.isSome then s
    else
      let s := if tell then (s.collMembers p c.desc).foldl (fun s m =>
        if s.isOwn m then s
        else s.postSeg p m (.coll { collId := BitVec.ofNat 32 id, sender := c.index, status := st }) (.coll p id) (some c.task)) s
        else s
      let s := s.taskStatus c.task st
      s.modPart p fun x => { x with colls := SMap.put id { c with ended := some st } x.colls }

/-! ## Job faults and the partition reset (R307, R308) -/

/-- Frees the encore reservations and drops the reports of a partition: no verdict is formed for the ended step. -/
def State.dropVerdicts (s : State) (p : Nat) : State := (s.freeEncores p).modPart p fun x => { x with reports := [] }

/-- Ends the reading of a partition's FILLs. -/
def State.dropFills (s : State) (p : Nat) : State :=
  let mine (j : EngineJob) : Bool :=
    match j with | .fill k => (SMap.find? k s.fills).any fun e => e.part == p | _ => false
  let s := s.dropJobs mine
  { s with fills := SMap.keep (fun _ (e : Entry) => e.part != p) s.fills }

/-- Steps 1 to 4 of a partition reset (R308). Steps 5 and 6 follow at its completion. -/
def State.resetSteps (s : State) (p : Nat) : State :=
  let mine := (s.tasks.filter fun e => e.2.part == p).map Prod.fst
  -- step 1: casts stop, arrays are released, saved states discarded, verdicts and encores abandoned
  let s := mine.foldl (fun s k => (s.freeThreads k).releaseArrays k) s
  let s := s.dropVerdicts p
  -- step 2: calls and collectives end
  let s := s.failCall p stReset true
  let s := (s.part p).colls.foldl (fun s e => s.endColl p e.1 stReset true) s
  let s := s.modPart p fun x => { x with
    colls := [], earlySegs := [], heldSegs := [], heardSegs := [], replay := [],
    entryPhase := SMap.mapVals (fun _ e => if e == .idle then .skipped else e) x.entryPhase
    selecting := x.selecting }
  -- step 3: every entry that has not completed completes with PARTITION_RESET
  let s := s.dropFills p
  -- a release that waited completes with the rest, and its context keeps its state
  let mineEntry (k : Nat) : Bool := (SMap.find? k s.entries).any fun e => e.part == p
  let s := { s with
    ctxExtra := SMap.mapVals (fun _ (x : CtxExtra) => if x.releasing.any mineEntry then { x with releasing := none } else x) s.ctxExtra
    tasks := SMap.keep (fun _ t => t.part != p) s.tasks
    entries := SMap.mapVals (fun _ (e : Entry) =>
      if e.part == p && e.done.isNone then { e with done := some (stReset, 0) } else e) s.entries }
  let s := s.modPart p fun x => { x with stepBegins := [], selecting := [], held := [] }
  -- step 4: every open request ends with PARTITION_RESET
  let open_ := (s.requests.filter fun e => e.2.part == p).map Prod.fst
  (open_.foldl (fun s r => s.endRequest r stReset) s).wakeHeld

/-- A job fault (R307): the partition is reset, once; a further fault in RESET has no effect. The class 3 record carries
the cause given. -/
def State.jobFault (s : State) (p : Nat) (cause : Nat := Config.jobFaultCause.toNat) (detail detail2 : W64 := 0) : State :=
  if (s.part p).phase ≠ .active then s
  else
    let s := s.modPart p fun x => { x with phase := .reset }
    let s := s.logFault { detail := detail, cls := 3, cause := cause, status := stReset, part := p, detail2 := detail2 }
    (s.resetSteps p).settle

/-! ## VCLOCK (R292) -/

/-- Whether a partition has a live cast. -/
def State.hasLive (s : State) (p : Nat) : Bool := s.tasks.any fun e => e.2.part == p && e.2.live

/-- Whether a partition has a ready task. -/
def State.hasReady (s : State) (p : Nat) : Bool :=
  s.tasks.any fun e => e.2.part == p && e.2.phase == .waiting && e.2.readyAt.isSome

/-- VCLOCK of a partition. -/
def State.vclock (s : State) (p : Nat) : Nat := (s.ctr .vclock p).toNat

/-- Raises VCLOCK of a partition that gains its first ready task (R292). -/
def State.raiseVclock (s : State) (p : Nat) : State :=
  if s.hasLive p || s.hasReady p then s
  else
    match (((s.parts.map Prod.fst).filter s.hasLive).map s.vclock).min? with
    | some v => if s.vclock p < v then s.setCtr .vclock p (BitVec.ofNat 64 v) else s
    | none => s

/-! ## Replay (R334 to R339) -/

/-- Whether any extent of one list overlaps one of another. -/
def extsMeet (a b : List (Nat × Nat)) : Bool := a.any fun x => b.any fun y => overlap x.1 x.2 y.1 y.2

/-- Whether task B consumes from task A (R335). -/
def consumes (b a : Task) : Bool :=
  a.part == b.part && a.dispatched && b.dispatched && decide (a.dseq < b.dseq) &&
    (extsMeet b.ins a.outs || extsMeet b.outs a.outs)

/-- Dispatched, uncommitted tasks in ascending dispatch number. -/
def State.dispatchedTasks (s : State) (p : Nat) : List (Nat × Task) :=
  sortBy (fun x y => decide (x.2.dseq ≤ y.2.dseq)) (s.tasks.filter fun e => e.2.part == p && e.2.dispatched)

/-- The replay set of faulted tasks: the tasks and all that consume from a member, transitively (R336). -/
def State.replaySet (s : State) (p : Nat) (seeds : List Nat) : List Nat :=
  (s.dispatchedTasks p).foldl (fun set e =>
    if set.contains e.1 then set
    else if set.any fun m => (s.task? m).any fun a => consumes e.2 a then set ++ [e.1] else set) seeds

/-- Whether a task cannot be replayed: a fifth run, an output in a retired core's tile store, or its descriptor, range
list or code range lost (R337, R339). -/
def State.noReplay (s : State) (t : Task) : Bool :=
  decide (4 ≤ t.replays) ||
  t.outs.any (fun r => s.faults.retiredCores.any fun c => overlap r.1 r.2 (lkey (tileBase c)) 0x400000) ||
  (match t.descAddr with | some a => s.poisoned a 64 | none => false) ||
  (dIsCast t.desc && s.poisoned (dCodeExt t.desc).1 (dCodeExt t.desc).2) ||
  (dRanges t.desc ≠ 0 && s.poisoned (dRanges t.desc) (16 + 16 * t.ranges.length))

/-- Stops a member and leaves it to be dispatched again (R336 step 1). -/
def State.stopMember (s : State) (k : Nat) : State :=
  match s.task? k with
  | none => s
  | some t =>
    let s := ((s.raiseVclock t.part).freeThreads k).releaseArrays k
    let s := if dType t.desc = 0x63 then
      s.modPart t.part fun x =>
        let mine := ((x.call.toList ++ x.endedCalls.map Prod.snd).filter fun c => c.task == k)
        { x with
          call := x.call.filter fun c => c.task != k, endedCalls := SMap.keep (fun _ (c : CastCall) => c.task != k) x.endedCalls
          heldSegs := x.heldSegs ++ mine.flatMap fun c =>
            (c.segs.filter fun g => fld g.hdr 238 231 != c.rank).map fun g => heldSeg (.cast g) } else s
    let s := if dType t.desc = 0x64 then
      s.modPart t.part fun x =>
        let mine := (x.colls.map Prod.snd).filter fun c => c.task == k
        { x with
          colls := SMap.keep (fun _ (c : CollRun) => c.task != k) x.colls
          earlySegs := x.earlySegs ++ mine.flatMap fun c =>
            ((c.segs.filter fun g => g.sender != c.index).map fun g => heldSeg (.coll g)) ++
              c.wait.filter fun r => match r.seg with | .coll g => g.sender != c.index | _ => true } else s
    s.setTask k { t with phase := .waiting, rerun := true, replaying := true, replays := t.replays + 1, status := stOk,
                         saved := [], savedArrays := [], savedTile := [], savedBytes := 0, readyAt := some s.clk.cycle,
                         arrSeq := [], arrDone := [], granules := [], atomCount := [], segs := 0 }

/-- Begins a replay of a faulted task, with a reading task that stops as a member where there is one, or the job fault
of one that cannot be replayed (R334, R336, R339). -/
def State.startReplay (s : State) (k : Nat) (reader : List Nat := []) : State :=
  match s.task? k with
  | none => s
  | some t =>
    let set := s.replaySet t.part ((k :: reader).eraseDups)
    match set.find? fun m => (s.task? m).any s.noReplay with
    | some m =>
      let d := ((s.task? m).bind (·.descAddr)).getD 0
      let n := ((s.task? m).map (·.replays)).getD 0
      (s.count .partitionFatal).jobFault t.part 0x0C (BitVec.ofNat 64 d) (BitVec.ofNat 64 n)
    | none =>
      let s := set.foldl State.stopMember s
      let s := (s.count .replays).count .replayedTasks 0 set.length
      s.modPart t.part fun x => { x with replay := (x.replay ++ set).eraseDups }

/-- The uncommitted task of a partition whose declared output holds a local line (R334). -/
def State.producerOf (s : State) (p l n : Nat) : Option Nat :=
  ((s.dispatchedTasks p).find? fun e => e.2.outs.any fun r => overlap r.1 r.2 (lkey l) n).map Prod.fst

/-! ## What an uncorrectable error in a line does to a reader of a partition (R334) -/

/-- Answers the state after the error is recorded, and whether a replay began (else the reader has poisoned data). -/
def State.readError (s : State) (p : Nat) (l : Nat) (reader : List Nat := []) : State × Bool :=
  let line := l / 64 * 64
  let s := s.memError line 0 stPoison p
  match s.producerOf p line 64 with
  | some k => (s.startReplay k reader, true)
  | none => (s, false)

end Sys2Proof.Machine
end

