-- ==== Sys2Proof/Machine/Layers.lean ====
section
/-! DEFINITION. What a layer of a partition keeps: its configuration for the step (R145), its sticky counters (R121) and
the norm-watch flags and events (R135, R137). -/

namespace Sys2Proof.Machine

open Sys2Proof

/-- A layer's committed configuration record (Table 05-9). -/
def State.layerCommitted (s : State) (p l : Nat) : BitVec 128 := BitVec.ofNat 128 (s.cfgNum 0x2701 (p + 1) (16 * l) 16)

/-- The configuration record a step uses: the one committed when the layer's first task of the step was dispatched. -/
def State.layerRec (s : State) (p l : Nat) : BitVec 128 := (SMap.find? l (s.part p).layerCfg).getD (s.layerCommitted p l)

/-- Takes a layer's record for the step (R145). -/
def State.takeLayer (s : State) (p l : Nat) : State :=
  let x := s.part p
  if (SMap.find? l x.layerCfg).isSome then s
  else s.setPart p { x with layerCfg := SMap.put l (s.layerCommitted p l) x.layerCfg }

/-- KV_BITS as a precision. -/
def recKvBits (c : BitVec 128) : Nat := match fld c 9 8 with | 0 => 8 | 1 => 6 | _ => 4
/-- STATIC_CODE where SCALE_MODE is static. -/
def recStatic (c : BitVec 128) : Option Nat := if fld c 13 12 = 1 then some (fld c 47 40) else none
/-- Element format of LINK_FMT. -/
def recLink (c : BitVec 128) : ElemFmt := match fld c 11 10 with | 0 => .e4m3 | 1 => .e5m2 | _ => .e2m1
/-- REHEARSAL: 0 arrays, 1 narrow, 2 wide. -/
def recRehearsal (c : BitVec 128) : Nat := fld c 5 4
/-- The action of a kind (Table 05-8); `grad` selects the gradient kind. -/
def recAction (c : BitVec 128) (grad : Bool) : Nat := if grad then fld c 1 0 else fld c 3 2
/-- RATIO of a kind. -/
def recRatio (c : BitVec 128) (grad : Bool) : W32 := BitVec.ofNat 32 (if grad then fld c 95 64 else fld c 127 96)
/-- WARMUP. -/
def recWarmup (c : BitVec 128) : Nat := fld c 63 56
/-- AVG_SHIFT. -/
def recShift (c : BitVec 128) : Nat := fld c 55 52

/-- A layer's state record. -/
def Part.nwLayer (x : Part) (l : Nat) : NwLayer := SMap.get {} x.nw l

/-- Raises a flag or event of Table 05-10: its counter, the layer state and an EMCY of class 0x10 (R135). -/
def State.nwEvent (s : State) (p l reason : Nat) : State :=
  let c : CtrName := if reason ≤ 4 then .nwFlags else if reason = 5 then .encoreUnresolved
    else if reason = 8 then .nwRebases else .encoreNotRun
  let s := s.modPart p fun x =>
    let y : NwLayer := { x.nwLayer l with lastReason := reason, lastStep := x.step }
    { x with nw := SMap.put l y x.nw }
  (s.count c).emcy { eec := 0xFF01, cls := 0x10, cause := reason, part := p, unit := l }

/-- Raises an event n times. -/
def State.nwEvents (s : State) (p l reason : Nat) : Nat → State
  | 0 => s
  | n + 1 => (s.nwEvent p l reason).nwEvents p l reason n

/-- Adds an encoder's or reader's counts to a layer's sticky counters (R121) and raises NAN_BLOCK for each NaN block an
encoder wrote (R137). -/
def State.layerCounts (s : State) (p l : Nat) (c : EncCounts) : State :=
  if c = {} then s
  else
    let s := s.modPart p fun x =>
      let k := SMap.get {} x.sticky l
      let k' : Sticky :=
        { zero := satInc k.zero c.zeroBlocks, nan := satInc k.nan c.nanBlocks, clipped := satInc k.clipped c.clipped
          satElems := satInc k.satElems c.satElems, satBlocks := satInc k.satBlocks c.satBlocks, lastStep := x.step }
      { x with sticky := SMap.put l k' x.sticky }
    s.nwEvents p l 4 c.nanBlocks

/-- Encodes consecutive blocks of 32 values (R117), with the total of their counts. -/
def encodeBlocks (f : ElemFmt) (static : Option Nat) (vs : List W32) : List EncBlock × EncCounts :=
  let rs := (chunks 32 vs).map (encodeBlock f static)
  (rs.map Prod.fst, rs.foldl (fun a r => a.add r.2) {})

end Sys2Proof.Machine
end

