-- ==== Sys2Proof/Machine/Operands.lean ====
section
/-! DEFINITION. Threads: their registers (R55 to R57), the reserved and unused fields of each format (R61, R62), taking
an exception (R79 to R81) and issuing an instruction (R59, R61, R62, R80). -/

namespace Sys2Proof.Machine

open Sys2Proof

/-! ## Registers -/

/-- A general register; g0 reads zero (R55). -/
def Thread.gr (x : Thread) (i : BitVec 6) : W64 := if i = 0 then 0 else SMap.get 0#64 x.g i.toNat

/-- Adds a register to a live list. -/
def markLive (l : List Nat) (i : Nat) : List Nat := if l.contains i then l else i :: l

/-- Writes a general register; a write to g0 is discarded (R55, R84). -/
def Thread.setG (x : Thread) (i : BitVec 6) (v : W64) : Thread :=
  if i = 0 then x else { x with g := SMap.set 0#64 x.g i.toNat v, liveG := markLive x.liveG i.toNat }

/-- A vector register (R56). -/
def Thread.vr (x : Thread) (i : BitVec 5) : VReg := SMap.get 0 x.v i.toNat

/-- Writes a vector register. -/
def Thread.setV (x : Thread) (i : BitVec 5) (v : VReg) : Thread :=
  { x with v := SMap.set 0 x.v i.toNat v, liveV := markLive x.liveV i.toNat }

/-- A predicate register; p0 reads all ones (R57). -/
def Thread.pr (x : Thread) (i : BitVec 3) : Pred := if i = 0 then BitVec.allOnes 128 else SMap.get 0 x.p i.toNat

/-- Writes a predicate register; a write to p0 is discarded (R57). -/
def Thread.setP (x : Thread) (i : BitVec 3) (v : Pred) : Thread :=
  if i = 0 then x else { x with p := SMap.set 0 x.p i.toNat v, liveP := markLive x.liveP i.toNat }

/-- The governing predicate of an instruction (Table 03-4). -/
def Thread.gov (x : Thread) (pred : BitVec 3) (neg : Bool) : Pred := if neg then ~~~ x.pr pred else x.pr pred

/-- Moves to the next instruction. -/
def Thread.step (x : Thread) : Thread := { x with pc := x.pc + 8 }

/-- Sets sticky FP_FLAGS (Table 03-3). -/
def Thread.orFlags (x : Thread) (f : FpFlags) : Thread := { x with fpFlags := x.fpFlags ||| f.setWidth 64 }

/-! ## Exceptions -/

/-- The exceptions of Table 03-12; EXC_REMOTE carries the status of the far access. -/
inductive Exc where
  | illegal | address | script | array | table | remote (st : Byte) | data | brk
  deriving DecidableEq, Repr

/-- EXC_CODE. -/
def Exc.code : Exc → W64
  | .illegal => 1 | .address => 2 | .script => 3 | .array => 4 | .table => 5 | .remote _ => 6 | .data => 7 | .brk => 8

/-- EXC_STATUS. -/
def Exc.status : Exc → Byte
  | .illegal => 0x00 | .address => stDenied | .script => stScript | .array => 0x00 | .table => 0x00
  | .remote st => st | .data => stPoison | .brk => 0x00

/-- Whether the exception is a job fault when it is unhandled (Table 03-12). -/
def Exc.isJobFault : Exc → Bool
  | .illegal => true | .address => true | .script => false | .array => true | .table => true | .remote _ => false
  | .data => false | .brk => true

/-- The handler that takes an exception: HANDLER, unless the thread is already in it (R81). -/
def State.handlerOf (s : State) (x : Thread) : Option Nat :=
  if x.inHandler then none else (s.task? x.task).bind fun k => dHandler k.desc

/-- Takes an exception (R81): with a handler the record is written and the PC moves; without one the outcome is the last
column of Table 03-12. No g, v or p register changes. -/
def State.raise (s : State) (t : Tid) (x : Thread) (e : Exc) (addr : W64) : State :=
  let x := { x with excCode := e.code, excPc := x.pc, excAddr := addr, excStatus := e.status.setWidth 64, wait := .ready }
  match s.handlerOf x with
  | some h => s.setThread t { x with pc := BitVec.ofNat 64 h, inHandler := true }
  | none =>
    let s := s.setThread t x
    match s.task? x.task with
    | none => s
    | some k => if e.isJobFault then s.jobFault k.part else s.endCast x.task e.status true

/-! ## Reserved and unused fields -/

/-- Fields of format S an opcode uses. -/
structure SUse where
  gd : Bool := false
  ga : Bool := false
  gb : Bool := false
  gc : Bool := false
  deriving DecidableEq, Repr

/-- W and ORD are zero outside the atomics, reserved and unused fields are zero (R61, R62). -/
def sOk (f : SOp) (u : SUse) (atomic : Bool := false) : Bool :=
  f.rsv == 0 && (atomic || (!f.w && f.ord == 0)) &&
  (u.gd || f.gd == 0) && (u.ga || f.ga == 0) && (u.gb || f.gb == 0) && (u.gc || f.gc == 0)

/-- Format I: the reserved field is zero. -/
def iOk (f : IOp) : Bool := f.rsv == 0

/-- Format A: reserved fields, GA and TAG where unused. -/
def aOk (f : AOp) (gd ga tag : Bool) : Bool :=
  f.rsv == 0 && (gd || f.gd == 0) && (ga || f.ga == 0) && (tag || f.tag == 0)

/-- Format B: reserved fields, GD, GA and DISP where unused. -/
def bOk (f : BOp) (gd ga disp : Bool) : Bool :=
  f.rsv == 0 && (gd || f.gd == 0) && (ga || f.ga == 0) && (disp || f.disp == 0)

/-- IMM sign-extended. -/
def immSx (f : IOp) : W64 := f.imm.signExtend 64

/-! ## Issue -/

/-- Whether a thread may issue now: its slot holds a live thread that is ready, and its core runs (R83, R330, R367). -/
def State.mayIssue (s : State) (x : Thread) : Bool :=
  s.working && !x.ended && x.wait == .ready && decide (x.yieldUntil ≤ s.clk.cycle)

/-- The exception of a bad fetch (R31, R59), or of a word whose OPC no table lists (R61, R63), with EXC_ADDR. -/
def State.fetchExc (s : State) (x : Thread) (k : Task) : Option (Exc × W64) :=
  if x.pc.toNat % 8 ≠ 0 then some (.illegal, 0)
  else if !inside x.pc.toNat 8 (dCodeExt k.desc).1 (dCodeExt k.desc).2 then some (.address, 0)
  else if !s.populated x.pc.toNat 8 then some (.address, 0)
  else if s.poisoned x.pc.toNat 8 then some (.data, x.pc)
  else if !opcListed (BitVec.ofNat 64 (s.num x.pc.toNat 8)) then some (.illegal, 0)
  else none

/-- Issues an instruction of a thread (R59, R61, R62, R80): fetch, then the reserved and unused fields `ok`, then the
predicate, then the field values the opcode refuses (`legal`), then `run`. A slot with no thread that can issue leaves
the state as it is. `always` marks the instructions predicated by element. -/
def State.issue (s : State) (t : Tid) (pred : BitVec 3) (neg : Bool) (ok : Bool) (always : Bool) (legal : Bool)
    (run : Thread → Task → State) : Result :=
  match s.thread? t with
  | none => .next s
  | some x =>
    if !s.mayIssue x then .next s
    else
      match s.task? x.task with
      | none => .next s
      | some k =>
        match s.fetchExc x k with
        | some (e, a) =>
          let s := if e = .data then s.memError (x.pc.toNat / 64 * 64) 0 stPoison k.part else s
          .next (s.raise t x e a)
        | none =>
          if !ok then .next (s.raise t x .illegal 0)
          else if !always && !(x.gov pred neg).getLsbD 0 then .next (s.setThread t x.step)
          else if !legal then .next (s.raise t x .illegal 0)
          else .next (run x k)

/-- A format S instruction whose effect is on the thread alone. -/
def State.sOp (s : State) (t : Tid) (f : SOp) (u : SUse) (extra legal : Bool) (eff : Thread → Thread) : Result :=
  s.issue t f.pred f.pneg (sOk f u && extra) false legal fun x _ => s.setThread t (eff x).step

/-- A format I instruction whose effect is on the thread alone. -/
def State.iOp (s : State) (t : Tid) (f : IOp) (eff : Thread → Thread) : Result :=
  s.issue t f.pred f.pneg (iOk f) false true fun x _ => s.setThread t (eff x).step

end Sys2Proof.Machine
end

