-- ==== Sys2Proof/Machine/Send.lean ====
section
/-! DEFINITION. The sending side of the fabric: ports and routes (R250, R252, R258, R268), end-to-end sequence numbers
(R261, R262), atomic tags (R265) and the fabric-operation log (R332). -/

namespace Sys2Proof.Machine

open Sys2Proof

/-! ## Sending -/

/-- What became of a request when it was to be sent. -/
inductive Sent where
  | sent (seq : W32)
  | lost
  /-- it waits: the store of requests is full, a route change is settling, or the tag limit is met -/
  | waits
  deriving DecidableEq, Repr

/-- Requests a package retains (R262). -/
def pendLimit : Nat := 65536

/-- Lowest tag to a destination that an uncommitted task holds. -/
def State.leastTag (s : State) (dst : BitVec 12) : Option Nat :=
  (s.tasks.flatMap fun e => (e.2.log.filter fun l => l.dst == dst && l.tag != 0).map fun l => l.tag.toNat).min?

/-- CTAG: the highest tag such that it and every lower one belong to committed tasks (R265). -/
def State.ctag (s : State) (dst : BitVec 12) : Nat :=
  match s.leastTag dst with
  | some t => t - 1
  | none => (s.peer dst).nextTag - 1

/-- Whether two requests to one destination keep an order (R47, R49): both OC0, or either OC2. -/
def clsOrdered (a b : BitVec 2) : Bool := (a == 0 && b == 0) || a == 2 || b == 2

/-- Sends a request on a hop (R252, R261, R262): `p` is the sending partition, none for house-manager traffic. A destination known
lost, an unreachable one, and an OC0 request behind one that failed complete with TARGET_LOST unsent. A request waits while an
earlier one that it is ordered with is outstanding on another route (R47, R49, R54). -/
def State.sendVia (s : State) (hop : Hop) (p : Option Nat) (op : Nat) (r : FabReq) (task : Option Nat) (kind : PendKind) :
    State × Sent :=
  let peer := s.peer r.dst
  let ordered := r.cls != 1
  if routeState (s.route r.dst) = 1 ∨ (r.cls = 0 ∧ peer.broken) then (s, .lost)
  else if pendLimit ≤ s.fab.pend.length then (s, .waits)
  else
    match hop with
    | .unreachable ax plus =>
      (s.logFault { detail := BitVec.ofNat 64 (2 * ax + (if plus then 0 else 1)), unit := r.dst.toNat, unitType := 6, cls := 5
                    cause := Config.unreachableCause.toNat, status := stLost, part := p.getD 0xFF }, .lost)
    | .port n =>
      if s.fab.pend.any (fun q => q.req.dst == r.dst && clsOrdered r.cls q.req.cls && (q.moved || q.req.port.val != n % 24)) then
        (s, .waits)
      else
        let seq : W32 := if ordered then BitVec.ofNat 32 (peer.nextOrdered % 2 ^ 31)
          else BitVec.ofNat 32 (2 ^ 31 + peer.nextUnordered % 2 ^ 31)
        let r := { r with port := Fin.ofNat 24 n, src := s.fab.coord.getD 0, seq := seq
                          jobId := match p with | some p => BitVec.ofNat 16 (s.jobId p) | none => 0
                          ctag := BitVec.ofNat 32 (s.ctag r.dst) }
        let peer : Peer := if ordered then { peer with nextOrdered := peer.nextOrdered + 1 }
          else { peer with nextUnordered := peer.nextUnordered + 1 }
        let q : PendReq := { op := op, req := r, task := task, kind := kind }
        let s := s.setPeer r.dst peer
        let s := { s with fab := { s.fab with pend := s.fab.pend ++ [q] } }
        (s.emit op r, .sent seq)

/-- Sends a request on the route to its destination; collective traffic spreads over the ports of each hop (R252). -/
def State.sendReq (s : State) (p : Option Nat) (op : Nat) (r : FabReq) (task : Option Nat) (kind : PendKind) : State × Sent :=
  s.sendVia (s.firstHop p r.dst (if op = 0x10 then (s.peer r.dst).nextUnordered else 0)) p op r task kind

/-- Class bits of an access to a remote address (Table 02-5): a control window travels as OC0. -/
def remoteCls (a : W64) (cls : BitVec 2) : BitVec 2 := if windowOf (glocal a) == .control then 0 else cls

/-- The request header for an access to a global address. -/
def reqTo (a : W64) (cls : BitVec 2) (n : Nat) (die : Nat := 0) (body : List Byte := []) : FabReq :=
  { port := 0, dst := gcoord a, src := 0, cls := remoteCls a cls, lenM1 := BitVec.ofNat 12 (n - 1)
    addr := BitVec.ofNat 52 (glocal a), seq := 0, die := Fin.ofNat 4 die, body := body }

/-! ## Far reads of engines (R50, R240, R269) -/

/-- The storage alias: the far end of a storage port (R27). -/
def storageAlias : BitVec 12 := 0xFFE

/-- Bytes of the first LOAD of n bytes from a local address: the largest size of Table 10-7 that is left and aligned. -/
def loadPiece (l n : Nat) : Nat :=
  (([4096, 512, 64, 8, 4, 2] : List Nat).find? fun z => decide (z ≤ n) && decide (l % min z 64 = 0)).getD 1

/-- How a far read leaves: a FILL from storage on port 20 or 21 (its SRC 10 or 11), none while that is not UP; any other on its
route. -/
def State.jobHop (s : State) (j : FarRead) : Option Hop :=
  if gcoord j.addr ≠ storageAlias then some (s.firstHop (some j.part) (gcoord j.addr))
  else
    match j.job with
    | .fill k =>
      let n := 18 + fld (((SMap.find? k s.fills).map (·.word)).getD 0) 382 381
      if (s.port n).phase == .up then some (.port n) else none
    | _ => none

/-- Sends the LOADs of a far read in order, as OC1, up to a number of them; answers the read as it then stands. -/
def State.jobLoads : Nat → State → FarRead → State × FarRead
  | 0, s, j => (s, j)
  | m + 1, s, j =>
    if j.left = 0 then (s, j)
    else
      let n := loadPiece (glocal j.addr) j.left
      let sent := match s.jobHop j with
        | some hop => s.sendVia hop (some j.part) 1 (reqTo j.addr 1 n) none (.engine j.job)
        | none => (s, .lost)
      match sent with
      | (s, .sent _) =>
        let port := (s.fab.pend.getLast?.map (·.req.port.val)).getD 0
        s.jobLoads m { j with addr := j.addr + BitVec.ofNat 64 n, left := j.left - n, port := port }
      | (s, .lost) => (s, ({ j with left := 0, status := worst j.status stLost } : FarRead))
      | (_, .waits) => (s, j)

/-- Goes on with the far reads that have LOADs left to send, in the order in which they began. -/
def State.pumpJobs (s : State) : State :=
  let (s, js) := s.fab.jobs.foldl (fun (a : State × List FarRead) j =>
    let (s, j) := a.1.jobLoads pendLimit j
    (s, a.2 ++ [j])) (s, [])
  { s with fab := { s.fab with jobs := js } }

/-- Begins a far read of [a, a + n) for a partition. -/
def State.startJob (s : State) (job : EngineJob) (p : Nat) (a : W64) (n : Nat) : State :=
  let j : FarRead := { job := job, part := p, addr := a, left := n }
  ({ s with fab := { s.fab with jobs := s.fab.jobs ++ [j] } }).pumpJobs

/-- A LOAD of a far read has failed: its status joins those of the read (R9). -/
def State.jobFailed (s : State) (job : EngineJob) (st : Byte) : State :=
  let add (j : FarRead) : FarRead := if j.job = job then { j with status := worst j.status st } else j
  { s with fab := { s.fab with jobs := s.fab.jobs.map add } }

/-- Ends a far read: nothing of it stays outstanding. Answers the port it used and the status of its LOADs. -/
def State.endJob (s : State) (job : EngineJob) : State × Nat × Byte :=
  let j := s.fab.jobs.find? fun j => j.job == job
  ({ s with fab := { s.fab with
      jobs := s.fab.jobs.filter fun j => j.job != job
      pend := s.fab.pend.filter fun q => q.kind != .engine job } }, (j.map (·.port)).getD 0, (j.map (·.status)).getD stOk)

/-- A status from another package: a code that Table 00-3 does not list completes the operation with POISON and is logged with the
port it came by (R10). -/
def State.farStatus (s : State) (n : Nat) (st : Byte) : State × Byte :=
  if knownStatus st then (s, st)
  else (s.transient (.port (Fin.ofNat 24 n)) 0x0E (BitVec.ofNat 64 n) (st.setWidth 64) stPoison, stPoison)

/-- The status a far read ends with: what arrived, under R10, and the failures of its LOADs. -/
def State.jobStatus (s : State) (job : EngineJob) (st : Byte) : State × Byte :=
  let (s, n, old) := s.endJob job
  let (s, st) := s.farStatus n st
  (s, worst st old)

/-! ## Atomic tags and the fabric-operation log -/

/-- Records of the fabric-operation log in use (R332). -/
def State.logUsed (s : State) : Nat := s.tasks.foldl (fun n e => n + e.2.log.length + e.2.segs) 0

/-- Capacity of the fabric-operation log. -/
def logSize : Nat := 1048576

/-- The log record of a thread's next atomic in this run, if an earlier run left one (R332). -/
def Task.atomRec (t : Task) (tid : Nat) : Option AtomRec :=
  t.log.find? fun r => r.tid == tid && r.index == SMap.get 0 t.atomCount tid

/-- Stores a result in a log record. -/
def Task.atomResult (t : Task) (tid index : Nat) (res : Byte × W64) : Task :=
  { t with log := t.log.map fun r => if r.tid = tid ∧ r.index = index then { r with result := some res } else r }

/-- Moves a thread past one atomic of its run. -/
def Task.atomNext (t : Task) (tid : Nat) : Task :=
  { t with atomCount := SMap.put tid (SMap.get 0 t.atomCount tid + 1) t.atomCount }

/-- Takes a log record for an atomic of a task (R332). -/
def State.takeLog (s : State) (k : Nat) (t : Task) (r : AtomRec) : State :=
  let t := if t.log.isEmpty && t.segs == 0 then { t with logFirst := s.fab.logNext } else t
  let s := s.setTask k { t with log := t.log ++ [r] }
  { s with fab := { s.fab with logNext := (s.fab.logNext + 1) % logSize } }

/-- Takes a log record for a segment that a task sends (R332). The commit frees it: no message tells this package when the last
receiver has committed (DESIGN CHOICE, log 59). -/
def State.takeSeg (s : State) (k : Option Nat) : State :=
  match k.bind fun k => (s.task? k).map fun t => (k, t) with
  | none => s
  | some (k, t) =>
    let t := if t.log.isEmpty && t.segs == 0 then { t with logFirst := s.fab.logNext } else t
    let s := s.setTask k { t with segs := t.segs + 1 }
    { s with fab := { s.fab with logNext := (s.fab.logNext + 1) % logSize } }

/-- Whether what waits to be sent is a task's segment that finds no free record (R332). -/
def State.logBlocks (s : State) (e : SendReq) : Bool := (e.task.bind s.task?).isSome && decide (logSize ≤ s.logUsed)

/-! ## What a thread has outstanding (R42, R44) -/

/-- The thread a pending request acts for. -/
def PendKind.thread? : PendKind → Option Tid
  | .load t _ _ _ => some t
  | .loadV t _ _ => some t
  | .poll t _ => some t
  | .store t => some t
  | .atomic t _ _ _ _ => some t
  | .fence t _ => some t
  | .inval t _ => some t
  | _ => none

/-- Requests of a thread that are not yet acknowledged. -/
def State.outstanding (s : State) (t : Tid) : List PendReq := s.fab.pend.filter fun q => q.kind.thread? == some t

/-- Whether an access of a thread must wait for an earlier store of it: a store to another package's control window (R32), or
one to the same lines of the same package, since the fabric keeps the order of two ordered requests only (R41, R48). -/
def State.orderWait (s : State) (t : Tid) (a : W64) (n : Nat) (ordered : Bool) : Bool :=
  (s.outstanding t).any fun q => decide (q.op = 2) &&
    (decide (windowOf q.req.addr.toNat = .control) ||
      (q.req.dst == gcoord a && q.meetsLines (glocal a) n && !(ordered && q.req.cls != 1)))

/-- Whether a task this one consumes from is uncommitted (R45). -/
def State.awaitsCommit (s : State) (t : Task) : Bool := s.tasks.any fun e => consumes t e.2

end Sys2Proof.Machine
end

