-- ==== Sys2Proof/Machine/ArrayCtl.lean ====
section
/-! DEFINITION. The array-control instructions ACMD, AWAIT and ASTAT (R72, R73, R87, R103, R104). -/

namespace Sys2Proof.Machine

open Sys2Proof

/-- Key of array ARR of a thread's core. -/
def aKey (t : Tid) (f : AOp) : Nat := t.core.val * 2 + (if f.arr then 1 else 0)

/-- Key of a TAG on an array among a cast's commands. -/
def arrTag (arr tag : Nat) : Nat := arr % 2 * 256 + tag

/-- Output extents of the STREAMs queued or running on an array. -/
def ArrayUnit.streamExts (a : ArrayUnit) : List (Nat × Nat) :=
  a.queue.filterMap fun c => if cmdType c.word = 2 then some (streamOutExt c.word c.cols) else none

/-- The partition's part of a core's tile store as a local range (R223). -/
def State.tsRange (s : State) (p core : Nat) : Nat × Nat := (tileBase core + (s.tsPart p).1, (s.tsPart p).2)

/-- Whether an array command passes the checks of R103 and R104 for a task on an array. -/
def State.cmdOk (s : State) (k : Task) (arr : Nat) (w : W512) : Bool :=
  let a := s.array arr
  let o := s.array (if arr % 2 = 0 then arr + 1 else arr - 1)
  cmdFieldsOk w &&
  match cmdType w with
  | 1 =>
    let src := loadSrcExt w
    let sc := loadScaleExt w
    inside src.1 src.2 k.tsBase k.tsSize && (sc.2 == 0 || inside sc.1 sc.2 k.tsBase k.tsSize) &&
      !o.streamExts.any fun e => overlap e.1 e.2 src.1 src.2
  | 2 =>
    match a.loadCols with
    | none => false
    | some t =>
      let tile := fld w 127 64
      let ts := s.tsRange k.part (arr / 2)
      let e := streamOutExt w t
      decide (t * streamE w ≤ fld w 207 192) && inside tile 1 ts.1 ts.2 && inside e.1 e.2 k.tsBase k.tsSize &&
        !(a.guarded ++ o.guarded).any (fun g => overlap g.1 g.2 e.1 e.2) &&
        !o.streamExts.any fun g => overlap g.1 g.2 e.1 e.2
  | _ => true

/-- An array after it accepts a command of a task under a tag: the claim (R87), the command number (R73), T and the
protection of a LOAD (R93, R104), and the end of T at a RELEASE. Its lead runs from the cycle `now` (R106). -/
def ArrayUnit.accept (a : ArrayUnit) (task tag : Nat) (w : W512) (encore : Bool) (now : Nat) : ArrayUnit :=
  let c : ArrCmd := { seq := a.nextSeq, tag := tag, task := task, word := w, cols := a.loadCols.getD 0, encore := encore
                      lead := if a.queue.isEmpty then none else some now }
  let a := { a with
    owner := some task
    queue := a.queue ++ [c]
    nextSeq := a.nextSeq + 1 }
  match cmdType w with
  | 1 => { a with
      loadCols := some (loadT w)
      guarded := loadSrcExt w :: (if (loadScaleExt w).2 = 0 then [] else [loadScaleExt w]) }
  | 3 => { a with loadCols := none }
  | _ => a

/-- ACMD: queues the 64-byte command at g[GA] on array ARR, labelled TAG (R72). -/
def execAcmd (t : Tid) (f : AOp) (s : State) : Result :=
  s.issue t f.pred f.pneg (aOk f false true true) false true fun x k =>
    let a := x.gr f.ga
    let arr := aKey t f
    let u := s.array arr
    if fld a 63 52 ≠ 0 ∨ a.toNat % 64 ≠ 0 ∨ !inside a.toNat 64 k.tsBase k.tsSize then s.raise t x .address a
    else if s.orderWait t (0xFFF0000000000000#64 ||| a) 64 false then s.setThread t { x with wait := .held }
    else if u.owner.any (· != x.task) ∨ 8 ≤ u.queue.length then s.setThread t { x with wait := .acmd arr }
    else if s.replayHeld (some x.task) (lkey a.toNat) 64 then (s.setThread t { x with wait := .held }).count .replayHolds
    else if s.poisoned a.toNat 64 then
      let (s', began) := s.readError k.part a.toNat [x.task]
      if began then s' else s'.raise t x .data a
    else
      let w := s.word512 a.toNat
      if !s.cmdOk k arr w then s.raise t x .array 0
      else
        let key := arrTag arr f.tag.toNat
        let s := s.setArray arr (u.accept x.task f.tag.toNat w k.encore s.clk.cycle)
        let s := s.setTask x.task { k with arrSeq := SMap.put key u.nextSeq k.arrSeq, arrDone := SMap.del key k.arrDone }
        s.setThread t x.step

/-- AWAIT: waits for the latest command of the cast under TAG; GD ← its status (R73). -/
def execAwait (t : Tid) (f : AOp) (s : State) : Result :=
  s.issue t f.pred f.pneg (aOk f true false true) false true fun x k =>
    let arr := aKey t f
    let key := arrTag arr f.tag.toNat
    match SMap.find? key k.arrSeq with
    | none => s.setThread t (x.setG f.gd 0).step
    | some n =>
      match SMap.find? key k.arrDone with
      | some st => s.setThread t (x.setG f.gd (st.setWidth 64)).step
      | none => s.setThread t { x with wait := .await arr n f.gd.toNat }

/-- ASTAT: GD ← number of commands the array holds (R72). -/
def execAstat (t : Tid) (f : AOp) (s : State) : Result :=
  s.issue t f.pred f.pneg (aOk f true false false) false true fun x _ =>
    s.setThread t (x.setG f.gd (BitVec.ofNat 64 (s.array (aKey t f)).queue.length)).step

end Sys2Proof.Machine
end

