-- ==== Sys2Proof/Machine/Arrays.lean ====
section
/-! DEFINITION. The matrix arrays: the feeder of a LOAD (R88 to R93, R440), tiles and their faults (R94 to R96, R234),
integer sums (R97 to R99), the combiner (R100 to R102), rehearsal (R140 to R144), and RELEASE (R87). -/

namespace Sys2Proof.Machine

open Sys2Proof

/-- Adds engine time: VCLOCK and ENGINE_TIME of a partition grow alike (R292). -/
def State.engineTime (s : State) (p n : Nat) : State := (s.count .engineTime p n).count .vclock p n

/-! ## The feeder -/

/-- ⌊log₂|x|⌋ of a non-zero finite value. -/
def log2Val : FVal → Int
  | .fin _ m e => (Nat.log2 m : Int) + e
  | _ => 0

/-- Largest exponent of the non-zero values of a list. -/
def maxExp (vs : List FVal) : Option Int :=
  (vs.filterMap fun v => if v.isZero then none else some (log2Val v)).max?

/-- q = RNE(x × 2^(10 − E)) (R90). -/
def alignQ (ex : Int) : FVal → Int
  | .fin n m e => (fpToInt n m (e + 10 - ex)).1
  | _ => 0

/-- One column's block of a LOAD as the feeder reads it: its 32 element values, or a NaN block, and the infinities
clipped (R89, R115). -/
def State.loadBlock (s : State) (w : W512) (f : ElemFmt) (scaled : Bool) (j t : Nat) : Option (List FVal) × Nat :=
  let (src, _) := loadSrcExt w
  let kv := loadKv w
  if kv ≤ 32 * j then (some (List.replicate 32 (.fin false 0 0)), 0)
  else
    let elems := (List.range 32).map fun r =>
      let k := 32 * j + r
      if k < kv then
        let bitOff := f.width * t
        (s.num (src + k * fld w 63 48 + bitOff / 8) 3 >>> (bitOff % 8)) % 2 ^ f.width
      else 0
    let code := if scaled then (s.byte (fld w 191 128 + 128 * j + t)).toNat else 0x7F
    let (vs, c) := readBlock f scaled code elems
    (vs.map fun l => l.map fun v => v.scale ((fld w 31 24 : Int) - 127), c)

/-- The stationary block a LOAD forms, with the counts of ALIGN_ZEROED, NaN blocks and clipped infinities (R88 to R92).
`wide` also keeps the exact element values for rehearsal. -/
def State.feed (s : State) (w : W512) (wide : Bool) : Block × Nat × Nat × Nat :=
  match afmt (fld w 7 4) with
  | none => ({ cols := 0, align := false }, 0, 0, 0)
  | some (f, scaled) =>
    let t := loadT w
    let align := bit w 8
    -- by column, by block: values or NaN, clipped
    let cols := (List.range t).map fun c => (List.range 8).map fun j => s.loadBlock w f scaled j c
    let colE := cols.map fun bs => maxExp (bs.flatMap fun b => b.1.getD [])
    -- by column, by block: exponent E, q values
    let al := (cols.zip colE).map fun (bs, ce) => bs.map fun b =>
      let vs := b.1.getD []
      match maxExp vs with
      | none => ((0 : Int), List.replicate 32 (0 : Int), 0)
      | some e =>
        let e := if align then ce.getD e else e
        let qs := vs.map (alignQ e)
        (e - 10, qs, (vs.zip qs).countP fun (v, q) => !v.isZero && q == 0)
    let qAt (c k : Nat) : Int := (((al.getD c []).getD (k / 32) (0, [], 0)).2.1).getD (k % 32) 0
    let q := (List.range 256).flatMap fun k => (List.range t).filterMap fun c =>
      let v := qAt c k
      if v = 0 then none else some (128 * k + c, v)
    let ea := (List.range 8).flatMap fun j => (List.range t).filterMap fun c =>
      let v := ((al.getD c []).getD j (0, [], 0)).1
      if v = 0 then none else some (128 * j + c, v)
    let sums := (List.range 8).flatMap fun j => (List.range t).filterMap fun c =>
      let v := (((al.getD c []).getD j (0, [], 0)).2.1).foldl (· + ·) 0
      if v = 0 then none else some (128 * j + c, v)
    let nan := (List.range 8).flatMap fun j => (List.range t).filterMap fun c =>
      if ((cols.getD c []).getD j (none, 0)).1.isNone then some (128 * j + c, true) else none
    let x := if !wide then [] else (List.range 256).flatMap fun k => (List.range t).filterMap fun c =>
      match (((cols.getD c []).getD (k / 32) (none, 0)).1.getD []).getD (k % 32) (.fin false 0 0) with
      | .fin n m e => if m = 0 then none else some (128 * k + c, ((if n then -(m : Int) else (m : Int)), e))
      | _ => none
    let zeroed := al.foldl (fun a bs => bs.foldl (fun a b => a + b.2.2) a) 0
    let clipped := cols.foldl (fun a bs => bs.foldl (fun a b => a + b.2) a) 0
    ({ cols := t, align := align, q := q, ea := ea, sums := sums, nan := nan, x := x }, zeroed, nan.length, clipped)

/-- Marks the front command of an array as run, with a status and the row or plane cycles its run takes. -/
def ArrayUnit.ran (a : ArrayUnit) (st : Byte) (cycles : Nat := 0) : ArrayUnit :=
  match a.queue with
  | c :: cs => { a with queue := { c with ran := true, status := st, left := cycles } :: cs }
  | [] => a

/-- The front command of an array that may run now, of a type. -/
def State.frontCmd (s : State) (k : Nat) (ty : Nat) : Option (ArrCmd × Task) :=
  if !s.working then none
  else
    match (s.array k).queue with
    | c :: _ => if c.ran || cmdType c.word ≠ ty then none else (s.task? c.task).map fun t => (c, t)
    | [] => none

/-- Whether a replay holds what a LOAD of a task reads (R336). -/
def State.loadHeld (s : State) (task : Nat) (w : W512) : Bool :=
  (loadReads w).any fun e => s.replayHeld (some task) (lkey e.1) e.2

/-- The 256 row cycles of a LOAD of a task (R88, R109, R143, R292). -/
def State.loadCycles (s : State) (arr : Nat) (t : Task) : State :=
  let s := s.engineTime t.part (64 * 256)
  if recRehearsal (s.layerRec t.part (dLayer t.desc)) = 0 then s.count .rowCycles arr 256
  else s.count .rehearsalCycles (arr / 2) 256

/-- Runs a LOAD of a task on an array: 256 row cycles, the counters, and the stationary block with the status the LOAD takes; an
uncorrectable error among the bytes it reads begins a replay (none) or poisons the block (R88 to R92, R440, R140). In wide
rehearsal nothing is aligned, so nothing counts in ALIGN_ZEROED (DESIGN CHOICE, log 34). -/
def State.runLoad (s : State) (arr task : Nat) (t : Task) (w : W512) : State × Option (Block × Byte) :=
  let mode := recRehearsal (s.layerRec t.part (dLayer t.desc))
  let s := s.loadCycles arr t
  match (loadReads w).findSome? fun e => s.poisonAt e.1 e.2 with
  | some l =>
    let (s', began) := s.readError t.part l [task]
    if began then (s', none)
    else (s'.count .nanBlocks arr, some ({ cols := loadT w, align := bit w 8, poisoned := true }, stPoison))
  | none =>
    let (b, zeroed, nans, clipped) := s.feed w (mode == 2)
    let s := (s.count .alignZeroed arr (if mode = 2 then 0 else zeroed)).count .nanBlocks arr nans
    (s.layerCounts t.part (dLayer t.desc) { clipped := clipped }, some (b, stOk))

/-- LOAD: forms the stationary block in 256 row cycles (R88 to R93, R440, R140). -/
def execLoad (a : ArrRef) (s : State) : Result :=
  let k := arrKey a
  match s.frontCmd k 1 with
  | none => .next s
  | some (c, t) =>
    if s.loadHeld c.task c.word then .next s
    else
      match s.runLoad k c.task t c.word with
      | (s', none) => .next s'
      | (s', some (b, st)) => .next (s'.setArray k { (s.array k).ran st 256 with block := some b, loaded := some c.word })

/-! ## Tiles -/

/-- The header of a tile as the array takes it (Table 04-5): OBJECT_ID, TILE_INDEX, LENGTH, column bytes, Z_n, scale
codes. -/
structure TileHead where
  object : Nat
  index : Nat
  length : Nat
  cols : List Nat
  z : List Nat
  scales : List Nat
  deriving DecidableEq, Repr

/-- Reads a header from a tile's first 704 bytes (Tables 05-5 and 05-6). -/
def tileHead (bs : List Byte) : TileHead :=
  let num (o n : Nat) : Nat := leNat ((bs.drop o).take n)
  let list (o n : Nat) : List Nat := ((bs.drop o).take n).map BitVec.toNat
  { object := num 0x38 8, index := num 0x34 4, length := num 0x2C 4, cols := list 0x40 64, z := list 0x80 64
    scales := list 0xC0 512 }

/-- P_n of a column byte. -/
def colP (b : Nat) : Nat := b / 16
/-- C_n of a column byte. -/
def colC (b : Nat) : Nat := b % 16

/-- Positions P − 1 down to P − n. -/
def positionsFrom (p n : Nat) : List Nat := (List.range n).map fun i => p - 1 - i

/-- A column of a tile: P, C, Z, its scale codes, and its carried planes from the top down, a flagged one as 0 (R127). -/
structure TileCol where
  p : Nat
  c : Nat
  z : Nat
  scales : List Nat
  planes : List Nat
  deriving DecidableEq, Repr

/-- The planes of columns, read one after another from offset `off` of a tile at local address `base`. -/
def State.tileCols (s : State) (base : Nat) (h : TileHead) : List TileCol :=
  ((List.range 64).foldl (fun (acc : List TileCol × Nat) n =>
    let b := h.cols.getD n 0
    let z := h.z.getD n 0
    let (ps, off) := (positionsFrom (colP b) (colC b)).foldl (fun (a : List Nat × Nat) pos =>
      if z.testBit pos then (a.1 ++ [0], a.2) else (a.1 ++ [s.num (base + a.2) 32], a.2 + 32)) ([], acc.2)
    (acc.1 ++ [{ p := colP b, c := colC b, z := z, scales := (h.scales.drop (8 * n)).take 8, planes := ps }], off))
    ([], 0x300)).1

/-- Consumed planes of a column under PCAP (R94). -/
def TileCol.used (x : TileCol) (pcap : Nat) : Nat := if pcap = 0 then x.c else min x.c pcap

/-- Flagged positions among those consumed. -/
def TileCol.zeros (x : TileCol) (pcap : Nat) : Nat := (positionsFrom x.p (x.used pcap)).countP fun b => x.z.testBit b

/-- w_c[k] (R97): the consumed planes' value of row k. -/
def TileCol.weight (x : TileCol) (pcap k : Nat) : Int :=
  (((positionsFrom x.p (x.used pcap)).zip x.planes).map fun (b, v) =>
    if !v.testBit k then (0 : Int) else if b + 1 = x.p then -(2 ^ b : Int) else 2 ^ b).foldl (· + ·) 0

/-- κ (R97): half a unit of the lowest consumed plane. -/
def TileCol.kappa (x : TileCol) (pcap : Nat) : Int :=
  let c := x.used pcap
  if c < x.p then 2 ^ (x.p - c - 1) else 0

/-- Whether a tile's column bytes fault it (R96). -/
def TileHead.faulty (h : TileHead) : Bool := h.cols.any fun b => decide (colP b < colC b ∨ colP b = 0 ∨ 8 < colP b)

/-- What becomes of a tile when its header is read. -/
inductive TileRead where
  /-- a ready bit is clear: the array waits -/
  | wait
  /-- an uncorrectable error within an uncommitted task's output: a replay -/
  | replay (l : Nat)
  /-- faulted, with the reason of R96 and the failed line for reason 3 -/
  | faulted (reason : Nat) (line : Option Nat)
  | good (cols : List TileCol)
  deriving DecidableEq, Repr

/-- Whether a unit list meets [o, o+n) of a tile store, units of 128 bytes. -/
def unitsMeet (us : List Nat) (o n : Nat) : Bool := us.any fun u => overlap (u * 128) 128 o n

/-- Offsets in a tile of the planes an array reads: the consumed ones that are not flagged (R94, R127). -/
def TileHead.planeOffs (h : TileHead) (pcap : Nat) : List Nat :=
  ((h.cols.zip h.z).foldl (fun (a : List Nat × Nat) (b, z) =>
    let used := if pcap = 0 then colC b else min (colC b) pcap
    let stored := (positionsFrom (colP b) (colC b)).zipIdx.filter fun e => !z.testBit e.1
    let read := stored.countP fun e => decide (e.2 < used)
    (a.1 ++ (List.range read).map (a.2 + 32 * ·), a.2 + 32 * stored.length)) ([], 0x300)).1

/-- Units from `u` to the end of the extent that a poisoned entry was placed in (R235): the run of poisoned units from `u`, no
further than the entry of the selected sheet that covers it. -/
def State.poisonExtent (s : State) (p core u : Nat) : Nat :=
  let c := s.core core
  let run := ((List.range 32768).find? fun i => !c.poisonUnits.contains (u + i)).getD 0
  let last (e : CueEntry) : Option Nat :=
    let d := fld e.word 58 44
    let n := fld e.word 151 136
    if fld e.word 66 59 = core ∧ d ≤ u ∧ u < d + n then some (d + n - u) else none
  match (s.selSheet p).bind fun sh => sh.entries.findSome? last with
  | some n => min n run
  | none => run

/-- What an uncorrectable error in a line does to the reading of a tile: a replay where the line is the output of an uncommitted
task, else the fault. -/
def State.tileError (s : State) (p l : Nat) : TileRead :=
  if (s.producerOf p l 64).isSome then .replay l else .faulted 3 (some l)

/-- Reads the tile at a local address on a core for a partition under a PCAP (R94, R96, R234): the ready and poison bits of its
base, its 704 header bytes, the extent LENGTH gives, its column bytes, then the planes consumed. Of several faults the first
in that order gives the reason (DESIGN CHOICE, log 34). The tile of a poisoned entry ends with the entry's extent. -/
def State.readTile (s : State) (p core addr pcap : Nat) : TileHead × TileRead :=
  let c := s.core core
  let ts := s.tsRange p core
  let o := addr - tileBase core
  let h := tileHead (s.bytes addr 704)
  if unitsMeet c.unready o 128 then (h, .wait)
  else if c.poisonUnits.contains (o / 128) then
    ({ h with length := 128 * s.poisonExtent p core (o / 128) }, .faulted 3 (some addr))
  else
    match s.poisonAt addr 704 with
    | some l => (h, s.tileError p l)
    | none =>
      if !inside addr (max h.length 1) ts.1 ts.2 then (h, .faulted 2 none)
      else if unitsMeet c.unready o h.length then (h, .wait)
      else if unitsMeet c.poisonUnits o h.length then (h, .faulted 3 (some addr))
      else if h.faulty then (h, .faulted 1 none)
      else
        match (h.planeOffs pcap).findSome? fun x => s.poisonAt (addr + x) 32 with
        | some l => (h, s.tileError p l)
        | none => (h, .good (s.tileCols addr h))

/-! ## The combiner -/

/-- y + S × 2^x with one rounding (R100). -/
def addTerm (y : Nat) (sm x : Int) : Nat :=
  (fpRound .fp32 (fpSumExact (fpDecode .fp32 y) (.fin (decide (sm < 0)) sm.natAbs x)).1).1

/-- S[j] for a column of the stationary block (R97). -/
def Block.sum (b : Block) (ws : List Int) (kappa : Int) (j t : Nat) : Int :=
  (((List.range 32).map fun r => ws.getD (32 * j + r) 0 * SMap.get 0 b.q (128 * (32 * j + r) + t)).foldl (· + ·) 0) +
    kappa * SMap.get 0 b.sums (128 * j + t)

/-- Whether a slice is fused against a block (R101). -/
def Block.fused (b : Block) (sc : List Nat) : Bool :=
  b.align && sc.all (fun c => c == sc.headD 0) && decide (1 ≤ sc.headD 0 ∧ sc.headD 0 ≤ 0xFE)

/-- Whether every output of a column is NaN: a NaN block of the column (R91) or a scale code of 0xFF (R99). -/
def Block.nanOut (b : Block) (sc : List Nat) (t : Nat) : Bool :=
  b.poisoned || sc.any (· == 0xFF) || (List.range 8).any fun j => SMap.get false b.nan (128 * j + t)

/-- The combined FP32 value of one slice and column (R100, R101). A fused slice always adds its one term, a zero one included;
only the loop of R100 skips. -/
def Block.combine (b : Block) (ws : List Int) (kappa : Int) (sc : List Nat) (t y : Nat) : Nat :=
  let ss := (List.range 8).map fun j => b.sum ws kappa j t
  if b.fused sc then
    let total := ss.foldl (· + ·) 0
    let ea := ((List.range 8).find? fun j => ss.getD j 0 ≠ 0).map fun j => SMap.get 0 b.ea (128 * j + t)
    addTerm y total ((sc.headD 0 : Int) - 127 + ea.getD 0)
  else
    (List.range 8).foldl (fun y j =>
      let v := ss.getD j 0
      let c := sc.getD j 0
      if c = 0 ∨ v = 0 then y else addTerm y v ((c : Int) - 127 + SMap.get 0 b.ea (128 * j + t))) y

/-- The wide-rehearsal value of one slice and column (R142). -/
def Block.wideSum (b : Block) (ws : List Int) (kappa : Int) (sc : List Nat) (t y : Nat) : Nat :=
  (List.range 256).foldl (fun y k =>
    let c := sc.getD (k / 32) 0
    let (m, e) := SMap.get (0, 0) b.x (128 * k + t)
    let w := ws.getD k 0 + kappa
    if c = 0 ∨ m * w = 0 then y else addTerm y (m * w) (e + c - 127)) y

/-- An output element's bytes: FP32, or BF16 rounded from it. -/
def outBytes (bf : Bool) (y : Nat) : List Byte :=
  if bf then bytesLE 2 (fpRound .bf16 (fpDecode .fp32 y)).1 else bytesLE 4 y

/-- Whether output bytes spell ±∞. -/
def outInf (bs : List Byte) : Bool :=
  let f := if bs.length = 2 then Fmt.bf16 else Fmt.fp32
  match fpDecode f (leNat bs) with
  | .inf _ => true
  | _ => false

/-- Progress of a STREAM over its tiles. -/
structure StreamRun where
  s : State
  addr : Nat
  status : Byte := stOk
  /-- present slices so far (R143) -/
  slices : Nat := 0
  /-- plane cycles so far -/
  cycles : Nat := 0
  /-- the run stopped for a replay -/
  stopped : Bool := false

/-- The redirection record of a tile address in an encore (R238). -/
def State.redirect (s : State) (t : Task) (core addr : Nat) : Option Redirect :=
  ((SMap.get { kinds := [] } (s.part t.part).encores (dLayer t.desc)).redirects.find? fun r =>
    r.1 == core && r.2.1 == addr).map fun r => r.2.2

/-- Whether the command behind an array's front one is a STREAM, whose first tile is then the next tile (R107). -/
def State.streamNext (s : State) (arr : Nat) : Bool :=
  match (s.array arr).queue with
  | _ :: d :: _ => cmdType d.word == 2
  | _ => false

/-- Writes one output element. -/
def StreamRun.put (r : StreamRun) (a : Nat) (bs : List Byte) (arr : Nat) : StreamRun :=
  let s := r.s.writeMem a bs
  { r with s := if outInf bs then s.count .combOvf arr else s }

/-- Runs tile i of a STREAM on array `arr` for a task, against a block (R94 to R102, R142). DESIGN CHOICES (log 34): a fused pair
whose output a NaN rule forces counts nothing in FUSED_SLICES, nor does one of wide rehearsal; an ACC input in a line with an
uncorrectable error is taken as it stands, with no status and no record. -/
def StreamRun.tile (r : StreamRun) (arr : Nat) (c : ArrCmd) (t : Task) (b : Block) (mode i : Nat) : StreamRun :=
  if r.stopped then r
  else
    let w := c.word
    let core := arr / 2
    let red := if c.encore then r.s.redirect t core r.addr else none
    let at_ := (red.map (·.addr)).getD r.addr
    let pcap := if c.encore then 0 else fld w 11 8
    let (h, rd) := r.s.readTile t.part core at_ pcap
    let next := roundUp 128 (r.addr + (red.map (·.baseLen)).getD h.length)
    let bf := bit w 5
    let out (n tc : Nat) : Nat := fld w 191 128 + (64 * i + n) * fld w 207 192 + tc * streamE w
    let nan := if bf then bytesLE 2 (Fmt.nanBits .bf16) else bytesLE 4 (Fmt.nanBits .fp32)
    let cyc (r : StreamRun) (p : Nat) : StreamRun :=
      { r with cycles := r.cycles + p, addr := next
               s := if p < 8 ∧ (i + 1 < streamNt w ∨ r.s.streamNext arr = true) then r.s.count .headerWait arr (8 - p) else r.s }
    match rd with
    | .wait => { r with stopped := true }
    | .replay l => { r with stopped := true, s := (r.s.readError t.part l [c.task]).1 }
    | .faulted reason line =>
      let s := match line with
        | some l => r.s.transient (.core ⟨core % 256, Nat.mod_lt _ (by decide)⟩) 0x01 (BitVec.ofNat 64 l) 0 stPoison t.part
        | none => r.s
      let s := s.logFault { detail := BitVec.ofNat 64 h.object, unit := core, unitType := 3, cls := 5, cause := 0x17
                            status := stPoison, part := t.part
                            detail2 := BitVec.ofNat 64 (h.index * 2 ^ 32 + arr % 2 * 2 ^ 24 + reason * 2 ^ 16) }
      let r := { r with s := s.count .poisonTiles arr, status := stPoison }
      let r := (List.range 64).foldl (fun r n => (List.range b.cols).foldl (fun r tc => r.put (out n tc) nan arr) r) r
      cyc r 64
    | .good cols =>
      let present := ((List.range 64).zip cols).filter fun e => e.2.c ≠ 0
      let pi := present.foldl (fun a e => a + max 1 (e.2.used pcap - e.2.zeros pcap)) 0
      let z := present.foldl (fun a e => a + e.2.zeros pcap) 0
      let r := { r with s := r.s.count .zeroPlanes arr z, slices := r.slices + present.length }
      let r := present.foldl (fun r e =>
        let ws := (List.range 256).map (e.2.weight pcap)
        let kp := e.2.kappa pcap
        (List.range b.cols).foldl (fun r tc =>
          let a := out e.1 tc
          if b.nanOut e.2.scales tc then r.put a nan arr
          else
            let y := if bit w 4 then r.s.num a 4 else 0
            let y := if mode = 2 then b.wideSum ws kp e.2.scales tc y else b.combine ws kp e.2.scales tc y
            let r := if mode ≠ 2 && b.fused e.2.scales then { r with s := r.s.count .fusedSlices arr } else r
            r.put a (outBytes bf y) arr) r) r
      cyc r pi

/-- Indices of the tiles of a STREAM whose header read would wait now, the addresses followed by their headers (R234). -/
def State.lateTiles (s : State) (arr : Nat) (c : ArrCmd) (t : Task) : List Nat :=
  ((List.range (streamNt c.word)).foldl (fun (acc : List Nat × Nat) i =>
    let red := if c.encore then s.redirect t (arr / 2) acc.2 else none
    let (h, rd) := s.readTile t.part (arr / 2) ((red.map (·.addr)).getD acc.2) (if c.encore then 0 else fld c.word 11 8)
    (if rd = .wait then acc.1 ++ [i] else acc.1, roundUp 128 (acc.2 + (red.map (·.baseLen)).getD h.length)))
    ([], fld c.word 127 64)).1

/-- Whether the STREAM at the front of an array waits for a tile whose header read is due; a tile is counted in LATE_TILES once,
when its wait is first seen (R234). -/
def State.lateTile (s : State) (k : Nat) (c : ArrCmd) (t : Task) : State × Bool :=
  match s.lateTiles k c t with
  | [] => (s, false)
  | i :: _ =>
    if c.late.contains i then (s, true)
    else
      let u := s.array k
      let q := match u.queue with | x :: xs => { x with late := x.late ++ [i] } :: xs | [] => []
      ((s.setArray k { u with queue := q }).count .lateTiles t.part, true)

/-- Rehearsal time of a STREAM (R143), rounded up to whole cycles. -/
def rehearsalTime (mode slices t : Nat) : Nat :=
  (if mode = 1 then ceilDiv (33 * slices * t) 16 else slices * t) + 12

/-- STREAM: runs the tiles of the run against the stationary block. A tile that is not ready holds the command and counts
once in LATE_TILES (R234). -/
def execStream (a : ArrRef) (s : State) : Result :=
  let k := arrKey a
  match s.frontCmd k 2 with
  | none => .next s
  | some (c, t) =>
    let u := s.array k
    match u.block with
    | none => .next s
    | some b =>
      match s.lateTile k c t with
      | (s, true) => .next s
      | (s, false) =>
        let mode := recRehearsal (s.layerRec t.part (dLayer t.desc))
        let ext := streamOutExt c.word c.cols
        let r := (List.range (streamNt c.word)).foldl (fun r i => StreamRun.tile r k c t b mode i)
          ({ s := s, addr := fld c.word 127 64, status := if b.poisoned then stPoison else stOk } : StreamRun)
        if r.stopped then .next r.s
        else
          let s := r.s
          let time := if mode = 0 then r.cycles else rehearsalTime mode r.slices b.cols
          let s := if mode = 0 then s.count .planeCycles k time else s.count .rehearsalCycles (k / 2) time
          let s := s.engineTime t.part (64 * time)
          let s := match s.task? c.task with
            | some t => s.setTask c.task (t.noteWrite ext.1 ext.2)
            | none => s
          .next (s.setArray k ((s.array k).ran r.status time))

/-- RELEASE: runs when it reaches the front of the queue; it takes effect when it completes (R87). -/
def execRelease (a : ArrRef) (s : State) : Result :=
  let k := arrKey a
  match s.frontCmd k 3 with
  | none => .next s
  | some _ => .next (s.setArray k ((s.array k).ran stOk))

/-- Wakes the threads that await a command of an array: GD ← its status. -/
def State.wakeAwait (s : State) (arr seq : Nat) (st : Byte) : State :=
  { s with threads := SMap.mapVals (fun _ (x : Thread) =>
      match x.wait with
      | .await a n gd =>
        if a = arr ∧ n = seq then ({ x with wait := .ready }.setG (BitVec.ofNat 6 gd) (st.setWidth 64)).step else x
      | _ => x) s.threads }

/-- The lead of a LOAD whose source overlaps the output of an earlier STREAM begins when that STREAM completes (R104). -/
def ArrCmd.leadAfter (d c : ArrCmd) (now : Nat) : ArrCmd :=
  let o := streamOutExt c.word c.cols
  if cmdType c.word = 2 ∧ cmdType d.word = 1 ∧ overlap (loadSrcExt d.word).1 (loadSrcExt d.word).2 o.1 o.2 = true then
    { d with lead := some now }
  else d

/-- What a completed command leaves of an array: a RELEASE ends the protection and the block, and frees the array unless
commands of the cast follow; an array whose cast has ended is freed with its last command (R87). -/
def State.afterCommand (s : State) (k : Nat) (c : ArrCmd) : ArrayUnit :=
  let u := s.array k
  let u := { u with queue := (u.queue.drop 1).map fun d => d.leadAfter c s.clk.cycle }
  let u := if cmdType c.word ≠ 3 then u
    else { u with block := none, loaded := none, guarded := if u.queue.any (fun d => cmdType d.word = 1) then u.guarded else [] }
  let ended := (s.threadsOf c.task).isEmpty
  if u.queue.isEmpty && (cmdType c.word == 3 || ended) then u.freed else u

/-- ARRAY_COMMAND_COMPLETE: the front command completes; its status is what AWAIT returns (R72, R73, R87). -/
def execArrayCommandComplete (a : ArrRef) (s : State) : Result :=
  let k := arrKey a
  match (s.array k).queue with
  | [] => .next s
  | c :: _ =>
    if !c.ran then .next s
    else
      let key := arrTag k c.tag
      let s1 := match s.task? c.task with
        | some t => if SMap.find? key t.arrSeq = some c.seq then
            s.setTask c.task { t with arrDone := SMap.put key c.status t.arrDone } else s
        | none => s
      .next (((s1.setArray k (s.afterCommand k c)).wakeAwait k c.seq c.status).wakeAcmd k)

end Sys2Proof.Machine
end

