-- ==== Sys2Proof/Machine/FabricOps.lean ====
section
/-! DEFINITION. What becomes of a request this package has sent: its response (R36, R43, R44, R78, R332), its failure (R47,
R262), and its resending when its port leaves UP (R262). -/

namespace Sys2Proof.Machine

open Sys2Proof

/-- The global address a pending access names. -/
def PendReq.globalAddr (q : PendReq) : W64 :=
  let off := match q.kind with | .load _ _ _ o => o | .poll _ o => o | _ => 0
  BitVec.ofNat 64 (q.req.dst.toNat * 2 ^ 52 + q.req.addr.toNat + off)

/-- The partition that sent a pending request; none for the house manager and the PF. -/
def State.pendPart (s : State) (q : PendReq) : Option Nat :=
  match q.task.bind s.task? with
  | some t => some t.part
  | none =>
    match q.kind with
    | .bar4Read f _ _ => if f = 0 then none else some (f - 1)
    | .bar4Write f => if f = 0 then none else some (f - 1)
    | .engine j => (s.fab.jobs.find? fun x => x.job == j).map (·.part)
    | .coll p _ => some p
    | .cast p _ _ => some p
    | _ => none

/-- The thread that waits for a request under its sequence number. -/
def State.awaiting (s : State) (t : Tid) (q : PendReq) : Option Thread :=
  match s.thread? t with
  | some x => if x.wait = .far q.req.dst q.req.seq then some x else none
  | none => none

/-- What a failed far access does to the thread that waits for it (Table 03-12). -/
def State.farFail (s : State) (t : Tid) (x : Thread) (st : Byte) (a : W64) : State :=
  s.raise t x (if st = stPoison then .data else .remote st) a

/-- Whole lines that a load brings in enter the issuing die's cache, unless an invalidate or an acquire has passed them, or a store
of this package to them has been performed since or is outstanding (R32, R36, R38, R41, R43). -/
def State.landFill (s : State) (q : PendReq) (die : Nat) (st : Byte) (body : List Byte) : State :=
  let a : W64 := BitVec.ofNat 64 (q.req.dst.toNat * 2 ^ 52 + q.req.addr.toNat)
  if failing st || q.noFill || !cacheable a || q.req.lenM1.toNat < 63 ||
      s.writeOut q.req.dst q.req.addr.toNat (q.req.lenM1.toNat + 1) then s
  else (chunks 64 body).zipIdx.foldl (fun s c => s.cacheFill die (lineOf a + c.2) (leWord 512 c.1)) s

/-- Records a failed store or invalidate of a thread: the worst status and the first address (R78). A thread that has ended carries
it into its task, whoever holds its slot since. -/
def State.storeFail (s : State) (t : Tid) (task : Option Nat) (st : Byte) (a : W64) : State :=
  let late : State := match task with | some k => s.taskStatus k st | none => s
  match s.thread? t with
  | some x =>
    if task = some x.task then
      s.setThread t { x with failStatus := worst x.failStatus st, farAddr := if x.failStatus = stOk then a else x.farAddr }
    else late
  | none => late

/-- Elements of a vector load under its predicate, per 4-byte element (R62). -/
def loadLanes (old : VReg) (mask : Pred) (body : List Byte) : VReg :=
  leWord 4096 ((List.range 512).map fun i =>
    if mask.getLsbD (i / 4) then body.getD i 0 else BitVec.ofNat 8 (old.toNat >>> (8 * i)))

/-- Ends a WAITV: GD takes the last value, p7 says whether it matched (R76). -/
def State.waitvEnd (s : State) (t : Tid) (x : Thread) (gd : Nat) (v : W64) (hit : Bool) : State :=
  s.setThread t ({ ((x.setG (BitVec.ofNat 6 gd) v).setP 7 (if hit then BitVec.allOnes 128 else 0)).step with wait := .ready })

/-- The value of a poll reaches a waiting thread: a match ends the WAITV, as does a single poll (R76). -/
def State.pollValue (s : State) (t : Tid) (x : Thread) (v : W64) : State :=
  match x.wait with
  | .waitv gd a e _ _ once =>
    if v = e ∨ once then s.waitvEnd t x gd v (v == e) else s.setThread t { x with wait := .waitv gd a e v true once }
  | _ => s

/-- Records and reports a refused or failed BAR4 access (Tables 17-5 and 17-6). -/
def State.bar4Fail (s : State) (f : Nat) (a : W64) (st : Byte) : State :=
  let h := s.hostFn f
  let s := (s.count .bar4Refusals f).send (.aer f .unsupportedRequest)
  if h.faultStatus = 0 then s.setHostFn f { h with faultAddr := a, faultStatus := st } else s

/-- A piece of a BAR4 read arrives; the completion leaves with the last (R422, R423). -/
def State.hostPiece (s : State) (id pos : Nat) (st : Byte) (body : List Byte) : State :=
  match SMap.find? id s.fab.hostReads with
  | none => s
  | some r =>
    let r := { r with bytes := memPut r.bytes pos body, left := r.left - 1, ok := r.ok && !failing st }
    if r.left ≠ 0 then { s with fab := { s.fab with hostReads := SMap.put id r s.fab.hostReads } }
    else
      let s := { s with fab := { s.fab with hostReads := SMap.del id s.fab.hostReads } }
      s.send (.completion r.fn r.ok (if r.ok then (List.range r.n).map (SMap.get 0 r.bytes ·) else []))

/-! ## Segments (R207, R270, R275) -/

/-- A collective's run by its identifier. -/
def State.coll? (s : State) (p : Nat) (id : Nat) : Option CollRun := SMap.find? id (s.part p).colls
/-- Replaces a collective's run. -/
def State.setColl (s : State) (p : Nat) (c : CollRun) : State :=
  s.modPart p fun x => { x with colls := SMap.put (cId c.desc).toNat c x.colls }

/-- Posts a segment of a collective and keeps it for a participant that replays (R270, R277). -/
def State.collPost (s : State) (p : Nat) (dst : BitVec 12) (g : CollSegment) : State :=
  let id := g.collId.toNat
  (s.postSeg p dst (.coll g) (.coll p id) ((s.coll? p id).map (·.task))).modPart p fun x =>
    { x with sentSegs := SMap.put id (SMap.get [] x.sentSegs id ++ [(dst, g)]) x.sentSegs }

/-- Ends a collective well. -/
def State.collEnd (s : State) (p : Nat) (c : CollRun) : State :=
  ((s.setColl p { c with ended := some stOk }).count .collectives).modPart p fun x => { x with doneColls := cId c.desc :: x.doneColls }

/-- Credits each sender holds at the root of a merge (R275). -/
def mergeCredits : Nat := 16

/-- Segments of a collective that wait to be sent or for their credit. -/
def State.collOut (s : State) (p id : Nat) : Nat :=
  (s.fab.pend.countP fun q => q.kind == .coll p id) + s.fab.sendq.countP fun q => q.kind == .coll p id

/-- A sender of a merge posts the partials its credits let go, and ends once the root has accepted every one (R275). -/
def State.collFeed (s : State) (p id : Nat) : State :=
  match s.coll? p id with
  | none => s
  | some c =>
    if c.ended.isSome || !(cKind c.desc == 5 || cKind c.desc == 6) || s.isOwn (cRoot c.desc) then s
    else
      let n := mergeCredits - s.collOut p id
      let s := (c.toSend.take n).foldl (fun s g => s.collPost p (cRoot c.desc) g) (s.setColl p { c with toSend := c.toSend.drop n })
      if c.toSend.isEmpty && s.collOut p id == 0 then s.collEnd p c else s

/-- What becomes of a segment: its credit is back, or it failed, and its collective or call ends with that status. -/
def State.segDone (s : State) (k : PendKind) (st : Byte) : State :=
  match k with
  | .coll p id => if failing st then s.endColl p id st false else s.collFeed p id
  | .cast p step layer =>
    if failing st && (s.part p).call.any (fun c => c.step == step && c.layer == layer) then s.failCall p st false else s
  | _ => s

/-! ## Responses -/

/-- What a response does for the one that sent the request: a load, poll, atomic, fence, BAR4 read or write. -/
def State.deliver (s : State) (q : PendReq) (st : Byte) (body : List Byte) : State :=
  let a := q.globalAddr
  match q.kind with
  | .load t gd n off =>
    let s := s.landFill q (t.core.val / 64) st body
    match s.awaiting t q with
    | none => s
    | some x =>
      if failing st then s.farFail t x st a
      else s.setThread t { (x.setG gd (leWord 64 ((body.drop off).take n))).step with wait := .ready }
  | .loadV t vd mask =>
    let s := s.landFill q (t.core.val / 64) st body
    match s.awaiting t q with
    | none => s
    | some x =>
      if failing st then s.farFail t x st a
      else s.setThread t { (x.setV vd (loadLanes (x.vr vd) mask body)).step with wait := .ready }
  | .poll t off =>
    let s := s.landFill q (t.core.val / 64) st body
    match s.thread? t with
    | none => s
    | some x =>
      if q.task ≠ some x.task then s
      else
        match x.wait with
        | .waitv _ _ _ _ _ _ =>
          if failing st then s.farFail t x st a else s.pollValue t x (leWord 64 ((body.drop off).take 8))
        | _ => s
  | .store t => if failing st then s.storeFail t q.task st a else s.writeDone q
  | .inval t ga => if failing st then s.storeFail t q.task st ga else s
  | .atomic t gd wide ret index =>
    let v : W64 := leWord 64 (body.take (if wide then 8 else 4))
    let s := if failing st then s else s.writeDone q
    let tid := (((q.task.bind s.task?).bind fun k => k.log.find? fun r => r.tag == q.req.tag && r.dst == q.req.dst).map
      (·.tid)).getD 0
    let s := match q.task with
      | some k => match s.task? k with
        | some x => s.setTask k (x.atomResult tid index (st, v))
        | none => s
      | none => s
    match s.awaiting t q with
    | none => s
    | some x =>
      if failing st then s.farFail t x st a
      else
        let s := match s.task? x.task with | some k => s.setTask x.task (k.atomNext x.tid) | none => s
        s.setThread t { (if ret then x.setG gd v else x).step with wait := .ready }
  | .fence t gd =>
    match s.awaiting t q with
    | none => s
    | some x => s.setThread t { (x.setG gd (if failing st then st.setWidth 64 else 0)).step with wait := .ready }
  | .bar4Read f id pos => (if failing st then s.bar4Fail f a st else s).hostPiece id pos st body
  | .bar4Write f => if failing st then s.bar4Fail f a st else s.writeDone q
  | .control => s
  | .engine j => if failing st then s.jobFailed j st else s
  | .coll p id => s.segDone (.coll p id) st
  | .cast p step layer => s.segDone (.cast p step layer) st

/-- Two pending requests are the same: one destination, one sequence number. -/
def PendReq.same (a b : PendReq) : Bool := a.req.dst == b.req.dst && a.req.seq == b.req.seq

/-- Completes one pending request. -/
def State.completeOne (s : State) (q : PendReq) (st : Byte) (body : List Byte) : State :=
  ({ s with fab := { s.fab with pend := s.fab.pend.filter fun r => !r.same q } }).deliver q st body

/-- Fails pending requests in order. -/
def State.failAll (s : State) (qs : List PendReq) (st : Byte) : State := qs.foldl (fun s q => s.completeOne q st []) s

/-- Completes a pending request. The acknowledgement of a posted OC0 store covers every earlier one to the destination
(R44); an OC0 request that fails with TARGET_LOST takes every later one with it (R47). -/
def State.complete (s : State) (q : PendReq) (st : Byte) (body : List Byte) : State :=
  let oc0 := s.fab.pend.filter fun r => r.req.dst == q.req.dst && r.req.cls == 0
  let earlier := (oc0.takeWhile fun r => !r.same q).filter fun r => r.op == 2
  let later := (oc0.dropWhile fun r => !r.same q).drop 1
  let s := if q.op = 2 ∧ q.req.cls = 0 then earlier.foldl (fun s r => s.completeOne r stOk []) s else s
  let s := s.completeOne q st body
  if q.req.cls = 0 ∧ st = stLost then (s.failAll later stLost).setPeer q.req.dst { s.peer q.req.dst with broken := true }
  else s

/-- Sends a retained request again on the route that now holds; one with no route completes with TARGET_LOST (R252, R262). -/
def State.reroute (s : State) (q : PendReq) : State :=
  if !(s.fab.pend.any fun r => r.same q) then s
  else
    match (if q.req.dst = storageAlias then .unreachable 3 true else s.firstHop (s.pendPart q) q.req.dst) with
    | .port n =>
      let r := { q with moved := true, req := { q.req with port := Fin.ofNat 24 n } }
      ({ s with fab := { s.fab with pend := s.fab.pend.map fun (x : PendReq) => if x.same q then r else x } }).emit q.op r.req
    | .unreachable ax plus =>
      let s := s.logFault { detail := BitVec.ofNat 64 (2 * ax + (if plus then 0 else 1)), unit := q.req.dst.toNat, unitType := 6
                            cls := 5, cause := Config.unreachableCause.toNat, status := stLost, part := (s.pendPart q).getD 0xFF }
      s.complete q stLost []

/-- Sends the segments and control messages that wait, in order: one that must still wait stays, and those ordered behind it, as does a
segment that finds the fabric-operation log full (R332); one to a destination that is lost or cannot be reached fails (R252, R253,
R262). -/
def State.pumpSends (s : State) : State :=
  s.fab.sendq.foldl (fun s e =>
    let keep : State := { s with fab := { s.fab with sendq := s.fab.sendq ++ [e] } }
    if (s.fab.sendq.any fun x => x.req.dst == e.req.dst && clsOrdered x.req.cls e.req.cls) || s.logBlocks e then keep
    else
      match s.sendReq e.part e.op e.req none e.kind with
      | (s, .sent _) => s.takeSeg e.task
      | (s, .lost) => s.deliver { op := e.op, req := e.req, task := none, kind := e.kind } stLost []
      | (_, .waits) => keep) { s with fab := { s.fab with sendq := [] } }

/-- Fails what still waits to be sent to a coordinate (R342). -/
def State.failSends (s : State) (c : BitVec 12) : State :=
  let mine := s.fab.sendq.filter fun e => e.req.dst == c
  mine.foldl (fun s e => s.deliver { op := e.op, req := e.req, task := none, kind := e.kind } stLost [])
    { s with fab := { s.fab with sendq := s.fab.sendq.filter fun e => e.req.dst != c } }

/-- A port has left UP: its unacknowledged requests are sent again on other routes, in order (R262). -/
def State.portGone (s : State) (n : Nat) : State :=
  (s.fab.pend.filter fun q => q.req.port.val == n).foldl State.reroute s

end Sys2Proof.Machine
end

