-- ==== Sys2Proof/Machine/CollOps.lean ====
section
/-! DEFINITION. Collectives (R270 to R277): link payloads (R123), rings (R272, R273), merges (R161, R162, R275), gathers and
all-to-alls (R274). Each participant computes from its own input and the segments that reach it. -/

namespace Sys2Proof.Machine

open Sys2Proof

/-! ## Link payloads (R115, R117, R123) -/

/-- Bytes of a link block's elements. -/
def linkBytes (f : ElemFmt) : Nat := 4 * f.width

/-- Values encoded in link blocks, a last short block completed with +0 (R272), with the encoder's counts. -/
def linkEncode (f : ElemFmt) (static : Option Nat) (vs : List W32) : List Byte × EncCounts :=
  let padded := vs ++ List.replicate (roundUp 32 vs.length - vs.length) 0#32
  let (bs, c) := encodeBlocks f static padded
  (bs.flatMap fun b => BitVec.ofNat 8 b.code :: packElems f.width b.elems, c)

/-- n values decoded from link blocks, with the infinities read as the largest value. -/
def linkDecode (f : ElemFmt) (n : Nat) (bs : List Byte) : List W32 × Nat :=
  let rs := (chunks (1 + linkBytes f) bs).map fun b =>
    blockToF32 f ((b.headD 0).toNat) (unpackElems f.width 32 (b.drop 1))
  ((rs.flatMap Prod.fst).take n, rs.foldl (fun a r => a + r.2) 0)

/-- Values rounded to BF16 for the wire. -/
def bfEncode (vs : List W32) : List Byte := vs.flatMap fun v => bytesLE 2 (f32ToBf16 v).toNat
/-- n BF16 values as FP32. -/
def bfDecode (n : Nat) (bs : List Byte) : List W32 := ((chunks 2 bs).map fun b => bf16ToF32 (leWord 16 b)).take n

/-- Encodes in a layer's LINK_FMT, its counters updated (R121). -/
def State.linkSend (s : State) (p l : Nat) (vs : List W32) : State × List Byte :=
  let c := s.layerRec p l
  let (bs, n) := linkEncode (recLink c) (recStatic c) vs
  (s.layerCounts p l n, bs)

/-- Decodes from a layer's LINK_FMT, its counters updated. -/
def State.linkRead (s : State) (p l n : Nat) (bs : List Byte) : State × List W32 :=
  let (vs, clip) := linkDecode (recLink (s.layerRec p l)) n bs
  (s.layerCounts p l { clipped := clip }, vs)

/-- FP32 values of memory. -/
def State.floats (s : State) (a n : Nat) : List W32 := (List.range n).map fun i => BitVec.ofNat 32 (s.num (a + 4 * i) 4)
/-- The bytes of FP32 values. -/
def floatBytes (vs : List W32) : List Byte := vs.flatMap fun v => bytesLE 4 v.toNat

/-! ## Triples (R161) -/

/-- A triple (count, mean, m2). -/
structure Triple where
  count : Nat
  mean : W32
  m2 : W32
  deriving DecidableEq, Repr

/-- The larger of a value and +0, a NaN kept (R65). -/
def clampZero (v : W32) : W32 := BitVec.ofNat 32 (fpMax .fp32 v.toNat 0)

/-- Two triples merged (R161). -/
def Triple.merge (a b : Triple) : Triple :=
  if a.count = 0 then b
  else if b.count = 0 then a
  else
    let n := a.count + b.count
    if 0xFFFFFFFF < n then { count := 0xFFFFFFFF, mean := f32NaN, m2 := f32NaN }
    else
      let delta := f32Sub b.mean a.mean
      let frac : W32 := BitVec.ofNat 32 (fpRoundRat .fp32 false b.count n 0).1
      let w : W32 := BitVec.ofNat 32 (fpRoundRat .fp32 false (a.count * b.count) n 0).1
      { count := n, mean := f32Add a.mean (f32Mul delta frac)
        m2 := clampZero (f32Add (f32Add a.m2 b.m2) (f32Mul (f32Mul delta delta) w)) }

/-- A triple as 16 bytes. -/
def Triple.bytes (t : Triple) : List Byte := bytesLE 4 t.count ++ bytesLE 4 t.mean.toNat ++ bytesLE 4 t.m2.toNat ++ bytesLE 4 0

/-- A triple of 16 bytes. -/
def Triple.ofBytes (bs : List Byte) : Triple :=
  { count := leNat (bs.take 4), mean := leWord 32 ((bs.drop 4).take 4), m2 := leWord 32 ((bs.drop 8).take 4) }

/-! ## Rings (R272, R273) -/

/-- One ring of a collective: members, this package's place, and the member that follows it. -/
structure Ring where
  n : Nat
  j : Nat
  succ : BitVec 12

/-- Chunk c of n of a range: its first element and length. -/
def chunkOf (lo len n c : Nat) : Nat × Nat := (lo + c * len / n, (c + 1) * len / n - c * len / n)

/-- Block lengths and this index's coordinates within the block, by axis. -/
def State.blockDims (s : State) (p : Nat) : List Nat :=
  [0, 1, 2].map fun ax => let b := s.blockAxis (some p) ax; b.2 + 1 - b.1

/-- Places of a participant along the axes of the block (R271). -/
def placesOf (dims : List Nat) (i : Nat) : List Nat :=
  [i % dims.getD 0 1, i / dims.getD 0 1 % dims.getD 1 1, i / dims.getD 0 1 / dims.getD 1 1]

/-- Axes longer than one. -/
def longAxes (dims : List Nat) : List Nat := [0, 1, 2].filter fun ax => 1 < dims.getD ax 1

/-- The rings of a collective in the order its reduction takes them. -/
def State.rings (s : State) (p : Nat) (c : CollRun) : List Ring :=
  let members := s.collMembers p c.desc
  if cKind c.desc = 1 then
    let dims := s.blockDims p
    let at_ := placesOf dims c.index
    (longAxes dims).map fun ax =>
      let n := dims.getD ax 1
      let q := at_.set ax ((at_.getD ax 0 + 1) % n)
      { n := n, j := at_.getD ax 0
        succ := members.getD ((q.getD 2 0 * dims.getD 1 1 + q.getD 1 0) * dims.getD 0 1 + q.getD 0 0) 0 }
  else if c.n = 1 then []
  else [{ n := c.n, j := c.index, succ := members.getD ((c.index + 1) % c.n) 0 }]

/-- Places of a participant along the rings of a collective. -/
def State.ringPlaces (s : State) (p : Nat) (c : CollRun) (i : Nat) : List Nat :=
  if cKind c.desc = 1 then
    let dims := s.blockDims p
    (longAxes dims).map fun ax => (placesOf dims i).getD ax 0
  else if c.n = 1 then [] else [i]

/-- The range a participant keeps after the first a rings. -/
def keptRange (count : Nat) (sizes places : List Nat) (a : Nat) : Nat × Nat :=
  ((sizes.zip places).take a).foldl (fun r x => chunkOf r.1 r.2 x.1 x.2) (0, count)

/-- Values as they stand at this participant. -/
def CollRun.values (c : CollRun) (r : Nat × Nat) : List W32 := (List.range r.2).map fun i => SMap.get 0 c.acc (r.1 + i)

/-- Replaces values. -/
def CollRun.setValues (c : CollRun) (lo : Nat) (vs : List W32) : CollRun :=
  { c with acc := vs.zipIdx.foldl (fun m e => SMap.put (lo + e.2) e.1 m) c.acc }

/-- Sends a segment of a collective. -/
def State.collSend (s : State) (p : Nat) (dst : BitVec 12) (c : CollRun) (stage pos : Nat) (body : List Byte) : State :=
  s.collPost p dst { collId := cId c.desc, sender := c.index, stage := stage, pos := pos, body := body }

/-- Ends a collective well: its output is written at DST. -/
def State.collDone (s : State) (p : Nat) (c : CollRun) (out : List (Nat × List Byte)) : State :=
  (s.homeWrites (out.map fun e => (cDst c.desc + e.1, e.2))).collEnd p c

/-- A hop of stage a carries link blocks on the first hop of the first stage and BF16 elsewhere (R272, R273). -/
def State.ringEncode (s : State) (p : Nat) (c : CollRun) (link : Bool) (vs : List W32) : State × List Byte :=
  if link then s.linkSend p (cLayer c.desc) vs else (s, bfEncode vs)

/-- Starts stage a of the reduction: chunk j − 1 leaves with this participant's own values (R272 step 1). -/
def State.ringStart (s : State) (p : Nat) (c : CollRun) (rs : List Ring) (a : Nat) : State :=
  match rs[a]? with
  | none => s
  | some r =>
    let k := keptRange (cCount c.desc) (rs.map (·.n)) (rs.map (·.j)) a
    let x := (r.j + r.n - 1) % r.n
    let (s, bs) := s.ringEncode p c (a == 0) (c.values (chunkOf k.1 k.2 r.n x))
    s.collSend p r.succ c a x bs

/-- The gather stage along ring a of A. -/
def gatherStage (A a : Nat) : Nat := A + (A - 1 - a)

/-- Starts the gather along a ring: every piece held leaves (R272, R273). -/
def State.gatherStart (s : State) (p : Nat) (c : CollRun) (rs : List Ring) (a : Nat) : State :=
  match rs[a]? with
  | none => s
  | some r => c.pieces.foldl (fun s e => s.collSend p r.succ c (gatherStage rs.length a) e.1 e.2) s

/-- Decodes the pieces of every owner. -/
def State.gatherOut (s : State) (p : Nat) (c : CollRun) (rs : List Ring) : State × List (Nat × List Byte) :=
  (List.range c.n).foldl (fun (a : State × List (Nat × List Byte)) i =>
    let k := keptRange (cCount c.desc) (rs.map (·.n)) (s.ringPlaces p c i) rs.length
    let (s, vs) := a.1.linkRead p (cLayer c.desc) k.2 (SMap.get [] c.pieces i)
    (s, a.2 ++ [(4 * k.1, floatBytes vs)])) (s, [])

/-- What follows when a participant's chunk is final: the output of a REDUCE_SCATTER, or the encoded piece that starts the
gather (R272). -/
def State.reduced (s : State) (p : Nat) (c : CollRun) (rs : List Ring) : State :=
  let k := keptRange (cCount c.desc) (rs.map (·.n)) (rs.map (·.j)) rs.length
  if cKind c.desc = 2 then s.collDone p c [(0, floatBytes (c.values k))]
  else if rs.isEmpty then s.collDone p c [(0, floatBytes (c.values k))]
  else
    let (s, bs) := s.linkSend p (cLayer c.desc) (c.values k)
    let c := { c with pieces := SMap.put c.index bs c.pieces, stage := rs.length }
    (s.setColl p c).gatherStart p c rs (rs.length - 1)

/-- A reduction segment: chunk x of stage a (R272 steps 2 and 3). -/
def State.ringHop (s : State) (p : Nat) (c : CollRun) (rs : List Ring) (a : Nat) (g : CollSegment) : State :=
  match rs[a]? with
  | none => s
  | some r =>
    let k := keptRange (cCount c.desc) (rs.map (·.n)) (rs.map (·.j)) a
    let x := g.pos % r.n
    let e := chunkOf k.1 k.2 r.n x
    let link := a == 0 && (x + 1) % r.n == (r.j + r.n - 1) % r.n
    let (s, vs) := if link then s.linkRead p (cLayer c.desc) e.2 g.body else (s, bfDecode e.2 g.body)
    let sum := (vs.zip (c.values e)).map fun v => f32Add v.1 v.2
    if x = r.j then
      let c := { c.setValues e.1 sum with stage := a + 1 }
      let s := s.setColl p c
      if a + 1 = rs.length then s.reduced p c rs else s.ringStart p c rs (a + 1)
    else s.collSend p r.succ c a x (bfEncode sum)

/-- Pieces a participant holds once the gathers along rings a and after have ended. -/
def piecesDue (rs : List Ring) (a : Nat) : Nat := ((rs.drop a).map (·.n)).foldl (· * ·) 1

/-- A gather segment: one owner's piece, forwarded unchanged until it has gone round (R272, R273). -/
def State.gatherHop (s : State) (p : Nat) (c : CollRun) (rs : List Ring) (g : CollSegment) : State :=
  let a := 2 * rs.length - 1 - g.stage
  match rs[a]? with
  | none => s
  | some r =>
    let owner := (s.ringPlaces p c g.pos).getD a 0
    let c := { c with pieces := SMap.put g.pos g.body c.pieces }
    let s := if (r.j + 1) % r.n = owner then s else s.collSend p r.succ c g.stage g.pos g.body
    let s := s.setColl p c
    if c.pieces.length < piecesDue rs a then s
    else if a = 0 then
      let (s, out) := s.gatherOut p c rs
      s.collDone p c out
    else
      let c := { c with stage := g.stage + 1 }
      (s.setColl p c).gatherStart p c rs (a - 1)

/-! ## Merges (R275) -/

/-- Elements or triples of a partial. -/
def partialLen (kind : Nat) : Nat := if kind = 6 then 64 else 256

/-- Partials of each participant. -/
def partials (d : W512) : Nat := ceilDiv (cCount d) (partialLen (cKind d))

/-- The partials of this participant's input: 256 elements in link blocks, or 64 triples whose reserved bytes travel as 0, the last
partial filled up with zeros (R161, R275). -/
def State.ownPartials (s : State) (p : Nat) (c : CollRun) : State × List (List Byte) :=
  let d := c.desc
  (List.range (partials d)).foldl (fun (a : State × List (List Byte)) r =>
    if cKind d = 6 then
      let n := min 64 (cCount d - 64 * r)
      let ts := (chunks 16 (a.1.bytes (cSrc d + 1024 * r) (16 * n))).flatMap fun b => (Triple.ofBytes b).bytes
      (a.1, a.2 ++ [ts ++ List.replicate (1024 - 16 * n) 0])
    else
      let n := min 256 (cCount d - 256 * r)
      let vs := a.1.floats (cSrc d + 1024 * r) n ++ List.replicate (256 - n) 0#32
      let (s, bs) := a.1.linkSend p (cLayer d) vs
      (s, a.2 ++ [bs])) (s, [])

/-- The bytes of one merged position: its partials in the order in which they were accepted (R275). -/
def State.mergePosition (s : State) (p : Nat) (c : CollRun) (r : Nat) : State × List Byte :=
  let gs := c.segs.filter fun g => g.pos == r
  if cKind c.desc = 6 then
    let n := min 64 (cCount c.desc - 64 * r)
    let ts (g : CollSegment) : List Triple := ((chunks 16 g.body).map Triple.ofBytes).take n
    match gs with
    | [] => (s, [])
    | g :: gs => (s, (gs.foldl (fun a x => (a.zip (ts x)).map fun e => e.1.merge e.2) (ts g)).flatMap Triple.bytes)
  else
    let n := min 256 (cCount c.desc - 256 * r)
    let (s, vs) := gs.foldl (fun (a : State × List (List W32)) g =>
      let (s, v) := a.1.linkRead p (cLayer c.desc) 256 g.body
      (s, a.2 ++ [v])) (s, [])
    match vs with
    | [] => (s, [])
    | v :: vs => (s, floatBytes ((vs.foldl (fun a x => (a.zip x).map fun e => f32Add e.1 e.2) v).take n))

/-- Merges every position once every partial has been accepted. -/
def State.mergeAll (s : State) (p : Nat) (c : CollRun) : State :=
  let m := partials c.desc
  if c.segs.length < c.n * m then s
  else
    let (s, out) := (List.range m).foldl (fun (a : State × List (Nat × List Byte)) r =>
      let (s, bs) := a.1.mergePosition p c r
      (s, a.2 ++ [(1024 * r, bs)])) (s, [])
    s.collDone p c out

/-! ## Gathers and all-to-alls (R274) -/

/-- Ends an ALL_GATHER or ALL_TO_ALL once every participant's segment is here. -/
def State.gatherAll (s : State) (p : Nat) (c : CollRun) : State :=
  if c.segs.length < c.n then s
  else s.collDone p c (c.segs.map fun g =>
    if cKind c.desc = 3 then (g.sender * cCount c.desc, g.body.take (cCount c.desc))
    else let r := s.a2aRow c.desc g.sender; (r.2.2.1, g.body.take r.2.2.2))

/-! ## Segments -/

/-- The collective segment of a COLL request. -/
def segOf (r : FabReq) : Option CollSegment := match r.seg with | .coll g => some g | _ => none

/-- Returns the credit of a COLL request (R270); one of this package has none. -/
def State.credit (s : State) (r : FabReq) : State := if s.isOwn r.src then s else s.respond 0x10 r stOk []

/-- Refuses a COLL request (R263). -/
def State.refuseSeg (s : State) (r : FabReq) : State :=
  if s.isOwn r.src then s else (s.count .fctxRefusals).respond 0x10 r stDenied []

/-- Uses one segment of a ring, gather or all-to-all. -/
def State.collUse (s : State) (p : Nat) (c : CollRun) (g : CollSegment) : State :=
  if cKind c.desc ≤ 2 then
    let rs := s.rings p c
    if g.stage < rs.length then s.ringHop p c rs g.stage g else s.gatherHop p c rs g
  else s.gatherAll p c

/-- Uses the segments that have become due; those of a later stage wait. -/
def State.collRun (s : State) (p id : Nat) : Nat → State
  | 0 => s
  | n + 1 =>
    match s.coll? p id with
    | none => s
    | some c =>
      if c.ended.isSome then s
      else
        match c.wait.find? fun r => (segOf r).any fun g => decide (2 < cKind c.desc) || decide (g.stage ≤ c.stage) with
        | none => s
        | some r =>
          let c := { c with wait := c.wait.erase r }
          match segOf r with
          | some g => ((s.setColl p c).collUse p c g).collRun p id n
          | none => s

/-- The first partial of a sender's queue at the root. -/
def CollRun.front (c : CollRun) (i : Nat) : Option (FabReq × CollSegment) :=
  (c.wait.filterMap fun r => (segOf r).map fun g => (r, g)).find? fun e => e.2.sender == i

/-- Whether the merge unit may accept a partial: in scripted mode once that position has every lower sender's (R275). -/
def CollRun.mayMerge (c : CollRun) (scripted : Bool) (g : CollSegment) : Bool :=
  !scripted || (List.range g.sender).all fun j => c.segs.any fun y => y.pos == g.pos && y.sender == j

/-- The partial accepted next: round-robin among the senders, from the one after the last served (R275). -/
def CollRun.nextPartial (c : CollRun) (scripted : Bool) : Option (FabReq × CollSegment) :=
  (List.range c.n).findSome? fun i => (c.front ((c.turn + i) % c.n)).filter fun e => c.mayMerge scripted e.2

/-- The merge unit accepts the partials it may, each with its credit returned, and merges once it has every one. -/
def State.mergeRun (s : State) (p id : Nat) : Nat → State
  | 0 => s
  | n + 1 =>
    match s.coll? p id with
    | none => s
    | some c =>
      if c.ended.isSome then s
      else
        match c.nextPartial (s.isScripted p) with
        | none => s
        | some (r, g) =>
          let c := { c with wait := c.wait.erase r, segs := c.segs ++ [g], turn := (g.sender + 1) % c.n }
          ((((s.setColl p c).count .mergePartials).credit r).mergeAll p c).mergeRun p id n

/-- Sends again, once, what was sent to a participant that replays (R277). -/
def State.collResend (s : State) (p : Nat) (c : CollRun) (dst : BitVec 12) : State :=
  if s.isOwn dst || c.resent.contains dst then s
  else
    let id := (cId c.desc).toNat
    ((SMap.get [] (s.part p).sentSegs id).filter fun e => e.1 == dst).foldl (fun s e => s.postSeg p dst (.coll e.2) (.coll p id) none)
      (s.setColl p { c with resent := dst :: c.resent })

/-- A segment reaches the collective it names. Before the posting it is held; one of no participant is refused (R263); one that is held
already is discarded, and its sender, which replays, is sent this participant's again (R261, R277). A STATUS that is failing ends the
collective: one that Table 00-3 does not list is taken as it stands, and counts for nothing in the R9 choice (DESIGN CHOICE, log 93). -/
def State.collTake (s : State) (p : Nat) (r : FabReq) (g : CollSegment) : State :=
  let id := g.collId.toNat
  match s.coll? p id with
  | none =>
    if (s.part p).doneColls.contains g.collId then (s.count .dupRequests).credit r
    else s.modPart p fun x => { x with earlySegs := x.earlySegs ++ [{ r with seg := .coll g }] }
  | some c =>
    let r := { r with seg := .coll g }
    let held := c.segs ++ c.wait.filterMap segOf
    if c.n ≤ g.sender || !(s.isOwn r.src || (s.collMembers p c.desc)[g.sender]? == some r.src) then s.refuseSeg r
    else if held.any fun x => x.stage == g.stage && x.pos == g.pos && x.sender == g.sender && !failing g.status then
      ((s.count .dupRequests).credit r).collResend p c r.src
    else if c.ended.isSome then s.credit r
    else if failing g.status then (s.endColl p id g.status false).credit r
    else if 5 ≤ cKind c.desc then (s.setColl p { c with wait := c.wait ++ [r] }).mergeRun p id (c.wait.length + 1)
    else ((s.setColl p { c with segs := c.segs ++ [g], wait := c.wait ++ [r] }).credit r).collRun p id (c.wait.length + 1)

/-! ## Posting -/

/-- Sends what a participant sends at its posting and takes its own share. -/
def State.collStart (s : State) (p : Nat) (c : CollRun) : State :=
  let d := c.desc
  let members := s.collMembers p d
  let own (pos : Nat) (bs : List Byte) (s : State) : State :=
    let g : CollSegment := { collId := cId d, sender := c.index, pos := pos, body := bs }
    s.collTake p (heldSeg (.coll g)) g
  match cKind d with
  | 3 =>
    let bs := s.bytes (cSrc d) (cCount d)
    own c.index bs (members.zipIdx.foldl (fun s m => if m.2 = c.index then s else s.collSend p m.1 c 0 c.index bs) s)
  | 4 =>
    let s := members.zipIdx.foldl (fun s m =>
      let r := s.a2aRow d m.2
      if m.2 = c.index then s else s.collSend p m.1 c 0 c.index (s.bytes (cSrc d + r.1) r.2.1)) s
    let r := s.a2aRow d c.index
    own c.index (s.bytes (cSrc d + r.1) r.2.1) s
  | 5 | 6 =>
    let (s, ps) := s.ownPartials p c
    if s.isOwn (cRoot d) then
      if ps.isEmpty then s.mergeAll p c else ps.zipIdx.foldl (fun s e => own e.2 e.1 s) s
    else
      let gs : List CollSegment := ps.zipIdx.map fun e => { collId := cId d, sender := c.index, pos := e.2, body := e.1 }
      (s.setColl p { c with toSend := gs }).collFeed p (cId d).toNat
  | _ =>
    let rs := s.rings p c
    if rs.isEmpty then s.reduced p c rs else s.ringStart p c rs 0

end Sys2Proof.Machine
end

