-- ==== Sys2Proof/Machine/Queues.lean ====
section
/-! DEFINITION. Queues: their registers (Tables 11-11 and 17-3), doorbells (R417), the acceptance of an entry (R280, R281,
R288, R307), completion notices (R46, R418, R419) and queue resets. -/

namespace Sys2Proof.Machine

open Sys2Proof

/-! ## Status and rings -/

/-- QUEUE code's host bit. -/
def codeIsHost (c : Nat) : Bool := decide (0x8000 ≤ c)
/-- Partition of a QUEUE code. -/
def codePart (c : Nat) : Nat := c % 0x8000 / 128
/-- Number of the queue within its kind. -/
def codeNum (c : Nat) : Nat := c % 128

/-- [7:0] of QSTATUS: 0 disabled, 1 running, 2 error, 3 draining. -/
def State.qStatus (s : State) (c : Nat) : Nat :=
  let x := s.queue c
  if codeIsHost c then x.status
  else if x.status = 2 then 2
  else if x.sqBase = 0 ∨ x.cqBase = 0 then 0 else 1

/-- Whether a queue's rings are local. -/
def State.qLocal (s : State) (c : Nat) : Bool := !codeIsHost c || bit (s.queue c).ringCfg 1

/-- Puts a queue in error (R281, R419): it reads no further entry, and the notices of accepted entries are discarded. -/
def State.qError (s : State) (c cause : Nat) : State :=
  s.setQueue c { s.queue c with status := 2, cause := cause, discardBelow := s.nextNo }

/-- Whether a range lies wholly within a partition's tier allocations as one local range. -/
def State.ringOk (s : State) (p : Nat) (base : W64) (n : Nat) : Bool :=
  zeroFld base 63 52 && s.inAllocs p base.toNat n

/-- Ring size values that take effect. -/
def ringSizeOk (v : W64) : Bool := decide (16 ≤ v.toNat ∧ v.toNat ≤ 65536 ∧ 2 ^ Nat.log2 v.toNat = v.toNat)

/-! ## Doorbells (R417) -/

/-- Counts an ignored doorbell: in the device queue, or in the host queue's function page. -/
def State.doorbellError (s : State) (c : Nat) : State :=
  if codeIsHost c then s.count .fnDoorbellErrors (codePart c + 1) else s.count .doorbellErrors c

/-- Whether a VALID committed stand-in record names a device queue (R300). -/
def State.standinQueue (s : State) (c : Nat) : Bool :=
  !codeIsHost c && (List.range 16).any fun n =>
    let r : BitVec 128 := BitVec.ofNat 128 (s.cfgNum (0x3000 + codePart c) 5 (16 * n) 16)
    bit r 0 && fld r 55 53 == codeNum c

/-- Writes the tail of a submission ring by its doorbell or by a stand-in switch: the rules of R417 and the ring check of
a device queue (R281). -/
def State.ringTail (s : State) (c : Nat) (t : Nat) : State :=
  let x := s.queue c
  let n := x.sqEntries.toNat
  let used := (x.sqTail + n - x.sqHead) % n
  let more := (t + n - x.sqTail) % n
  if n ≤ t ∨ n ≤ used + more ∨ s.qStatus c ≠ 1 then s.doorbellError c
  else if !codeIsHost c && !(s.ringOk (codePart c) x.sqBase (64 * n) &&
      s.ringOk (codePart c) x.cqBase (16 * x.cqEntries.toNat)) then s.qError c 1
  else s.setQueue c { x with sqTail := t }

/-- Whether an act is a BAR4 write or a doorbell of a function. -/
def HomeAct.hostOf (a : HomeAct) (f : Nat) : Bool :=
  match a with | .host g _ _ => g == f | .bell c _ _ => codePart c + 1 == f | _ => false

/-- Whether earlier BAR4 writes of a function, or a doorbell that waits for them, are still outstanding (R417). -/
def State.bar4Busy (s : State) (f : Nat) : Bool :=
  s.fab.pend.any (fun q => match q.kind with | .bar4Write g => g == f | _ => false) ||
  s.fab.homeStores.any (fun h => h.act.hostOf f) || s.fab.held.any fun a => a.hostOf f

/-- A write to SQ_TAIL. -/
def State.sqTailWrite (s : State) (c : Nat) (v : W64) : State :=
  if s.standinQueue c then s else s.ringTail c v.toNat

/-- A write to CQ_HEAD. -/
def State.cqHeadWrite (s : State) (c : Nat) (v : W64) : State :=
  let x := s.queue c
  let n := x.cqEntries.toNat
  let written := (x.cqTail + n - x.cqHead) % n
  let more := (v.toNat + n - x.cqHead) % n
  let st := s.qStatus c
  if n ≤ v.toNat ∨ written < more ∨ !(st == 1 || (codeIsHost c && st == 3)) then s.doorbellError c
  else s.setQueue c { x with cqHead := v.toNat }

/-- Performs a doorbell of a host queue. -/
def State.bellWrite (s : State) (c : Nat) (tail : Bool) (v : W64) : State := if tail then s.sqTailWrite c v else s.cqHeadWrite c v

/-- A doorbell of a host queue: it waits while earlier BAR4 writes of its function are outstanding (R417). -/
def State.bell (s : State) (c : Nat) (tail : Bool) (v : W64) : State :=
  if s.bar4Busy (codePart c + 1) then { s with fab := { s.fab with held := s.fab.held ++ [.bell c tail v] } }
  else s.bellWrite c tail v

/-! ## Registers -/

/-- A write to a ring register of a device queue (R281). -/
def State.devRingWrite (s : State) (c : Nat) (r : RingReg) (v : W64) : State :=
  let x := s.queue c
  if x.sqHead ≠ x.sqTail ∨ x.cqHead ≠ x.cqTail then s
  else
    let sq (x : Queue) : Queue := { x with sqHead := 0, sqTail := 0, submit := 0 }
    let cq (x : Queue) : Queue := { x with cqHead := 0, cqTail := 0, phase := true }
    match r with
    | .sqBase => s.setQueue c (sq { x with sqBase := v })
    | .sqEntries => if ringSizeOk v then s.setQueue c (sq { x with sqEntries := v }) else s
    | .cqBase => s.setQueue c (cq { x with cqBase := v })
    | .cqEntries => if ringSizeOk v then s.setQueue c (cq { x with cqEntries := v }) else s
    | _ => s

/-- Writable bits of RING_CFG, ENABLE aside, and of COALESCE. -/
def ringCfgMask : W64 := 0xFFFFF800002#64
/-- Writable bits of COALESCE. -/
def coalesceMask : W64 := 0x3FFFF01#64

/-- Whether accepted entries of a queue have yet to commit. -/
def State.qBusy (s : State) (c : Nat) : Bool := s.entries.any fun e => e.2.queue == c && e.2.done.isNone
/-- Whether a queue holds an entry whose notice is not yet written. -/
def State.qHolds (s : State) (c : Nat) : Bool := s.entries.any fun e => e.2.queue == c

/-- The ring check of a host queue (R416). -/
def State.hostRingOk (s : State) (c : Nat) (x : Queue) : Bool :=
  if bit x.ringCfg 1 then
    s.ringOk (codePart c) x.sqBase (64 * x.sqEntries.toNat) && s.ringOk (codePart c) x.cqBase (16 * x.cqEntries.toNat)
  else x.sqBase.toNat % 4096 == 0 && x.cqBase.toNat % 4096 == 0

/-- A write to RING_CFG (R416): ENABLE 0 to 1 checks the rings and starts the queue; 1 to 0 drains it. -/
def State.ringCfgWrite (s : State) (c : Nat) (v : W64) : State :=
  let x := s.queue c
  if bit x.ringCfg 0 then
    if bit v 0 then s
    else
      let x := { x with ringCfg := x.ringCfg &&& ringCfgMask }
      let x := if x.status = 2 then x else { x with status := if s.qHolds c then 3 else 0 }
      s.setQueue c x
  else
    let x := { x with ringCfg := v &&& ringCfgMask }
    if !bit v 0 || x.status == 3 || s.qHolds c then s.setQueue c x
    else if !s.hostRingOk c x then s.setQueue c { x with status := 2, cause := 1 }
    else
      s.setQueue c { x with
        ringCfg := x.ringCfg ||| 1#64, status := 1, cause := 0, sqHead := 0, sqTail := 0, cqHead := 0, cqTail := 0
        submit := 0, phase := true, sinceMsg := 0 }

/-- A write to a ring register of a host queue (R416). -/
def State.hostRingWrite (s : State) (c : Nat) (r : RingReg) (v : W64) : State :=
  let x := s.queue c
  if r = .ringCfg then s.ringCfgWrite c v
  else if r = .coalesce then s.setQueue c { x with coalesce := v &&& coalesceMask }
  else if bit x.ringCfg 0 then s
  else
    match r with
    | .sqBase => s.setQueue c { x with sqBase := v }
    | .sqEntries => if ringSizeOk v then s.setQueue c { x with sqEntries := v } else s
    | .cqBase => s.setQueue c { x with cqBase := v }
    | .cqEntries => if ringSizeOk v then s.setQueue c { x with cqEntries := v } else s
    | _ => s

/-- A write to a ring register. -/
def State.ringWrite (s : State) (c : Nat) (r : RingReg) (v : W64) : State :=
  if codeIsHost c then s.hostRingWrite c r v else s.devRingWrite c r v

/-- A write to QRESET. -/
def State.qresetWrite (s : State) (c : Nat) (v : W64) : State :=
  if v = 1 then s.setQueue c { s.queue c with resetWanted := true } else s

/-- Returns a queue to its defaults; notices still waiting are dropped with it. -/
def State.qDefaults (s : State) (c : Nat) : State :=
  ({ s with entries := SMap.keep (fun _ (e : Entry) => e.queue != c || e.done.isNone) s.entries }).setQueue c
    { discardBelow := s.nextNo }

/-! ## Acceptance -/

/-- Kind of an entry class (Table 11-1). -/
def entryKind (c : Nat) : EntryKind :=
  if 0x20 ≤ c ∧ c ≤ 0x29 then .fly else if 0x41 ≤ c ∧ c ≤ 0x47 then .context
  else if 0x60 ≤ c ∧ c ≤ 0x64 then .task else if c = 0x70 then .stepBegin
  else if 0x71 ≤ c ∧ c ≤ 0x75 then .request else .unknown

/-- Local address of the entry a queue reads next. -/
def State.entryAddr (s : State) (c : Nat) : Nat := (s.queue c).sqBase.toNat + 64 * (s.queue c).sqHead

/-- Whether a queue's next entry is read now: it runs, an entry is ready, and nothing holds the line it lies in (R220, R336). -/
def State.mayAccept (s : State) (c : Nat) : Bool :=
  let x := s.queue c
  s.working && s.qStatus c == 1 && x.sqHead != x.sqTail && !x.resetWanted && !(s.qLocal c && s.homeHeld none (s.entryAddr c) 64)

/-- Destination of a FILL in this package (Table 09-6); none where the part is not here. -/
def State.fillExt (s : State) (w : W512) : Option (Nat × Nat) :=
  match SMap.find? (fld w 511 448) s.objects with
  | none => none
  | some o =>
    let ext := bit w 383
    if fld o.desc (if ext then 147 else 149) (if ext then 146 else 148) = 2 then none
    else some ((if ext then fld o.desc 383 320 else fld o.desc 447 384) + fld w 359 320, fld w 319 256)

/-- What a fly operation reads of memory as it runs: a descriptor, a key record, or a sheet's header (Table 09-6). -/
def flyReads (w : W512) : Option (Nat × Nat) :=
  match fld w 7 0 with
  | 0x22 => some (fld w 511 448, 64)
  | 0x25 => some (fld w 447 384, 1200)
  | 0x27 => some (fld w 447 384, 64)
  | _ => none

/-- Whether an accepted entry waits before it runs: its partition is in RESET (R307); an earlier context operation is held
(R180); an earlier fly operation has not been performed, FILLs aside, or a FILL runs whose destination it meets (R229); what it reads
is held by a lane copy or a replay (R220, R336). -/
def State.entryWaits (s : State) (k : Nat) (e : Entry) : Bool :=
  let earlier := s.parts.any fun x => x.2.held.any fun j => decide (j < k) && (SMap.find? j s.entries).any fun y => y.kind == e.kind
  (s.part e.part).phase == .reset ||
  match e.kind with
  | .context => earlier || s.ctxExtra.any fun x => x.2.releasing.isSome
  | .fly =>
    earlier ||
      if fld e.word 7 0 = 0x24 then
        decide (16 ≤ s.fills.length) || s.fills.any fun f =>
          match s.fillExt f.2.word, s.fillExt e.word with
          | some x, some y => overlap x.1 x.2 y.1 y.2
          | _, _ => false
      else !s.fills.isEmpty || (flyReads e.word).any fun r => s.homeHeld none r.1 r.2
  | _ => false

/-- The first accepted entry of a queue that has yet to run. -/
def State.heldOf (s : State) (c p : Nat) : Option (Nat × Entry) :=
  ((s.part p).held.filterMap fun k => (SMap.find? k s.entries).map fun e => (k, e)).find? fun e => e.2.queue == c

/-- Reads a queue's next entry (R281, R288): `e` is what a host ring gives, a local ring is read from memory. Answers the
entry under its acceptance number, or none where a local read puts the queue in error. -/
def State.accept (s : State) (c p : Nat) (e : W512) : State × Option (Nat × Entry) :=
  let a := s.entryAddr c
  let loc := s.qLocal c
  if loc && s.poisoned a 64 then ((s.memError (a / 64 * 64) 0 stPoison p).qError c 3, none)
  else if loc && !s.inAllocs p a 64 then (s.qError c 3, none)
  else
    let w := if loc then s.word512 a else e
    let x := s.queue c
    let k := s.nextNo
    let addr := if loc then some a else none
    let entry : Entry := { queue := c, submit := x.submit, part := p, kind := entryKind (fld w 7 0), word := w, addr := addr }
    let s := s.setQueue c { x with sqHead := (x.sqHead + 1) % x.sqEntries.toNat, submit := x.submit + 1 }
    ({ s with nextNo := k + 1, entries := SMap.put k entry s.entries }, some (k, entry))

/-- Takes the next entry of a queue whose class passes `mine` and runs it under its acceptance number: first those
accepted and not yet run, then the ring. An OFF partition's entry completes with DENIED; one that must wait is only
accepted. -/
def State.withEntry (s : State) (q : QRef) (e : W512) (mine : Nat → Bool)
    (run : State → Nat → Nat → W512 → State) : Result :=
  let c := qCode q
  let p := qPart q
  match s.heldOf c p with
  | some (k, x) =>
    if s.entryWaits k x then
      if s.mayAccept c && (s.part p).phase == .reset then
        match s.accept c p e with
        | (s', some (j, y)) =>
          if mine (fld y.word 7 0) then .next (s'.modPart p fun z => { z with held := z.held ++ [j] }) else .next s
        | (s', none) => .next s'
      else .next s
    else if !s.working || !mine (fld x.word 7 0) then .next s
    else .next (run (s.modPart p fun z => { z with held := z.held.filter (· ≠ k) }) k p x.word)
  | none =>
    if !s.mayAccept c then .next s
    else
      match s.accept c p e with
      | (s', none) => .next s'
      | (s', some (k, x)) =>
        if !mine (fld x.word 7 0) then .next s
        else if (s.part p).phase = .off then .next (s'.finish k stDenied)
        else if s.entryWaits k x then .next (s'.modPart p fun z => { z with held := z.held ++ [k] })
        else .next (run s' k p x.word)

/-- Word A of a fly or context operation; B, C and D follow downwards. -/
def wordA (w : W512) : W64 := BitVec.ofNat 64 (fld w 511 448)
/-- Word B. -/
def wordB (w : W512) : W64 := BitVec.ofNat 64 (fld w 447 384)
/-- Word C. -/
def wordC (w : W512) : W64 := BitVec.ofNat 64 (fld w 383 320)
/-- Word D. -/
def wordD (w : W512) : W64 := BitVec.ofNat 64 (fld w 319 256)

/-! ## Notices -/

/-- The completion entry of Table 17-4. -/
def notice (c : Nat) (e : Entry) (st : Byte) (result : W64) (phase : Bool) : List Byte :=
  bytesLE 1 (if phase then 1 else 0) ++ [st] ++ bytesLE 2 c ++ bytesLE 4 e.submit ++ bytesLE 8 result.toNat

/-- The entry of a queue accepted first among those whose notices are not written. -/
def State.firstEntry (s : State) (c : Nat) : Option (Nat × Entry) :=
  List.find? (fun (e : Nat × Entry) => e.2.queue == c) s.entries

/-- Whether a completion ring is full (R418). -/
def Queue.full (x : Queue) : Bool := (x.cqTail + 1) % x.cqEntries.toNat == x.cqHead

/-- Sends the message of a host queue when R420 asks for it. -/
def State.queueMessage (s : State) (c : Nat) (failNow : Bool) : State :=
  let x := s.queue c
  let cnt := max 1 (fld x.coalesce 15 8)
  if codeIsHost c && (decide (cnt ≤ x.sinceMsg) || (failNow && bit x.coalesce 0)) then
    (s.setQueue c { x with sinceMsg := 0 }).msix (codePart c + 1) (codeNum c)
  else s

/-- A draining queue becomes disabled once the last of its notices is written (R416). -/
def State.qSettle (s : State) (c : Nat) : State :=
  if (s.queue c).status = 3 ∧ !s.qHolds c then s.setQueue c { s.queue c with status := 0 } else s

/-- Writes the notice of a completed entry, or discards it (R46, R418, R419). -/
def State.writeNotice (s : State) (c k : Nat) (e : Entry) (st : Byte) (result : W64) : State :=
  let x := s.queue c
  let drop := { s with entries := SMap.del k s.entries }
  if k < x.discardBelow then drop.qSettle c
  else if x.full then s
  else
    let bs := notice c e st result x.phase
    let a := x.cqBase.toNat + 16 * x.cqTail
    let loc := s.qLocal c
    if loc && (!s.inAllocs (codePart c) a 16 || s.guarded a 16) then drop.qError c 4
    else
      let s := if loc then drop.homeWrite a bs else drop.send (.hostWrite (BitVec.ofNat 64 a) bs)
      let t := (x.cqTail + 1) % x.cqEntries.toNat
      let s := s.setQueue c { x with
        cqTail := t, phase := if t = 0 then !x.phase else x.phase, sinceMsg := x.sinceMsg + 1
        firstTick := if x.sinceMsg = 0 then s.clk.ticks else x.firstTick }
      (s.queueMessage c (failing st)).qSettle c

end Sys2Proof.Machine
end

