-- ==== Sys2Proof/Machine/Pages.lean ====
section
/-! DEFINITION. Key-value pages: their layout (R166 to R168), the append of a row (R169), page tables (R174), pools (R177),
context references (R172, R175) and what they charge (R222). -/

namespace Sys2Proof.Machine

open Sys2Proof

/-! ## Layout (Table 07-1) -/

/-- K_S: slot of a key tile. -/
def keySlotSize (P : Nat) : Nat := 768 + 2048 * P
/-- V_S: slot of a value tile. -/
def valSlotSize (P : Nat) : Nat := 768 + 1024 * P
/-- F: page footprint for D = 32 × nb. -/
def pageSize (nb P : Nat) : Nat := 256 * nb + 4 * keySlotSize P + nb * valSlotSize P
/-- Offset of key tile u. -/
def keyTileOff (nb P u : Nat) : Nat := 256 * nb + u * keySlotSize P
/-- Offset of value tile g. -/
def valTileOff (nb P g : Nat) : Nat := 256 * nb + 4 * keySlotSize P + g * valSlotSize P

/-- One row of a half page: the blocks of the key orientation and of the value orientation. -/
structure PageRow where
  k : List EncBlock
  v : List EncBlock
  deriving DecidableEq, Repr

/-- The header word of a key-value tile (Table 05-6, KIND 0x2). -/
def kvHeader (addr len : Nat) : List Byte :=
  bytesLE 64 (1 + 2 * 16 + len * 2 ^ 352 + (Config.kvGen addr).toNat * 2 ^ 384 +
    (Config.kvTileIndex addr).toNat * 2 ^ 416 + (Config.kvObjectId addr).toNat * 2 ^ 448)

/-- A tile with no written row: every key column absent; every plane of a value column flagged (R167, R168). -/
def emptyTile (addr P : Nat) (value : Bool) : List Byte :=
  let absent := BitVec.ofNat 8 (16 * P)
  let n := if value then 32 else 0
  kvHeader addr 768 ++ (List.replicate n (BitVec.ofNat 8 (17 * P)) ++ List.replicate (64 - n) absent) ++
    (List.replicate n (BitVec.ofNat 8 (2 ^ P - 1)) ++ List.replicate (64 - n) 0) ++
    (List.replicate (8 * n) 0x7F ++ List.replicate (512 - 8 * n) 0) ++ List.replicate 64 0

/-- Writes a half page with no written row. -/
def State.initHalf (s : State) (base nb P : Nat) : State :=
  let s := s.homeWrite base (List.replicate (256 * nb) 0)
  let s := (List.range 4).foldl (fun s u =>
    let a := base + keyTileOff nb P u
    s.homeWrite a (emptyTile a P false)) s
  (List.range nb).foldl (fun s g =>
    let a := base + valTileOff nb P g
    s.homeWrite a (emptyTile a P true)) s

/-- Plane b of a column whose rows hold element codes: row k at bit k. -/
def planeOf (elems : List Nat) (b : Nat) : Nat :=
  (elems.zipIdx.map fun e => if e.1.testBit b then 2 ^ e.2 else 0).foldl (· + ·) 0

/-- Z_n of planes listed from position P − 1 down. -/
def zOf (planes : List Nat) : Nat :=
  (planes.zipIdx.map fun e => if e.1 = 0 then 2 ^ (planes.length - 1 - e.2) else 0).foldl (· + ·) 0

/-- The stored planes as bytes. -/
def storedPlanes (planes : List Nat) : List Byte := (planes.filter (· ≠ 0)).flatMap (bytesLE 32)

/-- LENGTH of a tile in memory. -/
def State.tileLength (s : State) (addr : Nat) : Nat := s.num (addr + 0x2C) 4

/-- Bytes of the planes a column stores. -/
def TileCol.size (c : TileCol) : Nat := (storedPlanes c.planes).length

/-- Marks columns absent from column n on, where a step that a reset ended has left any (R167). -/
def absentFrom (addr P n : Nat) (cols : List TileCol) : List (Nat × List Byte) :=
  if cols.all fun c => c.c == 0 then []
  else [(addr + 0xC0 + 8 * n, List.replicate (8 * cols.length) 0), (addr + 0x80 + n, List.replicate cols.length 0),
    (addr + 0x40 + n, List.replicate cols.length (BitVec.ofNat 8 (16 * P)))]

/-- Writes a column of a key tile: planes, codes and Z_n, column byte, LENGTH, in that order (R169). An appended column is the tile's last;
one written again keeps those after it. -/
def State.keyColumn (s : State) (again : Bool) (addr P n : Nat) (bs : List EncBlock) : State :=
  let elems := bs.flatMap (·.elems)
  let planes := (positionsFrom P P).map (planeOf elems)
  let codes := (bs.map fun b => BitVec.ofNat 8 b.code) ++ List.replicate (8 - bs.length) 0
  let cols := s.tileCols addr (tileHead (s.bytes addr 704))
  let off := 0x300 + ((cols.take n).map TileCol.size).foldl (· + ·) 0
  let rest := cols.drop (n + 1)
  let same := again && (cols[n]?).any fun c => c.size == (storedPlanes planes).length
  let st := storedPlanes planes ++ (if again && !same then rest.flatMap fun c => storedPlanes c.planes else [])
  s.homeWrites ([(addr + off, st), (addr + 0xC0 + 8 * n, codes), (addr + 0x80 + n, bytesLE 1 (zOf planes)),
    (addr + 0x40 + n, bytesLE 1 (17 * P))] ++ (if again then [] else absentFrom addr P (n + 1) rest) ++
    (if same then [] else [(addr + 0x2C, bytesLE 4 (off + st.length))]))

/-- A plane with bit r as an element's code has it: of a row written again the other rows stay, of an appended one none follows. -/
def planeBit (again : Bool) (r v : Nat) (on : Bool) : Nat :=
  let v := if again then (if v.testBit r then v - 2 ^ r else v) else v % 2 ^ r
  if on then v ||| 2 ^ r else v

/-- Writes bit r of every column of a value tile; answers whether a flagged plane had to be stored (R169). -/
def State.valRow (s : State) (again : Bool) (addr P r : Nat) (elems : List Nat) : State × Bool :=
  let cols := ((s.tileCols addr (tileHead (s.bytes addr 704))).take 32).map (·.planes)
  let cols' := (cols.zip elems).map fun (ps, e) =>
    (ps.zip (positionsFrom P P)).map fun (v, b) => planeBit again r v (e.testBit b)
  let zs := cols'.map zOf
  let st := cols'.flatMap storedPlanes
  let grew := (cols.zip cols').any fun x => (x.1.zip x.2).any fun v => v.1 == 0 && v.2 != 0
  (s.homeWrites [(addr + 0x300, st), (addr + 0x80, zs.map (BitVec.ofNat 8)), (addr + 0x2C, bytesLE 4 (768 + st.length))], grew)

/-- Writes row r of a half page, for the first time or again; answers the value tiles rewritten. -/
def State.halfRow (s : State) (again : Bool) (base nb P r : Nat) (row : PageRow) : State × Nat :=
  let s := s.keyColumn again (base + keyTileOff nb P (r / 64)) P (r % 64) row.k
  let (s, n) := row.v.zipIdx.foldl (fun (a : State × Nat) b =>
    let (s, grew) := a.1.valRow again (base + valTileOff nb P b.2) P r b.1.elems
    (s, a.2 + (if grew then 1 else 0))) (s, 0)
  (s.homeWrite (base + r * nb) (row.v.map fun b => BitVec.ofNat 8 b.code), n)

/-- Writes row r of a page, with its training half (R190). -/
def State.pageRow (s : State) (again : Bool) (base nb P r : Nat) (train : Bool) (row : PageRow) : State × Nat :=
  let (s, n) := s.halfRow again base nb P r row
  if !train then (s, n)
  else
    let (s, m) := s.halfRow again (base + pageSize nb P) nb P r { k := row.v, v := row.k }
    (s, n + m)

/-- Writes a page with no written row. -/
def State.initPage (s : State) (base nb P : Nat) (train : Bool) : State :=
  let s := s.initHalf base nb P
  if train then s.initHalf (base + pageSize nb P) nb P else s

/-- The element codes that planes listed from the top down hold in row k. -/
def codeAt (P : Nat) (planes : List Nat) (k : Nat) : Nat :=
  ((planes.zip (positionsFrom P P)).map fun (v, b) => if v.testBit k then 2 ^ b else 0).foldl (· + ·) 0

/-- Reads row r of a half page. -/
def State.readRow (s : State) (base nb P r : Nat) : PageRow :=
  let colsOf (a : Nat) : List TileCol := s.tileCols a (tileHead (s.bytes a 704))
  let c := (colsOf (base + keyTileOff nb P (r / 64)))[r % 64]?
  let kp := (c.map (·.planes)).getD []
  let kc := (c.map (·.scales)).getD []
  { k := (List.range nb).map fun g =>
      { code := kc.getD g 0, elems := (List.range 32).map fun i => codeAt P kp (32 * g + i) }
    v := (List.range nb).map fun g =>
      let cs := (colsOf (base + valTileOff nb P g)).take 32
      { code := (s.byte (base + r * nb + g)).toNat, elems := cs.map fun c => codeAt P c.planes r } }

/-- Copies the first n rows of a page into a new one (R179). -/
def State.copyRows (s : State) (src dst nb P : Nat) (train : Bool) (n : Nat) : State :=
  (List.range n).foldl (fun s r => (s.pageRow false dst nb P r train (s.readRow src nb P r)).1) (s.initPage dst nb P train)

/-! ## Descriptors (Tables 07-2 to 07-4) -/

/-- MAXP. -/
def ctxPages (d : W512) : Nat := fld d 351 336 + 1
/-- LEN. -/
def ctxLen (d : W512) : Nat := fld d 383 352
/-- LAYER_BASE. -/
def ctxLayer0 (d : W512) : Nat := fld d 335 320
/-- Layers. -/
def ctxLayers (d : W512) : Nat := fld d 319 304 + 1
/-- Head groups per layer. -/
def ctxGroups (d : W512) : Nat := fld d 303 298 + 1
/-- D / 32. -/
def ctxBlocks (d : W512) : Nat := fld d 297 295 + 1
/-- TRAIN. -/
def ctxTrain (d : W512) : Bool := bit d 294
/-- PARTITION. -/
def ctxPart (d : W512) : Nat := fld d 281 275
/-- CUSTOMER. -/
def ctxCustomer (d : W512) : Nat := fld d 293 282
/-- POOL. -/
def ctxPool (d : W512) : Nat := fld d 240 237
/-- GEN. -/
def ctxGen (d : W512) : Nat := fld d 271 241

/-- Address of a page-table entry (R174). -/
def pageEntryAddr (d : W512) (l h k : Nat) : Nat :=
  fld d 447 384 + 8 * (((l - ctxLayer0 d) * ctxGroups d + h) * ctxPages d + k)

/-- A page-table entry. -/
def State.pageEntry (s : State) (d : W512) (l h k : Nat) : W64 := BitVec.ofNat 64 (s.num (pageEntryAddr d l h k) 8)

/-- Page base of an entry. -/
def entryPage (e : W64) : Nat := fld e 51 12 * 4096

/-- Writes a page-table entry. -/
def State.setPageEntry (s : State) (d : W512) (l h k page : Nat) (shared sealed : Bool) : State :=
  s.homeWrite (pageEntryAddr d l h k) (bytesLE 8 (page + b2n shared 2 + b2n sealed 1 + 1))

/-- Key of a (layer, group). -/
def groupKey (l h : Nat) : Nat := l * 64 + h
/-- Key of a (layer, group, page). -/
def pageKey (l h k : Nat) : Nat := groupKey l h * 65536 + k

/-- Every (layer, group) of a context. -/
def ctxHeads (d : W512) : List (Nat × Nat) :=
  (List.range (ctxLayers d)).flatMap fun i => (List.range (ctxGroups d)).map fun h => (ctxLayer0 d + i, h)

/-- Replaces a descriptor. -/
def State.setCtx (s : State) (i : Nat) (d : W512) : State := { s with ctxs := SMap.put i d s.ctxs }
/-- Changes a context's progress. -/
def State.modExtra (s : State) (i : Nat) (f : CtxExtra → CtxExtra) : State :=
  { s with ctxExtra := SMap.put i (f (SMap.get {} s.ctxExtra i)) s.ctxExtra }

/-- INDEX of a reference. -/
def refIndex (r : W64) : Nat := fld r 51 31

/-- The checks of R175: the descriptor index of a reference, or the status. A reference that resolves to another package
names no descriptor of this one. -/
def State.refCheck (s : State) (p : Nat) (r : W64) : Except Byte (Nat × W512) :=
  let c := gcoord r
  let e := s.route c
  match s.resolve p r with
  | .refused => .error stDenied
  | .far _ => if routeState e = 1 ∨ routeTenure e ≠ fld r 30 27 then .error stCtxLost else .error stDenied
  | .here _ =>
    if s.fab.tenure % 16 ≠ fld r 30 27 then .error stCtxLost
    else
      match SMap.find? (refIndex r) s.ctxs with
      | none => .error stDenied
      | some d =>
        if ctxState d = 0 ∨ ctxGen d ≠ fld r 30 0 ∨ ctxPart d ≠ p then .error stDenied else .ok (refIndex r, d)

/-! ## Pools -/

/-- Slot size of a pool (R177). -/
def Pool.slotSize (x : Pool) : Nat := roundUp 4096 (pageSize x.dblk x.pmax * (if x.train then 2 else 1))

/-- A pool of a partition. -/
def State.pool? (s : State) (p n : Nat) : Option Pool := SMap.find? n (s.part p).pools
/-- Replaces a pool. -/
def State.setPool (s : State) (p n : Nat) (x : Pool) : State := s.modPart p fun y => { y with pools := SMap.put n x y.pools }

/-- Free slots of a pool. -/
def Pool.free (x : Pool) : Nat := x.size / x.slotSize - x.counts.length

/-- Takes the lowest free slot of a pool for a page of precision P; answers its address (R177). -/
def State.takeSlot (s : State) (p n P : Nat) : Option (State × Nat) :=
  match s.pool? p n with
  | none => none
  | some x =>
    match SMap.lowestFree (x.size / x.slotSize) x.counts with
    | none => none
    | some i =>
      let x := { x with counts := SMap.put i 1 x.counts, precs := SMap.put i P x.precs }
      some ((s.setPool p n x).count .pagesOpened p, x.base + i * x.slotSize)

/-- Slot of a page address. -/
def Pool.slotOf (x : Pool) (page : Nat) : Nat := (page - x.base) / x.slotSize

/-- Raises the count of a page. -/
def State.holdPage (s : State) (p n page : Nat) : State :=
  match s.pool? p n with
  | none => s
  | some x => s.setPool p n { x with counts := SMap.put (x.slotOf page) (SMap.get 0 x.counts (x.slotOf page) + 1) x.counts }

/-- Lowers the count of a page; its slot is freed at zero (R179). -/
def State.dropPage (s : State) (p n page : Nat) : State :=
  match s.pool? p n with
  | none => s
  | some x => s.setPool p n { x with counts := SMap.set 0 x.counts (x.slotOf page) (SMap.get 0 x.counts (x.slotOf page) - 1) }

/-- Precision of a page. -/
def State.pagePrec (s : State) (p n page : Nat) : Nat :=
  match s.pool? p n with
  | none => 8
  | some x => SMap.get 8 x.precs (x.slotOf page)

/-! ## Appending (R169) -/

/-- The precision of a page whose first row is written anew: a page that a step ended by a reset had opened is used again. -/
def State.setPrec (s : State) (p n page P : Nat) : State :=
  match s.pool? p n with
  | none => s
  | some x => s.setPool p n { x with precs := SMap.put (x.slotOf page) P x.precs }

/-- Writes one row of a (layer, group) at a position, appended or written again: the page's precision, a slot for a first row, the row,
the seal. Answers the status. -/
def State.appendRow (s : State) (again : Bool) (p i l h pos : Nat) (keys vals : List W32) : State × Byte :=
  match SMap.find? i s.ctxs with
  | none => (s, stDenied)
  | some d =>
    let n := ctxPool d
    let nb := ctxBlocks d
    let k := pos / 256
    let r := pos % 256
    let c := s.layerRec p l
    if ctxPages d * 256 ≤ pos then (s, stQuota)
    else
      let e := s.pageEntry d l h k
      let opened : Option (State × Nat × Nat) :=
        if r = 0 ∧ !again then
          if (s.pool? p n).any (fun x => decide (x.pmax < recKvBits c)) then none
          else if bit e 0 then
            some (((s.setPrec p n (entryPage e) (recKvBits c)).initPage (entryPage e) nb (recKvBits c) (ctxTrain d)).setPageEntry d l h k
              (entryPage e) false false, entryPage e, recKvBits c)
          else (s.takeSlot p n (recKvBits c)).map fun (s, a) =>
            ((s.initPage a nb (recKvBits c) (ctxTrain d)).setPageEntry d l h k a false false, a, recKvBits c)
        else
          some (s, entryPage e, s.pagePrec p n (entryPage e))
      match opened with
      | none => (s, stQuota)
      | some (s, a, P) =>
        let (kb, c1) := encodeBlocks (.int P 0) (recStatic c) keys
        let (vb, c2) := encodeBlocks (.int P 0) (recStatic c) vals
        let (s, rw) := s.pageRow again a nb P r (ctxTrain d) { k := kb, v := vb }
        let s := if r = 255 ∧ !again then s.setPageEntry d l h k a false true else s
        (((s.count .vtileRewrites p rw).count .kvAppends p (if again then 0 else 1)).layerCounts p l (c1.add c2), stOk)

/-- FP32 values of the blocks of a row (R115, R122). -/
def rowValues (P : Nat) (bs : List EncBlock) : List W32 := bs.flatMap fun b => (blockToF32 (.int P 0) b.code b.elems).1

/-! ## Trees (R187) -/

/-- A tree: context reference and its nodes (token, parent) as numbers; none if it breaks a rule of R187. -/
def State.tree? (s : State) (a : Nat) : Option (W64 × List (Nat × Nat)) :=
  let h := s.word512 a
  let n := fld h 447 442 + 1
  let words := (List.range n).map fun i => s.num (a + 64 + 8 * i) 8
  let nodes := words.map fun w => (w / 2 ^ 32, w / 2 ^ 24 % 256)
  -- depths in index order: every parent comes before its child
  let depths := nodes.zipIdx.foldl (fun (ds : List Nat) x =>
    ds ++ [if x.2 = 0 then 1 else ds.getD x.1.2 0 + 1]) []
  if zeroFld h 441 0 && words.all (fun w => w % 2 ^ 24 == 0) &&
      (nodes.zipIdx.all fun x => if x.2 = 0 then x.1.2 == 0xFF else decide (x.1.2 < x.2)) &&
      depths.all (fun d => decide (d ≤ 17))
  then some (BitVec.ofNat 64 (fld h 511 448), nodes) else none

/-- Walks from node a while a child's token is the one chosen at a (R189): `y` gives the token chosen at each node.
Answers the path from the anchor. -/
def treePath (nodes : List (Nat × Nat)) (y : Nat → Nat) : Nat → Nat → List Nat
  | 0, a => [a]
  | f + 1, a =>
    match (List.range nodes.length).find? fun c => decide (c ≠ 0) && (nodes.getD c (0, 0)).2 == a && (nodes.getD c (0, 0)).1 == y a with
    | some c => a :: treePath nodes y f c
    | none => [a]

/-! ## Charges -/

/-- Bytes a partition uses of tier H: allocations, contexts and chains (R176, R178, R222). -/
def State.usedH (s : State) (p : Nat) : Nat :=
  ((s.allocs.filter fun e => e.2.part == p && decide (e.1 < baseD)).map fun e => e.2.size).foldl (· + ·) 0 +
    64 * (s.ctxs.countP fun e => ctxState e.2 ≠ 0 && ctxPart e.2 == p) +
    8 * (((s.part p).handles.map fun e => e.2.pages.length).foldl (· + ·) 0)

/-- Bytes a partition uses of tier D. -/
def State.usedD (s : State) (p : Nat) : Nat :=
  ((s.allocs.filter fun e => e.2.part == p && decide (baseD ≤ e.1)).map fun e => e.2.size).foldl (· + ·) 0

/-- QUOTA_H in bytes. -/
def State.quotaH (s : State) (p : Nat) : Nat := fld (s.quotaRec p) 255 224 * 0x200000
/-- QUOTA_D in bytes. -/
def State.quotaD (s : State) (p : Nat) : Nat := fld (s.quotaRec p) 223 192 * 0x200000

/-- Clears a local range to zero bytes. -/
def State.clearMem (s : State) (a n : Nat) : State :=
  let s := s.dropCopies a n none
  { s with mem := SMap.keep (fun k _ => !(decide (a ≤ k) && decide (k < a + n))) s.mem, poison := unpoison s.poison a n }

end Sys2Proof.Machine
end

