-- ==== Sys2Proof/Machine/StageOps.lean ====
section
/-! DEFINITION. The stage manager's operations: the checks of a task (R283), readiness (R286, R292), placement (R290, R291,
R331), dispatch (R24, R282), the parts of a split (R185), holds (R136), and the start of a step (R287, R318). -/

namespace Sys2Proof.Machine

open Sys2Proof

/-! ## Range lists and checks (Table 11-4, R283) -/

/-- The bytes of a range list with N ranges. -/
def rangeListLen (n : Nat) : Nat := 16 + 16 * n

/-- The range list of a task; none if it breaks a rule. -/
def State.parseRanges (s : State) (p : Nat) (d : W512) : Option (List Range) :=
  let a := dRanges d
  if a = 0 then some []
  else if a % 64 ≠ 0 ∨ 2 ^ 52 ≤ a ∨ !s.permits p a 16 then none
  else
    let h := s.num a 16
    let n := h % 32
    if h ≠ n ∨ n = 0 ∨ !s.permits p a (rangeListLen n) then none
    else
      let ws : List (BitVec 128) := (List.range n).map fun i => BitVec.ofNat 128 (s.num (a + 16 + 16 * i) 16)
      let rs := ws.map fun w => ({ base := BitVec.ofNat 64 (fld w 127 64), size := fld w 63 24, out := bit w 0 } : Range)
      let held (r : Range) : Bool :=
        match s.resolve p r.base with
        | .here l => s.permits p l r.size
        | .far _ => decide (glocal r.base + r.size ≤ 2 ^ 52)
        | .refused => false
      let ext (r : Range) : Nat × Nat := (s.gkey r.base, r.size)
      let meets := rs.any fun x => x.out && rs.any fun y => !y.out && overlap (ext x).1 (ext x).2 (ext y).1 (ext y).2
      if ws.all (fun w => zeroFld w 23 1) && rs.all (fun r => decide (1 ≤ r.size) && held r) && !meets then some rs else none

/-- TYPE, reserved fields and refused values of Tables 11-2 and 11-3. -/
def descFieldsOk (d : W512) : Bool :=
  let cast := dIsCast d
  zeroFld d 81 80 && dNw d != 3 && (dNw d == 0 || dNwCount d != 0) &&
  (if cast then
    decide (dCode d % 8 = 0) && decide (dCode d < 2 ^ 52) && fld d 255 232 != 0 &&
      (!bit d 130 || decide (8 * fld d 231 208 < 64 * fld d 255 232))
   else fld d 511 448 == 0 && zeroFld d 255 232 && zeroFld d 207 192 && !bit d 130 && dNw d == 0 && zeroFld d 63 8) &&
  (match dType d with
   | 0x60 => dAux d == 0 && zeroFld d 63 8
   | 0x61 =>
     decide (1 ≤ dSplit d ∧ dSplit d ≤ 64) && dMask d != 3 && (dMask d != 2 || dSplit d == 1) && zeroFld d 47 8 &&
       (if dCollect d then dPart d == 0 && dWaitCount d == 0 && dMask d == 0 else decide (dPart d < dSplit d))
   | 0x62 => dAux d == 0 && zeroFld d 57 8
   | 0x63 => true
   | 0x64 => true
   | _ => false)

/-- Whether a layer's casting call of the current step has committed, and with an answer: that of the first that has one. -/
def Part.answerOf (x : Part) (l : Nat) : Option (Option (List (Nat × Nat))) :=
  let mine := (x.answered.filter fun a => a.1 == l).map Prod.snd
  match mine.find? Option.isSome with
  | some a => some a
  | none => mine.head?

/-- The expert of an owned slot whose final list of the current step is empty (R210). -/
def Part.emptyExpert (x : Part) (l slot : Nat) : Option Nat :=
  (x.emptySlots.find? fun e => e.1 == l && e.2.1 == slot).map fun e => e.2.2

/-- The expert a waiting task of the current step would run, where its slot drew no token (R210). -/
def State.drawsNone (s : State) (t : Task) : Option Nat :=
  let x := s.part t.part
  if t.phase = .waiting ∧ x.phase = .active ∧ !t.dispatched ∧ t.step = x.step.toNat ∧ dType t.desc = 0x62 then
    x.emptyExpert (dLayer t.desc) (dSlot t.desc) else none

/-- The checks of R283; the range list where all pass. -/
def State.checkTask (s : State) (t : Task) : Option (List Range) :=
  let d := t.desc
  let p := t.part
  let tree := dType d == 0x61 && dMask d == 2 && !dCollect d
  let treeOk := !tree || (s.permits p (dAux d) 64 && (s.tree? (dAux d)).isSome &&
    s.permits p (dAux d) (64 + 8 * (fld (s.word512 (dAux d)) 447 442 + 1)))
  let codeOk := !dIsCast d || s.inAllocs p (dCodeExt d).1 (dCodeExt d).2
  let expertOk := dType d != 0x62 || ((s.part p).answerOf (dLayer d)).any Option.isSome
  if descFieldsOk d && treeOk && codeOk && expertOk && decide (dTile d ≤ (s.tsPart p).2) then s.parseRanges p d else none

/-! ## Splits (R184, R185) -/

/-- Completed parts of a split, in order. -/
def Part.arrived (x : Part) (k : Nat) : List (Nat × Byte) := SMap.get [] x.splits k

/-- The slots of a split that its uncommitted tasks name: a part's index and AUX, the collector's COLLECT as that of slot 0 (R184, R185). -/
def State.splitSlots (s : State) (p k : Nat) : List (Nat × Nat) :=
  (s.tasks.filter fun e => e.2.part == p && e.2.step == (s.part p).step.toNat && splitOf e.2.desc == some k).map fun e =>
    (dPart e.2.desc, dAux e.2.desc)

/-- The context reference of a task: its request's (R180, R183). -/
def State.taskCtx (s : State) (t : Task) : W64 :=
  if t.ctx ≠ 0 then t.ctx
  else match (dReq t.desc).bind fun q => SMap.find? q s.requests with
    | some q => if q.part = t.part then q.ctx else 0
    | none => 0

/-- RS of the record in a slot, from its header's CTX and OSTR (R184). -/
def State.recordSize (s : State) (p aux : Nat) : Option Nat :=
  let h := s.word512 aux
  match s.refCheck p (BitVec.ofNat 64 (fld h 447 384)) with
  | .ok (_, d) => some (1088 + 32 * ctxBlocks d * fld h 311 296)
  | .error _ => none

/-- COLLECT and RS of a split: noted, from two slots that are known, or, of a split of one part, from its record. -/
def State.splitArea (s : State) (p k : Nat) : Option (Nat × Nat) :=
  match SMap.find? k (s.part p).splitAreas with
  | some a => some a
  | none =>
    let m := s.splitSlots p k
    match m.findSome? fun e => (m.find? fun f => decide (e.1 < f.1)).map fun f => (e, (f.2 - e.2) / (f.1 - e.1)) with
    | some (e, rs) => some (e.2 - e.1 * rs, rs)
    | none => (m.find? fun e => e.1 == 0).bind fun e => (s.recordSize p e.2).map fun rs => (e.2, rs)

/-- Notes where the slots of a split lie, once two of them are known. -/
def State.noteArea (s : State) (p k : Nat) : State :=
  let m := s.splitSlots p k
  if m.all fun e => m.all fun f => e.1 == f.1 then s
  else match s.splitArea p k with
    | some a => s.modPart p fun x => { x with splitAreas := SMap.put k a x.splitAreas }
    | none => s

/-- Writes the arrival list of a split that has begun as it stands: the indices in order, then 0xFF (R185). -/
def State.arrivalList (s : State) (p k : Nat) : State :=
  match SMap.find? k (s.part p).splits, s.splitArea p k with
  | some l, some (collect, rs) =>
    let a := collect + k % 128 * rs
    let got := l.map fun e => BitVec.ofNat 8 e.1
    if s.inAllocs p a 64 || s.permits p a 64 then s.homeWrite a (got ++ List.replicate (64 - got.length) 0xFF) else s
  | _, _ => s

/-- Whether a part has no page (R183): NP is that of its request's context, or of the one its record names. -/
def State.emptyPart (s : State) (t : Task) (st : Byte) : Bool :=
  let r := s.taskCtx t
  let r := if r ≠ 0 then r else if failing st then 0 else BitVec.ofNat 64 (fld (s.word512 (dAux t.desc)) 447 384)
  match s.refCheck t.part r with
  | .error _ => false
  | .ok (i, c) =>
    let a := (SMap.get {} s.ctxExtra i).appended.foldl (fun m e => if e.1 / 64 = dLayer t.desc then max m e.2 else m) 0
    let np := ceilDiv (ctxLen c + a) 256
    dPart t.desc * np / dSplit t.desc == (dPart t.desc + 1) * np / dSplit t.desc

/-- A part of a split has completed: its completion status enters the slot if it failed, its index the arrival list (R185). A
replayed part that is listed already is not listed again. -/
def State.partDone (s : State) (t : Task) : State :=
  match splitOf t.desc with
  | none => s
  | some k =>
    if dCollect t.desc then s
    else
      let p := t.part
      let st := worst t.status t.gateStatus
      let s := s.noteArea p k
      let s := if failing st && s.permits p (dAux t.desc) 64 then s.homeWrite (dAux t.desc) [st] else s
      if ((s.part p).arrived k).any fun e => e.1 == dPart t.desc then
        let again (x : Part) : List (Nat × Byte) := (x.arrived k).map fun e => if e.1 = dPart t.desc then (e.1, st) else e
        s.modPart p fun x => { x with splits := SMap.put k (again x) x.splits }
      else
        let s := if s.emptyPart t st then s.count .emptyParts p else s
        (s.modPart p fun x => { x with splits := SMap.put k (x.arrived k ++ [(dPart t.desc, st)]) x.splits }).arrivalList p k

/-- The status a merge takes from its parts: the R9 choice over those that failed. -/
def Part.mergeStatus (x : Part) (k : Nat) : Byte :=
  (x.arrived k).foldl (fun b e => if failing e.2 then worst b e.2 else b) stOk

/-! ## Holds (R136) -/

/-- Key of a (layer, kind). -/
def reportKey (l : Nat) (grad : Bool) : Nat := 2 * l + (if grad then 1 else 0)

/-- The kind a task reports. -/
def dNwKind (d : W512) : Option Bool := match dNw d with | 1 => some false | 2 => some true | _ => none

/-- Takes the norm report of a task, its share of the squared norm (R131): one of an index at or above J is ignored, as is any where the
kind's action is OFF (R135), or from the re-run of an encore that judges another kind (R138); a second one of an index replaces the
first. -/
def State.report (s : State) (t : Task) (v : W32) : State :=
  match dNwKind t.desc with
  | none => s
  | some grad =>
    let l := dLayer t.desc
    let judges := (SMap.find? l (s.part t.part).encores).any fun e => e.kinds.contains grad
    if dNwCount t.desc ≤ dNwIndex t.desc ∨ recAction (s.layerRec t.part l) grad = 0 ∨ (t.encore ∧ !judges) then s
    else s.modPart t.part fun x =>
      let key := reportKey l grad
      let r := SMap.get {} x.reports key
      { x with reports := SMap.put key { r with total := dNwCount t.desc, vals := SMap.put (dNwIndex t.desc) v r.vals } x.reports }

/-- Whether a kind of a layer still holds it: its action is ENCORE or STOP, a task of the step reports it, and no verdict
has been reached. -/
def State.kindHeld (s : State) (p l : Nat) (grad : Bool) : Bool :=
  let r := SMap.get {} (s.part p).reports (reportKey l grad)
  decide (2 ≤ recAction (s.layerRec p l) grad) && !r.judged && !r.failed &&
    s.tasks.any fun e => e.2.part == p && e.2.step == (s.part p).step.toNat && dLayer e.2.desc == l &&
      dNwKind e.2.desc == some grad

/-- Whether a layer is held until its verdict, or its encore runs (R136, R138). -/
def State.layerHeld (s : State) (p l : Nat) : Bool :=
  s.kindHeld p l false || s.kindHeld p l true || (SMap.find? l (s.part p).encores).any fun e => !e.judged

/-- Whether a task, call or collective would read or carry the outputs of a held layer (R136). What a task of the layer itself reads is not
the layer's output: the verdict waits for every report of the layer (DEDUCED, log 45). -/
def State.readsHeld (s : State) (k : Nat) (t : Task) (rs : List Range) : Bool :=
  let src := (rs.filter fun r => !r.out).map (fun r => (s.gkey r.base, r.size)) ++ (s.unitExts k t).1.map fun e => (lkey e.1, e.2)
  s.tasks.any fun e => e.1 != k && e.2.part == t.part && e.2.dispatched && dLayer e.2.desc != dLayer t.desc &&
    s.layerHeld t.part (dLayer e.2.desc) && extsMeet src e.2.outs

/-! ## Readiness (R286, R292) -/

/-- Whether a waiting task meets its conditions. -/
def State.isReady (s : State) (t : Task) : Bool :=
  let x := s.part t.part
  t.phase == .waiting && x.phase == .active && t.step == x.step.toNat &&
  (if dCollect t.desc then
    match splitOf t.desc with
    | some k => if x.scripted then decide (dSplit t.desc ≤ (x.arrived k).length) else !(x.arrived k).isEmpty
    | none => false
   else
    decide (dWaitCount t.desc ≤ (SMap.get {} x.gates (dWaitGate t.desc)).count) &&
      (dType t.desc != 0x62 || (x.answerOf (dLayer t.desc)).isSome))

/-- A task of a layer has failed: no verdict is formed for the step (R132), and a re-run that stands is over (R138). -/
def State.layerFails (s : State) (p l : Nat) : State :=
  s.modPart p fun x =>
    let fail (x : Part) (g : Bool) : Part :=
      let r := SMap.get {} x.reports (reportKey l g)
      if r.judged then x else { x with reports := SMap.put (reportKey l g) { r with failed := true } x.reports }
    let x := fail (fail x false) true
    match SMap.find? l x.encores with
    | some e => if e.placed then { x with encores := SMap.put l { e with judged := true } x.encores } else x
    | none => x

/-- What follows when the completion of a task stands (R285): its split learns of it (R185), its layer of a failure. -/
def State.taskDone (s : State) (k : Nat) (t : Task) : State :=
  let s := (s.setTask k t).partDone t
  if failing t.status then s.layerFails t.part (dLayer t.desc) else s

/-- Raises LEN of the contexts a step appended to (R170). -/
def State.raiseLens (s : State) (p : Nat) : State :=
  let ups := (s.part p).appends
  (ups.foldl (fun s e =>
    match SMap.find? e.1 s.ctxs with
    | some d => (s.setCtx e.1 (setFld d 383 352 (ctxLen d + e.2))).modExtra e.1 fun x => { x with appended := [] }
    | none => s) s).modPart p fun x => { x with appends := [] }

/-- The last layer of a step has committed once STEP_BEGIN has closed the step and none of its tasks is left: LEN rises (R170). -/
def State.lensDone (s : State) (p : Nat) : State :=
  let x := s.part p
  if x.stepBegins.isEmpty || s.tasks.any (fun e => e.2.part == p && decide (e.2.step ≤ x.step.toNat)) then s else s.raiseLens p

/-- Completes a task undispatched, as committed, with a status and no output. -/
def State.skipTask (s : State) (k : Nat) (st : Byte) (skipped : Bool) : State :=
  match s.task? k with
  | none => s
  | some t => ((s.taskDone k { t with status := st, noOutput := true, skipped := skipped, phase := .complete }).commitTask k).lensDone t.part

/-- The digest term of an empty slot, once per (layer, slot), at the tile index of the task's first output range (R210). -/
def State.emptyTerm (s : State) (t : Task) (e : Nat) : State :=
  let l := dLayer t.desc
  let x := s.part t.part
  let c := x.digestRec l
  if !bit c 0 || x.emptyTerms.contains (l, dSlot t.desc) then s
  else
    match ((s.parseRanges t.part t.desc).getD []).find? (·.out) with
    | none => s
    | some r =>
      let x := { x with emptyTerms := (l, dSlot t.desc) :: x.emptyTerms }
      let x := if r.base.toNat < fld c 127 64 then x.digestAdd l fun d => { d with outside := d.outside + 1 }
        else x.digestAdd l fun d => { d with
          digest := d.digest + rotl64 (crc64 (bytesLE 8 (0x454D505400000000 + e))) ((r.base.toNat - fld c 127 64) >>> fld c 7 2) }
      s.setPart t.part x

/-- Notes a task of a slot that drew no token, which completes as soon as that is known (R210), or one that has become ready: VCLOCK,
then a stale or intermission task completes at once (R295, R302). -/
def State.noteReady (s : State) (k : Nat) : State :=
  match s.task? k with
  | none => s
  | some t =>
    match s.drawsNone t with
    | some e => (s.emptyTerm t e).skipTask k stOk false
    | none =>
    if t.readyAt.isSome || !s.isReady t then s
    else
      let s := (s.raiseVclock t.part).setTask k { t with readyAt := some s.clk.cycle }
      let req := (dReq t.desc).map fun r => SMap.find? r s.requests
      match req with
      | some none => (s.count .staleTasks t.part).skipTask k stDenied true
      | some (some r) =>
        if r.part ≠ t.part then (s.count .staleTasks t.part).skipTask k stDenied true
        else if r.state = 2 then (s.count .intermissionSkips t.part).skipTask k stOk true
        else s
      | none => s

/-- Notes every task that has become ready, in acceptance order. -/
def State.noteAll (s : State) : State := (s.tasks.map Prod.fst).foldl State.noteReady s

/-! ## Placement (R290, R291, R331) -/

/-- Thread slots of a core that casts hold. -/
def State.heldSlots (s : State) (c : Nat) : List Nat :=
  s.tasks.flatMap fun e =>
    if e.2.core == c && e.2.live && e.2.phase != .switchedOut then e.2.slots else []

/-- Free thread slots of a core, ascending. -/
def State.freeSlots (s : State) (c : Nat) : List Nat :=
  let h := s.heldSlots c
  (List.range 64).filter fun i => !h.contains i

/-- Tile-store ranges of a core that an allotment avoids: those of casts, until their arrays have run too, destinations of the
selected sheet, encore reservations. -/
def State.tsTaken (s : State) (p c : Nat) : List (Nat × Nat) :=
  (s.tasks.filterMap fun e => if dIsCast e.2.desc && (e.2.phase == .running || e.2.phase == .switchingOut) && e.2.core == c && e.2.tsSize != 0
    then some (e.2.tsBase, e.2.tsSize) else none) ++
  (match s.selSheet p with
   | none => []
   | some sh => sh.entries.filterMap fun e =>
     if fld e.word 66 59 = c then some (tileBase c + fld e.word 58 44 * 128, fld e.word 151 136 * 128) else none) ++
  s.parts.flatMap fun e => e.2.encores.flatMap fun r =>
    (r.2.ranges.filter fun x => x.1 == c).map fun x => x.2

/-- The lowest range of n bytes in a partition's part of a core's tile store that avoids those taken, by 4 KiB. -/
def State.tsRangeFor (s : State) (p c n : Nat) : Option Nat :=
  let ts := s.tsRange p c
  if n = 0 then some ts.1
  else
    let taken := s.tsTaken p c
    let starts := ts.1 :: taken.map fun r => roundUp 4096 (r.1 + r.2)
    let ok (a : Nat) : Bool := decide (ts.1 ≤ a) && inside a n ts.1 ts.2 && taken.all fun r => !overlap r.1 r.2 a n
    ((starts.filter ok).min?)

/-- Whether a core's table slots allow a resumed or replayed cast (R158). -/
def State.tablesFree (s : State) (c : Nat) (t : Task) : Bool :=
  t.tables.all fun e =>
    !(s.tasks.any fun o => o.2.live && o.2.core == c && o.2.phase != .switchedOut && o.2.part != t.part &&
      (SMap.find? e.1 o.2.tables).isSome)

/-- Whether a core would be free for a task but for its prompt-book ring. -/
def State.coreFits (s : State) (t : Task) (c : Nat) : Bool :=
  s.ownsCore t.part c && !s.faults.retiredCores.contains c && decide (dThreads t.desc ≤ (s.freeSlots c).length) &&
    (s.tsRangeFor t.part c (dTile t.desc)).isSome && s.tablesFree c t

/-- Indices taken in a core's prompt-book ring, or, with `none`, in a stage manager's ring of calls and collectives. -/
def State.bookTaken (s : State) (core : Option Nat) (die : Nat) : List Nat :=
  s.tasks.filterMap fun e =>
    if !e.2.dispatched then none
    else
      match core with
      | some c => if dIsCast e.2.desc && e.2.core == c then some e.2.bookIdx else none
      | none => if !dIsCast e.2.desc && e.2.home == die then some e.2.bookIdx else none

/-- The lowest free index of a ring of 1,024. -/
def bookFree (taken : List Nat) : Option Nat := (List.range 1024).find? fun i => !taken.contains i

/-- Cores in the order a die's stage manager looks at them. -/
def coreOrder (die : Nat) : List Nat := (List.range 256).map fun i => (64 * die + i) % 256

/-- The first free core for a task. -/
def State.placeOn (s : State) (t : Task) : Option Nat :=
  (coreOrder t.home).find? fun c => s.coreFits t c && (bookFree (s.bookTaken (some c) 0)).isSome

/-- Rank of a task's class within its partition (R293 item 3). -/
def State.classRank (s : State) (t : Task) : Nat :=
  match (dReq t.desc).bind fun r => SMap.find? r s.requests with
  | some r => if r.cls = 2 then 0 else if r.cls = 1 then 2 else 1
  | none => 1

/-- The order in which ready tasks are taken (R293). -/
def State.before (s : State) (a b : Nat × Task) : Bool :=
  let key (e : Nat × Task) : List Nat :=
    let sh := s.shares e.2.part
    [if sh = 0 then 1 else 0, if sh = 0 then 0 else s.vclock e.2.part * 256 / sh, e.2.part, s.classRank e.2, e.2.readyAt.getD 0,
      e.1]
  decide (key a ≤ key b)

/-- Whether a task's new run must wait: in a replay for a member with a lower dispatch number (R336 step 3), in an encore for
the new run of a task it consumes from (R138). -/
def State.replayWaits (s : State) (k : Nat) (t : Task) : Bool :=
  (t.rerun && s.tasks.any fun e => e.1 != k && e.2.part == t.part && e.2.replaying && decide (e.2.dseq < t.dseq) &&
    (e.2.phase == .waiting || (consumes t e.2 && e.2.phase != .complete))) ||
  (t.encore && s.tasks.any fun e => e.2.encore && consumes t e.2 && e.2.phase != .complete)

/-- The entries of a task's position for a core that a dispatch waits for (R233, R239): those whose bits have been cleared by its
commit, those being run again, and those that its commit would leave without their bits. -/
def State.refetch (s : State) (t : Task) (c : Nat) : List Nat :=
  match s.selSheet t.part with
  | none => []
  | some sh =>
    let x := s.part t.part
    (sh.entries.zipIdx.filter fun e =>
      let y := SMap.get .idle x.entryPhase e.2
      e.1.pos == dPos t.desc && fld e.1.word 66 59 == c && !(x.cancelled.contains (BitVec.ofNat 64 (fld e.1.word 255 192))) &&
        (y == .cleared || x.rerunEntries.contains e.2 ||
          (x.committedPos.contains (dPos t.desc) && y != .placed && y != .skipped))).map Prod.snd

/-- Starts the re-run of entries; those under way are left alone. -/
def State.startRefetch (s : State) (p pos : Nat) (es : List Nat) : State :=
  let x := s.part p
  let again := es.filter fun i => SMap.get .idle x.entryPhase i == .cleared
  (s.setPart p { x with
    entryPhase := again.foldl (fun m i => SMap.put i .idle m) x.entryPhase
    rerunEntries := x.rerunEntries ++ again
    reopened := pos :: x.reopened
    committedPos := x.committedPos.filter (· ≠ pos) }).count .replayRefetch p again.length

/-! ## Dispatch -/

/-- The bytes of a part's slot (R184): RS where the split's slots show it; else the record of the most columns, 128, where the context is
known, or the record without its rows (DEDUCED, log 49). -/
def State.slotSize (s : State) (t : Task) : Nat :=
  match (splitOf t.desc).bind fun k => (s.noteArea t.part k).splitArea t.part k with
  | some a => a.2
  | none =>
    match s.refCheck t.part (s.taskCtx t) with
    | .ok (_, d) => 1088 + 32 * ctxBlocks d * 512
    | .error _ => 1088

/-- What a dispatched task declares, what its casting call or collective reads and writes included (R25, R45, R284, R331, R335). -/
def State.declare (s : State) (k : Nat) (t : Task) (rs : List Range) : Task :=
  let ext (r : Range) : Nat × Nat := (s.gkey r.base, r.size)
  let slot : List (Nat × Nat) :=
    if dType t.desc = 0x61 ∧ !dCollect t.desc ∧ dMask t.desc ≠ 2 ∧ dAux t.desc ≠ 0 then [(lkey (dAux t.desc), s.slotSize t)] else []
  let own := (rs.filter fun r => !r.out && s.isOwn (gcoord r.base)).map fun r => (glocal r.base, r.size)
  let addr := (SMap.find? k s.entries).bind (·.addr)
  let unit := s.unitExts k t
  let key (e : Nat × Nat) : Nat × Nat := (lkey e.1, e.2)
  { t with
    ranges := rs, outs := (rs.filter (·.out)).map ext ++ slot ++ unit.2.map key
    ins := (rs.filter fun r => !r.out).map ext ++ unit.1.map key
    guards := own ++ (match addr with | some a => [(a, 64)] | none => []) ++
      (if dRanges t.desc = 0 then [] else [(dRanges t.desc, rangeListLen rs.length)]) }

/-- Starts the step's accounts at a dispatch: the first dispatch of the step, the position, the layer's record, the gate's
status, the dispatch number (R145, R231, R232, R285, R332). -/
def State.noteDispatch (s : State) (k : Nat) (t : Task) : State :=
  let p := t.part
  let s := s.takeLayer p (dLayer t.desc)
  let x := s.part p
  let gate := if dWaitCount t.desc = 0 then stOk else (SMap.get {} x.gates (dWaitGate t.desc)).status
  let s := s.setPart p { x with
    dispatchedAny := true, firstDispatchTick := if x.dispatchedAny then x.firstDispatchTick else s.clk.ticks
    startedPos := max x.startedPos (dPos t.desc) }
  let t := { t with
    dispatched := true, dseq := if t.dispatched then t.dseq else s.nextDseq
    gateStatus := if t.dispatched then t.gateStatus else gate, phase := .running, rerun := false, handed := false
    castOver := false }
  let n := if (s.task? k).any (·.dispatched) then s.nextDseq else s.nextDseq + 1
  ({ s with nextDseq := n }.setTask k t).count .dispatches

/-- Starts a cast on a core: threads in the lowest free slots, the lowest tile-store range, recorded tables reloaded (R24,
R55, R158, R290). g1, which the start sets to the argument word, counts as written since the cast started (R84; DEDUCED, log 90:
else a cast that resumes would lose it). -/
def State.startCast (s : State) (k : Nat) (t : Task) (c : Nat) : State :=
  let slots := (s.freeSlots c).take (dThreads t.desc)
  let base := (s.tsRangeFor t.part c (dTile t.desc)).getD (tileBase c)
  let idx := (bookFree (s.bookTaken (some c) 0)).getD 0
  let t := { t with core := c, slots := slots, tsBase := base, tsSize := dTile t.desc, bookIdx := idx }
  let core := s.core c
  let s := (s.setCore c { core with tables := t.tables.foldl (fun m e => SMap.put e.1 e.2 m) core.tables }).count
    .tableLoads c t.tables.length
  let s := s.noteDispatch k t
  let threads := slots.zipIdx.foldl (fun m e =>
    let x : Thread := { task := k, tid := e.2, pc := BitVec.ofNat 64 (dCode t.desc), g := SMap.set 0 [] 1 (dArg t.desc), liveG := [1] }
    SMap.put (c * 64 + e.1) x m) s.threads
  let s := { s with threads := threads }
  match splitOf t.desc with
  | none => s
  | some y =>
    if dCollect t.desc || (SMap.find? y (s.part t.part).splits).isSome then s
    else ((s.modPart t.part fun x => { x with splits := SMap.put y [] x.splits }).noteArea t.part y).arrivalList t.part y

/-- Dispatches a task whose turn it is, on a core where it is a cast; a failed check is a job fault (R283, R307). Answers
none where the task cannot go now. -/
def State.tryDispatch (s : State) (k : Nat) (t : Task) : Option State :=
  let x := s.part t.part
  if x.selectRunning || decide (s.clk.cycle < x.dispatchFrom) || s.replayWaits k t then none
  else
    match s.checkTask t with
    | none => some (s.jobFault t.part)
    | some rs =>
      if s.readsHeld k t rs then none
      else
        let t := s.declare k t rs
        if !dIsCast t.desc then
          (bookFree (s.bookTaken none t.home)).map fun i => s.noteDispatch k { t with bookIdx := i }
        else
          (s.placeOn t).map fun c =>
            let es := s.refetch t c
            if es.isEmpty then s.startCast k t c else s.startRefetch t.part (dPos t.desc) es

/-- The ready tasks of a die's stage manager, in the order it takes them. -/
def State.readyOn (s : State) (die : Nat) : List (Nat × Task) :=
  sortBy s.before (s.tasks.filter fun e => e.2.home == die && e.2.phase == .waiting && e.2.readyAt.isSome &&
    (s.part e.2.part).phase == .active)

/-! ## Trees at commit (R189) -/

/-- Whether another uncommitted task of the step verifies the same tree's context. -/
def State.treeOpen (s : State) (k : Nat) (t : Task) (r : W64) : Bool :=
  s.tasks.any fun e => e.1 != k && e.2.part == t.part && e.2.step == t.step && dType e.2.desc == 0x61 &&
    dMask e.2.desc == 2 && !dCollect e.2.desc && s.num (dAux e.2.desc + 56) 8 == r.toNat

/-- Frees the scratch pages of a context (R189). -/
def State.freeScratch (s : State) (p i : Nat) : State :=
  match SMap.find? i s.ctxs with
  | none => s
  | some d =>
    ((SMap.get ({} : CtxExtra) s.ctxExtra i).scratch.foldl (fun s e => s.dropPage p (ctxPool d) e.2.page) s).modExtra i fun x =>
      { x with scratch := [] }

/-- Appends the scratch rows of a path to a (layer, group) of a context, up to the first that is refused (R189). -/
def State.appendPath (s : State) (p i : Nat) (d : W512) (path : List Nat) (g : Nat) (x : Scratch) : State × Byte :=
  let P := s.pagePrec p (ctxPool d) x.page
  path.foldl (fun (a : State × Byte) node =>
    if failing a.2 then a
    else
      let row := a.1.readRow x.page (ctxBlocks d) P node
      let n := SMap.get 0 (SMap.get ({} : CtxExtra) a.1.ctxExtra i).appended g
      match a.1.appendRow false p i (g / 64) (g % 64) (ctxLen d + n) (rowValues P row.k) (rowValues P row.v) with
      | (s, st) =>
        if failing st then (s, st)
        else (s.modExtra i fun y => { y with appended := SMap.put g (n + 1) y.appended }, st)) (s, stOk)

/-- The request of a tree reports what was accepted and emits its tokens (R189). -/
def State.reportTree (s : State) (t : Task) (accepted : Nat) (tokens : List W32) : State :=
  match (dReq t.desc).bind fun q => (SMap.find? q s.requests).map fun r => (q, r) with
  | some (q, r) =>
    if r.part ≠ t.part then s
    else { s with requests := SMap.put q { r with accepted := accepted, emitted := r.emitted ++ tokens } s.requests }
  | none => s

/-- A tree whose task has failed is not accepted: the last such task frees its scratch slots. -/
def State.dropTree (s : State) (k : Nat) (t : Task) : State :=
  match s.tree? (dAux t.desc) with
  | none => s
  | some (r, _) =>
    match s.refCheck t.part r with
    | .ok (i, _) => if s.treeOpen k t r then s else s.freeScratch t.part i
    | .error _ => s

/-- Accepts a tree when the last task that verifies it commits: the tokens chosen are free values; its request reports them, the path's
scratch rows are appended and the scratch slots freed (R189). An append that is refused gives the task its status. -/
def State.acceptTree (s : State) (k : Nat) (t : Task) : State :=
  match s.tree? (dAux t.desc) with
  | none => s
  | some (r, nodes) =>
    if s.treeOpen k t r then s
    else
      match s.refCheck t.part r with
      | .error _ => s
      | .ok (i, d) =>
        let p := t.part
        let n0 := s.draws
        let y (a : Nat) : Nat := (Config.freeWord (n0 + a)).toNat % 2 ^ 32
        let path := treePath nodes y nodes.length 0
        let tokens := (path.drop 1).map fun a => (nodes.getD a (0, 0)).1
        let s := { s with draws := s.draws + nodes.length }
        let s := s.reportTree t (path.length - 1) ((tokens ++ [y (path.getLastD 0)]).map (BitVec.ofNat 32))
        let s := ((s.count .specTrees p).count .specNodes p nodes.length).count .specAccepted p (path.length - 1)
        let scr := (SMap.get ({} : CtxExtra) s.ctxExtra i).scratch
        let (s, st) := scr.foldl (fun (a : State × Byte) e =>
          let (s, st) := a.1.appendPath p i d path e.1 e.2
          (s, worst a.2 st)) (s, stOk)
        let s := (s.taskStatus k st).freeScratch p i
        let top := (SMap.get {} s.ctxExtra i).appended.foldl (fun m e => max m e.2) 0
        s.modPart p fun x => { x with appends := SMap.put i (max (SMap.get 0 x.appends i) top) x.appends }

/-! ## The start of a step -/

/-- Publishes the digests of the step that ends (R318). -/
def State.publish (s : State) (p : Nat) (incomplete : Bool) : State :=
  let x := s.part p
  let on := x.digestCfg.filter fun e => bit e.2 0
  let pub := on.foldl (fun m e =>
    let d := SMap.get {} x.digestRun e.1
    SMap.put e.1 { d with step := x.step, incomplete := incomplete, scripted := x.scripted } m) x.digestPub
  let total := on.foldl (fun a e => a + rotl64 (SMap.get {} x.digestRun e.1).digest e.1) 0
  let h : StepDigest := { digest := total, step := x.step, layers := on.length, encores := x.encoresRun, incomplete := incomplete,
                          scripted := x.scripted }
  s.setPart p { x with digestPub := pub, history := (h :: x.history).take 16 }

/-- The determinism record (Table 12-5). -/
def State.detRec (s : State) (p : Nat) : BitVec 128 := BitVec.ofNat 128 (s.cfgNum 0x2801 (p + 1) 0 16)

/-- Whether a customer is exhausted (R301). -/
def State.exhausted (s : State) (c : Nat) : Bool :=
  s.cfgNum 0x4000 1 (32 * c + 24) 4 != 0 && decide ((s.customer c).level ≤ 0)

/-- Moves a context between ACTIVE and INTERMISSION with its request (R176, R302). -/
def State.ctxIntermission (s : State) (r : W64) (st : Nat) : State :=
  if r = 0 then s
  else
    match SMap.find? (refIndex r) s.ctxs with
    | some d => if ctxState d = 0 ∨ ctxGen d ≠ fld r 30 0 then s else s.setCtx (refIndex r) (setFld d 274 272 st)
    | none => s

/-- Moves a partition's BACKGROUND requests into or out of intermission (R302, R312). -/
def State.intermissions (s : State) (p : Nat) : State :=
  (s.requests.filter fun e => e.2.part == p && e.2.cls == 1).foldl (fun s e =>
    let r := e.2
    let spent := s.exhausted r.customer
    let scr := s.isScripted p
    let s := if scr && spent && !r.paused then s.count .scriptHolds else s
    let st := if r.paused || (spent && !scr) then 2 else 1
    ({ s with requests := SMap.put e.1 { r with state := st } s.requests }).ctxIntermission r.ctx st) s

/-- The roster's bytes (R303). -/
def State.rosterBytes (s : State) (p : Nat) : List Byte :=
  (List.range 512).map fun i => BitVec.ofNat 8 (((List.range 8).map fun b =>
    match SMap.find? (8 * i + b) s.requests with
    | some r => if r.part = p ∧ r.state ≠ 2 then 2 ^ b else 0
    | none => 0).foldl (· + ·) 0)

/-- Writes the roster. -/
def State.roster (s : State) (p : Nat) : State :=
  let a := fld (s.partRec p) 159 96
  let s := s.modPart p fun x => { x with rosterWritten := false }
  if a = 0 then s
  else (s.homeWrite a (s.rosterBytes p)).modPart p fun x => { x with rosterWritten := true }

/-- Destination units of a sheet on each core. -/
def sheetUnits (sh : Sheet) : List (Nat × Nat × Nat) :=
  sh.entries.map fun e => (fld e.word 66 59, fld e.word 58 44, fld e.word 151 136)

/-- Sets the ready bits of a sheet that is no longer selected, clears those of the one a step runs on, and clears the
poison bits of both (R234). -/
def State.readyBits (s : State) (old new : Option Sheet) : State :=
  let clear (s : State) (add : Bool) (u : Nat × Nat × Nat) : State :=
    let c := s.core u.1
    let here (x : Nat) : Bool := decide (u.2.1 ≤ x) && decide (x < u.2.1 + u.2.2)
    s.setCore u.1 { c with
      unready := (c.unready.filter fun x => !here x) ++ (if add then (List.range u.2.2).map (u.2.1 + ·) else [])
      poisonUnits := c.poisonUnits.filter fun x => !here x }
  let s := ((old.map sheetUnits).getD []).foldl (fun s u => clear s false u) s
  ((new.map sheetUnits).getD []).foldl (fun s u => clear s true u) s

/-- Applies a pending CUE_SELECT and readies the step's sheet (R231). -/
def State.applySelect (s : State) (p : Nat) : State :=
  let old := s.selSheet p
  let s := s.modPart p fun x =>
    match x.pendingSel with
    | some i => { x with selected := some i, pendingSel := none, selectRunning := true, selectLimit := s.nextNo }
    | none => x
  s.readyBits old (s.selSheet p)

/-- One layer's state under a preset: MEAN, COUNT and CONSEC are taken from it (R323). -/
def NwLayer.preset (cur new : NwLayer) : NwLayer :=
  { cur with out := { new.out with lastN := cur.out.lastN }, grad := { new.grad with lastN := cur.grad.lastN } }

/-- The norm-watch state a committed preset gives, or the one that stands. -/
def State.takePreset (s : State) (p : Nat) : State :=
  s.modPart p fun x =>
    match x.preset with
    | none => x
    | some m =>
      let ls := (x.nw.map Prod.fst ++ m.map Prod.fst).eraseDups
      { x with preset := none
               nw := ls.foldl (fun (w : SMap NwLayer) (l : Nat) =>
                 SMap.set {} w l ((SMap.get {} x.nw l).preset (SMap.get {} m l))) x.nw }

/-- Digest records committed with DIG_EN, by layer. -/
def State.digestCommitted (s : State) (p : Nat) : SMap (BitVec 128) :=
  (List.range 1024).filterMap fun l =>
    let r : BitVec 128 := BitVec.ofNat 128 (s.cfgNum 0x2802 (p + 1) (16 * l) 16)
    if bit r 0 then some (l, r) else none

/-- Begins a step (R287): `inc` is what STEP grows by. Configuration is adopted, a pending selection takes effect, requests
move, the roster is written; the first dispatch falls 32 cycles later. A loaded STEP renumbers the steps that follow
(R321). -/
def State.startStep (s : State) (p inc : Nat) : State :=
  let det := s.detRec p
  let was := (s.part p).step
  let now := if bit det 0 then BitVec.ofNat 64 (fld det 63 1) else was + BitVec.ofNat 64 inc
  let ext := (s.part p).appends.map Prod.fst
  let s := (s.freeEncores p).dropJobs fun j => match j with | .cue q _ => q == p | .ext q _ _ => q == p | _ => false
  let s := { s with tasks := SMap.mapVals (fun _ (t : Task) =>
    if t.part = p then { t with step := now.toNat + (t.step - (was.toNat + inc)) } else t) s.tasks }
  let s := (s.ctxs.filter fun e => ctxPart e.2 == p).foldl (fun s e => s.freeScratch p e.1) s
  let s := { s with ctxExtra := ext.foldl (fun m i => SMap.put i { SMap.get ({} : CtxExtra) m i with appended := [] } m) s.ctxExtra }
  let s := s.modPart p fun x => { x with
    step := now
    gates := [], dispatchedAny := false, firstDispatchTick := 0, dispatchFrom := s.clk.cycle + 32
    scripted := s.scriptedCfg, seed := BitVec.ofNat 64 (fld det 127 64)
    heardSegs := if bit det 0 then x.heardSegs.filter fun k => keyStep k < now.toNat || x.heldSegs.any (fun r => heldKey r == some k) else x.heardSegs
    entryPhase := [], rerunEntries := [], closedPos := 0, posMarks := [], committedPos := [], reopened := [], startedPos := 0, cancelled := [], answered := [], emptySlots := [], endedCalls := [], allToAlls := [], emptyTerms := []
    reports := [], encoresRun := 0, layerCfg := [], splits := [], splitAreas := [], appends := []
    digestRun := [], digestCfg := s.digestCommitted p }
  let s := if bit det 0 then s.setCfg 0x2801 (p + 1) 0 (bytesLE 8 (fld det 63 1 * 2)) else s
  let s := ((s.applySelect p).intermissions p).roster p
  let s := s.takePreset p
  s.modPart p fun x => { x with snapshotStep := x.step, snapshot := x.nw }

end Sys2Proof.Machine
end

