-- ==== Sys2Proof/Machine/FlyOps.lean ====
section
/-! DEFINITION. The fly engines' operations: objects and their parts (R224, R226), fetches of a range with its sealed chunks
(R226, R228), tile checks (R128), the walk of an entry's tiles (R235) and the merge of a base tile with its extension (R130). -/

namespace Sys2Proof.Machine

open Sys2Proof

/-! ## Objects -/

/-- TIER of the base part or of the extension: 0 H, 1 D, 2 F, 3 L. -/
def objTier (o : W512) (ext : Bool) : Nat := if ext then fld o 147 146 else fld o 149 148
/-- Address of a part. -/
def objBase (o : W512) (ext : Bool) : W64 := BitVec.ofNat 64 (if ext then fld o 383 320 else fld o 447 384)
/-- Bytes of a part. -/
def objSize (o : W512) (ext : Bool) : Nat := (if ext then fld o 223 192 else fld o 255 224) * 4096
/-- OBJECT_ID. -/
def objId (o : W512) : Nat := fld o 511 448
/-- SEALED. -/
def objSealed (o : W512) : Bool := bit o 151
/-- SHARED. -/
def objShared (o : W512) : Bool := bit o 150
/-- KEY_SLOT. -/
def objKey (o : W512) : Nat := fld o 159 152

/-- Bytes of a chunk. -/
def chunkSize : Nat := 0x400000

/-- N16 of a chunk (R226). -/
def chunkNonce (o : W512) (ext : Bool) (c : Nat) : List Byte :=
  bytesLE 8 (objId o) ++ bytesLE 4 (fld o 191 160) ++ bytesLE 4 (if ext then c + 2 ^ 31 else c)

/-- Address of a chunk's tag (R226). -/
def chunkTagAddr (o : W512) (ext : Bool) (c : Nat) : Nat :=
  fld o 319 256 + 16 * (if ext then ceilDiv (objSize o false) chunkSize + c else c)

/-- Decrypts one chunk; none when its tag fails (R226). -/
def State.openChunk (s : State) (o : W512) (ext : Bool) (c : Nat) (ct : List Byte) : Option (List Byte) :=
  let n := chunkNonce o ext c
  let key := ((SMap.find? (objKey o) s.keys).map (·.key)).getD []
  let iv := (bytesLE 32 (Config.sha3 n).toNat).take 12
  Config.gcmOpen key iv n ct (s.bytes (chunkTagAddr o ext c) 16)

/-- Adds to the bytes-read counter of a tier. -/
def State.countTier (s : State) (p tier n : Nat) : State :=
  s.count (match tier with | 0 => .bytesH | 1 => .bytesD | 2 => .bytesF | _ => .bytesL) p n

/-! ## Fetches -/

/-- What a fetch of [off, off + n) of a part gives: its bytes, a status for the whole, and the offsets (from off) of bytes
in chunks whose tag failed. -/
structure Fetched where
  bytes : List Byte
  status : Byte := stOk
  /-- failed chunks: first byte and length, from off, possibly below 0 cut to 0 -/
  lost : List (Nat × Nat) := []
  deriving DecidableEq, Repr

/-- The range a fetch reads: whole chunks for a sealed part (R228). -/
def fetchExt (o : W512) (ext : Bool) (off n : Nat) : Nat × Nat :=
  if !objSealed o then (off, n)
  else
    let a := off / chunkSize * chunkSize
    let e := min (objSize o ext) (roundUp chunkSize (off + n))
    (a, e - a)

/-- Where a part lies for a partition that reads it: tier F by its global address (R28), every other tier here. -/
def State.partAt (s : State) (p : Nat) (o : W512) (ext : Bool) : Place :=
  if objTier o ext = 2 then s.resolve p (objBase o ext) else .here (objBase o ext).toNat

/-- The tags that the chunks of a fetched range are read with (R226, R228). -/
def tagExt (o : W512) (ext : Bool) (r : Nat × Nat) : Nat × Nat :=
  if objSealed o then (chunkTagAddr o ext (r.1 / chunkSize), 16 * ceilDiv r.2 chunkSize) else (0, 0)

/-- Reads ranges of this package for an engine: refused where one is not populated any more (R31, R220), none where a replay or a lane
copy holds one (R220, R336) or where an uncorrectable line begins a replay; POISON where it does not. -/
def State.engineRead (s : State) (p : Nat) (rs : List (Nat × Nat)) : State × Option Byte :=
  let rs := rs.filter fun r => decide (0 < r.2)
  match rs.find? fun r => s.homeHeld none r.1 r.2 with
  | some r => (s.countHold none r.1 r.2, none)
  | none =>
    if rs.any fun r => !s.populated r.1 r.2 then (s, some stDenied)
    else
      match rs.findSome? fun r => s.poisonAt r.1 r.2 with
      | some l =>
        let (s', began) := s.readError p l
        (s', if began then none else some stPoison)
      | none => (s, some stOk)

/-- What another package's memory gave to a far read of n bytes: none where the bytes are not those asked for (R10, R235). -/
def State.farRead (s : State) (job : EngineJob) (n : Nat) (b : Arrival) : State × Option (List Byte × Byte) :=
  if knownStatus b.status && !failing b.status && b.bytes.length != n then (s, none)
  else
    let (s, st) := s.jobStatus job b.status
    (s, some (if failing st then ([], st) else (b.bytes, if b.bad.isEmpty then stOk else stPoison)))

/-- Reads [off, off + n) of a part on engine `u`: from memory, or, from another package, as the LOADs of `job` bring it. Answers none
where the read has to wait, or an arrival does not hold the bytes asked for. -/
def State.fetch (s : State) (job : EngineJob) (p u : Nat) (o : W512) (ext : Bool) (off n : Nat) (b : Arrival) :
    State × Option Fetched :=
  let r := fetchExt o ext off n
  let tier := objTier o ext
  let tags := tagExt o ext r
  -- raw bytes, status
  let raw : State × Option (List Byte × Byte) :=
    match s.partAt p o ext with
    | .refused => (s.refuseCount, some ([], stDenied))
    | .here l =>
      let a := l + r.1
      if tier = 2 ∧ s.permits p a r.2 = false then (s, some ([], stDenied))
      else
        match s.engineRead p [(a, r.2), tags] with
        | (s', none) => (s', none)
        | (s', some st) => (s', some (if st = stDenied then [] else s.bytes a r.2, st))
    | .far _ =>
      match s.engineRead p [tags] with
      | (s', none) => (s', none)
      | (s', some st) =>
        match s'.farRead job r.2 b with
        | (s'', none) => (s'', none)
        | (s'', some (bs, st')) => (s'', some (bs, worst st st'))
  match raw with
  | (s, none) => (s, none)
  | (s, some (bs, st)) =>
    let s := s.countTier p tier bs.length
    if failing st then (s, some { bytes := bs, status := st })
    else if !objSealed o then (s, some { bytes := bs })
    else
      let c0 := r.1 / chunkSize
      let pieces := (chunks chunkSize bs).zipIdx.map fun e => (c0 + e.2, e.1, s.openChunk o ext (c0 + e.2) e.1)
      let plain := pieces.flatMap fun e => e.2.2.getD e.2.1
      let bad := pieces.filter fun e => e.2.2.isNone
      let s := bad.foldl (fun s e => (s.count .tagFails p).logFault
        { detail := BitVec.ofNat 64 (objId o), unit := u, unitType := 8, cls := 5, cause := 0x07, status := stPoison, part := p
          detail2 := BitVec.ofNat 64 (if ext then e.1 + 2 ^ 31 else e.1) }) s
      let lost := bad.map fun e =>
        let x := e.1 * chunkSize
        (x - off, x + e.2.1.length - max x off)
      (s, some { bytes := (plain.drop (off - r.1)).take n, lost := lost })

/-! ## Tiles -/

/-- n bytes of a list as a number. -/
def numAt (bs : List Byte) (o n : Nat) : Nat := leNat ((bs.drop o).take n)

/-- Stored planes of a tile by its column bytes and Z bytes (R127). -/
def storedCount (kind : Nat) (cols z : List Nat) : Nat :=
  ((cols.zip z).map fun (b, zn) =>
    let top := if kind = 1 then colC b else colP b
    ((positionsFrom top (min top (colC b))).countP fun i => !zn.testBit i)).foldl (· + ·) 0

/-- The checks of R128 on a tile's first 768 bytes. -/
def tileOk (bs : List Byte) : Bool :=
  let w : W512 := leWord 512 (bs.take 64)
  let kind := fld w 7 4
  let h := tileHead bs
  fld w 3 0 == 1 && decide (kind ≤ 2) && zeroFld w 351 8 && ((bs.drop 0x2C0).take 64).all (· == 0) &&
    (if kind = 1 then h.cols.all fun b => colP b == 0 && decide (colC b ≤ 8)
     else (h.cols.zip h.z).all fun (b, z) => decide (z < 2 ^ colP b)) &&
    h.length == 768 + 32 * storedCount kind h.cols h.z

/-- A tile as placed when a check or a merge fails: PNIB 0 in all 64 columns (R128). -/
def failTile (bs : List Byte) : List Byte :=
  bs.take 0x40 ++ ((bs.drop 0x40).take 64).map (fun b => b &&& 0x0F) ++ bs.drop 0x80

/-- Walks the tiles of an entry (R235): offset and LENGTH of each; none where a LENGTH runs beyond the entry or the last
tile ends short of its last unit. A walk stops at a tile that a failed chunk touches. -/
def walkTiles (bs : List Byte) (lost : List (Nat × Nat)) : Nat → Nat → Option (List (Nat × Nat))
  | 0, _ => some []
  | k + 1, off =>
    let n := bs.length
    if lost.any fun r => overlap r.1 r.2 off 0x300 then some []
    else
      let len := numAt bs (off + 0x2C) 4
      if n < off + 0x30 ∨ n < off + len then none
      else if k = 0 then (if n < off + len + 128 then some [(off, len)] else none)
      else (walkTiles bs lost k (roundUp 128 (off + len))).map ((off, len) :: ·)

/-- Replaces a slice of a list from an offset. -/
def spliceAt (bs : List Byte) (o : Nat) (new : List Byte) : List Byte := bs.take o ++ new ++ bs.drop (o + new.length)

/-- Records a tile that fails its check or its merge on engine `u` (CAUSE 0x06, class 5). -/
def State.tileFail (s : State) (p u : Nat) (bs : List Byte) : State :=
  let h := tileHead bs
  s.logFault { detail := BitVec.ofNat 64 h.object, unit := u, unitType := 8, cls := 5, cause := 0x06, status := stPoison, part := p
               detail2 := BitVec.ofNat 64 h.index }

/-- Checks the tiles of an entry's bytes and fails those that do not pass (R128). -/
def State.checkTiles (s : State) (p u : Nat) (bs : List Byte) (ts : List (Nat × Nat)) : State × List Byte :=
  ts.foldl (fun (a : State × List Byte) t =>
    let tile := a.2.drop t.1
    if tileOk (tile.take 768) then a
    else ((a.1.count .checkFails p).tileFail p u tile, spliceAt a.2 t.1 (failTile (tile.take 0x80)))) (s, bs)

/-- The planes of a tile's columns as stored, per column, from offset 0x300. -/
def tilePlanes (kind : Nat) (bs : List Byte) : List (List Byte) :=
  let h := tileHead bs
  ((h.cols.zip h.z).foldl (fun (a : List (List Byte) × Nat) (b, zn) =>
    let top := if kind = 1 then colC b else colP b
    let n := 32 * (positionsFrom top (min top (colC b))).countP fun i => !zn.testBit i
    (a.1 ++ [(bs.drop a.2).take n], a.2 + n)) ([], 0x300)).1

/-- Merges a base tile and its extension (R130); none where the merge is refused. An absent base column with E_n = 0 is not refused: its
own test asks for nothing else (DEDUCED, log 94). -/
def mergeTile (base ext : List Byte) : Option (List Byte) :=
  let hb := tileHead base
  let he := tileHead ext
  let same := hb.object == he.object && hb.index == he.index && numAt base 0x30 4 == numAt ext 0x30 4 && hb.z == he.z &&
    hb.scales == he.scales
  let cols := (hb.cols.zip he.cols).all fun (b, e) =>
    if colC b = 0 then colC e == 0 else colC b + colC e == colP b
  if !same || !cols then none
  else
    let planes := ((tilePlanes 0 base).zip (tilePlanes 1 ext)).flatMap fun (b, e) => b ++ e
    let colBytes := hb.cols.map fun b => if colC b = 0 then BitVec.ofNat 8 b else BitVec.ofNat 8 (17 * colP b)
    some ((base.take 1).map (· &&& 0x0F) ++ (base.drop 1).take 0x2B ++ bytesLE 4 (hb.length + he.length - 768) ++ (base.drop 0x30).take 0x10 ++ colBytes ++
      (base.drop 0x80).take (0x300 - 0x80) ++ planes)

/-! ## Sheets -/

/-- Whether any partition's selected sheet names an object at a position still held (R52). -/
def State.objHeld (s : State) (id : Nat) : Bool :=
  s.parts.any fun x =>
    match s.selSheet x.1 with
    | none => false
    | some sh => sh.entries.any fun e => fld e.word 255 192 == id && s.holdsPos x.1 e.pos

/-- Whether any loaded sheet names an object. -/
def State.objNamed (s : State) (id : Nat) : Bool :=
  s.parts.any fun x => x.2.sheets.any fun sh => sh.2.entries.any fun e => fld e.word 255 192 == id

/-- Completes a fly operation, counting a QUOTA (Table 09-11). -/
def State.flyDone (s : State) (k p : Nat) (st : Byte) : State :=
  (if st = stQuota then s.count .quotaRefusals p else s).finish k st

/-- Runs a fly operation whose reserved bits are 0: [255:8], and the operand words marked unused. -/
def State.flyOp (unused : List (Nat × Nat)) (run : State → Nat → Nat → W512 → State) (s : State) (k p : Nat) (w : W512) : State :=
  if !zeroFld w 255 8 || unused.any (fun r => !zeroFld w r.1 r.2) then s.finish k stDenied else run s k p w

/-- Adds a registered object's tier test: whether a part lies where its tier says, within the owner's reach (R224). -/
def State.partOk (s : State) (p tier : Nat) (a : W64) (n : Nat) : Bool :=
  let l := a.toNat
  match tier with
  | 0 => zeroFld a 63 52 && windowOf l == .tierH && s.inAllocs p l n
  | 1 => zeroFld a 63 52 && windowOf l == .tierD && s.inAllocs p l n
  | 2 => (match s.resolve p a with | .far _ => true | _ => false)
  | _ => zeroFld a 63 52 && (match windowOf l with | .pinned _ => s.permits p l n | _ => false)

end Sys2Proof.Machine
end

