-- ==== Sys2Proof/Machine/CueSheets.lean ====
section
/-! DEFINITION. Cue sheets (R230 to R236, R239): loading, selection, and the placement of entries. -/

namespace Sys2Proof.Machine

open Sys2Proof

/-! ## Loading -/

/-- Fields of a cue entry (Table 09-9): UNITS, TILES, CORE, DEST. -/
def ceUnits (w : BitVec 256) : Nat := fld w 151 136
/-- TILES. -/
def ceTiles (w : BitVec 256) : Nat := fld w 79 67
/-- CORE. -/
def ceCore (w : BitVec 256) : Nat := fld w 66 59
/-- DEST. -/
def ceDest (w : BitVec 256) : Nat := fld w 58 44
/-- OBJECT_ID. -/
def ceObject (w : BitVec 256) : Nat := fld w 255 192
/-- SRC_OFF. -/
def ceSrc (w : BitVec 256) : Nat := fld w 191 152
/-- EXT_OFF. -/
def ceExtOff (w : BitVec 256) : Nat := fld w 135 96
/-- EXT_UNITS. -/
def ceExtUnits (w : BitVec 256) : Nat := fld w 95 80

/-- Whether a cue entry passes R230 by itself. -/
def State.entryOk (s : State) (p : Nat) (w : BitVec 256) : Bool :=
  match SMap.find? (ceObject w) s.objects with
  | none => false
  | some o =>
    let ts := s.tsPart p
    (o.part == p || objShared o.desc) && ceSrc w % 128 == 0 &&
      decide (ceSrc w + ceUnits w * 128 ≤ objSize o.desc false) &&
      (ceExtUnits w == 0 || (objBase o.desc true != 0 && decide (ceExtOff w + ceExtUnits w * 128 ≤ objSize o.desc true))) &&
      s.ownsCore p (ceCore w) && inside (ceDest w * 128) (ceUnits w * 128) ts.1 ts.2 &&
      decide (1 ≤ ceUnits w ∧ ceUnits w ≤ 32768) && ceTiles w != 0 && zeroFld w 43 0

/-- Whether no two entries of one core and position overlap. -/
def entriesApart (es : List CueEntry) : Bool :=
  es.zipIdx.all fun a => es.zipIdx.all fun b => decide (b.2 ≤ a.2) || a.1.pos != b.1.pos || ceCore a.1.word != ceCore b.1.word ||
    !overlap (ceDest a.1.word * 128) (ceUnits a.1.word * 128) (ceDest b.1.word * 128) (ceUnits b.1.word * 128)

/-- Position of entry i: the last one whose FIRST is at most i. -/
def entryPos (firsts : List Nat) (i : Nat) : Nat := (firsts.countP fun f => decide (f ≤ i)) - 1

/-- Reads and checks a sheet at a local address (R230). -/
def State.readSheet (s : State) (p a : Nat) : Option Sheet :=
  let h := s.word512 a
  let nl := fld h 351 341
  let ne := fld h 383 352
  let ea := fld h 447 384
  if !s.inAllocs p a 64 || fld h 3 0 != 1 || !zeroFld h 336 4 || decide (nl = 0 ∨ 1024 < nl) || ne == 0 then none
  else if !s.inAllocs p a (64 + 8 * nl) || decide (2 ^ 52 ≤ ea) || decide (ea % 64 ≠ 0) || !s.inAllocs p ea (32 * ne) then none
  else
    let words := (List.range nl).map fun j => s.num (a + 64 + 8 * j) 8
    let layers := words.map fun w => w / 2 ^ 54
    let firsts := words.map fun w => w % 2 ^ 32
    let ordered := (firsts.zip (firsts.drop 1)).all fun x => decide (x.1 ≤ x.2)
    if !(words.all fun w => w / 2 ^ 32 % 2 ^ 22 == 0) || firsts.headD 1 != 0 || !ordered || firsts.any (fun f => decide (ne < f)) ||
        layers.eraseDups.length != nl then none
    else
      let es := (List.range ne).map fun i =>
        ({ word := BitVec.ofNat 256 (s.num (ea + 32 * i) 32), pos := entryPos firsts i } : CueEntry)
      if es.all (fun e => s.entryOk p e.word) && entriesApart es then
        some { header := a, sheetId := BitVec.ofNat 64 (fld h 511 448), layers := layers, entriesAddr := ea, entries := es
               lead := fld h 340 337 }
      else none

/-- CUE_LOAD (R230). -/
def State.cueLoadOp (s : State) (k p : Nat) (w : W512) : State :=
  let slot := (wordA w).toNat
  let b := wordB w
  let sheet := if 8 ≤ slot ∨ (s.part p).selected = some slot ∨ zeroFld b 63 52 = false then none else s.readSheet p b.toNat
  match sheet with
  | none => (s.count .cueRefused p).flyDone k p stDenied
  | some sh =>
    if (sheetExts sh).any fun r => s.poisoned r.1 r.2 then s.flyDone k p stPoison
    else (s.modPart p fun x => { x with sheets := SMap.put slot sh x.sheets }).flyDone k p stOk

/-- CUE_LOAD. -/
def execCueLoad (q : QRef) (e : W512) (s : State) : Result :=
  s.withEntry q e (· == 0x27) (State.flyOp [(383, 256)] State.cueLoadOp)

/-- CUE_SELECT: a pending selection, which takes effect at once when no step runs (R231). -/
def State.cueSelectOp (s : State) (k p : Nat) (w : W512) : State :=
  let slot := (wordA w).toNat
  if 8 ≤ slot ∨ (SMap.find? slot (s.part p).sheets).isNone = true then s.flyDone k p stDenied
  else
    let s := s.modPart p fun x => { x with pendingSel := some slot, selecting := x.selecting ++ [k] }
    if (s.part p).dispatchedAny then s else s.applySelect p

/-- CUE_SELECT. -/
def execCueSelect (q : QRef) (e : W512) (s : State) : Result :=
  s.withEntry q e (· == 0x28) (State.flyOp [(447, 256)] State.cueSelectOp)

/-- CUE_SELECT_COMPLETE: the selection that took effect is complete, and the CUE_SELECTs it covers complete in queue order
(R231). -/
def execCueSelectComplete (p : Fin 128) (s : State) : Result :=
  let x := s.part p.val
  if !x.selectRunning then .next s
  else
    let done := x.selecting.filter (· < x.selectLimit)
    let s := s.modPart p.val fun x => { x with selectRunning := false, selecting := x.selecting.filter fun k => decide (x.selectLimit ≤ k) }
    .next (done.foldl (fun s k => s.finish k stOk) s)

/-- CUE_UNLOAD. -/
def State.cueUnloadOp (s : State) (k p : Nat) (w : W512) : State :=
  let slot := (wordA w).toNat
  let x := s.part p
  if 8 ≤ slot ∨ x.selected = some slot ∨ x.pendingSel = some slot then s.flyDone k p stDenied
  else (s.setPart p { x with sheets := SMap.del slot x.sheets }).flyDone k p stOk

/-- CUE_UNLOAD. -/
def execCueUnload (q : QRef) (e : W512) (s : State) : Result :=
  s.withEntry q e (· == 0x29) (State.flyOp [(447, 256)] State.cueUnloadOp)

/-! ## Starting and placing entries -/

/-- Number of an entry within its position. -/
def Sheet.within (sh : Sheet) (i pos : Nat) : Nat := i - (sh.entries.countP fun e => decide (e.pos < pos))

/-- The engine that takes an entry (R232). -/
def Sheet.engine (sh : Sheet) (i : Nat) : Nat := match sh.entries[i]? with | some e => sh.within i e.pos % 16 | none => 0

/-- The engine that reads an entry, 0 where none does. -/
def EntryPhase.engine (x : EntryPhase) : Nat := match x with | .started u => u | _ => 0

/-- Whether an engine reads the entry. -/
def EntryPhase.reads (x : EntryPhase) : Bool := match x with | .started _ => true | _ => false

/-- Whether an entry is startable (R232). -/
def Part.startable (x : Part) (sh : Sheet) (pos : Nat) : Bool := x.dispatchedAny && decide (pos ≤ x.startedPos + sh.lead)

/-- Whether an entry waits for an earlier position whose destination it overlaps (R233). -/
def Part.destWaits (x : Part) (sh : Sheet) (e : CueEntry) : Bool :=
  sh.entries.any fun y => decide (y.pos < e.pos) && ceCore y.word == ceCore e.word && !x.committedPos.contains y.pos &&
    overlap (ceDest y.word) (ceUnits y.word) (ceDest e.word) (ceUnits e.word)

/-- The engine whose microcode is being replaced: the lowest of those the mask still names (R345). -/
def State.updating (s : State) : Option Nat := (List.range 16).find? fun e => s.store.ucodeMask.testBit e

/-- The engine an entry goes to now: during an engine's update its entries go to engine (e + 8) mod 16 (R345). -/
def State.engineFor (s : State) (sh : Sheet) (i : Nat) : Nat :=
  if s.updating = some (sh.engine i) then (sh.engine i + 8) % 16 else sh.engine i

/-- Whether an engine is at work on an entry of any partition. -/
def State.engineReads (s : State) (e : Nat) : Bool := s.parts.any fun x => x.2.entryPhase.any fun y => y.2 == .started e

/-- Whether an entry's engine is at work, or has an earlier entry of the partition still to start. -/
def State.engineBusy (s : State) (p : Nat) (sh : Sheet) (i : Nat) : Bool :=
  s.engineReads (s.engineFor sh i) ||
  (List.range i).any fun j => s.engineFor sh j == s.engineFor sh i && SMap.get .idle (s.part p).entryPhase j == .idle

/-- Whether an engine has a startable entry that has not finished (R232). -/
def State.engineDue (s : State) (e : Nat) : Bool :=
  s.engineReads e || s.parts.any fun x =>
    match s.selSheet x.1 with
    | none => false
    | some sh => x.2.phase == .active && sh.entries.zipIdx.any fun y =>
        s.engineFor sh y.2 == e && SMap.get .idle x.2.entryPhase y.2 == .idle && x.2.startable sh y.1.pos

/-- Whether entry i of a partition's selected sheet may start now. -/
def State.entryStarts (s : State) (p i : Nat) : Bool :=
  let x := s.part p
  match s.selSheet p with
  | none => false
  | some sh =>
    match sh.entries[i]? with
    | none => false
    | some e =>
      x.phase == .active && !x.selectRunning && SMap.get .idle x.entryPhase i == .idle && x.startable sh e.pos &&
        !x.destWaits sh e && !s.engineBusy p sh i

/-- Starts the LOADs by which an engine reads [off, off + n) of a part for a partition, where the part lies in another package (R50). -/
def State.askFar (s : State) (job : EngineJob) (p : Nat) (o : W512) (ext : Bool) (off n : Nat) : State :=
  match s.partAt p o ext with
  | .far _ =>
    let r := fetchExt o ext off n
    s.startJob job p (objBase o ext + BitVec.ofNat 64 r.1) r.2
  | _ => s

/-- The engine of entry i takes it. -/
def State.takeEntry (s : State) (p i e : Nat) : State :=
  s.modPart p fun x => { x with entryPhase := SMap.put i (.started e) x.entryPhase }

/-- CUE_ENTRY_START: a fly engine takes its next startable entry (R232, R233); a fetch from another package leaves in LOADs. -/
def execCueEntryStart (p : Fin 128) (i : Nat) (s : State) : Result :=
  if s.working && s.entryStarts p.val i then
    let sh := s.selSheet p.val
    let t := s.takeEntry p.val i ((sh.map fun sh => s.engineFor sh i).getD 0)
    match sh.bind fun sh => sh.entries[i]? with
    | none => .next t
    | some e =>
      match SMap.find? (ceObject e.word) s.objects with
      | none => .next t
      | some o => .next (t.askFar (.cue p.val i) p.val o.desc false (ceSrc e.word) (128 * ceUnits e.word))
  else .next s

/-- Sets the ready bits of an entry, with the poison bits of the units that failed, unless its position has committed
(R234). `bad` holds unit numbers. -/
def State.setReady (s : State) (x : Part) (e : CueEntry) (bad : List Nat) : State :=
  if x.committedPos.contains e.pos then s
  else
    let c := s.core (ceCore e.word)
    let here (u : Nat) : Bool := decide (ceDest e.word ≤ u) && decide (u < ceDest e.word + ceUnits e.word)
    s.setCore (ceCore e.word) { c with
      unready := c.unready.filter fun u => !here u
      poisonUnits := (c.poisonUnits.filter fun u => !here u) ++ bad }

/-- Poisons every unit of an entry that engine `u` read (R235). -/
def State.poisonEntry (s : State) (p u : Nat) (e : CueEntry) (cause : Byte) : State :=
  let s := (s.count .poisonedEntries p).logFault
    { detail := BitVec.ofNat 64 (ceObject e.word), unit := u, unitType := 8, cls := 5, cause := 0x08, status := stPoison, part := p
      detail2 := BitVec.setWidth 64 cause }
  s.setReady (s.part p) e ((List.range (ceUnits e.word)).map (ceDest e.word + ·))

/-- Places an entry's bytes, read by engine `u`: tiles walked and checked, units in failed chunks poisoned (R128, R228, R235). They enter
the tile store by the input of the engine's die (R20). -/
def State.placeEntry (s : State) (p u : Nat) (e : CueEntry) (f : Fetched) : State :=
  match walkTiles f.bytes f.lost (ceTiles e.word) 0 with
  | none => s.poisonEntry p u e stPoison
  | some ts =>
    let (s, bs) := s.checkTiles p u f.bytes ts
    let s := (s.homeWrite (tileBase (ceCore e.word) + 128 * ceDest e.word) bs (inputOfEngine u)).count .tilesPlaced p ts.length
    let bad := (List.range (ceUnits e.word)).filter fun u => f.lost.any fun r => overlap r.1 r.2 (128 * u) 128
    let s := if f.lost.isEmpty then s else (s.count .poisonedEntries p).logFault
      { detail := BitVec.ofNat 64 (ceObject e.word), unit := u, unitType := 8, cls := 5, cause := 0x08, status := stPoison, part := p
        detail2 := BitVec.setWidth 64 stPoison }
    s.setReady (s.part p) e (bad.map (ceDest e.word + ·))

/-- Entry i of a position has been read: it is placed, its bits cleared at once where the position has committed (R234). -/
def Part.entryDone (x : Part) (i pos : Nat) : Part :=
  { x with entryPhase := SMap.put i (if x.committedPos.contains pos then .cleared else .placed) x.entryPhase
           rerunEntries := x.rerunEntries.filter (· ≠ i) }

/-- CUE_ENTRY_PLACED: a started entry's bytes have been read, from memory or, for tier F, as `b` gives them; its tiles are
placed and checked, or it is poisoned (R128, R228, R234, R235). -/
def execCueEntryPlaced (p : Fin 128) (i : Nat) (b : Arrival) (s : State) : Result :=
  let x := s.part p.val
  match s.selSheet p.val with
  | none => .next s
  | some sh =>
    match sh.entries[i]? with
    | none => .next s
    | some e =>
      let u := (SMap.get .idle x.entryPhase i).engine
      if !s.working || !(SMap.get .idle x.entryPhase i).reads then .next s
      else
        match SMap.find? (ceObject e.word) s.objects with
        | none => .next s
        | some o =>
          match s.fetch (.cue p.val i) p.val u o.desc false (ceSrc e.word) (128 * ceUnits e.word) b with
          | (s, none) => .next s
          | (s, some f) =>
            let s := s.modPart p.val fun x => x.entryDone i e.pos
            .next ((if failing f.status then s.poisonEntry p.val u e f.status else s.placeEntry p.val u e f).wakeHeld)

end Sys2Proof.Machine
end

