-- ==== Sys2Proof/Machine/CastOps.lean ====
section
/-! DEFINITION. The casting unit (R193 to R210): the call and its inputs, the exchange of segments, the selection of tokens,
the rounds of token choice, and the outputs of a call. -/

namespace Sys2Proof.Machine

open Sys2Proof

/-! ## The map (Table 08-1) -/

/-- An expert-map entry. -/
def State.mapEntry (s : State) (c : CastCall) (e : Nat) : BitVec 128 := BitVec.ofNat 128 (s.num (c.map + 512 + 16 * e) 16)
/-- Owning rank of an entry. -/
def meRank (m : BitVec 128) : Nat := fld m 63 56
/-- Slot of an entry. -/
def meSlot (m : BitVec 128) : Nat := fld m 55 50
/-- OBJECT_ID of an entry. -/
def meObject (m : BitVec 128) : Nat := fld m 127 64

/-- The slots a rank owns with their experts, ascending. -/
def State.owned (s : State) (c : CastCall) (r : Nat) : List (Nat × Nat) :=
  sortBy (fun x y => decide (x.1 ≤ y.1)) ((List.range c.experts).filterMap fun e =>
    let m := s.mapEntry c e
    if meRank m = r then some (meSlot m, e) else none)

/-- The expert in a slot of a rank. -/
def State.expertAt (s : State) (c : CastCall) (r slot : Nat) : Option Nat :=
  ((s.owned c r).find? fun x => x.1 == slot).map Prod.snd

/-- Whether the map stands (R194). -/
def State.mapOk (s : State) (c : CastCall) : Bool :=
  let es := (List.range c.experts).map (s.mapEntry c)
  let keys := es.map fun m => meRank m * 64 + meSlot m
  es.all (fun m => zeroFld m 49 0 && decide (meRank m < c.group)) && decide (keys.eraseDups.length = keys.length) &&
    (s.fab.coord.map (·.toNat) == some (s.num (c.map + 2 * c.rank) 2))

/-! ## Scores and eligibility (R199) -/

/-- The score of a token for an expert. -/
def State.score (s : State) (c : CastCall) (l e : Nat) : W32 :=
  BitVec.ofNat 32 (s.num (c.scores + l * castSstr c.experts + 4 * e) 4)
/-- The current bias of an expert. -/
def State.biasOf (s : State) (c : CastCall) (e : Nat) : W32 := BitVec.ofNat 32 (s.num (c.bias c.step + 4 * e) 4)
/-- The biased score. -/
def State.biased (s : State) (c : CastCall) (e : Nat) (sc : W32) : W32 := f32Add sc (s.biasOf c e)

/-- Whether a biased score makes a token eligible. -/
def CastCall.eligible (c : CastCall) (b : W32) : Bool :=
  !f32IsNan b && f32Lt 0xFF800000#32 b && !f32Lt b (BitVec.ofNat 32 (fld c.cfg 255 224))

/-- Order of candidates: biased score descending, then the index ascending. -/
def rankBefore (a b : W32 × Nat) : Bool := f32Lt b.1 a.1 || (!f32Lt a.1 b.1 && decide (a.2 ≤ b.2))

/-- A token's eligible experts in its own order of choice. -/
def State.choices (s : State) (c : CastCall) (l : Nat) : List (W32 × Nat) :=
  sortBy rankBefore (((List.range c.experts).map fun e => (s.biased c e (s.score c l e), e)).filter fun x => c.eligible x.1)

/-! ## Sending -/

/-- Sends one segment of a phase to every rank (R206), entries and bytes by rank; this package's own reaches the call at once. -/
def State.segsOut (s : State) (p : Nat) (c : CastCall) (phase round : Nat) (f : Nat → Nat × List Byte) : State × CastCall :=
  let seg (r : Nat) : Segment := { hdr := c.header phase round r 0 (f r).1, body := (f r).2 }
  (((List.range c.group).filter (· ≠ c.rank)).foldl (fun s r => s.postSeg p (s.rankCoord c r) (.cast (seg r)) (c.kind p) (some c.task)) s,
    { c with segs := c.segs ++ [seg c.rank] })

/-- The call of a partition replaced. -/
def State.setCall (s : State) (p : Nat) (c : CastCall) : State := s.modPart p fun x => { x with call := some c }

/-- Segments of a phase and round by sender; none until every rank's is here. -/
def CastCall.phaseSegs (c : CastCall) (phase round : Nat) : Option (List (Nat × Segment)) :=
  let got := (List.range c.group).filterMap fun r =>
    (c.segs.find? fun g => fld g.hdr 245 243 == phase && fld g.hdr 242 239 == round && fld g.hdr 238 231 == r).map fun g => (r, g)
  if got.length = c.group then some got else none

/-- An 8-byte entry of OFFERS, RESPONSES or NOTICES (Table 08-5). -/
def entryBytes (l slot : Nat) (accept : Bool) (v : W32) : List Byte :=
  bytesLE 8 (l * 2 ^ 48 + slot * 2 ^ 42 + (if accept then 2 ^ 32 else 0) + v.toNat)

/-- The 8-byte entries of a segment: token, slot, the accept bit, the value. -/
def entriesOf (g : Segment) : List (Nat × Nat × Bool × W32) :=
  ((chunks 8 g.body).filter fun b => b.length == 8).map fun b =>
    let w : W64 := leWord 64 b
    (fld w 63 48, fld w 47 42, bit w 32, BitVec.ofNat 32 (fld w 31 0))

/-- Changes the counters of an expert. -/
def CastCall.tally (c : CastCall) (e : Nat) (f : ExpCount → ExpCount) : CastCall :=
  { c with counts := SMap.put e (f (SMap.get {} c.counts e)) c.counts }

/-- Accepted tokens of a slot. -/
def CastCall.takenOf (c : CastCall) (slot : Nat) : List Offer := c.accepted.filter fun o => o.slot == slot

/-- Sends COUNTS, the owner's lists being settled (R204). -/
def State.sendCounts (s : State) (p : Nat) (c : CastCall) : State × CastCall :=
  let own := s.owned c c.rank
  let body := own.flatMap fun x =>
    let n := SMap.get {} c.counts x.2
    bytesLE 4 n.offered ++ bytesLE 4 n.chosen ++ bytesLE 4 n.spilled ++ bytesLE 4 n.unchosen
  s.segsOut p { c with selected := true } 4 0 fun _ => (own.length, body)

/-! ## Expert choice (R200) -/

/-- SCORES to every rank: the scores of this package's tokens for the rank's experts. -/
def State.sendScores (s : State) (p : Nat) (c : CastCall) : State × CastCall :=
  s.segsOut p c 0 0 fun r =>
    let own := s.owned c r
    (own.length * c.tokens, own.flatMap fun x => (List.range c.tokens).flatMap fun l => bytesLE 4 (s.score c l x.2).toNat)

/-- Candidates of an owned slot, at place i among the owned ones, from every rank's scores: (biased, τ, s). -/
def State.candidates (s : State) (c : CastCall) (gs : List (Nat × Segment)) (slots i e : Nat) : List (W32 × Nat × W32) :=
  gs.flatMap fun g =>
    let n := fld g.2.hdr 214 183 / slots
    (List.range n).map fun l =>
      let v : W32 := leWord 32 ((g.2.body.drop (4 * (i * n + l))).take 4)
      (s.biased c e v, 65536 * g.1 + l, v)

/-- The owner's selection: the first C eligible candidates of each slot (R200). -/
def State.selectExperts (s : State) (p : Nat) (c : CastCall) (gs : List (Nat × Segment)) : State :=
  let own := s.owned c c.rank
  let c := own.zipIdx.foldl (fun (c : CastCall) x =>
    let cs := s.candidates c gs own.length x.2 x.1.2
    let ok := sortBy (fun a b => rankBefore (a.1, a.2.1) (b.1, b.2.1)) (cs.filter fun v => c.eligible v.1)
    let won := ok.take c.cap
    let new := won.map fun v => ({ tau := v.2.1, slot := x.1.1, biased := v.1, weight := v.2.2 } : Offer)
    let nan := cs.countP fun (v : W32 × Nat × W32) => f32IsNan v.1
    let c := { c with nanScores := c.nanScores + nan, accepted := c.accepted ++ new }
    c.tally x.1.2 fun n => { n with
      offered := ok.length, chosen := won.length, unchosen := ok.length - won.length }) { c with waits := .notices }
  let (s, c) := s.segsOut p c 3 0 fun h =>
    let es := sortBy (fun a b => decide (a.slot < b.slot ∨ (a.slot = b.slot ∧ a.tau ≤ b.tau)))
      (c.accepted.filter fun o => o.tau / 65536 == h)
    (es.length, es.flatMap fun o => entryBytes (o.tau % 65536) o.slot false o.weight)
  let (s, c) := s.sendCounts p c
  s.setCall p c

/-! ## Token choice (R201) -/

/-- Offers of a list of (token, place in its order of choice), sent to their owners in a round. -/
def State.sendOffers (s : State) (p : Nat) (c : CastCall) (round : Nat) (offers : List (Nat × Nat)) : State × CastCall :=
  let made := offers.filterMap fun o => ((s.choices c o.1)[o.2]?).map fun x => (o.1, x.2)
  let all : List (Nat × Nat × Nat × W32) := offers.filterMap fun o => ((s.choices c o.1)[o.2]?).map fun x =>
    let m := s.mapEntry c x.2
    (meRank m, o.1, meSlot m, x.1)
  s.segsOut p { c with offers := made } 1 round fun r =>
    let es := sortBy (fun a b => decide (a.2.1 < b.2.1 ∨ (a.2.1 = b.2.1 ∧ a.2.2.1 ≤ b.2.2.1))) (all.filter fun x => x.1 == r)
    (es.length, es.flatMap fun x => entryBytes x.2.1 x.2.2.1 false x.2.2.2)

/-- What a home does with its rejections: each token in turn, its rejected experts in its own order; a re-offer where it may
make one. Answers the call, the next offers, and the experts spilled and left unchosen. -/
def State.replan (s : State) (c : CastCall) (rejected : List (Nat × Nat)) :
    CastCall × List (Nat × Nat) × List Nat × List Nat :=
  let toks := (rejected.map Prod.fst).eraseDups
  (sortBy (fun a b => decide (a ≤ b)) toks).foldl (fun acc l =>
    let ch := s.choices c l
    let mine := (ch.map Prod.snd).filter fun e => rejected.contains (l, e)
    mine.foldl (fun (a : CastCall × List (Nat × Nat) × List Nat × List Nat) e =>
      let r := SMap.get 0 a.1.reoffers l
      let next := min c.k ch.length + r
      if r < c.k ∧ next < ch.length then
        ({ a.1 with reoffers := SMap.put l (r + 1) a.1.reoffers }, a.2.1 ++ [(l, next)], a.2.2.1 ++ [e], a.2.2.2)
      else (a.1, a.2.1, a.2.2.1, a.2.2.2 ++ [e])) acc) (c, [], [], [])

/-- Rejections of this package's own tokens among responses, by expert. -/
def State.rejections (s : State) (c : CastCall) (gs : List (Nat × Segment)) : List (Nat × Nat) :=
  gs.flatMap fun g => (entriesOf g.2).filterMap fun x =>
    if x.2.2.1 then none else (s.expertAt c g.1 x.2.1).map fun e => (x.1, e)

/-- The weight s of an offer of another home's token: OFFERS carries s′ alone, which is s where the bias is zero and s′ is not; no segment
carries it otherwise, and it is a free value (DESIGN CHOICE, log 50). -/
def State.offerWeight (s : State) (c : CastCall) (e : Nat) (b : W32) : State × W32 :=
  if (s.biasOf c e &&& 0x7FFFFFFF#32) = 0 ∧ (b &&& 0x7FFFFFFF#32) ≠ 0 then (s, b)
  else
    let (w, s) := s.draw
    (s, w.setWidth 32)

/-- The owner takes the first offers of a round that a slot has places left for (R201). -/
def State.takeOffers (s : State) (c : CastCall) (slot e : Nat) (mine : List (Nat × W32)) : State × CastCall :=
  let sorted := sortBy (fun u v => rankBefore (u.2, u.1) (v.2, v.1)) mine
  let won := sorted.take (c.cap - (c.takenOf slot).length)
  let lost := ((sorted.drop won.length).filter fun o => o.1 / 65536 != c.rank).map fun o => (o.1 / 65536, e)
  let (s, new) := won.foldl (fun (b : State × List Offer) o =>
    let (s, w) := if o.1 / 65536 = c.rank then (b.1, b.1.score c (o.1 % 65536) e) else b.1.offerWeight c e o.2
    (s, b.2 ++ [{ tau := o.1, slot := slot, biased := o.2, weight := w }])) (s, [])
  (s, ({ c with accepted := c.accepted ++ new, lost := c.lost ++ lost } : CastCall).tally e fun n => { n with
    offered := n.offered + mine.length, chosen := n.chosen + won.length })

/-- How many re-offers this package's RESPONSES name: what follows from the rejections it knows is exact where it offers to no other
owner; else, since the other owners' answers are not here yet, a free value between what those rejections bring and what would follow if
every other owner rejected every offer (DESIGN CHOICE, log 50). -/
def State.reofferCount (s : State) (c : CastCall) (lost : List (Nat × Nat)) : State × Nat :=
  let far := c.offers.filter fun o => meRank (s.mapEntry c o.2) != c.rank
  let lo := (s.replan c lost).2.1.length
  let hi := (s.replan c (lost ++ far)).2.1.length
  if hi ≤ lo then (s, lo)
  else
    let (w, s) := s.draw
    (s, lo + w.toNat % (hi - lo + 1))

/-- The owner answers a round of offers: each slot takes the first of what it has left (R201). -/
def State.answerOffers (s : State) (p : Nat) (c : CastCall) (gs : List (Nat × Segment)) : State :=
  let own := s.owned c c.rank
  let offers := gs.flatMap fun g => (entriesOf g.2).map fun x => (65536 * g.1 + x.1, x.2.1, x.2.2.2)
  let (s, c) := own.foldl (fun (a : State × CastCall) x =>
    a.1.takeOffers a.2 x.1 x.2 ((offers.filter fun o => o.2.1 == x.1).map fun o => (o.1, o.2.2))) (s, { c with lost := [] })
  let won (o : Nat × Nat × W32) : Bool := c.accepted.any fun x => x.tau == o.1 && x.slot == o.2.1
  let body (r : Nat) : List Byte := (offers.filter fun o => o.1 / 65536 == r).flatMap fun o =>
    entryBytes (o.1 % 65536) o.2.1 (won o) o.2.2
  let lost := (offers.filter fun o => !won o && o.1 / 65536 == c.rank).filterMap fun o =>
    (s.expertAt c c.rank o.2.1).map fun e => (o.1 % 65536, e)
  let (s, n) := s.reofferCount c lost
  let (s, c) := s.segsOut p { c with waits := .responses, rounds := c.rounds + 1 } 2 c.round fun r => (n, body r)
  s.setCall p c

/-- Settles the rejections of a round of other homes' tokens: a home that will make no re-offer leaves its own unchosen; of another's,
nothing says which are offered again. -/
def CastCall.settleLost (c : CastCall) (gs : List (Nat × Segment)) : CastCall :=
  let none_ (h : Nat) : Bool := gs.any fun g => g.1 == h && fld g.2.hdr 214 183 == 0
  c.lost.foldl (fun (c : CastCall) x =>
    if none_ x.1 then c.tally x.2 fun n => { n with unchosen := n.unchosen + 1 }
    else { c with others := SMap.put x.2 (SMap.get 0 c.others x.2 + 1) c.others }) { c with lost := [] }

/-- Splits those rejections between SPILLED and UNCHOSEN; nothing tells the owner how: a free value (DESIGN CHOICE, log 50). -/
def State.settleOthers (s : State) (c : CastCall) : State × CastCall :=
  c.others.foldl (fun (a : State × CastCall) e =>
    if e.2 = 0 then a
    else
      let (w, s) := a.1.draw
      let n := w.toNat % (e.2 + 1)
      (s, a.2.tally e.1 fun x => { x with spilled := x.spilled + n, unchosen := x.unchosen + (e.2 - n) })) (s, c)

/-! ## Outputs (R202 to R205) -/

/-- The assignments of a token in ascending expert order, the weights renormalised where RENORM asks (R203). -/
def CastCall.assignsOf (c : CastCall) (l : Nat) : List Assign :=
  let as := sortBy (fun a b => decide (a.expert ≤ b.expert)) (c.assigns.filter fun a => a.token == l)
  let sum := match as with | [] => 0#32 | a :: rest => rest.foldl (fun x b => f32Add x b.weight) a.weight
  if bit c.cfg 31 && f32IsFin sum && !(fpDecode .fp32 sum.toNat).isZero then
    as.map fun a => { a with weight := BitVec.ofNat 32 (fpDiv .fp32 a.weight.toNat sum.toNat) }
  else as

/-- Writes the assignment table and counts the tokens with no routed expert (R202, R203). -/
def State.writeAssigns (s : State) (p : Nat) (c : CastCall) : State :=
  let rows := (List.range c.tokens).map c.assignsOf
  let offs := rows.foldl (fun (a : List Nat × Nat) r => (a.1 ++ [a.2 + r.length], a.2 + r.length)) ([0], 0)
  let es := rows.flatMap fun r => r.flatMap fun a => bytesLE 8 (a.expert * 2 ^ 48 + a.weight.toNat)
  let s := s.homeWrites [(c.assign, offs.1.flatMap (bytesLE 4)), (c.assign + c.assignOff, es)]
  s.setCall p { c with sharedOnly := rows.countP List.isEmpty, waits := .counts }

/-- The next bias of an expert (R205). -/
def CastCall.nextBias (c : CastCall) (b : W32) (offered total : Nat) : W32 × Bool :=
  let rate : W32 := BitVec.ofNat 32 (fld c.cfg 223 192)
  let limit : W32 := BitVec.ofNat 32 (fld c.cfg 191 160)
  let v := if total < c.experts * offered then f32Sub b rate else if c.experts * offered < total then f32Add b rate else b
  let mag := v &&& 0x7FFFFFFF#32
  if f32Lt limit mag then ((v &&& 0x80000000#32) ||| limit, true) else (v, false)

/-- Writes the counters and the next bias once every COUNTS is here (R204, R205). -/
def State.gatherCounts (s : State) (p : Nat) (c : CastCall) (gs : List (Nat × Segment)) : State :=
  let recs : List (Nat × List Byte) := gs.flatMap fun g => (s.owned c g.1).zipIdx.map fun x => (x.1.2, (g.2.body.drop (16 * x.2)).take 16)
  let recOf (e : Nat) : List Byte := ((recs.find? fun r => r.1 == e).map Prod.snd).getD (List.replicate 16 0)
  let es := List.range c.experts
  let offered (e : Nat) : Nat := leNat ((recOf e).take 4)
  let total := es.foldl (fun a e => a + offered e) 0
  let bs := es.map fun e => c.nextBias (s.biasOf c e) (offered e) total
  let empty := (s.owned c c.rank).countP fun x => (c.takenOf x.1).isEmpty
  let c := { c with biasClamps := bs.countP Prod.snd, waits := .lists }
  let trailer := [c.sharedOnly, c.nanScores, empty, c.rounds, c.biasClamps].flatMap (bytesLE 4)
  (s.homeWrites [(c.countsAt, es.flatMap recOf ++ trailer ++ List.replicate (64 - trailer.length) 0),
    (c.bias (c.step + 1), bs.flatMap fun b => bytesLE 4 b.1.toNat)]).setCall p c

/-- The owner list of a slot (R202). -/
def CastCall.listBytes (c : CastCall) (slot : Nat) : List Byte :=
  let os := sortBy (fun a b => decide (a.tau ≤ b.tau)) (c.takenOf slot)
  bytesLE 8 os.length ++ os.flatMap fun o => bytesLE 8 (o.tau * 2 ^ 32 + o.weight.toNat)

/-- Ends a call well: unowned slots get empty lists, the counters of Table 08-7 grow, the task has its answer, and the call is kept
while the step lasts (R202, R208, R213, R214). -/
def State.endCall (s : State) (p : Nat) (c : CastCall) : State :=
  let own := s.owned c c.rank
  let s := ((List.range 64).filter fun j => !own.any fun x => x.1 == j).foldl
    (fun s j => s.homeWrite (c.out + j * castOsz c.cap) (bytesLE 8 0)) s
  let empty := own.filter fun x => (c.takenOf x.1).isEmpty
  let s := (s.countCall p c).modPart p fun x => { x with call := none, endedCalls := SMap.put c.layer c x.endedCalls }
  match s.task? c.task with
  | some t => s.setTask c.task { t with answer := some empty }
  | none => s

/-- Ends a call whose lists are all written, whose table stands and whose counters are gathered. -/
def State.callSettle (s : State) (p : Nat) : State :=
  match (s.part p).call with
  | none => s
  | some c =>
    if c.waits = .lists ∧ (s.owned c c.rank).all (fun x => c.finalSlots.contains x.1) then s.endCall p c else s

/-! ## Progress -/

/-- One step of a call, where the phase it waits for is complete. -/
def State.callStep (s : State) (p : Nat) (c : CastCall) : Option State :=
  match c.waits with
  | .scores => (c.phaseSegs 0 0).map (s.selectExperts p c)
  | .offers => (c.phaseSegs 1 c.round).map (s.answerOffers p c)
  | .responses => (c.phaseSegs 2 c.round).map fun gs =>
    let won := gs.flatMap fun g => (entriesOf g.2).filterMap fun x =>
      if x.2.2.1 then (s.expertAt c g.1 x.2.1).map fun e => ({ token := x.1, expert := e, weight := s.score c x.1 e } : Assign)
      else none
    let (c, next, spilled, unchosen) := s.replan { c with assigns := c.assigns ++ won } (s.rejections c gs)
    let here (e : Nat) : Bool := meRank (s.mapEntry c e) == c.rank
    let c := (spilled.filter here).foldl (fun (c : CastCall) e => c.tally e fun n => { n with spilled := n.spilled + 1 }) c
    let c := (unchosen.filter here).foldl (fun (c : CastCall) e => c.tally e fun n => { n with unchosen := n.unchosen + 1 }) c
    let c := c.settleLost gs
    if next.isEmpty && gs.all fun g => fld g.2.hdr 214 183 == 0 then
      let (s, c) := s.settleOthers c
      let (s, c) := s.sendCounts p c
      s.writeAssigns p c
    else
      let (s, c) := s.sendOffers p { c with round := c.round + 1, waits := .offers } (c.round + 1) next
      s.setCall p c
  | .notices => (c.phaseSegs 3 0).map fun gs =>
    let won := gs.flatMap fun g => (entriesOf g.2).filterMap fun x =>
      (s.expertAt c g.1 x.2.1).map fun e => ({ token := x.1, expert := e, weight := x.2.2.2 } : Assign)
    s.writeAssigns p { c with assigns := won }
  | .counts => (c.phaseSegs 4 0).map (s.gatherCounts p c)
  | .lists => none

/-- Runs a call as far as its segments go. -/
def State.callRun (s : State) (p : Nat) : Nat → State
  | 0 => s
  | n + 1 =>
    match (s.part p).call with
    | none => s
    | some c =>
      match s.callStep p c with
      | some s' => s'.callRun p n
      | none => s.callSettle p

/-- Whether a segment belongs to the running call. -/
def CastCall.owns (c : CastCall) (h : W512) : Bool := decide (fld h 511 448 = c.step) && decide (fld h 255 246 = c.layer)

/-- A segment reaches the running call (R207): FAIL ends it with the status it carries, one that Table 00-3 does not list included, which
counts for nothing in the R9 choice (DESIGN CHOICE, log 93); a first header that differs in a CRC ends it with DENIED. One that differs
in STEP or LAYER is held for its own call (R198) and never reaches this one (DESIGN CHOICE, log 95). -/
def State.callTake (s : State) (p : Nat) (g : Segment) : State :=
  match (s.part p).call with
  | none => s
  | some c =>
    let h := g.hdr
    let first := decide (fld h 245 243 ≤ 1) && decide (fld h 242 239 = 0)
    let same := decide (fld h 447 384 = c.mapCrc.toNat) && decide (fld h 383 320 = c.biasCrc.toNat) &&
      decide (fld h 319 256 = c.cfgCrc.toNat)
    if fld h 245 243 = 7 then s.failCall p (BitVec.ofNat 8 (fld h 222 215)) false
    else if first && !same then (s.count .mapMismatch p).failCall p stDenied false
    else (s.setCall p { c with segs := c.segs ++ [g] }).callRun p 32

/-- Whether a casting segment names its sender and its receiver by their coordinates in a call's map. -/
def State.segFits (s : State) (c : CastCall) (r : FabReq) (g : Segment) : Bool :=
  s.isOwn r.src || (decide (fld g.hdr 238 231 < c.group) && s.rankCoord c (fld g.hdr 238 231) == r.src)

/-- A segment of phases 0 to 4 or 7 arrives: a duplicate is counted and dropped, one of the running call reaches it, any other, of an
earlier step too, is held (R198, R207). -/
def State.segArrive (s : State) (p : Nat) (r : FabReq) (g : Segment) : State :=
  let x := s.part p
  let k := segKey g.hdr
  if x.heardSegs.contains k then (s.count .dupSegments p).credit r
  else
    match x.call with
    | some c =>
      if !c.owns g.hdr then s.setPart p { x with heardSegs := k :: x.heardSegs, heldSegs := x.heldSegs ++ [{ r with seg := .cast g }] }
      else if !s.segFits c r g then s.refuseSeg r
      else ((s.setPart p { x with heardSegs := k :: x.heardSegs }).credit r).callTake p g
    | none => s.setPart p { x with heardSegs := k :: x.heardSegs, heldSegs := x.heldSegs ++ [{ r with seg := .cast g }] }

/-! ## The rows of the dispatch and return all-to-alls (R208) -/

/-- What a layer's all-to-all carries, where its call of the step has ended: the first posted is the dispatch, the second the return
(DEDUCED, log 52). -/
def State.rowPhase (s : State) (p : Nat) (d : W512) : Option Nat :=
  let x := s.part p
  if cKind d ≠ 4 ∨ !(SMap.find? (cLayer d) x.endedCalls).isSome then none
  else
    match ((x.allToAlls.filter fun e => e.1 == cLayer d).map Prod.snd).findIdx? (· == cId d) with
    | some 0 => some 5
    | some 1 => some 6
    | _ => none

/-- Row counts of a segment by slot, 64 of them: of a DISPATCH, this home's tokens that each of the owner's slots took; of a RETURN, the
home's tokens that each of this owner's slots took. -/
def State.rowCounts (s : State) (c : CastCall) (phase r : Nat) : List Nat :=
  (List.range 64).map fun j =>
    if phase = 5 then
      match s.expertAt c r j with
      | some e => c.assigns.countP fun a => a.expert == e
      | none => 0
    else (c.takenOf j).countP fun o => o.tau / 65536 == r

/-- The segment for a rank: the table of row counts, then the rows, which stand in that order where the AUX row says, in link blocks. -/
def State.rowsFor (s : State) (p : Nat) (c : CastCall) (d : W512) (phase i r : Nat) : State × Segment :=
  let n := s.rowCounts c phase r
  let total := n.foldl (· + ·) 0
  let row := s.a2aRow d i
  let count := min (total * 32 * fld c.word 44 33) (row.2.1 / 4)
  let (s, bs) := if count = 0 then (s, []) else s.linkSend p (cLayer d) (s.floats (cSrc d + row.1) count)
  (s, { hdr := c.header phase 0 r 0 total, body := n.flatMap (bytesLE 2) ++ bs })

/-- The participant that holds a rank of a call. -/
def State.rankMember (s : State) (p : Nat) (c : CastCall) (d : W512) (r : Nat) : Option Nat :=
  (s.collMembers p d).findIdx? (· == s.rankCoord c r)

/-- A DISPATCH or RETURN segment reaches its all-to-all: the rows are decoded to FP32 (R115, R123). -/
def State.rowsUse (s : State) (p : Nat) (c : CastCall) (a : CollRun) (r : FabReq) (g : Segment) : State :=
  match s.rankMember p c a.desc (fld g.hdr 238 231) with
  | none => s.refuseSeg r
  | some i =>
    let total := ((chunks 2 (g.body.take 128)).map leNat).foldl (· + ·) 0
    let (s, vs) := if total = 0 then (s, []) else s.linkRead p (cLayer a.desc) (total * 32 * fld c.word 44 33) (g.body.drop 128)
    s.collTake p r { collId := cId a.desc, sender := i, pos := i, body := floatBytes vs }

/-- Rows reach the layer's all-to-all of their phase; with none posted they are held (R208, R270). -/
def State.rowsTake (s : State) (p : Nat) (r : FabReq) (g : Segment) : State :=
  let x := s.part p
  let phase := fld g.hdr 245 243
  let l := fld g.hdr 255 246
  let mine := (x.colls.map Prod.snd).find? fun (a : CollRun) => cLayer a.desc == l && a.rowPhase == some phase && a.ended.isNone
  match mine, SMap.find? l x.endedCalls with
  | some a, some c =>
    if c.owns g.hdr then s.rowsUse p c a r g else s.setPart p { x with heldSegs := x.heldSegs ++ [{ r with seg := .cast g }] }
  | _, _ => s.setPart p { x with heldSegs := x.heldSegs ++ [{ r with seg := .cast g }] }

/-- Rows arrive: a duplicate is counted and dropped (R207, R208). -/
def State.rowsArrive (s : State) (p : Nat) (r : FabReq) (g : Segment) : State :=
  let x := s.part p
  let k := segKey g.hdr
  if x.heardSegs.contains k then (s.count .dupSegments p).credit r
  else (s.setPart p { x with heardSegs := k :: x.heardSegs }).rowsTake p r g

/-- Offers the rows held to what has been posted. -/
def State.heldRows (s : State) (p : Nat) : State :=
  let x := s.part p
  let isRow (r : FabReq) : Bool := match r.seg with | .cast g => decide (fld g.hdr 245 243 = 5 ∨ fld g.hdr 245 243 = 6) | _ => false
  (x.heldSegs.filter isRow).foldl (fun s r => match r.seg with | .cast g => s.rowsTake p r g | _ => s)
    (s.setPart p { x with heldSegs := x.heldSegs.filter fun r => !isRow r })

/-- A posted all-to-all that carries rows: a segment to every rank, this one's own taken at once, and plain segments to participants of no
rank. -/
def State.rowsStart (s : State) (p : Nat) (c : CastCall) (a : CollRun) (phase : Nat) : State :=
  let d := a.desc
  let ranks := (List.range c.group).filterMap fun r => (s.rankMember p c d r).map fun i => (r, i)
  let s := ranks.foldl (fun s x =>
    let (s, g) := s.rowsFor p c d phase x.2 x.1
    if x.1 = c.rank then s.rowsUse p c a (heldSeg (.cast g)) g
    else s.postSeg p (s.rankCoord c x.1) (.cast g) (.coll p (cId d).toNat) (some a.task)) s
  ((List.range a.n).filter fun i => !ranks.any fun x => x.2 == i).foldl (fun s i =>
    let row := s.a2aRow d i
    let bs := s.bytes (cSrc d + row.1) row.2.1
    let g : CollSegment := { collId := cId d, sender := a.index, pos := a.index, body := bs }
    if i = a.index then s.collTake p (heldSeg (.coll g)) g
    else s.collPost p ((s.collMembers p d).getD i 0) g) s

/-! ## Start -/

/-- The CRC-64 words of a call's headers (Table 08-4). -/
def State.callCrcs (s : State) (c : CastCall) : CastCall :=
  { c with
    mapCrc := crc64 (s.bytes c.map (512 + 16 * c.experts)), biasCrc := crc64 (s.bytes (c.bias c.step) (4 * c.experts))
    cfgCrc := crc64 (bytesLE 32 c.cfg.toNat) }

/-- Whether a call is refused as a job fault: fields, record or map (R194, R197). -/
def State.callFieldsOk (s : State) (c : CastCall) : Bool :=
  zeroFld c.word 127 88 && zeroFld c.word 32 0 && decide (c.rank < c.group) && decide (c.tokens ≤ 65536) &&
    fld c.word 44 33 != 0 && (c.mode == 1 || c.mode == 2) && (!(s.populated c.map (512 + 16 * c.experts)) || s.mapOk c)

/-- Begins the exchange: SCORES, or the offers of round 0 (R200, R201). -/
def State.callBegin (s : State) (p : Nat) (c : CastCall) : State :=
  if c.mode = 1 then
    let (s, c) := s.sendScores p { c with waits := .scores }
    s.setCall p c
  else
    let ls := List.range c.tokens
    let nan := ls.foldl (fun n l => n + (List.range c.experts).countP fun e => f32IsNan (s.biased c e (s.score c l e))) 0
    let offers := ls.flatMap fun l => (List.range (min c.k (s.choices c l).length)).map fun i => (l, i)
    let (s, c) := s.sendOffers p { c with waits := .offers, nanScores := nan } 0 offers
    s.setCall p c

/-- Uses the segments held for a call that begins, each with its credit returned, and runs it as far as they go. -/
def State.takeHeld (s : State) (p : Nat) (c : CastCall) : State :=
  let x := s.part p
  let isMine (r : FabReq) : Bool :=
    match r.seg with
    | .cast g => c.owns g.hdr && decide (fld g.hdr 245 243 ≠ 5 ∧ fld g.hdr 245 243 ≠ 6)
    | _ => false
  let s := (x.heldSegs.filter isMine).foldl (fun s r =>
    match r.seg with
    | .cast g => if s.segFits c r g then (s.credit r).callTake p g else s.refuseSeg r
    | _ => s) (s.setPart p { x with heldSegs := x.heldSegs.filter fun r => !isMine r })
  s.callRun p 32

end Sys2Proof.Machine
end

