-- ==== Sys2Proof/Machine/DimOps.lean ====
section
/-! DEFINITION. The dimmer's shared operations: predictions and permits (R358), moves (R355), blackout (R359), the job
frequency lock (R363 to R365), throttle reasons (R369) and the phases of a cap slew (R362). -/

namespace Sys2Proof.Machine

open Sys2Proof

/-! ## Predictions (R358) -/

/-- CLK_A of a step, MHz. -/
def stepMhz (n : Nat) : Nat := (Config.dimStep n).mhz
/-- V_core of a step, mV. -/
def stepMv (n : Nat) : Nat := (Config.dimStep n).mv

/-- CAP, W. -/
def State.capW (s : State) : Nat := s.cfgNum 0x2100 1 0 2
/-- STEP_MAX. -/
def State.stepMax (s : State) : Nat := s.cfgNum 0x2100 2 0 1
/-- CURRENT_LIMIT, A. -/
def State.currentLimit (s : State) : Nat := s.cfgNum 0x2100 7 0 2

/-- k_now: f × V² of the step in force, MHz · mV². -/
def State.kNow (s : State) : Nat := stepMhz s.dim.freqStep * stepMv s.dim.freqStep ^ 2

/-- A dynamic power without the gating of blackout: four times the measured one while blackout is on. -/
def State.ungated (s : State) (p : Nat) : Nat := if s.dim.blackout then 4 * p else p

/-- Whether P(s, V, b) ≤ CAP for a step, a voltage in mV and blackout on or off. Both sides are multiplied by 4 k_now, so
that the comparison is exact. -/
def State.capFits (s : State) (step v : Nat) (black : Bool) : Bool :=
  let k := s.kNow
  let d := s.ungated s.dim.pDyn * stepMhz step * v ^ 2
  decide (4 * k * s.dim.pFix + (if black then d else 4 * d) ≤ 4 * k * (s.capW * 1000))

/-- Whether every Cerain core rail stays within CURRENT_LIMIT at a step and a voltage, blackout off: its share of D, scaled
and divided by V. -/
def State.currentFits (s : State) (step v : Nat) : Bool :=
  s.dim.railShares.all fun p => decide (s.ungated p * stepMhz step * v ≤ s.currentLimit * s.kNow)

/-- The highest step that passes a test; 0 where none does. -/
def highestStep (ok : Nat → Bool) : Nat := (((List.range 24).filter ok).max?).getD 0

/-- Recomputes the cap and current permits and CAP_UNMET (R358, R359). -/
def State.limits (s : State) : State :=
  let unmet := !s.capFits 0 (stepMv 0) true
  { s with dim := { s.dim with
      capPermit := highestStep fun n => s.capFits n (stepMv n) false
      currentPermit := highestStep fun n => s.currentFits n (stepMv n)
      flags := if unmet then s.dim.flags ||| 1 else s.dim.flags &&& 0xFFFFFFFE } }

/-- The local permit P_loc: the lowest of the permits (R358). -/
def State.localPermit (s : State) : Nat :=
  [s.stepMax, s.dim.capPermit, s.dim.currentPermit, s.dim.diePermit, s.dim.hbmPermit, s.dim.droopPermit,
    s.dim.voltHold.getD 23].foldl min 23

/-! ## The job frequency lock -/

/-- The lock record (Table 14-5). -/
def State.lockRec (s : State) : Nat := s.cfgNum 0x2100 9 0 8
/-- LOCK_ID. -/
def State.lockId (s : State) : Nat := fld (BitVec.ofNat 64 s.lockRec) 63 48

/-- Whether a coordinate lies in the box of a lock record. -/
def lockBox (rec : Nat) (c : BitVec 12) : Bool :=
  let f (hi lo : Nat) : Nat := fld (BitVec.ofNat 64 rec) hi lo
  decide (f 47 44 ≤ cx c ∧ cx c ≤ f 43 40) && decide (f 39 36 ≤ cy c ∧ cy c ≤ f 35 32) &&
    decide (f 31 28 ≤ cz c ∧ cz c ≤ f 27 24)

/-- Every coordinate of the box of a lock record. -/
def lockMembers (rec : Nat) : List (BitVec 12) :=
  ((List.range 4096).map fun n => BitVec.ofNat 12 n).filter fun c => lockBox rec c

/-- J of the request table: its lowest entry (R364). -/
def State.tableStep (s : State) : Nat := if s.lockId = 0 then 23 else (s.dim.requests.map Prod.snd).foldl min 23

/-- Writes an entry of the request table; 23 is not listed. -/
def State.setRequest (s : State) (c : BitVec 12) (n : Nat) : State :=
  let s := { s with dim := { s.dim with requests := SMap.set 23 s.dim.requests c.toNat n } }
  { s with dim := { s.dim with jobStep := s.tableStep } }

/-- FREQ_CUE to every other member (Table 14-4), in OC2 with JOB_ID 0 (R364). -/
def State.sendCues (s : State) (force : Bool) : State :=
  match s.fab.coord with
  | none => s
  | some own =>
    let w := s.lockId * 2 ^ 48 + s.dim.permit * 2 ^ 43 + b2n force 42
    (((lockMembers s.lockRec).filter (· ≠ own)).foldl (fun s c =>
      s.post none 0x0A { port := 0, dst := c, src := 0, cls := 2, lenM1 := 7, body := bytesLE 8 w } .control) s).pumpSends

/-- This member's request: it enters its own entry and goes to the other members (R364). `lower` says whether it is lower
than the one before, which a FORCE cue follows after 200 µs. -/
def State.request (s : State) (lower : Bool) : State :=
  if s.lockId = 0 then s
  else
    match s.fab.coord with
    | none => s
    | some own =>
      let s := (s.setRequest own s.dim.permit).sendCues false
      if lower then { s with dim := { s.dim with forceDue := true } } else s

/-! ## Moves (R355) -/

/-- The step the dimmer runs at: r = min(J, P_loc), with the J that is applied. -/
def State.goal (s : State) : Nat := min s.dim.jobApplied s.dim.permit

/-- One voltage write goes to each AVSBus interface (R353, R430). -/
def State.commandVolts (s : State) (step : Nat) : State :=
  (s.send (.avs 0 (stepMv step))).send (.avs 1 (max (stepMv step) 700))

/-- Starts a raise: the voltage moves first. -/
def State.startRaise (s : State) (n : Nat) : State := { s with dim := { s.dim with move := .raiseVolt n } }.commandVolts n

/-- Cancels the pending hop of a raise for a lower step: the dimmer goes on from the frequency in force. -/
def State.cancelRaise (s : State) : State :=
  let n := s.goal
  if n < s.dim.freqStep then { s with dim := { s.dim with move := .lowerHop n } }
  else if n = s.dim.freqStep then { s with dim := { s.dim with move := .lowerVolt n } }.commandVolts n
  else s.startRaise n

/-- Moves toward r, one move at a time; a lower r cancels the hop of a raise that waits for its voltage. -/
def State.steer (s : State) : State :=
  match s.dim.move with
  | .still =>
    if s.goal < s.dim.freqStep then { s with dim := { s.dim with move := .lowerHop s.goal } }
    else if s.dim.freqStep < s.goal then s.startRaise s.goal
    else s
  | .raiseVolt n => if s.goal < n then s.cancelRaise else s
  | .retry n => if s.goal < n ∧ s.dim.freqStep < n then s.cancelRaise else s
  | _ => s

/-! ## Blackout and reasons -/

/-- Switches blackout on or off for a reason (numbered as in 0x2A00). -/
def State.blackoutFor (s : State) (reason : Nat) (on : Bool) : State :=
  let l := s.dim.blackoutFor.filter (· ≠ reason)
  let l := if on then reason :: l else l
  { s with dim := { s.dim with blackoutFor := l, blackout := !l.isEmpty } }

/-- Whether a throttle reason binds (R369). -/
def State.reasonBinds (s : State) (n : Nat) : Bool :=
  let d := s.dim
  let at_ (permit : Nat) : Bool := (permit == d.freqStep && decide (d.freqStep < s.stepMax)) || d.blackoutFor.contains n
  if n = 1 then d.slew == .none && at_ d.capPermit
  else if n = 2 then d.slew != .none
  else if n = 3 then at_ d.currentPermit
  else if n = 4 then at_ d.diePermit
  else if n = 5 then at_ d.hbmPermit
  else if n = 6 then at_ d.droopPermit
  else if n = 7 then decide (d.jobApplied < d.permit)
  else s.therm.coolantState == 2 || s.therm.coolantState == 3

/-- Brings one reason up to date: EVENTS rises as it passes from not binding to binding. -/
def State.noteReason (s : State) (n : Nat) : State :=
  let r := s.reason n
  let b := s.reasonBinds n
  let r : Reason := { r with binds := b, events := if b ∧ !r.binds then r.events + 1 else r.events }
  { s with dim := { s.dim with reasons := SMap.set {} s.dim.reasons n r } }

/-- Brings every reason and the error register up to date (R369, R392). -/
def State.bindReasons (s : State) : State :=
  ((List.range 8).foldl (fun s i => s.noteReason (i + 1)) s).settle

/-- Reference ticks since the slewing write, as SLEW_RECORD holds them. -/
def State.slewMark (s : State) (i : Nat) : State :=
  { s with dim := { s.dim with slewRecord := s.dim.slewRecord.set i ((s.clk.ticks - s.dim.slewStart) % 2 ^ 32) } }

/-- Takes a cap slew past the phases its moves have finished (R362). -/
def State.slewOn (s : State) : State :=
  let s := match s.dim.slew, s.dim.move with
    | .hop, .lowerHop _ => s
    | .hop, .raiseHop _ => s
    | .hop, _ => { s.slewMark 1 with dim := { (s.slewMark 1).dim with slew := .voltage } }
    | _, _ => s
  match s.dim.slew, s.dim.move with
  | .voltage, .still => { s.slewMark 2 with dim := { (s.slewMark 2).dim with slew := .release } }
  | _, _ => s

/-- Blackout for CAP and CURRENT (R359): on while the limit is not met at r and the voltage in force; an estimate that meets
it, after the phases of a slew, releases it (R362). -/
def State.setBlackout (s : State) (estimate : Bool) : State :=
  let capBad := !s.capFits s.goal s.dim.voltMv false
  let curBad := !s.currentFits s.goal s.dim.voltMv
  let had (n : Nat) : Bool := s.dim.blackoutFor.contains n
  let s' := s.blackoutFor 3 (curBad || (had 3 && !estimate))
  if s.dim.slew = .none then s'.blackoutFor 1 (capBad || (had 1 && !estimate))
  else if s.dim.slew = .release ∧ estimate ∧ !capBad then
    { (s'.slewMark 3).blackoutFor 2 false with dim := { ((s'.slewMark 3).blackoutFor 2 false).dim with slew := .none } }
  else s'

/-- Recomputes the permits, tells the lock of a changed P_loc, sets blackout and moves on (R355, R358, R359, R364). -/
def State.reassess (s : State) (estimate : Bool) : State :=
  let s := s.limits
  let old := s.dim.permit
  let new := s.localPermit
  let s := { s with dim := { s.dim with permit := new } }
  let s := if new = old then s else s.request (decide (new < old))
  (((s.setBlackout estimate).steer).slewOn).bindReasons

/-- A changed permit or J is taken up without a new estimate. -/
def State.repermit (s : State) : State := s.reassess false

/-- A write to CAP that the steps cannot follow starts the phases of a slew, and one during a slew restarts them (R362). -/
def State.slewWrite (s : State) : State :=
  let l := s.limits
  let far := decide (l.dim.capPermit < s.dim.freqStep) && !l.capFits l.dim.capPermit s.dim.voltMv false
  if !far && s.dim.slew = .none then s.repermit
  else
    let s := { s with dim := { s.dim with slew := .hop, slewStart := s.clk.ticks, slewRecord := [0, 0, 0, 0] } }
    -- the limits of the write are formed from the dynamic power in force, before the reason of the blackout changes
    let l := s.limits
    let new := l.localPermit
    let s := { l with dim := { l.dim with permit := new } }
    let s := if new = l.dim.permit then s else s.request (decide (new < l.dim.permit))
    let s := s.setBlackout false
    let s := (s.blackoutFor 2 true).blackoutFor 1 false
    let s := match s.dim.move with
      | .lowerVolt _ => if s.goal < s.dim.freqStep then { s with dim := { s.dim with move := .lowerHop s.goal } } else s
      | .lowerHop _ => { s with dim := { s.dim with move := .lowerHop (min s.goal s.dim.freqStep) } }
      | _ => s.steer
    s.slewOn.bindReasons

/-- A step boundary of the lock's partition applies the J of the table (R364). -/
def State.lockBarrier (s : State) (p : Nat) : State :=
  if s.lockId = 0 ∨ fld (BitVec.ofNat 64 s.lockRec) 23 17 ≠ p then s
  else { s with dim := { s.dim with jobApplied := s.dim.jobStep, forceDue := false } }.repermit

/-- The lock record has been committed: every entry is 23 again; an understudy sends its first cue (R364, R365). A raise
waits for a barrier, except that no lock leaves J at 23. -/
def State.lockCommitted (s : State) : State :=
  let s := { s with dim := { s.dim with requests := [], jobStep := 23, forceDue := false } }
  if s.lockId = 0 then { s with dim := { s.dim with jobApplied := 23 } }.repermit
  else (if s.role ≠ 0 then s.request false else s).repermit

/-- A member's coordinate is lost or switched in: its entry returns to 23 (R365). -/
def State.lockForget (s : State) (c : BitVec 12) : State :=
  if lockBox s.lockRec c then s.setRequest c 23 else s

/-- FREQ_CUE from a member (R364): STEP enters the sender's entry; FORCE applies a lower J at once. A cue that does not fit
counts in CUES_IGNORED. -/
def State.takeCue (s : State) (src : BitVec 12) (w : Nat) : State :=
  let f (hi lo : Nat) : Nat := fld (BitVec.ofNat 64 w) hi lo
  if f 63 48 = 0 ∨ f 63 48 ≠ s.lockId ∨ 23 < f 47 43 ∨ !lockBox s.lockRec src then s.count .cuesIgnored
  else
    let s := s.setRequest src (f 47 43)
    if f 42 42 = 1 ∧ s.dim.jobStep < s.dim.jobApplied then
      { s with dim := { s.dim with jobApplied := s.dim.jobStep } }.repermit
    else s

end Sys2Proof.Machine
end

