-- ==== Sys2Proof/Machine/PortOps.lean ====
section
/-! DEFINITION. Ports: the link plan and the identity check (R247, R248, R256), the states of Table 10-2, laser requests
(R246, R435) and the retirement of sites (R220, R249, R327, R328). -/

namespace Sys2Proof.Machine

open Sys2Proof

/-! ## Link plan and lasers -/

/-- A link-plan entry (Table 10-3). -/
def State.linkPlan (s : State) (n : Nat) : BitVec 128 := BitVec.ofNat 128 (s.cfgNum 0x2401 1 (16 * n) 16)
/-- EXPECT of a port. -/
def State.expect (s : State) (n : Nat) : Nat := fld (s.linkPlan n) 55 54

/-- Whether the optical ports run: the package has been released from reset and is neither halted nor in ghost-light mode
(R330, R405). -/
def State.opticsOn (s : State) : Bool := s.house.started && s.house.deviceState != 2 && s.house.deviceState != 3

/-- LASER_REQ by port (R435). -/
def State.lasers (s : State) : State :=
  let on (n : Nat) : Bool := s.opticsOn && s.expect n != 0 && (s.port n).phase != .retired
  { s with pins := { s.pins with laserReq := BitVec.ofNat 24 (((List.range 24).map fun n => b2n (on n) n).foldl (· + ·) 0) } }

/-! ## Identity (R247, R248) -/

/-- Axis and direction of a torus port; none for ports 18 to 23. -/
def portDir (n : Nat) : Option (Nat × Bool) := if n < 18 then some (n / 6, n % 6 < 3) else none

/-- A coordinate one position along an axis, wrapping at its length. -/
def State.stepped (s : State) (c : BitVec 12) (ax : Nat) (plus : Bool) : BitVec 12 :=
  let n := s.axisLen ax
  axisSet c ax ((axisPos c ax + (if plus then 1 else n - 1)) % n)

/-- The torus part of the check: the neighbour's coordinate and the opposite group. -/
def State.torusOk (s : State) (ax : Nat) (plus : Bool) (far : Identity) : Bool :=
  far.coord == s.stepped s.physCoord ax plus && decide (groupBase ax (!plus) ≤ far.port ∧ far.port < groupBase ax (!plus) + 3)

/-- Third coordinate of the lines an understudy serves (Table 10-12). -/
def State.lineThird (s : State) : Nat := fld s.house.placement 11 8

/-- The fibre plan of R256 as it binds an understudy's torus port n: the X ring on 16 and 17, a line member elsewhere. -/
def State.understudyOk (s : State) (n : Nat) (far : Identity) : Bool :=
  if n = 16 ∨ n = 17 then
    far.role.toNat == s.role && decide (far.port = 33 - n) &&
      decide (cx far.coord = (cx s.physCoord + (if n = 16 then 1 else 3)) % 4)
  else
    far.role == 0 && decide (far.port = 17 + s.role) && decide (cx far.coord = cx s.physCoord) &&
      decide (axisPos far.coord s.spareAxis = n) &&
      decide (axisPos far.coord (if s.spareAxis = 1 then 2 else 1) = s.lineThird)

/-- Whether a far identity passes (R248). -/
def State.identityOk (s : State) (n : Nat) (far : Identity) : Bool :=
  let e := s.linkPlan n
  let plan := fld e 55 54 == 2 ||
    (fld e 55 54 == 1 && decide (fld e 127 64 = far.serial.toNat) && decide (fld e 63 56 = far.port))
  plan &&
  match portDir n with
  | some (ax, plus) => if s.role = 0 then s.torusOk ax plus far else s.understudyOk n far
  | none =>
    if n = 18 ∨ n = 19 then
      s.role == 0 && decide (far.role.toNat = n - 17) && decide (far.port = axisPos s.physCoord s.spareAxis) &&
        decide (cx far.coord = cx s.physCoord)
    else true

/-! ## States (Table 10-2) -/

/-- Halves of a port that are not retired, as the mask of its identity record (R247). -/
def Port.working (x : Port) : BitVec 2 := ~~~ x.retiredHalves

/-- Lane mask of a mask of halves. -/
def laneMask (h : BitVec 2) : Nat := b2n (h.getLsbD 0) 0 * 0x0F + b2n (h.getLsbD 1) 0 * 0xF0

/-- Leaves a port's state, its traffic resent when it was UP. -/
def State.toPhase (s : State) (n : Nat) (ph : PortPhase) : State :=
  let x := s.port n
  let s := s.setPort n { x with phase := ph, retryDue := false }
  if x.phase = .up ∧ ph ≠ .up then s.portGone n else s

/-- This end's identity record for a port (R247). -/
def State.identity (s : State) (n : Nat) : Identity :=
  { serial := Config.serial, port := n, role := BitVec.ofNat 2 s.role, coord := s.physCoord, halves := (s.port n).working }

/-- A port begins to train: its link starts afresh and it sends its identity record (R246, R247). -/
def State.train (s : State) (n : Nat) : State :=
  let s := s.toPhase n .training
  (s.setPort n (s.port n).afresh).send (.identity n (s.identity n))

/-- A port retrains: its flits stay in its buffer, and it sends its identity record (R245, R247). -/
def State.toRetrain (s : State) (n : Nat) : State :=
  let s := (s.toPhase n .retrain).count .retrains n
  s.send (.identity n (s.identity n))

/-- The flits that are not acknowledged are sent again, and counted, each a corrected fault (R245, Table 13-1); then what waits. -/
def State.flitsAgain (s : State) (n : Nat) : State :=
  let x := s.port n
  let m := x.unacked.length
  ((s.setPort n x.resend).count .flitRetries n m).count .corrected 0 m

/-- A port sends what its window and its credits let go. -/
def State.pumpPort (s : State) (n : Nat) : State :=
  let x := s.port n
  s.setPort n (x.pump x.txQueue.length)

/-- CHECKING: the stored far identity takes the port UP or to HELD (R248); a HELD port is logged with both identities. A port that is UP
again sends its unacknowledged flits first (R245). -/
def State.checkPort (s : State) (n : Nat) : State :=
  let x := s.port n
  let far : Identity := { serial := x.farSerial, port := x.farPort, role := x.farRole, coord := x.farCoord, halves := 0, ns := x.ns }
  if s.identityOk n far then
    (((s.setPort n { x with phase := .up, wasHeld := false, nakRun := 0 }).flitsAgain n).pumpPort n).cohPump.settle
  else
    let s := s.setPort n { x with phase := .held }
    let own : FaultRec := { detail := Config.serial, unit := n, unitType := 5, cls := 5, cause := 0x05
                            detail2 := BitVec.ofNat 64 n }
    ((s.logOnly own).1.logFault { own with detail := far.serial, detail2 := BitVec.ofNat 64 far.port }).settle

/-! ## Retirement (R327) -/

/-- The retirement goes to the store, and its EMCY waits for the bank write (R327, R399). -/
def State.retired (s : State) (r : FaultRec) : State :=
  let (s, e) := (s.count .permanents).logOnly { r with cls := 2 }
  let jobs := if s.store.jobs.contains .records then s.store.jobs else s.store.jobs ++ [.records]
  { s with store := { s.store with jobs := jobs, emcyDue := s.store.emcyDue ++ [e] } }

/-- A transient at a port for a training that failed (R246, Table 13-7). -/
def State.trainFail (s : State) (n : Nat) : State :=
  s.transient (.port (Fin.ofNat 24 n)) 0x04 (BitVec.ofNat 64 n) (BitVec.ofNat 64 (laneMask (s.port n).working))

/-- Takes the halves of a port in a mask out of use (R249): with one left the port retrains on it, with none it is retired. -/
def State.retireHalves (s : State) (n : Nat) (mask : BitVec 2) : State :=
  let x := s.port n
  let halves := x.retiredHalves ||| mask
  let add := ((List.range 2).filter fun h => mask.getLsbD h).map (2 * n + ·)
  let s := { s with faults := { s.faults with retiredOptics := (s.faults.retiredOptics ++ add).eraseDups } }
  let s := s.setPort n { x with retiredHalves := halves }
  if halves = 3 then (s.toPhase n .retired).lasers
  else if x.phase = .up then s.toRetrain n
  else s

/-- Ends a training with the far end's identity (R247): the common halves, or the retirement of a port with none. -/
def State.trained (s : State) (n : Nat) (far : Identity) : State :=
  let x := s.port n
  let both := x.working &&& far.halves
  if both = 0 then
    (s.retireHalves n 3).retired { detail := BitVec.ofNat 64 n, unit := n, unitType := 5, cause := 0x04
                                   detail2 := BitVec.ofNat 64 (laneMask x.working) }
  else
    (s.setPort n { x with
      phase := .checking, retryDue := false, lanes := if both = 3 then 8 else 4, farSerial := far.serial, farPort := far.port
      farRole := far.role, farCoord := far.coord, ns := far.ns }).checkPort n

/-- A DARK port with light on a working half and a link-plan entry trains; one that was HELD when its light went is checked
(Table 10-2). -/
def State.relight (s : State) (n : Nat) : State :=
  let x := s.port n
  if !s.opticsOn || x.phase ≠ .dark || x.light &&& x.working = 0 || s.expect n = 0 || !s.pins.laserOk.getLsbD (n / 4) then s
  else if x.wasHeld then s.checkPort n
  else s.train n

/-! ## Lanes of memory (R220) -/

/-- A tier's figures for rehoming: regions, lanes a region, channels present, regions withdrawn, channels retired. -/
structure Rehome where
  tierD : Bool
  regions : Nat
  channels : List Nat
  withdrawn : List Nat
  retired : List Nat

/-- The figures of a tier. -/
def State.rehome (s : State) (tierD : Bool) : Rehome :=
  if tierD then { tierD := true, regions := s.regionsD, channels := s.presentSubs, withdrawn := s.faults.withdrawnD, retired := s.faults.retiredD }
  else { tierD := false, regions := 384, channels := List.range 512, withdrawn := s.faults.withdrawnH, retired := s.faults.retiredH }

/-- CHANNEL and SLOT of a lane, a copy under way included. -/
def State.laneHome (s : State) (h : Rehome) (region lane : Nat) : Nat × Nat :=
  match s.faults.copies.find? fun c => c.tierD == h.tierD && c.region == region && c.lane == lane with
  | some c => (c.chan, c.slot)
  | none => if h.tierD then s.laneD region lane else s.laneH region lane

/-- Populated regions. -/
def Rehome.live (h : Rehome) : List Nat := (List.range h.regions).filter fun r => !h.withdrawn.contains r

/-- Slots of a channel that populated regions use. -/
def State.slotsUsed (s : State) (h : Rehome) (c : Nat) : List Nat :=
  h.live.flatMap fun r => (List.range h.channels.length).filterMap fun l =>
    let w := s.laneHome h r l
    if w.1 = c then some w.2 else none

/-- Lanes on a channel, by region and then lane. -/
def State.lanesOn (s : State) (h : Rehome) (c : Nat) : List (Nat × Nat) :=
  h.live.flatMap fun r => ((List.range h.channels.length).filter fun l => (s.laneHome h r l).1 == c).map fun l => (r, l)

/-- Spare slots by surviving channel. -/
def State.spares (s : State) (h : Rehome) : List (Nat × List Nat) :=
  (h.channels.filter fun c => !h.retired.contains c).map fun c =>
    let used := s.slotsUsed h c
    (c, (List.range h.regions).filter fun x => !used.contains x)

/-- Takes what lies at or above a local address, up to an end, out of the allocations: withdrawals go from the top of a tier down, so
each allocation keeps its start (R220). -/
def trimAllocs (m : SMap Alloc) (lo hi : Nat) : SMap Alloc :=
  m.filterMap fun e =>
    if e.1 + e.2.size ≤ lo ∨ hi ≤ e.1 then some e
    else if lo ≤ e.1 then none else some (e.1, { e.2 with size := lo - e.1 })

/-- Withdraws the highest populated region, which leaves the allocations (R220), until the spare slots cover the lanes of a retired channel (R220 steps 1, 2). -/
def State.withdraw (s : State) (tierD : Bool) (x : Nat) : Nat → State
  | 0 => s
  | n + 1 =>
    let h := s.rehome tierD
    let need := (s.lanesOn h x).length
    let spare := (s.spares h).foldl (fun a e => a + e.2.length) 0
    match h.live.getLast? with
    | none => s
    | some top =>
      if need ≤ spare then s
      else
        let f := s.faults
        let f := if tierD then { f with withdrawnD := f.withdrawnD ++ [top] } else { f with withdrawnH := f.withdrawnH ++ [top] }
        let f := { f with copies := f.copies.filter fun (c : LaneCopy) => !(c.tierD == tierD && c.region == top) }
        let size := if tierD then s.regionD else regionH
        let lo := (if tierD then baseD else 0) + top * size
        let s := { s with faults := f, allocs := trimAllocs s.allocs lo (lo + size) }
        (s.logFault { detail := BitVec.ofNat 64 top, cls := 5, cause := 0x09, detail2 := if tierD then 1 else 0 }).withdraw tierD x n

/-- Gives each lane of a retired channel its new home: the channel with the most spare slots, lowest slot (R220 step 3). -/
def placeLanes (tierD : Bool) (lanes : List (Nat × Nat)) (spares : List (Nat × List Nat)) : List LaneCopy :=
  (lanes.foldl (fun (a : List LaneCopy × List (Nat × List Nat)) l =>
    match leastBy (fun x y => decide (y.2.length < x.2.length ∨ (y.2.length = x.2.length ∧ x.1 < y.1))) a.2 with
    | some (c, slot :: rest) =>
      (a.1 ++ [{ tierD := tierD, region := l.1, lane := l.2, chan := c, slot := slot }],
        a.2.map fun e => if e.1 = c then (c, rest) else e)
    | _ => a) ([], spares)).1

/-- Retires a pseudo-channel or a subchannel: its lanes are copied to new homes (R220). -/
def State.retireChannel (s : State) (tierD : Bool) (x : Nat) : State :=
  let f := s.faults
  let s := { s with faults := if tierD then { f with retiredD := f.retiredD ++ [x] } else { f with retiredH := f.retiredH ++ [x] } }
  let s := s.withdraw tierD x 768
  let h := s.rehome tierD
  let lanes := s.lanesOn h x
  let new := placeLanes tierD lanes (s.spares h)
  let old := s.faults.copies.filter fun c => !(c.tierD == tierD && lanes.contains (c.region, c.lane))
  { s with faults := { s.faults with copies := old ++ new } }

/-! ## Cores (R328) -/

/-- The first dispatched of a partition's uncommitted tasks with a declared output in a core's tile store. -/
def State.outputsIn (s : State) (p c : Nat) : Option Task :=
  ((s.dispatchedTasks p).find? fun e => e.2.outs.any fun r => overlap r.1 r.2 (lkey (tileBase c)) 0x400000).map Prod.snd

/-- What a core's retirement does to one partition: a job fault, or the replay of its casts on that core. -/
def State.coreLost (s : State) (c p : Nat) : State :=
  let seeds := ((s.dispatchedTasks p).filter fun e => dIsCast e.2.desc && e.2.core == c && !(e.2.phase == .waiting)).map Prod.fst
  if (s.part p).phase ≠ .active then s
  else if s.ownsCore p c ∧ ((List.range 256).all fun k => !s.ownsCore p k || s.faults.retiredCores.contains k) = true then
    (s.count .partitionFatal).jobFault p
  else if let some t := s.outputsIn p c then
    -- such a task cannot be replayed (R339)
    (s.count .partitionFatal).jobFault p 0x0C (BitVec.ofNat 64 (t.descAddr.getD 0)) (BitVec.ofNat 64 t.replays)
  else
    match seeds with
    | [] => s
    | k :: ks => s.startReplay k ks

/-- Retires a core: its casts are replayed elsewhere, its table slots and array queues are lost (R328). -/
def State.retireCore (s : State) (c : Nat) : State :=
  let s := { s with faults := { s.faults with retiredCores := (s.faults.retiredCores ++ [c]).eraseDups } }
  let s := (List.range 128).foldl (fun s p => s.coreLost c p) s
  let s := { s with cores := SMap.del c s.cores }
  ((s.setArray (2 * c) (s.array (2 * c)).freed).setArray (2 * c + 1) (s.array (2 * c + 1)).freed)

/-! ## Sites -/

/-- Whether a site is retired already. -/
def State.isRetired (s : State) : Site → Bool
  | .channel x => s.faults.retiredH.contains x.val
  | .subchannel x => s.faults.retiredD.contains x.val
  | .core k => s.faults.retiredCores.contains k.val
  | .laneHalf x => s.faults.retiredOptics.contains x.val
  | .port n => (s.port n.val).phase == .retired
  | .package c => s.faults.retiredPositions.contains (routePhys (s.route c)).toNat

/-- The half of a port with the lane that had the most symbols corrected in the last 10 s (R249); of two equal, the lower (DESIGN
CHOICE, log 65). -/
def State.worstHalf (s : State) (n : Nat) : Nat :=
  let recent := (s.port n).symbols.filter fun e => decide (s.clk.ticks < e.1 + tenSeconds)
  let lane (i : Nat) : Nat := recent.foldl (fun a e => a + e.2.getD i 0) 0
  let top (h : Nat) : Nat := ((List.range 4).map fun i => lane (4 * h + i)).foldl max 0
  if top 0 < top 1 then 1 else 0

/-- Retires a site as Table 13-2 states; a port at 4 lanes goes as a whole (R249). -/
def State.retireSite (s : State) (x : Site) : State :=
  match x with
  | .channel c => s.retireChannel false c.val
  | .subchannel c => s.retireChannel true c.val
  | .core k => s.retireCore k.val
  | .laneHalf h => s.retireHalves (h.val / 2) (BitVec.ofNat 2 (2 ^ (h.val % 2)))
  | .port n =>
    if (s.port n.val).working ≠ 3 ∨ (s.port n.val).lanes = 4 then s.retireHalves n.val 3
    else s.retireHalves n.val (BitVec.ofNat 2 (2 ^ s.worstHalf n.val))
  | .package c =>
    { s with faults := { s.faults with
        retiredPositions := (s.faults.retiredPositions ++ [(routePhys (s.route c)).toNat]).eraseDups } }

/-- Makes a site permanent (R326, R327): its count restarts, it is retired, a class 2 record is written. -/
def State.makePermanent (s : State) (x : Site) (cause : Nat) (detail detail2 : W64) (status : Byte) (part : Nat) : State :=
  let n := s.recent x
  let s := (s.retireSite x)
  let s := { s with faults := { s.faults with transients := SMap.del (siteKey x) s.faults.transients } }
  s.retired { detail := detail, unit := (siteUnit x).2, unitType := (siteUnit x).1, cause := cause, status := status
              part := part, count := n, detail2 := detail2 }

end Sys2Proof.Machine
end

