-- ==== Sys2Proof/Machine/Ports.lean ====
section
/-! DEFINITION. Optical ports (R244 to R249): flits and link retry, training, light. -/

namespace Sys2Proof.Machine

open Sys2Proof

/-- Fields of a link header (Table 10-1). -/
def flitSeq (h : BitVec 128) : Nat := fld h 127 116
/-- ACK. -/
def flitAck (h : BitVec 128) : Nat := fld h 115 104
/-- NAK. -/
def flitNak (h : BitVec 128) : Bool := bit h 103
/-- VC. -/
def flitVc (h : BitVec 128) : Nat := fld h 102 100

/-- The far end asks for the flits after ACK again: they are sent again, and eight requests in a row for one SEQ retrain the port
(R245). -/
def State.nakSeen (s : State) (n ack : Nat) : State :=
  let x := s.port n
  let run := if x.nakRun ≠ 0 ∧ x.nakSeq = ack then x.nakRun + 1 else 1
  let s := (s.setPort n { x with nakSeq := ack, nakRun := run }).flitsAgain n
  if run = 8 then (s.setPort n { s.port n with nakRun := 0 }).toRetrain n else s

/-- Notes the symbols corrected on each lane, the last 10 s being kept (R249). -/
def State.noteSymbols (s : State) (n : Nat) (w : List Nat) : State :=
  let x := s.port n
  s.setPort n { x with symbols := (x.symbols.filter fun e => decide (s.clk.ticks < e.1 + tenSeconds)) ++ [(s.clk.ticks, w)] }

/-- Counts the codewords of an arriving flit; a corrected one is a corrected fault (R245, Table 10-11, Table 13-1). -/
def State.codewords (s : State) (n : Nat) (c : FlitCheck) : State :=
  match c with
  | .corrected w => ((s.count .cwCorrected n).count .corrected).noteSymbols n w
  | .uncorrectable => s.count .cwUncorrected n
  | .clean => s

/-- Whether a flit is taken: the one whose SEQ is expected, on a channel there is, with its CRC right and no codeword beyond
correction. -/
def Port.accepts (x : Port) (h : BitVec 128) (payload : List Byte) (check : FlitCheck) : Bool :=
  check != .uncorrectable && decide (flitVc h < 4) && flitSeq h == x.rxSeq && fld h 31 0 == (flitCrc h payload).toNat

/-- The link state after a flit that is taken: its ACK and the credits it returns, and its own buffer, which is free again (R244). -/
def Port.taken (x : Port) (h : BitVec 128) : Port :=
  let credit (v c : Nat) : Nat := min 64 (v + c)
  (({ x with
      rxSeq := (x.rxSeq + 1) % 4096, acked := flitAck h, creditReq := credit x.creditReq (fld h 99 92)
      creditRsp := credit x.creditRsp (fld h 91 84), creditCc := credit x.creditCc (fld h 83 76) } : Port).takeAck (flitAck h)).owe
    (flitVc h)

/-- FLIT: the flit whose SEQ is expected is accepted, and acknowledged with what is sent next or an idle flit; any other, and one that
fails its CRC or lies in an uncorrectable codeword, is dropped and answered with NAK (R244, R245). -/
def execFlit (n : Fin 24) (f : Flit) (check : FlitCheck) (s : State) : Result :=
  let x := s.port n.val
  let h := f.hdr
  if x.phase ≠ .up then .next s
  else
    let s := s.codewords n.val check
    if !x.accepts h f.payload check then .next ((s.setPort n.val ((s.port n.val).idle true)).send (.nak n.val x.rxSeq))
    else
      let s := s.setPort n.val ((s.port n.val).taken h)
      let s := if flitNak h then s.nakSeen n.val (flitAck h) else s
      if (s.port n.val).phase ≠ .up then .next s
      else
        let was := (s.port n.val).line.length
        let s := s.pumpPort n.val
        let x := s.port n.val
        .next (if x.line.length = was ∧ flitVc h ≠ 3 then s.setPort n.val (x.idle false) else s)

/-- RETRAIN: lane lock is lost or the retry condition of R245 is met. -/
def execRetrain (n : Fin 24) (s : State) : Result :=
  if (s.port n.val).phase ≠ .up then .next s else .next (s.toRetrain n.val)

/-- RETRAIN_COMPLETE: the identity is checked again (R246, R248). -/
def execRetrainComplete (n : Fin 24) (far : Identity) (s : State) : Result :=
  if (s.port n.val).phase ≠ .retrain then .next s else .next (s.trained n.val far)

/-- RETRAIN_TIMEOUT: 50 µs pass; one transient, and the port trains afresh. -/
def execRetrainTimeout (n : Fin 24) (s : State) : Result :=
  if (s.port n.val).phase ≠ .retrain then .next s else .next ((s.trainFail n.val).train n.val)

/-- LIGHT_DETECTED: light on every lane of the halves given. A DARK port with a link-plan entry trains; one that was HELD
when its light went is checked (Table 10-2). -/
def execLightDetected (n : Fin 24) (halves : BitVec 2) (s : State) : Result :=
  let x := s.port n.val
  if !s.opticsOn || x.phase = .retired || !s.pins.laserOk.getLsbD (n.val / 4) then .next s
  else
    let s := s.setPort n.val { x with light := halves }
    .next (s.relight n.val)

/-- A port sees no light: any state but RETIRED goes DARK (Table 10-2). -/
def State.lightGone (s : State) (n : Nat) : State :=
  let x := s.port n
  if x.phase = .retired then s
  else
    let held := x.phase == .held || (x.phase == .dark && x.wasHeld)
    let s := s.toPhase n .dark
    (s.setPort n { s.port n with light := 0, wasHeld := held }).settle

/-- LIGHT_LOST. -/
def execLightLost (n : Fin 24) (s : State) : Result := .next (s.lightGone n.val)

/-- TRAINING_COMPLETE: lanes locked and identities exchanged; the port is checked (R246 to R248). -/
def execTrainingComplete (n : Fin 24) (far : Identity) (s : State) : Result :=
  let x := s.port n.val
  if x.phase ≠ .training ∨ x.retryDue then .next s else .next (s.trained n.val far)

/-- TRAINING_TIMEOUT: 2 ms pass without success; one transient, and a retry falls due (R246). -/
def execTrainingTimeout (n : Fin 24) (s : State) : Result :=
  let x := s.port n.val
  if x.phase ≠ .training ∨ x.retryDue then .next s
  else
    let s := s.trainFail n.val
    .next (s.setPort n.val { s.port n.val with retryDue := true })

/-- TRAINING_RETRY: 100 ms after a failed training the port trains again. -/
def execTrainingRetry (n : Fin 24) (s : State) : Result :=
  let x := s.port n.val
  if x.phase ≠ .training ∨ !x.retryDue then .next s else .next (s.train n.val)

end Sys2Proof.Machine
end

