-- ==== Sys2Proof/Machine/StoreOps.lean ====
section
/-! DEFINITION. The two-bank store: which bank is current (R397), signed images (R407), owner requests (R408) and what a bank
write puts into the other bank (R387, R398, R406, R410). -/

namespace Sys2Proof.Machine

open Sys2Proof

/-! ## Banks -/

/-- Bank 0 or 1. -/
def Store.bank (t : Store) (i : Nat) : Bank := if i = 0 then t.bank0 else t.bank1
/-- Replaces a bank. -/
def Store.setBank (t : Store) (i : Nat) (b : Bank) : Store := if i = 0 then { t with bank0 := b } else { t with bank1 := b }

/-- Whether bank A is newer than bank B (R397). -/
def newer (a b : W64) : Bool := decide (1 ≤ (a - b).toNat ∧ (a - b).toNat ≤ 2 ^ 63 - 1)

/-- The current bank, if one is valid (R397). -/
def Store.current (t : Store) : Option Nat :=
  if t.bank0.valid && t.bank1.valid then (if newer t.bank1.seq t.bank0.seq then some 1 else some 0)
  else if t.bank0.valid then some 0
  else if t.bank1.valid then some 1
  else none

/-- The bank a write starts from and the package runs from: the current one, but the other where the current one's image has
failed and the other's has not (R402). -/
def Store.base (t : Store) : Option Nat :=
  t.current.map fun c => if !(t.bank c).hmOk && (t.bank (1 - c)).valid && (t.bank (1 - c)).hmOk then 1 - c else c

/-- The bank a write goes to: the other one. -/
def Store.target (t : Store) : Nat := 1 - t.base.getD 1

/-- Banks in the order a start tries them: valid ones, the current first (R402). -/
def Store.order (t : Store) : List Nat :=
  match t.current with
  | none => []
  | some c => c :: (if (t.bank (1 - c)).valid then [1 - c] else [])

/-! ## Images (R407) -/

/-- n bytes at an offset, bytes beyond the list reading 0. -/
def cut (bs : List Byte) (o n : Nat) : List Byte := (bs.drop o).take n

/-- Whether n bytes at an offset are all 0. -/
def zeros (bs : List Byte) (o n : Nat) : Bool := (cut bs o n).all (· == 0)

/-- BODY_LENGTH of an image. -/
def imageBody (img : List Byte) : Nat := numAt img 0x0C 4
/-- VERSION of an image. -/
def imageVersion (img : List Byte) : W32 := BitVec.ofNat 32 (numAt img 0x08 4)
/-- The signed part of an image. -/
def imageSigned (img : List Byte) : List Byte := cut img 0 0x7D0

/-- SHA3-256 of the signed part, by which a report names an image (Table 16-8). -/
def imageHash (img : List Byte) : BitVec 256 := Config.sha3 (imageSigned img)

/-- Whether an image of a type passes, with the owner keys enrolled (R407, Table 16-5). -/
def imageOk (owners : List (BitVec 256)) (type : Nat) (img : List Byte) : Bool :=
  let n := imageBody img
  let keys := owners.filter (· ≠ 0)
  let own := numAt img 7 1
  decide (img.length = 0x3000 + n) && cut img 0 4 == [0x4B, 0x4B, 0x37, 0x49] && decide (numAt img 4 2 = 1) &&
    decide (numAt img 6 1 = type) && decide (own ≤ 1) &&
    decide (n ≤ (if type = 1 then 16 else 8) * 0x100000 - 12288) &&
    (Config.sha3 (img.drop 0x3000)).toNat == numAt img 0x10 32 &&
    Config.sha3 (cut img 0x30 1952) == Config.vendorKeyHash &&
    Config.mldsaVerify (cut img 0x30 1952) (imageSigned img) (cut img 0x7D0 3309) &&
    zeros img 0x14BD 3 && zeros img 0x294D (0x3000 - 0x294D) &&
    (own == 1 || (zeros img 0x14C0 1952 && zeros img 0x1C60 3309)) &&
    (keys.isEmpty || (own == 1 && keys.contains (Config.sha3 (cut img 0x14C0 1952)) &&
      Config.mldsaVerify (cut img 0x14C0 1952) (imageSigned img) (cut img 0x1C60 3309)))

/-- RECORDS in force: those of the bank in force, else of a bank whose RECORDS match its header (R406). -/
def Store.records (t : Store) : Bank :=
  match t.base with
  | some i => t.bank i
  | none => if t.bank0.recordsOk then t.bank0 else if t.bank1.recordsOk then t.bank1 else {}
/-- The owner keys in force. -/
def Store.owners (t : Store) : List (BitVec 256) := t.records.ownerKeys
/-- OWNER_GEN in force. -/
def Store.ownerGen (t : Store) : W64 := t.records.ownerGen

/-- The staged image: as many bytes as its header names (R410). -/
def Store.staged (t : Store) : List Byte :=
  let at_ (i : Nat) : Byte := SMap.get 0 t.staging i
  let n := leNat ((List.range 4).map fun i => at_ (0x0C + i))
  (List.range (0x3000 + min n 0x1000000)).map at_

/-! ## Owner requests (R408) -/

/-- What an owner request comes to: an abort code, or the slot and its new hash. -/
def ownerRequest (t : Store) (r : List Byte) : Except W32 (Nat × BitVec 256) :=
  let keys := t.owners.filter (· ≠ 0)
  let op := numAt r 0x10 1
  let slot := numAt r 0x11 1
  let hash : BitVec 256 := leWord 256 (cut r 0x20 32)
  let fields := decide (numAt r 0 8 = Config.serial.toNat) && decide (numAt r 8 8 = t.ownerGen.toNat) &&
    (op == 1 || op == 2) && decide (slot ≤ 3) && zeros r 0x12 14 && (op == 1 || hash == 0)
  let signer := cut r 0x40 1952
  let signed := keys.contains (Config.sha3 signer) && Config.mldsaVerify signer (cut r 0 0x40) (cut r 0x7E0 3309)
  if !keys.isEmpty && !signed then .error 0x08000020
  else if !fields || (keys.isEmpty && !zeros r 0x40 (1952 + 3309)) then .error 0x06090030
  else .ok (slot, hash)

/-! ## Bank writes -/

/-- Entries that RECORDS holds and a commit writes at once (R387). -/
def recordEntries : List (Nat × Nat) := [(0x2100, 8), (0x2401, 1), (0x2402, 1), (0x2904, 1)]

/-- Index and subindex of a dictionary byte key. -/
def keyEntry (k : Nat) : Nat × Nat := (k / 2 ^ 33, k / 2 ^ 25 % 256)

/-- Whether an entry is saved by 0x1010 under a subindex: 1 all, 2 the communication profile, 3 the device entries (R387). -/
def saves (sub : Nat) (e : Nat × Nat) : Bool :=
  !recordEntries.contains e && ((odRow? e.1 e.2).any (·.persist)) &&
    (sub == 1 || (sub == 2 && decide (e.1 < 0x2000)) || (sub == 3 && decide (0x2000 ≤ e.1)))

/-- Bits of the groups a save or restore under a subindex names. -/
def groupBits (sub : Nat) : Nat := if sub = 1 then 3 else if sub = 2 then 1 else 2

/-- Replaces the bytes of some entries of one byte map by those of another. -/
def takeEntries (f : Nat × Nat → Bool) (src dst : SMap Byte) : SMap Byte :=
  (src.filter fun e => f (keyEntry e.1)).foldl (fun (m : SMap Byte) (e : Nat × Byte) => SMap.put e.1 e.2 m)
    (SMap.keep (fun k _ => !f (keyEntry k)) dst)

/-- The retirement lists and switch-in records as they stand (R257, R327). -/
def State.retiredLists (s : State) : Retired :=
  { cores := s.faults.retiredCores, optics := s.faults.retiredOptics, positions := s.faults.retiredPositions
    channels := s.faults.retiredH, subchannels := s.faults.retiredD, switchIns := s.fab.switched }

/-- The bank the ROM builds on ACTIVATE under recovery (R406): the image, no microcode, no objects, RECORDS at their defaults
but for the retirement lists, owner keys and endorsement of a bank that still has them. -/
def Store.romBank (t : Store) (img : List Byte) : Bank :=
  let kept := t.records
  { hm := img, lists := kept.lists, ownerKeys := kept.ownerKeys, ownerGen := kept.ownerGen
    puf := t.bank0.puf || t.bank1.puf, seq := kept.seq }

/-- What a job makes of the contents of the current bank. -/
def State.applyJob (s : State) (b : Bank) : StoreJob → Bank
  | .records => { b with lists := s.retiredLists, objects := takeEntries (recordEntries.contains ·) s.od b.objects }
  | .save sub =>
    { b with objects := takeEntries (saves sub) s.od b.objects, savedGroups := b.savedGroups ||| groupBits sub
             savedNode := s.house.nodeId }
  | .restore sub =>
    { b with
        objects := SMap.keep (fun k _ => !(saves sub (keyEntry k) ||
          (recordEntries.contains (keyEntry k) && sub != 2 && decide ((keyEntry k).1 ≠ 0x2904)))) b.objects
        savedGroups := b.savedGroups &&& (3 - groupBits sub) }
  | .image =>
    if s.store.romRecovery then s.store.romBank s.store.staged
    else if s.store.stagingType = 1 then
      { b with hm := s.store.staged, hmOk := true, failedStarts := if s.house.deviceState = 2 then 0 else b.failedStarts }
    else { b with fly := s.store.staged }
  | .owner slot hash => { b with ownerKeys := b.ownerKeys.set slot hash, ownerGen := b.ownerGen + 1 }
  | .countUp => { b with failedStarts := b.failedStarts + 1 }
  | .countZero _ => { b with failedStarts := 0 }
  | .ghost => { b with ghostRequest := true }
  | .ghostClear => { b with ghostRequest := false }

/-- Queues a change to the store. -/
def State.storeJob (s : State) (j : StoreJob) : State :=
  if j = .records ∧ s.store.jobs.contains .records then s else { s with store := { s.store with jobs := s.store.jobs ++ [j] } }

/-! ## Store commands (R409, Table 16-6) -/

/-- The state a save or an owner request returns to: RECEIVING while an image is being staged, else IDLE. -/
def Store.rest (t : Store) : Nat := if t.stagingType = 0 then 0 else 1

/-- STORE_CMD: the abort code of a refusal, or the state after it. -/
def State.storeCmd (s : State) (w : Nat) : Except W32 State :=
  let op := w / 2 ^ 24
  let arg := w % 2 ^ 24
  let t := s.store
  let busy : Except W32 State := .error 0x08000022
  let bad : Except W32 State := .error 0x06090030
  if op = 1 then
    if t.state ≠ 0 then busy
    else if arg = 1 ∨ (arg = 2 ∧ !t.romRecovery) then
      .ok { s with store := { t with state := 1, stagingType := arg, staging := [] } }
    else bad
  else if op = 2 then
    if t.state ≠ 1 then busy
    else if arg ≠ 0 then bad
    else if imageOk t.owners t.stagingType t.staged then .ok ({ s with store := { t with state := 2 } }.storeJob .image)
    else .ok { s with store := { t with state := 0, result := 0x08000020, stagingType := 0 } }
  else if op = 3 then
    if t.state ≠ 1 then busy
    else if arg ≠ 0 then bad
    else .ok { s with store := { t with state := 0, stagingType := 0, staging := [] } }
  else if op = 4 then
    if s.house.deviceState ≠ 2 ∨ !([1, 5, 6].contains s.house.ghostReason) then busy
    else if arg ≠ 0 then bad
    else .ok (s.storeJob (.countZero true))
  else if op = 5 then
    if t.state ≠ 0 then busy
    else if arg ≠ 0 then bad
    else .ok (s.storeJob .ghost)
  else bad

/-- A save or restore (R387): 0x1010 and 0x1011 under a subindex. -/
def State.storeSave (s : State) (sub : Nat) (restore : Bool) : Except W32 State :=
  if s.store.state ≠ 0 ∧ s.store.state ≠ 1 then .error 0x08000022
  else .ok ({ s with store := { s.store with state := 3 } }.storeJob (if restore then .restore sub else .save sub))

/-- OWNER_REQUEST (R408). -/
def State.storeOwner (s : State) (r : List Byte) : Except W32 State :=
  if s.store.state ≠ 0 ∧ s.store.state ≠ 1 then .error 0x08000022
  else
    match ownerRequest s.store r with
    | .error e => .error e
    | .ok (slot, hash) => .ok ({ s with store := { s.store with state := 4 } }.storeJob (.owner slot hash))

/-- Loads the persisted entries of a bank for a node identifier (R387). -/
def Bank.load (b : Bank) (node : Nat) : SMap Byte :=
  if b.savedGroups % 2 = 0 ∨ b.savedNode.toNat = node then b.objects
  else
    [(0x1014, 0), (0x1800, 1), (0x1801, 1)].foldl (fun (m : SMap Byte) (e : Nat × Nat) =>
      (List.range 4).foldl (fun (m : SMap Byte) (o : Nat) =>
        let k := odKey e.1 e.2 o
        SMap.set (odDefault node e.1 e.2 o) m k (SMap.get (odDefault b.savedNode.toNat e.1 e.2 o) b.objects k)) m) b.objects

end Sys2Proof.Machine
end

