-- ==== Sys2Proof/Machine/Tiers.lean ====
section
/-! DEFINITION. Fly operations on memory, objects and keys (R222, R224 to R227, R229). -/

namespace Sys2Proof.Machine

open Sys2Proof

/-! ## Allocations -/

/-- First byte of a tier's reserved top (R219), after withdrawals. -/
def State.reservedTop (s : State) (tierD : Bool) : Nat :=
  if tierD then baseD + (s.regionsD - s.faults.withdrawnD.length - s.cfgNum 0x2300 6 0 2) * s.regionD
  else (384 - s.faults.withdrawnH.length - s.cfgNum 0x2300 5 0 2) * regionH

/-- ALLOC (R222). -/
def State.allocOp (s : State) (k p : Nat) (w : W512) : State :=
  let a := (wordA w).toNat
  let n := (wordB w).toNat
  let d := decide (baseD ≤ a)
  let bad := decide (a % 0x200000 ≠ 0) || decide (n % 0x200000 ≠ 0) || decide (n = 0) || !inTiers a || !s.populated a n ||
    decide (a < regionH) || decide (s.reservedTop d < a + n) || s.allocs.any fun e => overlap e.1 e.2.size a n
  let excess := if d then decide (s.quotaD p < s.usedD p + n) else decide (s.quotaH p < s.usedH p + n)
  if bad then s.flyDone k p stDenied
  else if excess then s.flyDone k p stQuota
  else ({ s with allocs := SMap.put a { size := n, part := p } s.allocs }).flyDone k p stOk

/-- ALLOC. -/
def execAlloc (q : QRef) (e : W512) (s : State) : Result :=
  s.withEntry q e (· == 0x20) (State.flyOp [(383, 256)] State.allocOp)

/-- Whether something that stops a FREE lies in a range: an object, a page pool, a loaded sheet, a running cast's code. -/
def State.rangeUsed (s : State) (a n : Nat) : Bool :=
  let hits (r : Nat × Nat) : Bool := overlap r.1 r.2 a n
  (s.objects.any fun o => (objectExts o.2.desc).any hits) ||
  (s.parts.any fun x => (x.2.pools.any fun y => hits (y.2.base, y.2.size)) || x.2.sheets.any fun sh => (sheetExts sh.2).any hits) ||
  s.tasks.any fun t => t.2.live && hits (dCodeExt t.2.desc)

/-- FREE. -/
def State.freeOp (s : State) (k p : Nat) (w : W512) : State :=
  let a := (wordA w).toNat
  match SMap.find? a s.allocs with
  | none => s.flyDone k p stDenied
  | some x =>
    if x.part ≠ p ∨ s.rangeUsed a x.size then s.flyDone k p stDenied
    else ({ s with allocs := SMap.del a s.allocs }).flyDone k p stOk

/-- FREE. -/
def execFree (q : QRef) (e : W512) (s : State) : Result :=
  s.withEntry q e (· == 0x21) (State.flyOp [(447, 256)] State.freeOp)

/-! ## Objects -/

/-- Whether a descriptor passes R224's checks. -/
def State.objectOk (s : State) (p : Nat) (o : W512) : Bool :=
  let base := objBase o false
  let ext := objBase o true
  let nb := ceilDiv (objSize o false) chunkSize
  let ne := ceilDiv (objSize o true) chunkSize
  let tags : W64 := BitVec.ofNat 64 (fld o 319 256)
  objSize o false != 0 && ((objSize o true == 0) == (ext == 0)) &&
    (objSealed o || (objKey o == 0 && tags == 0)) && objId o != 0 && (SMap.find? (objId o) s.objects).isNone &&
    zeroFld o 145 0 && base.toNat % 4096 == 0 && s.partOk p (objTier o false) base (objSize o false) &&
    (ext == 0 || s.partOk p (objTier o true) ext (objSize o true)) &&
    (!objSealed o || (zeroFld tags 63 52 && s.inGrant p tags.toNat (16 * (nb + ne)) &&
      (SMap.find? (objKey o) s.keys).any fun x => x.part == p))

/-- Objects a partition has registered. -/
def State.objectsOf (s : State) (p : Nat) : Nat := s.objects.countP fun o => o.2.part == p

/-- OBJ_REGISTER (R224). -/
def State.objRegisterOp (s : State) (k p : Nat) (w : W512) : State :=
  let a := wordA w
  if !zeroFld a 63 52 || !s.inAllocs p a.toNat 64 then s.flyDone k p stDenied
  else if s.poisoned a.toNat 64 then (s.memError (a.toNat / 64 * 64) 0 stPoison p).flyDone k p stPoison
  else
    let o := s.word512 a.toNat
    if !s.objectOk p o then s.flyDone k p stDenied
    else if fld (s.quotaRec p) 191 160 ≤ s.objectsOf p then s.flyDone k p stQuota
    else ({ s with objects := SMap.put (objId o) { desc := o, part := p } s.objects }).flyDone k p stOk

/-- OBJ_REGISTER. -/
def execObjRegister (q : QRef) (e : W512) (s : State) : Result :=
  s.withEntry q e (· == 0x22) (State.flyOp [(447, 256)] State.objRegisterOp)

/-- OBJ_RETIRE. -/
def State.objRetireOp (s : State) (k p : Nat) (w : W512) : State :=
  let id := (wordA w).toNat
  match SMap.find? id s.objects with
  | none => s.flyDone k p stDenied
  | some o =>
    if o.part ≠ p ∨ s.objNamed id then s.flyDone k p stDenied
    else ({ s with objects := SMap.del id s.objects }).flyDone k p stOk

/-- OBJ_RETIRE. -/
def execObjRetire (q : QRef) (e : W512) (s : State) : Result :=
  s.withEntry q e (· == 0x23) (State.flyOp [(447, 256)] State.objRetireOp)

/-! ## FILL -/

/-- SRC of a FILL. -/
def fillSrc (w : W512) : Nat := fld w 382 381

/-- Whether the part a FILL names cannot take its bytes: no such part of the partition's own, a range outside it, cut chunks, a sheet
of a running step that names it (R52), or a range that no request may write (R31, R52 and the rules that refuse as it does). -/
def State.fillBarred (s : State) (p : Nat) (w : W512) : Bool :=
  let id := (wordA w).toNat
  let ext := bit w 383
  let off := fld w 359 320
  let n := fld w 319 256
  match SMap.find? id s.objects with
  | none => true
  | some o =>
    let d := o.desc
    let size := objSize d ext
    let dst := (objBase d ext).toNat + off
    o.part != p || objTier d ext == 2 || decide (size < off + n) || s.objHeld id ||
      (objSealed d && (decide (off % chunkSize ≠ 0) || (decide (n % chunkSize ≠ 0) && decide (off + n ≠ size)))) ||
      (n != 0 && (!s.populated dst n || s.guarded dst n))

/-- What a FILL's source adds to its status: DENIED where it is refused, TARGET_LOST where it is lost or its storage port is not UP
(R229, R269). -/
def State.fillSource (s : State) (p : Nat) (w : W512) : Byte :=
  let b := wordB w
  let n := fld w 319 256
  match fillSrc w with
  | 0 => if zeroFld b 63 52 && (n == 0 || s.inGrant p b.toNat n) then stOk else stDenied
  | 1 =>
    match s.resolve p b with
    | .here l => if n = 0 ∨ s.permits p l n = true then stOk else stDenied
    | .far c => if routeState (s.route c) = 1 then stLost else stOk
    | .refused => stDenied
  | x =>
    let size := fld (s.fctx p) 447 384
    worst (if size < b.toNat + n ∨ size = 0 then stDenied else stOk) (if (s.port (18 + x)).phase ≠ .up then stLost else stOk)

/-- The status a FILL's operands give (R9), OK when it may run. -/
def State.fillCheck (s : State) (p : Nat) (w : W512) : Byte :=
  worst (s.fillSource p w) (if s.fillBarred p w then stDenied else stOk)

/-- Whether a FILL names a global source whose coordinate is refused, which counts (R28). -/
def State.fillRefused (s : State) (p : Nat) (w : W512) : Bool := fillSrc w == 1 && decide (s.resolve p (wordB w) = .refused)

/-- First global address of a source that is read by LOADs: another package's memory, or the far end of a storage port, from STORE_BASE
on (R50, R269); none for a source here. -/
def State.fillFar (s : State) (p : Nat) (w : W512) : Option W64 :=
  match fillSrc w with
  | 0 => none
  | 1 => (match s.resolve p (wordB w) with | .far _ => some (wordB w) | _ => none)
  | _ => some (storageAlias ++ BitVec.ofNat 52 (fld (s.fctx p) 511 448 + (wordB w).toNat))

/-- FILL: starts; its effect is complete at FILL_COMPLETE (R229). -/
def State.fillOp (s : State) (k p : Nat) (w : W512) : State :=
  let st := s.fillCheck p w
  let s := if s.fillRefused p w then s.refuseCount else s
  if failing st then s.flyDone k p st
  else
    match SMap.find? k s.entries with
    | some e =>
      let s := { s with fills := SMap.put k e s.fills }
      (match s.fillFar p w with
       | some a => s.startJob (.fill k) p a (fld w 319 256)
       | none => s)
    | none => s

/-- FILL. -/
def execFill (q : QRef) (e : W512) (s : State) : Result :=
  s.withEntry q e (· == 0x24) (State.flyOp [(380, 360)] State.fillOp)

/-- Local address of a FILL's source, where it lies on this package. -/
def State.fillHere (s : State) (p : Nat) (w : W512) : Option Nat :=
  match fillSrc w with
  | 0 => some (wordB w).toNat
  | 1 => (match s.resolve p (wordB w) with | .here l => some l | _ => none)
  | _ => none

/-- Counts the bytes a FILL reads from a tier (Table 09-11): none for a tile store and for the storage ports. -/
def State.countFill (s : State) (p : Nat) (w : W512) (n : Nat) : State :=
  match s.fillHere p w with
  | some a =>
    (match windowOf a with
     | .tierH => s.countTier p 0 n
     | .tierD => s.countTier p 1 n
     | .pinned _ => s.countTier p 3 n
     | _ => s)
  | none => if fillSrc w = 1 then s.countTier p 2 n else s

/-- What lines of 64 bytes of a range [a, a + n), by their numbers, cover of it, as (first byte, length) from its start. -/
def linesWithin (a n : Nat) (ls : List Nat) : List (Nat × Nat) :=
  ls.map fun l => (max (l * 64) a - a, min (l * 64 + 64) (a + n) - max (l * 64) a)

/-- Writes a FILL's bytes: destination lines that received uncorrectable bytes are poisoned, every other byte is written
(R220, R229). `bad` gives the ranges of such bytes from the start. -/
def State.fillWrite (s : State) (a : Nat) (bs : List Byte) (bad : List (Nat × Nat)) : State :=
  let s := s.homeWrite a bs
  let lines := (List.range (bs.length / 64 + 2)).map (a / 64 + ·)
  (lines.filter fun l => bad.any fun r => overlap (a + r.1) r.2 (l * 64) 64).foldl (fun s l => s.addPoison l) s

/-- Verifies the sealed chunks a FILL on engine `u` completed; answers the status (R229). -/
def State.fillVerify (s : State) (p u : Nat) (o : W512) (ext : Bool) (off n : Nat) : State × Byte :=
  if !objSealed o || n == 0 then (s, stOk)
  else
    (List.range (ceilDiv n chunkSize)).foldl (fun (a : State × Byte) i =>
      let c := off / chunkSize + i
      let from_ := c * chunkSize
      let ct := a.1.bytes ((objBase o ext).toNat + from_) (min chunkSize (off + n - from_))
      match a.1.openChunk o ext c ct with
      | some _ => a
      | none => ((a.1.count .tagFails p).logFault
          { detail := BitVec.ofNat 64 (objId o), unit := u, unitType := 8, cls := 5, cause := 0x07, status := stPoison, part := p
            detail2 := BitVec.ofNat 64 (if ext then c + 2 ^ 31 else c) }, stPoison)) (s, stOk)

/-- FILL_COMPLETE: the bytes of a running FILL are written and its chunks verified. `b` is what arrives from a source outside
this package's memory. -/
def execFillComplete (k : Nat) (b : Arrival) (s : State) : Result :=
  match SMap.find? k s.fills with
  | none => .next s
  | some e =>
    if !s.working then .next s
    else
      let w := e.word
      let p := e.part
      let ext := bit w 383
      let n := fld w 319 256
      match SMap.find? (wordA w).toNat s.objects with
      | none => .next (({ s with fills := SMap.del k s.fills }).flyDone k p stDenied)
      | some o =>
        let done (s : State) : State := { s.dropJobs (· == .fill k) with fills := SMap.del k s.fills }
        let dst := (objBase o.desc ext).toNat + fld w 359 320
        let held (a : Nat) : Bool := s.homeHeld none a n
        if held dst then .next (s.countHold none dst n)
        else if n ≠ 0 ∧ (s.populated dst n = false ∨ s.guarded dst n = true) then .next ((done s).flyDone k p stDenied)
        else
        let src : State × Option (List Byte × List (Nat × Nat) × Byte) :=
          match s.fillHere p w with
          | some a =>
            if held a then (s.countHold none a n, none)
            else if n ≠ 0 ∧ s.populated a n = false then (s, some ([], [], stDenied))
            else
            let bad := (s.poison.filter fun l => overlap (l.1 * 64) 64 a n).map Prod.fst
            let (s', began) := bad.foldl (fun (x : State × Bool) l =>
              if x.2 then x else x.1.readError p (l * 64)) (s, false)
            if began then (s', none)
            else (s', some (s.bytes a n, linesWithin a n bad, stOk))
          | none =>
            match s.farRead (.fill k) n { b with bad := [] } with
            | (s, none) => (s, none)
            | (s, some (bs, st)) =>
              (s, some (bs, (linesWithin 0 n (b.bad.filter fun l => decide (l * 64 < n))), st))
        match src with
        | (s, none) => .next s
        | (s, some (bs, bad, st)) =>
          if failing st then .next ((done s).flyDone k p st)
          else
            let s := (s.countFill p w n).fillWrite dst bs bad
            let (g, s) := s.draw
            let (s, v) := s.fillVerify p (g.toNat % 16) o.desc ext (fld w 359 320) n
            .next ((done s).flyDone k p (worst v (if bad.isEmpty then stOk else stPoison)))

/-! ## Keys -/

/-- Whether a registered object uses a key slot. -/
def State.keyUsed (s : State) (slot : Nat) : Bool := s.objects.any fun o => objSealed o.2.desc && objKey o.2.desc == slot

/-- Unwraps a key record (R227): the key, or none where the tag fails. -/
def unwrapKey (bs : List Byte) : Option (List Byte) :=
  let hdr := bs.take 64
  let k := Config.mlkemDecap ((bs.drop 0x40).take 1088)
  let kek := bytesLE 32 (Config.sha3 (k ++ (hdr.drop 56).take 8)).toNat
  Config.gcmOpen kek (List.replicate 12 0) hdr ((bs.drop 0x480).take 32) ((bs.drop 0x4A0).take 16)

/-- KEY_LOAD (R227). A tag that fails is found, and counted, whether or not the partition holds all its slots (R9). -/
def State.keyLoadOp (s : State) (k p : Nat) (w : W512) : State :=
  let slot := (wordA w).toNat
  let a := wordB w
  let other := (SMap.find? slot s.keys).any fun x => x.part != p
  let full := decide (fld (s.quotaRec p) 159 144 ≤ s.keys.countP (fun x => x.2.part == p))
  if 256 ≤ slot ∨ other = true ∨ s.keyUsed slot = true ∨ zeroFld a 63 52 = false ∨ s.inGrant p a.toNat 1200 = false then
    s.flyDone k p stDenied
  else
    match s.poisonAt a.toNat 1200 with
    | some l => (s.memError l 0 stPoison p).flyDone k p (if full then stQuota else stPoison)
    | none =>
    let bs := s.bytes a.toNat 1200
    match if (bs.take 56).all (· == 0) then unwrapKey bs else none with
    | none => (s.count .keyRejects p).flyDone k p stDenied
    | some key =>
      if full then s.flyDone k p stQuota else
      let x : KeySlot := { part := p, keyId := BitVec.ofNat 64 (numAt bs 56 8), key := key }
      ({ s with keys := SMap.put slot x s.keys }).flyDone k p stOk

/-- KEY_LOAD. -/
def execKeyLoad (q : QRef) (e : W512) (s : State) : Result :=
  s.withEntry q e (· == 0x25) (State.flyOp [(383, 256)] State.keyLoadOp)

/-- KEY_DROP. -/
def State.keyDropOp (s : State) (k p : Nat) (w : W512) : State :=
  let slot := (wordA w).toNat
  if (SMap.find? slot s.keys).any (fun x => x.part == p) && !s.keyUsed slot then
    ({ s with keys := SMap.del slot s.keys }).flyDone k p stOk
  else s.flyDone k p stDenied

/-- KEY_DROP. -/
def execKeyDrop (q : QRef) (e : W512) (s : State) : Result :=
  s.withEntry q e (· == 0x26) (State.flyOp [(447, 256)] State.keyDropOp)

end Sys2Proof.Machine
end

