-- ==== Sys2Proof/Machine/OdRead.lean ====
section
/-! DEFINITION. What each entry of the object dictionary reads as: settings as committed, counters, states and records (the
entry tables of chapters 05 to 16). -/

namespace Sys2Proof.Machine

open Sys2Proof

/-! ## Bytes of values -/

/-- Byte of a number in little-endian order. -/
def byteOf (v off : Nat) : Byte := BitVec.ofNat 8 (v >>> (8 * off))

/-- Byte of a list of 64-bit counters. -/
def ctrsByte (l : List Nat) (off : Nat) : Byte := byteOf (l.getD (off / 8) 0) (off % 8)

/-- Byte of a table of records of n bytes each. -/
def recsByte (n : Nat) (rec : Nat → Nat) (off : Nat) : Byte := byteOf (rec (off / n)) (off % n)

/-- Byte of a bitmap whose set bits are listed. -/
def bitsByte (l : List Nat) (off : Nat) : Byte :=
  BitVec.ofNat 8 (((List.range 8).filter fun i => l.contains (8 * off + i)).foldl (fun n i => n + 2 ^ i) 0)

/-- A field of a record being put together: a value at a bit position. -/
def at_ (v lo : Nat) : Nat := v * 2 ^ lo

/-- A counter's value as a number. -/
def State.ctrN (s : State) (c : CtrName) (unit : Nat := 0) : Nat := (s.ctr c unit).toNat

/-- A value in two's complement of 16 bits. -/
def int16 (z : Int) : Nat := (BitVec.ofInt 16 z).toNat

/-! ## Records -/

/-- A layer-state record (Table 05-10). -/
def NwLayer.word (x : NwLayer) : Nat :=
  at_ x.lastStep.toNat 192 + at_ x.lastReason 184 + at_ x.out.consec 176 + at_ x.grad.count 160 + at_ x.out.count 144 +
    at_ x.grad.consec 136 + at_ x.grad.lastN.toNat 96 + at_ x.out.lastN.toNat 64 + at_ x.grad.mean.toNat 32 + x.out.mean.toNat

/-- A layer's sticky counters (Table 05-4). -/
def Sticky.word (x : Sticky) : Nat :=
  x.zero.toNat + at_ x.nan.toNat 32 + at_ x.clipped.toNat 64 + at_ x.satElems.toNat 96 + at_ x.satBlocks.toNat 128 +
    at_ x.lastStep.toNat 192

/-- A layer-digest record (Table 12-3). -/
def Digest.word (d : Digest) : Nat :=
  at_ d.digest.toNat 192 + at_ d.step.toNat 128 + at_ d.tiles.toNat 96 + at_ d.failed.toNat 64 + at_ d.outside.toNat 32 +
    b2n d.incomplete 1 + b2n d.scripted 0

/-- A step-history entry (Table 12-4). -/
def StepDigest.word (d : StepDigest) : Nat :=
  at_ d.digest.toNat 192 + at_ d.step.toNat 128 + at_ d.layers 96 + at_ (d.encores % 2 ^ 16) 80 + b2n d.incomplete 1 +
    b2n d.scripted 0

/-- A fault record (Table 13-6) with its TIME. -/
def FaultRec.word (t : Nat) (r : FaultRec) : Nat :=
  at_ (t % 2 ^ 64) 192 + at_ r.detail.toNat 128 + at_ (r.unit % 2 ^ 16) 112 + at_ (r.unitType % 256) 104 + at_ (r.cls % 256) 96 +
    at_ (r.cause % 256) 88 + at_ r.status.toNat 80 + at_ (r.part % 256) 72 + at_ (min r.count 255) 64 + r.detail2.toNat

/-- STATE of a prompt-book entry. -/
def bookState (t : Task) : Nat := if t.rerun then 3 else if t.phase = .complete then 2 else 1

/-- A prompt-book entry (Table 13-3). -/
def State.bookWord (s : State) (k : Nat) (t : Task) : Nat :=
  let e := SMap.find? k s.entries
  at_ (t.descAddr.getD 0) 448 + at_ (t.dseq % 2 ^ 64) 384 + at_ (t.logFirst % 2 ^ 32) 352 + at_ ((t.log.length + t.segs) % 2 ^ 16) 336 +
    at_ (((e.map (·.queue)).getD 0) % 2 ^ 16) 320 + at_ (((e.map (·.submit)).getD 0) % 2 ^ 32) 288 +
    at_ (if dIsCast t.desc then t.core % 256 else 0) 280 + at_ (t.replays % 256) 272 + at_ t.status.toNat 264 +
    at_ (bookState t) 261 + at_ (if dIsCast t.desc then 0 else if dType t.desc = 0x63 then 1 else 2) 259

/-- The prompt-book entry at a place of a ring: of a core, or of a die's stage manager. -/
def State.bookAt (s : State) (core : Option Nat) (die idx : Nat) : Nat :=
  match List.find? (fun (e : Nat × Task) => e.2.dispatched && decide (e.2.bookIdx = idx) &&
      (match core with | some c => dIsCast e.2.desc && e.2.core == c | none => !dIsCast e.2.desc && e.2.home == die)) s.tasks with
  | some e => s.bookWord e.1 e.2
  | none => 0

/-- A customer record (Table 11-8): RATE and DEPTH as written, the rest as it stands. -/
def State.customerWord (s : State) (c : Nat) : Nat :=
  let x := s.customer c
  at_ (s.cfgNum 0x4000 1 (32 * c + 24) 8) 192 + at_ (BitVec.ofInt 64 x.level).toNat 128 + at_ x.charged.toNat 64 +
    at_ x.refused.toNat 32

/-- A request record (Table 11-6). -/
def State.requestByte (s : State) (off : Nat) : Byte :=
  match SMap.find? (off / 32) s.requests with
  | some r => (r.record s.clk.ticks r.status r.state).getD (off % 32) 0
  | none => 0

/-- Hottest value of a list of sensors; 0 where nothing has been read. -/
def hottest (l : List Int) : Int := l.max?.getD 0

/-- Hottest sensor of die d (C0 to C3, Z0, Z1), 1/16 °C. -/
def State.dieTemp (s : State) (d : Nat) : Int :=
  4 * hottest (if d < 4 then (s.therm.die.drop (16 * d)).take 16 else (s.therm.die.drop (64 + 4 * (d - 4))).take 4)

/-- G as FP32. -/
def State.gainF32 (s : State) : Nat := (fpRoundRat .fp32 false s.dim.gainNum s.dim.gainDen 0).1

/-- POWER (Table 14-7). -/
def State.powerWord (s : State) : Nat :=
  let d := s.dim
  (d.pFix + d.pDyn) % 2 ^ 32 + at_ (d.pFix % 2 ^ 32) 32 + at_ (d.pDyn % 2 ^ 32) 64 + at_ (d.measured % 2 ^ 32) 96 +
    at_ s.gainF32 128 + at_ d.flags.toNat 160

/-- A throttle reason: EVENTS, DURATION_US. -/
def State.reasonWord (s : State) (n : Nat) : Nat := (s.reason n).events.toNat + at_ ((s.reason n).ticks / 100 % 2 ^ 64) 64

/-- ACTIVE of 0x2A00. -/
def State.activeReasons (s : State) : Nat := ((List.range 8).map fun i => b2n (s.reason (i + 1)).binds i).foldl (· + ·) 0

/-- Populated tier-H bytes after withdrawals. -/
def State.hPopulated (s : State) : Nat := (384 - s.faults.withdrawnH.length) * regionH
/-- Populated tier-D bytes after withdrawals. -/
def State.dUsable (s : State) : Nat := (s.regionsD - s.faults.withdrawnD.length) * s.regionD
/-- Module capacity that R14 leaves unused, bytes. -/
def State.dStranded (s : State) : Nat :=
  ((s.house.modules.filter (0 < ·)).map fun m => (m - s.leastModule) * 2 ^ 30).foldl (· + ·) 0

/-- A lane word (Table 09-2). -/
def laneWord (x : Nat × Nat) : Nat := at_ x.2 10 + x.1

/-- Counters of Table 04-7 for an array. -/
def State.arrayCtrs (s : State) (a : Nat) : List Nat :=
  [CtrName.rowCycles, .planeCycles, .zeroPlanes, .alignZeroed, .nanBlocks, .fusedSlices, .combOvf, .poisonTiles, .lateTile,
    .headerWait, .gated, .leadWait, .ownerWait].map fun c => s.ctrN c a

/-- Counters of Table 06-6 for a core. -/
def State.sfCtrs (s : State) (k : Nat) : List Nat :=
  [CtrName.sfeEvals, .sfBelow, .sfAbove, .sfFlushed, .tableLoads, .tableLoadFails].map fun c => s.ctrN c k

/-- Counters of Table 07-8 for a partition. -/
def State.kvCtrs (s : State) (p : Nat) : List Nat :=
  [CtrName.kvAppends, .vtileRewrites, .pagesOpened, .pageCopies, .handlePublishes, .handleMaps, .handleMisses, .splitMerges,
    .emptyParts, .failedMerges, .specTrees, .specNodes, .specAccepted].map fun c => s.ctrN c p

/-- Counters of Table 08-7 for a partition. -/
def State.routeCtrs (s : State) (p : Nat) : List Nat :=
  [CtrName.calls, .offered, .chosen, .spilled, .unchosen, .sharedOnly, .nanScores, .emptySlots, .rounds, .biasClamps,
    .mapMismatch, .dupSegments, .castTimeouts].map fun c => s.ctrN c p

/-- Counters of Table 09-11 for a partition. -/
def State.flyCtrs (s : State) (p : Nat) : List Nat :=
  [CtrName.tilesPlaced, .bytesH, .bytesD, .bytesF, .bytesL, .lateTiles, .destWait, .cancelledTiles, .droppedHints, .checkFails,
    .mergeRefusals, .tagFails, .poisonedEntries, .encoreMerges, .replayRefetch, .quotaRefusals, .keyRejects,
    .cueRefused].map fun c => s.ctrN c p

/-- Counters of Table 11-12 for a partition. -/
def State.partCtrs (s : State) (p : Nat) : List Nat :=
  [s.ctrN .engineTime p, s.ctrN .vclock p, (s.part p).step.toNat] ++
    [CtrName.ttftMisses, .tbtMisses, .lateNoSwitch, .staleTasks, .intermissionSkips, .saveFull].map fun c => s.ctrN c p

/-- Wings that hold entries: bit p, and bit 128 for the package wing (0x2F00:03). -/
def wingOf (idx sub : Nat) : Nat :=
  if 0x3000 ≤ idx ∧ idx < 0x3080 then idx - 0x3000 else if odPerPartition idx then sub - 1 else 128

/-- Bits of WING_MAP. -/
def State.wingBits (s : State) : List Nat := s.wingEntries.map fun e => wingOf (e.1 / 256) (e.1 % 256)

/-- Header bytes 0x00 to 0xBF of a bank (Table 16-2). -/
def Bank.head (b : Bank) (off : Nat) : Byte :=
  if off < 8 then byteOf b.seq.toNat off
  else if off < 0x0C then byteOf 1 (off - 8)
  else if off < 0x10 then 0
  else if 0x70 ≤ off ∧ off < 0x90 then byteOf (Config.sha3 b.hm).toNat (off - 0x70)
  else if 0x90 ≤ off ∧ off < 0xB0 then byteOf (Config.sha3 b.fly).toNat (off - 0x90)
  else if 0xB8 ≤ off ∧ off < 0xBC then byteOf b.hm.length (off - 0xB8)
  else if 0xBC ≤ off ∧ off < 0xC0 then byteOf b.fly.length (off - 0xBC)
  else Config.headerByte b.seq off

/-- Byte of a bank header; an erased one reads all ones. -/
def Bank.header (b : Bank) (off : Nat) : Byte :=
  if !b.valid then 0xFF
  else if off < 0xC0 then b.head off
  else byteOf (Config.sha3 ((List.range 0xC0).map b.head)).toNat (off - 0xC0)

/-- BANKS (0x2F08:03). -/
def State.banksByte (s : State) (off : Nat) : Byte :=
  if off < 224 then s.store.bank0.header off
  else if off < 448 then s.store.bank1.header (off - 224)
  else if off = 448 then byteOf (b2n s.store.bank0.valid 0) 0
  else byteOf (b2n s.store.bank1.valid 0) 0

/-- OWNER_KEYS (0x2F0C:01). -/
def State.ownerByte (s : State) (off : Nat) : Byte :=
  if off < 128 then byteOf ((s.store.owners.getD (off / 32) 0).toNat) (off % 32)
  else byteOf s.store.ownerGen.toNat (off - 128)

/-- PORT_STATUS of a port: its fields, whose places Table 10-12 leaves open. -/
def State.portStatusByte (s : State) (n off : Nat) : Byte :=
  let x := s.port n
  Config.portStatus x.phase.ctorIdx x.lanes x.farSerial x.farPort x.ns x.retiredHalves.toNat off

/-- COORD, with bit 15 set where none is held. -/
def State.coordWord (s : State) : Nat := match s.fab.coord with | some c => c.toNat | none => 0x8000

/-- STRAPS. -/
def State.strapWord (s : State) : Nat :=
  s.house.nodeId.toNat + at_ s.house.trayPos.toNat 7 + b2n (s.house.nodeId == 0) 9

/-! ## The entries -/

/-- Byte of an entry of the profile, status, clock and thermal ranges; none where it reads as committed. -/
def State.odLow (s : State) (idx sub off : Nat) : Option Byte :=
  let num (v : Nat) : Option Byte := some (byteOf v off)
  match idx with
  | 0x1000 => num 0
  | 0x1001 => num s.errorReg.toNat
  | 0x1003 => num (if sub = 0 then s.can.history.length else (s.can.history.getD (sub - 1) 0).toNat)
  | 0x1008 => some (([0x4B, 0x4B, 0x37, 0x2D, 0x39, 0x36, 0x4C] : List Byte).getD off 0)
  | 0x1009 => some (Config.hwVersion off)
  | 0x100A => some (Config.swVersion s.store.hmVersion off)
  | 0x1010 => num 1
  | 0x1011 => num 1
  | 0x1018 => num (([0x0ECD0A1F, 0x4B37, 0x10000, Config.serial.toNat] : List Nat).getD (sub - 1) 0)
  | 0x2000 => num (([s.house.deviceState, s.house.ghostReason, s.store.records.failedStarts, s.house.haltCause, Config.serial.toNat,
      s.coordWord, s.physCoord.toNat, s.strapWord, s.clk.ticks, s.store.boot] : List Nat).getD (sub - 1) 0)
  | 0x2100 =>
    if sub = 3 then num s.dim.freqStep
    else if sub = 4 then num s.dim.permit
    else if sub = 5 then num s.dim.jobApplied
    else if sub = 6 then num s.powerWord
    else if sub = 0x0A then some (recsByte 4 (fun i => stepMhz i + at_ (stepMv i) 16) off)
    else if sub = 0x0B then some (recsByte 4 (fun i => s.dim.slewRecord.getD i 0) off)
    else none
  | 0x2200 =>
    if sub = 1 then some (recsByte 2 (fun d => int16 (s.dieTemp d)) off)
    else if sub = 2 then some (recsByte 2 (fun i => int16 (s.therm.hbm.getD i 0)) off)
    else if sub = 3 then num 105
    else if sub = 4 then num 115
    else if sub = 5 then num s.therm.coolantState
    else if sub = 8 then num (s.ctrN .coolantStops)
    else none
  | 0x2F00 =>
    if sub = 3 then some (bitsByte s.wingBits off)
    else if sub = 4 then num s.house.curtainFault.toNat
    else if sub = 5 then num (s.ctrN .commitGen)
    else if sub = 6 then some (ctrsByte ([CtrName.mbxIgnored, .scopeRefusals, .aborts, .curtainRefusals].map (s.ctrN ·)) off)
    else none
  | 0x2F08 => if sub = 1 then num s.store.state else if sub = 2 then num s.store.result.toNat else some (s.banksByte off)
  | 0x2F0C => if sub = 1 then some (s.ownerByte off) else none
  | 0x2F0D => if sub = 2 then some (s.store.report.getD off 0) else if sub = 3 then num s.store.attest else none
  | 0x2F0E => some (if sub = 1 then Config.identityPk off else if sub = 2 then Config.kemEk off else Config.endorsement off)
  | 0x2F20 =>
    if sub = 4 then some (ctrsByte ([CtrName.busOffs, .errorFrames, .usdoAborts, .usdoTimeouts].map (s.ctrN ·)) off) else none
  | 0x2F30 =>
    num (if sub = 1 then (s.dim.pFix + s.dim.pDyn) / 1000 % 2 ^ 16 else if sub = 2 then s.dim.measured / 1000 % 2 ^ 16
      else if sub = 3 then int16 (4 * hottest s.therm.die) else int16 (hottest s.therm.hbm))
  | _ => none

/-- Byte of an entry of the tier, fabric and fault ranges; none where it reads as committed. -/
def State.odMid (s : State) (idx sub off : Nat) : Option Byte :=
  let num (v : Nat) : Option Byte := some (byteOf v off)
  match idx with
  | 0x2300 =>
    if sub = 1 then num s.hPopulated
    else if sub = 2 then num s.dUsable
    else if sub = 3 then num s.dStranded
    else if sub = 4 then num (s.presentSubs.foldl (fun n i => n + 2 ^ i) 0)
    else none
  | 0x2301 =>
    if sub = 1 then some (recsByte 4 (fun i => laneWord (s.laneH (i / 512) (i % 512))) off)
    else if s.lanesD = 0 then some 0
    else some (recsByte 4 (fun i => laneWord (s.laneD (i / s.lanesD) (i % s.lanesD))) off)
  | 0x2302 => some (bitsByte (if sub = 1 then s.faults.retiredH else s.faults.retiredD) off)
  | 0x2311 => some (ctrsByte [s.usedH (sub - 1), s.usedD (sub - 1), s.objectsOf (sub - 1),
      s.keys.countP fun e => e.2.part == sub - 1] off)
  | 0x2312 => some (ctrsByte (s.flyCtrs (sub - 1)) off)
  | 0x2400 => some (s.portStatusByte (sub - 1) off)
  | 0x2404 => some (recsByte 8 (fun c => (s.route (BitVec.ofNat 12 c)).toNat) off)
  | 0x2405 => some (ctrsByte ([CtrName.cwCorrected, .cwUncorrected, .flitRetries, .retrains, .creditWait].map
      fun c => s.ctrN c (sub - 1)) off)
  | 0x2406 => some (ctrsByte ([CtrName.fctxRefusals, .dupRequests, .dupAtomics, .e2eResends, .atomicWaits, .switchIns,
      .collectives, .collTimeouts, .mergePartials].map (s.ctrN ·)) off)
  | 0x2900 => num (([CtrName.corrected, .transients, .permanents, .partitionFatal, .replays, .replayedTasks, .replayHolds,
      .bookFullWaits, .logFullWaits, .emcyDropped].map (s.ctrN ·)).getD (sub - 1) 0)
  | 0x2901 => some (recsByte 32 (fun i => ((SMap.find? i s.faults.log).map fun r => FaultRec.word r.1 r.2).getD 0) off)
  | 0x2902 => num s.faults.next
  | 0x2903 => some (bitsByte (if sub = 1 then s.faults.retiredCores else if sub = 2 then s.faults.retiredOptics
      else s.faults.retiredPositions) off)
  | 0x2905 =>
    if sub ≤ 4 then some (recsByte 64 (fun i => s.bookAt (some (64 * (sub - 1) + i / 1024)) 0 (i % 1024)) off)
    else some (recsByte 64 (fun i => s.bookAt none (sub - 5) i) off)
  | 0x2906 => if sub = 3 then some (recsByte 4 (fun i => (SMap.get (0, 0) s.store.ucode i).1.toNat) off) else none
  | 0x2A00 =>
    if sub ≤ 8 then num (s.reasonWord sub) else if sub = 9 then num s.activeReasons else num (s.ctrN .cuesIgnored)
  | _ => none

/-- Byte of an entry of the scheduler, precision and determinism ranges; none where it reads as committed. -/
def State.odWork (s : State) (idx sub off : Nat) : Option Byte :=
  let num (v : Nat) : Option Byte := some (byteOf v off)
  let x := s.part (sub - 1)
  match idx with
  | 0x2600 => num (([CtrName.dispatches, .preemptions, .standinSwitches, .deadlineMisses, .budgetRefusals,
      .partitionResets].map (s.ctrN ·)).getD (sub - 1) 0)
  | 0x2601 => some (s.requestByte off)
  | 0x2700 => num (([CtrName.nwFlags, .encores, .encoreUnresolved, .encoreNotRun, .nwRebases, .nwStops].map (s.ctrN ·)).getD
      (sub - 1) 0)
  | 0x2702 => some (recsByte 32 (fun l => (x.nwLayer l).word) off)
  | 0x2703 => some (recsByte 32 (fun l => (SMap.get {} x.sticky l).word) off)
  | 0x2708 => some (ctrsByte (s.arrayCtrs (2 * (sub - 1)) ++ s.arrayCtrs (2 * (sub - 1) + 1) ++
      [s.ctrN .rehearsalCycles (sub - 1)]) off)
  | 0x2709 => some (ctrsByte (s.arrayCtrs (2 * (sub + 127)) ++ s.arrayCtrs (2 * (sub + 127) + 1) ++
      [s.ctrN .rehearsalCycles (sub + 127)]) off)
  | 0x270A => some (ctrsByte (s.sfCtrs (sub - 1)) off)
  | 0x270B => some (ctrsByte (s.sfCtrs (sub + 127)) off)
  | 0x270C => some (ctrsByte (s.kvCtrs (sub - 1)) off)
  | 0x270D => some (ctrsByte (s.routeCtrs (sub - 1)) off)
  | 0x2800 => if sub = 2 then num (s.ctrN .scriptTraps) else if sub = 3 then num (s.ctrN .scriptHolds) else none
  | 0x2803 => some (recsByte 32 (fun l => (SMap.get {} x.digestPub l).word) off)
  | 0x2805 => some (if off < 8 then byteOf x.snapshotStep.toNat off
      else recsByte 32 (fun l => (SMap.get {} x.snapshot l).word) (off - 8))
  | 0x2806 => some (recsByte 32 (fun i => (x.history.getD i {}).word) off)
  | 0x4000 => some (recsByte 32 s.customerWord off)
  | _ =>
    if 0x3000 ≤ idx ∧ idx < 0x3080 then
      if sub = 2 then num (s.part (idx - 0x3000)).phase.ctorIdx
      else if sub = 3 then some (ctrsByte (s.partCtrs (idx - 0x3000)) off)
      else none
    else none

/-- Byte an entry reads as. -/
def State.odByte (s : State) (idx sub off : Nat) : Byte :=
  match s.odLow idx sub off with
  | some b => b
  | none =>
    match s.odMid idx sub off with
    | some b => b
    | none => (s.odWork idx sub off).getD (s.cfgByte idx sub off)

/-- Size of an entry, bytes: the tier-D interleave table grows with the modules, and REPORT is empty until a report is
signed. -/
def State.odSize (s : State) (r : OdRow) (sub : Nat) : Nat :=
  if r.index = 0x2301 ∧ sub = 2 then 4 * s.regionsD * s.lanesD
  else if r.index = 0x2F0D ∧ sub = 2 then s.store.report.length
  else r.size

/-- Whether subindex 0 of an index reads its highest subindex (R371). -/
def odHasHighest (idx : Nat) : Bool :=
  !odVariables.contains idx && idx != 0x1003 && !(decide (0x1A00 ≤ idx) && decide (idx ≤ 0x1A03))

end Sys2Proof.Machine
end

