-- ==== Sys2Proof/Machine/Wings.lean ====
section
/-! DEFINITION. The wings (R377) and their commit (R378, R379): the constraints a staged set has to meet and what each
committed entry changes at once. -/

namespace Sys2Proof.Machine

open Sys2Proof

/-! ## Wings (R377) -/

/-- Key of an entry in `wingEntries`. -/
def entryKey (idx sub : Nat) : Nat := idx * 256 + sub

/-- Whether a wing holds an entry. -/
def State.wingHolds (s : State) (idx sub : Nat) : Bool := (SMap.find? (entryKey idx sub) s.wingEntries).isSome

/-- Stores bytes of an entry in a byte map with the dictionary's defaults. -/
def putEntry (node idx sub : Nat) (m : SMap Byte) (off : Nat) : List Byte → SMap Byte
  | [] => m
  | b :: bs => putEntry node idx sub (SMap.set (odDefault node idx sub off) m (odKey idx sub off) b) (off + 1) bs

/-- A staged write: the first one to an entry starts the wing's copy from the committed value. -/
def State.wingWrite (s : State) (idx sub off : Nat) (d : List Byte) : State :=
  let w := if s.wingHolds idx sub then s.wings else takeEntries (· == (idx, sub)) s.od s.wings
  { s with wings := putEntry s.house.nodeId.toNat idx sub w off d
           wingEntries := SMap.put (entryKey idx sub) () s.wingEntries }

/-- A byte of an entry as READ_WINGS sees it. -/
def State.wingByte (s : State) (idx sub off : Nat) : Byte :=
  if s.wingHolds idx sub then SMap.get (odDefault s.house.nodeId.toNat idx sub off) s.wings (odKey idx sub off)
  else s.odByte idx sub off

/-- Number of an entry's wing: its partition's, or 0x100 for the package wing. -/
def wingNumber (idx sub : Nat) : Nat := if wingOf idx sub = 128 then 0x100 else wingOf idx sub

/-- Entries a CURTAIN or DISCARD of a value selects: one partition's wing, the package wing, or every wing. -/
def State.heldEntries (s : State) (v : Nat) : List (Nat × Nat) :=
  (s.wingEntries.map fun e => (e.1 / 256, e.1 % 256)).filter fun e => v == 0x1FF || wingNumber e.1 e.2 == v

/-- Empties the selected wings. -/
def State.emptyWings (s : State) (held : List (Nat × Nat)) : State :=
  { s with wings := SMap.keep (fun k _ => !held.contains (keyEntry k)) s.wings
           wingEntries := SMap.keep (fun k _ => !held.contains (k / 256, k % 256)) s.wingEntries }

/-! ## Constraints on one record -/

/-- Layer configuration record (Table 05-9). -/
def layerRecOk (c : BitVec 128) : Bool :=
  let ratio (v : Nat) : Bool := !f32IsNan (BitVec.ofNat 32 v) && !f32Lt (BitVec.ofNat 32 v) 0x3F800000
  ratio (fld c 127 96) && ratio (fld c 95 64) && fld c 55 52 != 0 && zeroFld c 51 48 && zeroFld c 39 14 && zeroFld c 7 6 &&
    decide (fld c 13 12 ≤ 1) && (fld c 13 12 != 1 || (fld c 47 40 != 0 && fld c 47 40 != 0xFF)) && fld c 11 10 != 3 &&
    fld c 9 8 != 3 && fld c 5 4 != 3

/-- Routing record (Table 08-2). -/
def routeRecOk (c : BitVec 256) : Bool :=
  let pos (v : Nat) : Bool := f32IsFin (BitVec.ofNat 32 v) && !bit (BitVec.ofNat 32 v) 31
  !f32IsNan (BitVec.ofNat 32 (fld c 255 224)) && pos (fld c 223 192) && pos (fld c 191 160) && zeroFld c 159 64 &&
    decide (fld c 37 34 ≤ 8) && fld c 33 32 != 3 && zeroFld c 30 0

/-- Link-plan entry (Table 10-3). -/
def linkRecOk (c : BitVec 128) : Bool := fld c 55 54 != 3 && zeroFld c 53 0

/-- Placement record (R279, Table 10-12). -/
def placementOk (v : Nat) : Bool :=
  let f (hi lo : Nat) : Nat := fld (BitVec.ofNat 32 v) hi lo
  f 15 14 != 3 && f 13 12 != 3 && decide (f 31 28 ≤ f 23 20) && decide (f 27 24 ≤ f 19 16) && f 7 0 == 0

/-- Lock record (R363, Table 14-5). -/
def State.lockOk (s : State) (v : Nat) : Bool :=
  let f (hi lo : Nat) : Nat := fld (BitVec.ofNat 64 v) hi lo
  f 16 0 == 0 && (f 63 48 == 0 || (decide (f 47 44 ≤ f 43 40) && decide (f 39 36 ≤ f 35 32) && decide (f 31 28 ≤ f 27 24) &&
    (match s.fab.coord with | some c => lockBox v c | none => false)))

/-- Fabric context (R264, Tables 10-8 and 10-9). -/
def State.fctxOk (s : State) (p : Nat) : Bool :=
  let h := s.fctx p
  let axis (lo hi ax : Nat) : Bool := decide (lo ≤ hi) && decide (hi < s.axisLen ax)
  let windows := fld h 342 336
  zeroFld h 335 0 && axis (fld h 367 364) (fld h 363 360) 0 && axis (fld h 359 356) (fld h 355 352) 1 &&
    axis (fld h 351 348) (fld h 347 344) 2 && (match s.fab.coord with | some c => s.inBlock p c | none => false) &&
    decide (windows ≤ 64) && (List.range 64).all fun w =>
      let e := s.fwin p w
      zeroFld e 127 3 && (decide (windows ≤ w) || (fld e 191 128 != 0 && fld e 191 128 % 64 == 0 && fld e 255 192 % 64 == 0))

/-- Whether a partition has a live cast or an entry that has not completed (R306). -/
def State.busyPart (s : State) (p : Nat) : Bool :=
  s.hasLive p || s.entries.any fun e => e.2.part == p && e.2.done.isNone

/-- Partition record (R306, Table 11-9), `s` being the state with the staged set and `old` the one before. -/
def State.partRecOk (s old : State) (p : Nat) : Bool :=
  let r := s.partRec p
  let save := fld r 191 160
  let roster := fld r 159 96
  (s.faults.retiredCores.all fun k => !s.ownsCore p k) &&
    (save == 0 || s.inAllocsH p (fld r 255 192) (save * 0x200000)) &&
    (roster == 0 || (roster % 64 == 0 && s.inAllocsH p roster 512)) &&
    !(bit (old.partRec p) 0 && !bit r 0 && old.busyPart p)

/-- A stand-in record (R300, Table 11-7). -/
def State.standinOk (s : State) (p n : Nat) : Bool :=
  let r : BitVec 128 := BitVec.ofNat 128 (s.cfgNum (0x3000 + p) 5 (16 * n) 16)
  let count := fld r 63 56
  zeroFld r 36 1 && (!bit r 0 || (decide (1 ≤ count ∧ count ≤ 64) && s.inAllocs p (fld r 127 64) (64 * count)))

/-- Fields of a preset record that are not used are 0 (R323). -/
def presetOk (c : BitVec 256) : Bool := zeroFld c 255 184 && zeroFld c 135 128 && zeroFld c 127 64

/-- A 1,024-record entry, record by record. -/
def State.recordsOk (s : State) (idx sub n w : Nat) (ok : BitVec w → Bool) : Bool :=
  (List.range 1024).all fun l => ok (BitVec.ofNat w (s.cfgNum idx sub (n * l) n))

/-- Whether one staged entry meets the constraints on it alone. -/
def State.entryMeets (s old : State) (idx sub : Nat) : Bool :=
  match idx with
  | 0x2100 =>
    if sub = 8 then decide (s.cfgNum 0x2100 8 0 1 % 16 ≤ 10) && decide (s.cfgNum 0x2100 8 0 1 < 16) else s.lockOk s.lockRec
  | 0x2300 => decide (s.pinnedMib ≤ 64)
  | 0x2310 => zeroFld (s.quotaRec (sub - 1)) 111 0 && decide (fld (s.quotaRec (sub - 1)) 143 136 ≤ 63) &&
      decide (fld (s.quotaRec (sub - 1)) 143 136 + fld (s.quotaRec (sub - 1)) 135 128 ≤ 64)
  | 0x2401 => (List.range 24).all fun n => linkRecOk (s.linkPlan n)
  | 0x2402 => placementOk (s.cfgNum 0x2402 1 0 4)
  | 0x2410 => s.fctxOk (sub - 1)
  | 0x2701 => s.recordsOk idx sub 16 128 layerRecOk
  | 0x270E => s.recordsOk idx sub 32 256 routeRecOk
  | 0x2800 => decide (s.cfgNum 0x2800 1 0 1 ≤ 1)
  | 0x2802 => s.recordsOk idx sub 16 128 fun c => zeroFld c 63 8 && !bit c 1
  | 0x2804 => s.recordsOk idx sub 32 256 presetOk
  | 0x2904 => decide (s.cfgNum 0x2904 1 0 1 < 32)
  | _ =>
    if 0x3000 ≤ idx ∧ idx < 0x3080 then
      if sub = 1 then s.partRecOk old (idx - 0x3000) else (List.range 16).all (s.standinOk (idx - 0x3000))
    else true

/-! ## Constraints that span records -/

/-- The quota entry of a partition. -/
def quotaEntry (p : Nat) : Nat × Nat := (0x2310, p + 1)
/-- The pinned range of a partition, MiB. -/
def State.pinRange (s : State) (p : Nat) : Nat × Nat := (fld (s.quotaRec p) 127 120, fld (s.quotaRec p) 119 112)

/-- Whether a partition's loaded sheets and tier-L objects lie in its ranges (R221). -/
def State.rangesHold (s : State) (p : Nat) : Bool :=
  let ts := s.tsPart p
  ((s.part p).sheets.all fun e => e.2.entries.all fun c => inside (ceDest c.word * 128) (ceUnits c.word * 128) ts.1 ts.2) &&
    s.objects.all fun o => o.2.part != p || ([false, true].all fun ext =>
      objTier o.2.desc ext != 3 || objBase o.2.desc ext == 0 ||
        s.permits p (objBase o.2.desc ext).toNat (objSize o.2.desc ext))

/-- Spanning constraints over pairs of partitions that hold something: tile-store parts on shared cores, pinned ranges and
job identities (R221, R264). -/
def State.pairMeets (s : State) (p q : Nat) : List (Bool × List (Nat × Nat)) :=
  let a := s.tsPart p
  let b := s.tsPart q
  let x := s.pinRange p
  let y := s.pinRange q
  [ (s.coreset p &&& s.coreset q == 0 || !overlap a.1 a.2 b.1 b.2,
      [quotaEntry p, quotaEntry q, (0x3000 + p, 1), (0x3000 + q, 1)]),
    (!overlap x.1 x.2 y.1 y.2, [quotaEntry p, quotaEntry q]),
    (s.jobId p == 0 || s.jobId p != s.jobId q, [(0x2410, p + 1), (0x2410, q + 1)]) ]

/-- Every spanning constraint: whether it holds, and the records it spans. -/
def State.spanning (s : State) : List (Bool × List (Nat × Nat)) :=
  let ps := List.range 128
  let live := ps.filter fun p => s.quotaRec p != 0 || s.fctx p != 0
  let sum (hi lo : Nat) : Nat := (live.map fun p => fld (s.quotaRec p) hi lo).foldl (· + ·) 0
  let quotas := ps.map quotaEntry
  (ps.map fun p => (decide ((s.pinRange p).1 + (s.pinRange p).2 ≤ s.pinnedMib), [quotaEntry p, (0x2300, 7)])) ++
    (ps.map fun p => (s.rangesHold p, [quotaEntry p])) ++
    [(decide (sum 191 160 ≤ 65536), quotas), (decide (sum 159 144 ≤ 256), quotas)] ++
    live.flatMap fun p => (live.filter (p < ·)).flatMap fun q => s.pairMeets p q

/-- CURTAIN_FAULT of an entry. -/
def faultName (e : Nat × Nat) : Nat := wingNumber e.1 e.2 * 2 ^ 32 + e.1 * 2 ^ 16 + e.2 * 2 ^ 8

/-- What fails in a staged set, as the entries to name: `s` has the held entries committed (R378, R379). -/
def State.failures (s old : State) (held : List (Nat × Nat)) : List Nat :=
  ((held.filter fun e => !s.entryMeets old e.1 e.2).map faultName) ++
    s.spanning.filterMap fun c => if c.1 then none else ((c.2.filter (held.contains ·)).map faultName).min?

/-! ## What a commit changes at once -/

/-- A partition whose record is committed (Table 11-10). Step 0 begins when it becomes ACTIVE (R287); a package that holds no logical
coordinate serves none (R256). -/
def State.adoptPart (s : State) (p : Nat) : State :=
  let on := bit (s.partRec p) 0
  match (s.part p).phase, on with
  | .off, true =>
    if s.fab.coord.isNone then s else
    let s := s.modPart p fun x => { x with phase := .active, step := 0 }
    (((s.startStep p 0).lockBarrier p).positions p)
  | .active, false => s.modPart p fun x => { x with phase := .off }
  | _, _ => s

/-- A committed link plan (R279): the ports it names unused go dark, HELD ports are checked again, DARK ports it gives an entry train where
their light is there. -/
def State.adoptLinks (s : State) : State :=
  ((List.range 24).foldl (fun s n =>
    let ph := (s.port n).phase
    if s.expect n = 0 then
      if ph = .retired ∨ ph = .dark then s else s.toPhase n .dark
    else if ph = .held then s.checkPort n
    else s.relight n) s).lasers.settle

/-- A committed preset waits for the partition's next boundary (R323). -/
def State.adoptPreset (s : State) (p : Nat) : State :=
  let rec_ (l : Nat) : NwLayer :=
    let c : BitVec 256 := BitVec.ofNat 256 (s.cfgNum 0x2804 (p + 1) (32 * l) 32)
    { out := { mean := BitVec.ofNat 32 (fld c 31 0), count := fld c 159 144, consec := fld c 183 176 }
      grad := { mean := BitVec.ofNat 32 (fld c 63 32), count := fld c 175 160, consec := fld c 143 136 } }
  let m := (List.range 1024).foldl (fun (m : SMap NwLayer) (l : Nat) => SMap.set {} m l (rec_ l)) []
  s.modPart p fun x => { x with preset := some m }

/-- What one committed entry changes at once. -/
def State.adopt (s : State) (e : Nat × Nat) : State :=
  let s := if recordEntries.contains e then s.storeJob .records else s
  match e.1 with
  | 0x2100 => if e.2 = 9 then s.lockCommitted else s
  | 0x2401 => s.adoptLinks
  | 0x2800 => { s with parts := SMap.mapVals (fun _ (x : Part) =>
      if x.phase == .off then { x with scripted := s.scriptedCfg } else x) s.parts }
  | 0x2804 => s.adoptPreset (e.2 - 1)
  | _ => if 0x3000 ≤ e.1 ∧ e.1 < 0x3080 ∧ e.2 = 1 then s.adoptPart (e.1 - 0x3000) else s

/-- CURTAIN (R378, R379): the selected wings are committed in one cycle, or nothing changes but the names of what failed. -/
def State.curtain (s : State) (v : Nat) : Except State State :=
  let held := s.heldEntries v
  let t := { s with od := takeEntries (held.contains ·) s.wings s.od }
  match (t.failures s held).min? with
  | some n => .error ({ s with house := { s.house with curtainFault := BitVec.ofNat 64 n } }.count .curtainRefusals)
  | none =>
    let t := { t with house := { t.house with curtainFault := 0 } }
    .ok (((held.foldl State.adopt (t.emptyWings held)).count .commitGen).settle)

end Sys2Proof.Machine
end

