-- ==== Sys2Proof/Machine/DictOps.lean ====
section
/-! DEFINITION. Accesses to the object dictionary: scope (R374), checks in the order of Table 15-3 (R381), reads (R373) and
the effects of live writes (R375), by entry. -/

namespace Sys2Proof.Machine

open Sys2Proof

/-! ## Abort codes (Table 15-3) -/

/-- Command or specifier not valid. -/
def abSpecifier : W32 := 0x05040001
/-- Index does not exist. -/
def abIndex : W32 := 0x06020000
/-- Subindex does not exist. -/
def abSub : W32 := 0x06090011
/-- Outside the access's scope. -/
def abScope : W32 := 0x06010000
/-- Read of a wo entry. -/
def abWriteOnly : W32 := 0x06010001
/-- Write of a ro or const entry. -/
def abReadOnly : W32 := 0x06010002
/-- Length does not match. -/
def abLength : W32 := 0x06070010
/-- Write past the entry's size. -/
def abPast : W32 := 0x06070012
/-- Entry cannot be mapped. -/
def abMap : W32 := 0x06040041
/-- Mapping exceeds 64 bytes. -/
def abMapSize : W32 := 0x06040042
/-- Refused in the present state. -/
def abState : W32 := 0x08000022
/-- Store or restore signature not valid. -/
def abSignature : W32 := 0x08000020
/-- Value above its range. -/
def abAbove : W32 := 0x06090031
/-- Value below its range. -/
def abBelow : W32 := 0x06090032
/-- Value not valid. -/
def abValue : W32 := 0x06090030

/-! ## Scope (R374) -/

/-- The partition whose scope an access path has; none is full scope. -/
def Acc.scope : Acc → Option Nat
  | .can => none
  | .mbx m => if m.val < 128 then some m.val else none

/-- The partition an entry belongs to: one of its own subindex or index. -/
def entryPart (idx sub : Nat) : Option Nat :=
  if 0x3000 ≤ idx ∧ idx < 0x3080 then some (idx - 0x3000)
  else if odPerPartition idx ∧ sub ≠ 0 then some (sub - 1)
  else none

/-- Entries writable from partition scope (Table 15-2). -/
def scopeWritable (idx sub : Nat) : Bool :=
  ([0x2701, 0x2703, 0x270E, 0x2801, 0x2802, 0x2804].contains idx && sub != 0) ||
    (decide (0x3000 ≤ idx) && decide (idx < 0x3080) && (sub == 4 || sub == 5)) || (idx == 0x2F00 && (sub == 1 || sub == 2))

/-- Whether a scope admits an access. -/
def scopeOk (scope : Option Nat) (idx sub : Nat) (write : Bool) : Bool :=
  match scope with
  | none => true
  | some p =>
    let own := match entryPart idx sub with | some q => p == q | none => true
    own && (!write || scopeWritable idx sub)

/-! ## Standing of the package (R386, R406) -/

/-- Whether the boot ROM's recovery serves an index (R406). -/
def romIndex (idx : Nat) : Bool :=
  [0x1000, 0x1001, 0x1018, 0x2000].contains idx || (decide (0x2F08 ≤ idx) && decide (idx ≤ 0x2F0F))

/-- Whether an index can be reached at all. -/
def State.indexServed (s : State) (idx : Nat) : Bool := odKnown idx && (!s.store.romRecovery || romIndex idx)

/-- Whether writes to an index are performed in the package's standing (R386). Ghost-light mode for want of cores or of room
takes RETIRE_CLEAR, which Table 16-4 gives as the way out. -/
def State.writesServed (s : State) (idx : Nat) : Bool :=
  (s.house.deviceState != 2 && s.house.deviceState != 3) || (decide (0x1000 ≤ idx) && decide (idx < 0x2000)) ||
    idx == 0x2F00 || (decide (0x2F08 ≤ idx) && decide (idx ≤ 0x2F0F)) ||
    (idx == 0x2904 && s.house.deviceState == 2 && s.house.ghostReason == 5)

/-! ## TPDO mappings (R390) -/

/-- Whether an entry may be mapped, with its length in bits: ro and numeric. -/
def mappable (w : Nat) : Bool :=
  let idx := w / 2 ^ 16
  match odRow? idx (w / 256 % 256) with
  | some r => r.acc == .ro && !r.dom && idx != 0x100A && decide (w % 256 = 8 * r.size)
  | none => false

/-- Bytes a mapping of TPDO n takes with a count and one entry replaced. -/
def State.mapBytes (s : State) (n count sub w : Nat) : Nat :=
  ((List.range count).map fun i =>
    (if i + 1 = sub then w else s.cfgNum (0x1A00 + n) (i + 1) 0 4) % 256 / 8).foldl (· + ·) 0

/-- Checks a write to a mapping entry. -/
def State.mapCheck (s : State) (n sub w : Nat) : Option W32 :=
  if sub ≠ 0 ∧ w ≠ 0 ∧ !mappable w then some abMap
  else
    let count := if sub = 0 then w else s.cfgNum (0x1A00 + n) 0 0 1
    if 64 < s.mapBytes n (min count 16) sub w then some abMapSize
    else if s.cfgByte (0x1800 + n) 1 3 < 0x80 then some abState
    else if sub = 0 ∧ 16 < w then some abAbove
    else none

/-! ## Live writes -/

/-- Stores a value as the setting it is. -/
def State.keep (s : State) (idx sub off : Nat) (d : List Byte) : Except W32 State := .ok (s.setCfg idx sub off d)

/-- A setting with a range (R370). -/
def State.ranged (s : State) (idx sub : Nat) (d : List Byte) (lo hi : Nat) (f : State → State) : Except W32 State :=
  if hi < leNat d then .error abAbove
  else if leNat d < lo then .error abBelow
  else .ok (f (s.setCfg idx sub 0 d))

/-- COOLANT_REENABLE (R368): a stopped package whose coolant has returned resumes; held requests follow. -/
def State.resume (s : State) (v : Nat) : Except W32 State :=
  if s.therm.coolantState ≠ 3 then .error abState
  else if v ≠ 1 then .error abValue
  else
    let us := (s.clk.ticks - s.therm.stopTick) / 100
    let s := { s with therm := { s.therm with coolantState := if s.therm.coolantOk then 0 else 1 } }.blackoutFor 8 false
    .ok ((s.logFault { detail := BitVec.ofNat 64 us, cls := 5, cause := 0x13 }).bindReasons)

/-- LAYER_COUNTERS (R121): clears a layer's sticky record, or all of them. -/
def State.clearLayer (s : State) (p v : Nat) : Except W32 State :=
  if v = 0xFFFFFFFF then .ok (s.modPart p fun x => { x with sticky := [] })
  else if v < 1024 then .ok (s.modPart p fun x => { x with sticky := SMap.del v x.sticky })
  else .error abValue

/-- The fly-engine image FLY_UCODE_SRC names, if it lies in populated tier H (R345). -/
def State.ucodeAt (s : State) : Option (List Byte) :=
  let a := s.cfgNum 0x2906 1 0 8
  let ok (n : Nat) : Bool := decide (a + n ≤ baseD) && s.populated a n && !s.poisoned a n
  if !ok 0x3000 then none
  else
    let n := s.num (a + 0x0C) 4
    if n ≤ 0x800000 ∧ ok (0x3000 + n) then some (s.bytes a (0x3000 + n)) else none

/-- FLY_UCODE_GO (R345): the image is tested, then the engines of the mask are updated in ascending order. -/
def State.ucodeGo (s : State) (mask : Nat) : Except W32 State :=
  if s.store.ucodeMask ≠ 0 then .error abState
  else
    match s.ucodeAt with
    | some img =>
      if imageOk s.store.owners 2 img then .ok { s with store := { s.store with ucodeMask := mask % 65536, ucodeImage := img } }
      else .ok (s.logFault { detail := BitVec.ofNat 64 ((List.range 16).find? (mask.testBit ·) |>.getD 0), unitType := 8
                             unit := (List.range 16).find? (mask.testBit ·) |>.getD 0, cls := 5, cause := 0x0D })
    | none => .ok (s.logFault { detail := BitVec.ofNat 64 ((List.range 16).find? (mask.testBit ·) |>.getD 0), unitType := 8
                                unit := (List.range 16).find? (mask.testBit ·) |>.getD 0, cls := 5, cause := 0x0D })

/-- Whether a port is the last UP one of its direction group on an axis that some job block does not span (R252, R346). -/
def State.lastPort (s : State) (n : Nat) : Bool :=
  match portDir n with
  | none => false
  | some (ax, plus) =>
    s.groupUp ax plus == [n] && (List.range 128).any fun p => s.jobId p != 0 && !s.spans (some p) ax

/-- PORT_RETRAIN (R346). A port that is not UP has no traffic and stays as it is. -/
def State.portRetrain (s : State) (n v : Nat) : Except W32 State :=
  if s.lastPort n then .error abState
  else if v ≠ 1 then .error abValue
  else if (s.port n).phase = .up then .ok (s.toRetrain n)
  else .ok s

/-- BUDGETS (Table 11-8): only RATE and DEPTH of each record are written. -/
def State.budgets (s : State) (off : Nat) (d : List Byte) : State :=
  d.zipIdx.foldl (fun s b => if 24 ≤ (off + b.2) % 32 then s.setCfgByte 0x4000 1 (off + b.2) b.1 else s) s

/-- NONCE (R411): a report is to be signed. -/
def State.takeNonce (s : State) (d : List Byte) : State :=
  if s.store.romRecovery ∨ s.house.ghostReason = 4 then s
  else { s with store := { s.store with nonce := d, attest := 1 } }

/-- IMAGE (R409): staged bytes, in RECEIVING only. -/
def State.stage (s : State) (off : Nat) (d : List Byte) : Except W32 State :=
  if s.store.state ≠ 1 then .error abState
  else .ok { s with store := { s.store with staging := memPut s.store.staging off d } }

/-- Values CURTAIN and DISCARD take from a scope (R378, R379). -/
def wingValue (scope : Option Nat) (v : Nat) : Option W32 :=
  match scope with
  | some p => if v = p then none else some abScope
  | none => if v < 128 ∨ v = 0x100 ∨ v = 0x1FF then none else some abValue

/-- A live write to an entry of the profile and CAN FD ranges. -/
def State.liveCan (s : State) (idx sub : Nat) (d : List Byte) : Except W32 State :=
  let v := leNat d
  if idx = 0x1003 then (if v = 0 then .ok { s with can := { s.can with history := [] } } else .error abValue)
  else if idx = 0x1010 ∨ idx = 0x1011 then
    if s.store.state ≠ 0 ∧ s.store.state ≠ 1 then .error abState
    else if v ≠ (if idx = 0x1010 then 0x65766173 else 0x64616F6C) then .error abSignature
    else s.storeSave sub (idx == 0x1011)
  else if 0x1800 ≤ idx ∧ idx < 0x1804 ∧ sub = 1 then
    let old := s.cfgNum idx 1 0 4
    if old < 2 ^ 31 ∧ old % 2 ^ 29 ≠ v % 2 ^ 29 then .error abValue else s.keep idx sub 0 d
  else if 0x1800 ≤ idx ∧ idx < 0x1804 ∧ sub = 2 then (if v = 0xFE ∨ v = 0xFF then s.keep idx sub 0 d else .error abValue)
  else if idx = 0x2F20 ∧ sub = 3 then s.ranged idx sub d 0 65536 id
  else s.keep idx sub 0 d

/-- A live write to any entry; answers an abort code or the state after it. -/
def State.live (s : State) (scope : Option Nat) (idx sub off : Nat) (d : List Byte) : Except (State × W32) State :=
  let v := leNat d
  let lift (r : Except W32 State) : Except (State × W32) State := match r with | .ok t => .ok t | .error e => .error (s, e)
  match idx with
  | 0x2100 =>
    if sub = 1 then lift (s.ranged idx sub d 400 2600 State.slewWrite)
    else if sub = 2 then lift (s.ranged idx sub d 0 23 State.repermit)
    else lift (s.ranged idx sub d 100 520 State.repermit)
  | 0x2200 => if sub = 6 then lift (s.resume v) else lift (s.ranged idx sub d 0 700 id)
  | 0x2703 => lift (s.clearLayer (sub - 1) v)
  | 0x2906 => if sub = 2 then lift (s.ucodeGo v) else lift (s.keep idx sub off d)
  | 0x2907 => lift (s.portRetrain (sub - 1) v)
  | 0x2F00 =>
    match wingValue scope v with
    | some e => .error (s, e)
    | none =>
      if sub = 1 then (match s.curtain v with | .ok t => .ok t | .error t => .error (t, abValue))
      else .ok (s.emptyWings (s.heldEntries v))
  | 0x2F09 => lift (s.stage off d)
  | 0x2F0A => lift (s.storeCmd v)
  | 0x2F0C => lift (s.storeOwner d)
  | 0x2F0D => .ok (s.takeNonce d)
  | 0x4000 => .ok (s.budgets off d)
  | _ =>
    if 0x3000 ≤ idx ∧ idx < 0x3080 then
      if v = 1 then .ok (s.jobFault (idx - 0x3000)) else .error (s, abValue)
    else if idx < 0x2000 ∨ idx = 0x2F20 then lift (s.liveCan idx sub d)
    else lift (s.keep idx sub off d)

/-- An idle write (R376): refused while its using block runs. -/
def State.idle (s : State) (idx sub : Nat) (d : List Byte) : Except W32 State :=
  if idx = 0x2F20 then
    if s.can.nmt = .operational then .error abState
    else if 4 < leNat d then .error abAbove
    else s.keep idx sub 0 d
  else
    match s.mapCheck (idx - 0x1A00) sub (leNat d) with
    | some e => .error e
    | none => s.keep idx sub 0 d

/-! ## Accesses -/

/-- Checks of a write that need only the entry, in the order of Table 15-3. -/
def State.writeCheck (s : State) (scope : Option Nat) (x : OdAddr) (d : List Byte) : Except W32 OdRow :=
  let idx := x.index.toNat
  let sub := x.sub.toNat
  if !s.indexServed idx then .error abIndex
  else
    match odRow? idx sub with
    | none =>
      if sub = 0 ∧ odHasHighest idx then .error (if scopeOk scope idx sub true then abReadOnly else abScope) else .error abSub
    | some r =>
      if !scopeOk scope idx sub true then .error abScope
      else if r.acc == .ro || r.acc == .const then .error abReadOnly
      else if !r.dom && d.length != r.size then .error abLength
      else if idx == 0x2703 && d.length != 4 then .error abLength
      else if r.recSize != 0 && (d.isEmpty || x.offset % r.recSize != 0 || d.length % r.recSize != 0) then .error abLength
      else if r.dom && decide (r.size < x.offset + d.length) && idx != 0x2703 then .error abPast
      else .ok r

/-- A write to the dictionary: an abort code, 0 for success (R372 to R381). -/
def State.dictWrite (s : State) (scope : Option Nat) (x : OdAddr) (d : List Byte) : State × W32 :=
  let idx := x.index.toNat
  let sub := x.sub.toNat
  let off (r : OdRow) : Nat := if r.dom then x.offset else 0
  let refuse (s : State) (e : W32) : State × W32 :=
    ((if e = abScope then s.count .scopeRefusals else s).count .aborts, e)
  match s.writeCheck scope x d with
  | .error e => refuse s e
  | .ok r =>
    match r.qual with
    | .staged => if !s.writesServed idx then refuse s abState else (s.wingWrite idx sub (off r) d, 0)
    | .idle =>
      if !s.writesServed idx then refuse s abState
      else match s.idle idx sub d with | .ok t => (t, 0) | .error e => refuse s e
    | _ =>
      if !s.writesServed idx then refuse s abState
      else match s.live scope idx sub (off r) d with | .ok t => (t, 0) | .error (t, e) => refuse t e

/-- What a read gives: the bytes and the entry's size, or an abort code (R371 to R374). A length of none reads to the end. -/
def State.readCheck (s : State) (scope : Option Nat) (x : OdAddr) (n : Option Nat) (wings : Bool) :
    Except W32 (List Byte × Nat) :=
  let idx := x.index.toNat
  let sub := x.sub.toNat
  if !s.indexServed idx then .error abIndex
  else
    match odRow? idx sub with
    | none =>
      if sub = 0 ∧ odHasHighest idx then
        (if scopeOk scope idx sub false then .ok ([BitVec.ofNat 8 (odHighest idx)], 1) else .error abScope)
      else .error abSub
    | some r =>
      if !scopeOk scope idx sub false then .error abScope
      else if r.acc == .wo then .error abWriteOnly
      else
        let size := s.odSize r sub
        let byte (o : Nat) : Byte := if wings && r.qual == .staged then s.wingByte idx sub o else s.odByte idx sub o
        if r.dom then
          let m := min (n.getD (size - x.offset)) (size - x.offset)
          .ok ((List.range m).map fun i => byte (x.offset + i), size)
        else .ok ((List.range size).map byte, size)

/-- A read of the dictionary; a refusal counts. -/
def State.dictRead (s : State) (scope : Option Nat) (x : OdAddr) (n : Option Nat) (wings : Bool) :
    State × Except W32 (List Byte × Nat) :=
  match s.readCheck scope x n wings with
  | .ok r => (s, .ok r)
  | .error e => ((if e = abScope then s.count .scopeRefusals else s).count .aborts, .error e)

end Sys2Proof.Machine
end

