-- ==== Sys2Proof/Machine/MailOps.lean ====
section
/-! DEFINITION. The paths to the dictionary (R382 to R386): mailboxes and their registers, and the USDO server of the CAN FD
node. -/

namespace Sys2Proof.Machine

open Sys2Proof

/-- Whether the dictionary is being served: by the house manager, or by the boot ROM under recovery (R344, R402, R406). No path
answers while the reference is absent (R428). -/
def State.dictServes (s : State) : Bool := (s.hmServes || s.store.romRecovery) && s.pins.refclk

/-! ## Mailboxes -/

/-- OP codes of GO (Table 15-4). -/
def opRead : Nat := 1
/-- WRITE. -/
def opWrite : Nat := 2
/-- READ_WINGS. -/
def opWings : Nat := 3
/-- RELEASE. -/
def opRelease : Nat := 4

/-- Bytes of the DATA area. -/
def mbxData : Nat := 61440

/-- The entry and offset TARGET names. -/
def mbxTarget (t : W64) : OdAddr :=
  { index := BitVec.ofNat 16 (fld t 31 16), sub := BitVec.ofNat 8 (fld t 15 8), offset := fld t 63 32 }

/-- TARGET for an entry and offset. -/
def targetOf (x : OdAddr) : W64 := BitVec.ofNat 64 (x.offset % 2 ^ 32 * 2 ^ 32 + x.index.toNat * 2 ^ 16 + x.sub.toNat * 2 ^ 8)

/-- Whether a mailbox path is served in the package's standing (R386, R406). -/
def State.mbxServed (s : State) (m : Nat) : Bool :=
  (s.house.deviceState != 2 && s.house.deviceState != 3) || (decide (128 ≤ m) && decide (m < 192))

/-- The scope of a mailbox (R374). -/
def mbxScope (m : Nat) : Option Nat := if m < 128 then some m else none

/-- Size of the entry TARGET names, 0 where there is none (Table 15-4). -/
def State.targetSize (s : State) (x : OdAddr) : Nat :=
  let idx := x.index.toNat
  let sub := x.sub.toNat
  match odRow? idx sub with
  | some r => if s.indexServed idx then s.odSize r sub else 0
  | none => if sub = 0 ∧ odHasHighest idx ∧ s.indexServed idx then 1 else 0

/-- Ends a mailbox command: STATUS, RESULT, STATE, and the interrupt of a PCIe mailbox (R383, R420). -/
def State.mbxDone (s : State) (m : Nat) (ab : W32) (count : Nat) : State :=
  let x := s.mailbox m
  let size := s.targetSize (mbxTarget x.target)
  let s := s.setMailbox m { x with abort := ab, count := BitVec.ofNat 32 count, size := BitVec.ofNat 32 size, state := 2 }
  if m < 128 then s.msix (m + 1) 32 else if m < 192 then s.msix 0 0 else s

/-- Performs a mailbox command (R383). -/
def State.mbxPerform (s : State) (m op : Nat) : State :=
  let x := s.mailbox m
  let n := x.length.toNat
  if op < 1 ∨ 4 < op ∨ fld x.target 7 0 ≠ 0 then (s.count .aborts).mbxDone m abSpecifier 0
  else if !s.mbxServed m then (s.count .aborts).mbxDone m abState 0
  else if op = opRelease then (s.setMailbox m { x with claim := none }).mbxDone m 0 0
  else if mbxData < n then (s.count .aborts).mbxDone m abLength 0
  else if op = opWrite then
    let d := (List.range n).map fun i => SMap.get 0 x.data i
    let (s, ab) := s.dictWrite (mbxScope m) (mbxTarget x.target) d
    if ab = 0 then s.mbxDone m 0 n
    else s.mbxDone m ab 0
  else
    let (s, r) := s.dictRead (mbxScope m) (mbxTarget x.target) (some (if n = 0 then mbxData else n)) (op == opWings)
    match r with
    | .ok (d, _) => (s.setMailbox m { x with data := memPut x.data 0 d }).mbxDone m 0 d.length
    | .error e => s.mbxDone m e 0

/-- GO: a command starts, unless one runs; it waits while nobody serves the dictionary (R382, R383). `op` holds bits [31:0]
of GO, its reserved bits included. -/
def State.mbxGo (s : State) (m op : Nat) (seq : W32) : State :=
  let x := s.mailbox m
  if x.state = 1 then s.count .mbxIgnored
  else
    let s := s.setMailbox m { x with seq := seq, state := 1 }
    if s.dictServes then s.mbxPerform m op
    else { s with house := { s.house with ready := s.house.ready ++ [.mbx m op] } }

/-- Writes a mailbox and starts its command. -/
def State.mbxRun (s : State) (m op : Nat) (c : MbxCmd) : State :=
  let x := s.mailbox m
  let s := if x.state = 1 then s
    else s.setMailbox m { x with target := c.target, length := c.length
                                 data := memPut x.data 0 (c.data.take mbxData) }
  s.mbxGo m (c.rsv.toNat * 256 + op) c.seq

/-- The bytes of a mailbox's registers (Table 15-4). -/
def Mailbox.byte (x : Mailbox) (off : Nat) : Byte :=
  if 0x1000 ≤ off then SMap.get 0 x.data (off - 0x1000)
  else
    let r := off / 8
    let v : W64 :=
      if r = 0 then x.target
      else if r = 1 then x.length
      else if r = 3 then x.seq ++ x.abort
      else if r = 4 then x.count ++ x.size
      else if r = 5 then BitVec.ofNat 64 x.state
      else 0
    byteOf v.toNat (off % 8)

/-- A register with the bytes a store covers replaced. -/
def patchReg (old : W64) (reg off : Nat) (d : List Byte) : W64 :=
  leWord 64 ((List.range 8).map fun i =>
    if off ≤ reg + i ∧ reg + i < off + d.length then d.getD (reg + i - off) 0 else byteOf old.toNat i)

/-- A store to a mailbox: TARGET, LENGTH and DATA take the bytes covered, unless a command runs; a store to GO starts one. -/
def State.mbxStore (s : State) (m off : Nat) (d : List Byte) : State :=
  let x := s.mailbox m
  let n := d.length
  let s := if x.state = 1 then s
    else
      s.setMailbox m { x with
        target := if overlap 0 8 off n then patchReg x.target 0 off d else x.target
        length := if overlap 8 8 off n then patchReg x.length 8 off d else x.length
        data := memPut x.data (max off 0x1000 - 0x1000) (d.drop (0x1000 - off)) }
  if overlap 0x10 8 off n then
    let g := patchReg 0 0x10 off d
    s.mbxGo m (fld g 31 0) (BitVec.ofNat 32 (fld g 63 32))
  else s

/-! ## USDO (R385) -/

/-- Kind of a USDO frame in the outbox. -/
def canUsdo : Nat := 3

/-- Whether the CAN FD node serves USDO: it has an identifier and is not stopped (R388, R389), and the reference is present
(R428). -/
def State.canServes (s : State) : Bool := s.house.nodeId != 0#7 && s.can.nmt != .stopped && s.pins.refclk

/-- A USDO answer: 0 and the data, or 1 and an abort code. -/
def State.usdoAnswer (s : State) (r : Except W32 (List Byte)) : State :=
  match r with
  | .ok d => s.send (.can canUsdo (0 :: d))
  | .error e => (s.count .usdoAborts).send (.can canUsdo (1 :: bytesLE 4 e.toNat))

/-- Whether an entry is a DOMAIN. -/
def isDomain (x : OdAddr) : Bool := (odRow? x.index.toNat x.sub.toNat).any (·.dom)

/-- CAN_DOMAIN_LENGTH, 0 standing for at most 65,536. -/
def State.canWindow (s : State) : Nat := if s.cfgNum 0x2F20 3 0 4 = 0 then 65536 else s.cfgNum 0x2F20 3 0 4

/-- A USDO access to a DOMAIN uses the window set in CAN_DOMAIN_OFFSET. -/
def State.canAddr (s : State) (x : OdAddr) : OdAddr :=
  if isDomain x then { x with offset := s.cfgNum 0x2F20 2 0 4 } else x

/-- Performs a USDO write. -/
def State.usdoWrite (s : State) (x : OdAddr) (d : List Byte) : State :=
  if isDomain x && decide (s.canWindow < d.length) then (s.count .aborts).usdoAnswer (.error abLength)
  else
    let (s, ab) := s.dictWrite none (s.canAddr x) d
    s.usdoAnswer (if ab = 0 then .ok [] else .error ab)

/-- Performs a USDO read: an expedited one answers its data, a segmented one keeps it for the segments. -/
def State.usdoRead (s : State) (x : OdAddr) (segmented : Bool) : State :=
  let (s, r) := s.dictRead none (s.canAddr x) (some s.canWindow) false
  match r with
  | .error e => s.usdoAnswer (.error e)
  | .ok (d, _) =>
    if segmented then { s with can := { s.can with usdo := some { write := false, addr := x, data := d } } }.usdoAnswer (.ok [])
    else s.usdoAnswer (.ok d)

/-- Performs a USDO access, or leaves it ready while nobody serves the dictionary (R382). -/
def State.usdoPerform (s : State) (write : Bool) (x : OdAddr) (d : List Byte) (segmented : Bool) : State :=
  if !s.dictServes then { s with house := { s.house with ready := s.house.ready ++ [.usdo write x d segmented] } }
  else if write then s.usdoWrite x d
  else s.usdoRead x segmented

/-! ## Any path -/

/-- A whole write of bytes at an entry and offset over a path. -/
def State.writeBy (s : State) (a : Acc) (x : OdAddr) (d : List Byte) : State :=
  match a with
  | .can =>
    if !s.canServes then s
    else if !s.dictServes then { s with house := { s.house with ready := s.house.ready ++ [.usdo true x d false] } }
    else
      let (s, ab) := s.dictWrite none x d
      s.usdoAnswer (if ab = 0 then .ok [] else .error ab)
  | .mbx m =>
    s.mbxRun m.val opWrite { target := targetOf x, length := BitVec.ofNat 64 d.length, seq := (s.mailbox m.val).seq, data := d }

/-- Serves the accesses that were ready while nobody served the dictionary, in order (R344, R382). -/
def State.serveReady (s : State) : State :=
  let l := s.house.ready
  l.foldl (fun s r => match r with
    | .mbx m op => s.mbxPerform m op
    | .usdo w x d seg => s.usdoPerform w x d seg) { s with house := { s.house with ready := [] } }

end Sys2Proof.Machine
end

