-- ==== Sys2Proof/Machine/HomeOps.lean ====
section
/-! DEFINITION. Accesses performed at this package: the registers behind the control windows (Table 02-3), reads and writes of
memory, the atomics of Table 03-8, and the wait for invalidation acknowledgements (R267). -/

namespace Sys2Proof.Machine

open Sys2Proof

/-! ## Control windows -/

/-- A register of the doorbell or stage-manager window, by its offset / 8 within its unit. -/
inductive CtlReg where
  | host (c r : Nat)
  | dev (c r : Nat)
  | page (f r : Nat)
  | none
  deriving DecidableEq, Repr

/-- The register at an offset of the control window (R281, R415). -/
def State.ctlReg (s : State) (o : Nat) : CtlReg :=
  if 0x1000000 ≤ o ∧ o < 0x2000000 then
    let f := (o - 0x1000000) / 0x10000
    let k := o % 0x10000
    if !s.fnExists f then .none
    else if 0x8000 ≤ k ∧ k < 0x9000 then .page f ((k - 0x8000) / 8)
    else if 1 ≤ f ∧ k < 0x8000 then .host (0x8000 + (f - 1) * 128 + k / 0x400) (k % 0x400 / 8)
    else .none
  else if 0x4000000 ≤ o ∧ o < 0x5000000 then
    let k := o - 0x4000000
    .dev (k % 0x400000 / 0x8000 * 128 + 2 * (k / 0x400000) + k % 0x8000 / 0x4000) (k % 0x4000 / 8)
  else .none

/-- What a register reads (Tables 11-11, 17-3 and 17-5); no read has a side effect (R422). -/
def State.ctlValue (s : State) : CtlReg → W64
  | .none => 0
  | .host c r =>
    let x := s.queue c
    match r with
    | 0 => x.sqBase | 1 => x.sqEntries | 2 => x.cqBase | 3 => x.cqEntries | 4 => x.ringCfg
    | 6 => BitVec.ofNat 64 x.sqHead | 8 => BitVec.ofNat 64 x.cqTail | 9 => x.coalesce
    | 10 => BitVec.ofNat 64 (x.cause * 256 + s.qStatus c)
    | _ => 0
  | .dev c r =>
    let x := s.queue c
    match r with
    | 0 => x.sqBase | 1 => x.sqEntries | 2 => x.cqBase | 3 => BitVec.ofNat 64 x.sqTail | 4 => BitVec.ofNat 64 x.sqHead
    | 5 => BitVec.ofNat 64 x.cqTail | 6 => x.cqEntries | 8 => BitVec.ofNat 64 (x.cause * 256 + s.qStatus c)
    | 10 => s.ctr .doorbellErrors c | 11 => s.ctr .cqFullWaits c
    | _ => 0
  | .page f r =>
    let h := s.hostFn f
    match r with
    | 0 => h.aperture | 1 => h.faultAddr | 2 => h.faultStatus.setWidth 64 | 3 => s.ctr .fnDoorbellErrors f
    | 4 => s.ctr .fnCqFullWaits f | 5 => s.ctr .bar4Refusals f
    | _ => 0

/-- A write to APERTURE (Table 17-5). -/
def State.apertureWrite (s : State) (f : Nat) (v : W64) : State :=
  if fld v 35 0 ≠ 0 then s.count .fnDoorbellErrors f else s.setHostFn f { s.hostFn f with aperture := v }

/-- A write of a whole register. -/
def State.ctlWrite (s : State) (v : W64) : CtlReg → State
  | .none => s
  | .host c r =>
    match r with
    | 0 => s.ringWrite c .sqBase v | 1 => s.ringWrite c .sqEntries v | 2 => s.ringWrite c .cqBase v
    | 3 => s.ringWrite c .cqEntries v | 4 => s.ringWrite c .ringCfg v | 5 => s.sqTailWrite c v
    | 7 => s.cqHeadWrite c v | 9 => s.ringWrite c .coalesce v | 11 => s.qresetWrite c v
    | _ => s
  | .dev c r =>
    match r with
    | 0 => s.ringWrite c .sqBase v | 1 => s.ringWrite c .sqEntries v | 2 => s.ringWrite c .cqBase v
    | 3 => s.sqTailWrite c v | 6 => s.ringWrite c .cqEntries v | 7 => s.cqHeadWrite c v | 9 => s.qresetWrite c v
    | _ => s
  | .page f r => if r = 0 then s.apertureWrite f v else s

/-- The byte at an offset of the control window. -/
def State.ctlByte (s : State) (o : Nat) : Byte :=
  if o < 0x1000000 then (s.mailbox (o / 0x10000)).byte (o % 0x10000)
  else byteOf (s.ctlValue (s.ctlReg o)).toNat (o % 8)

/-- A store to the control window: mailbox bytes, or the registers covered, in ascending order. A store that covers a
register in part leaves its other bytes as they read. -/
def State.ctlStore (s : State) (o : Nat) (d : List Byte) : State :=
  if o < 0x1000000 then
    let k := 0x10000 - o % 0x10000
    let s := s.mbxStore (o / 0x10000) (o % 0x10000) (d.take k)
    if k < d.length then s.mbxStore (o / 0x10000 + 1) 0 (d.drop k) else s
  else
    (List.range (d.length / 8 + 2)).foldl (fun s i =>
      let a := o / 8 * 8 + 8 * i
      if overlap a 8 o d.length then
        let r := s.ctlReg a
        s.ctlWrite (patchReg (s.ctlValue r) a o d) r
      else s) s

/-! ## Reading and writing here -/

/-- What a read gives: bytes, or an uncorrectable error with or without a replay (R334). -/
inductive ReadOut where
  | bytes (d : List Byte)
  | poison
  | replay
  deriving DecidableEq, Repr

/-- Reads n bytes at a local address for a partition (0xFF: none); `reader` is the reading task. -/
def State.homeRead (s : State) (p : Nat) (reader : List Nat) (l n : Nat) : State × ReadOut :=
  if windowOf l = .control then (s, .bytes ((List.range n).map fun i => s.ctlByte (l - baseCtl + i)))
  else
    match s.poisonAt l n with
    | none => (s, .bytes (s.bytes l n))
    | some a =>
      let (s, began) := s.readError p a reader
      (s, if began then .replay else .poison)

/-- Writes bytes at a local address of any window; in a tile store they come in through an input (R20). -/
def State.putHere (s : State) (l : Nat) (d : List Byte) (input : Nat := inputOwn) : State :=
  if windowOf l = .control then s.ctlStore (l - baseCtl) d else s.writeMem l d input

/-- What an atomic stores, from the old value; none where CAS does not match (Table 03-8, R67). -/
def atomNew (op : AtomOp) (wide : Bool) (old b c : W64) : Option W64 :=
  match op with
  | .atadd => some (old + b)
  | .atfadd => some (old + b)
  | .cas => if old = (if wide then b else (b.setWidth 32).setWidth 64) then some c else none
  | .fpadd => some ((f32Add (old.setWidth 32) (b.setWidth 32)).setWidth 64)

/-- Bytes of an atomic. -/
def atomSize (wide : Bool) : Nat := if wide then 8 else 4

/-- An access at this package: local addresses. -/
inductive HomeOp where
  | load (n : Nat)
  | store (pieces : List (Nat × List Byte))
  | atomic (op : AtomOp) (wide : Bool) (b c : W64)
  deriving DecidableEq, Repr

/-- What became of an access: performed with a status and data, stopped by a replay, or waiting for acknowledgements. -/
inductive HomeOut where
  | done (st : Byte) (body : List Byte)
  | replay
  | acks
  deriving DecidableEq, Repr

/-- Who an act's bytes come from, as an input of a tile store (R20): a peer's by the die of its port, the host's by Z0, which holds the
host port. -/
def HomeAct.input (a : HomeAct) : Nat :=
  match a with
  | .request _ r => inputOfPort r.port.val
  | .host _ _ _ => 1
  | _ => inputOwn

/-- Performs an access at a local address. -/
def State.homeGo (s : State) (p : Nat) (reader : List Nat) (l : Nat) (o : HomeOp) (input : Nat := inputOwn) : State × HomeOut :=
  match o with
  | .load n =>
    match s.homeRead p reader l n with
    | (s, .bytes d) => (s, .done stOk d)
    | (s, .poison) => (s, .done stPoison [])
    | (s, .replay) => (s, .replay)
  | .store ps => (ps.foldl (fun s e => s.putHere e.1 e.2 input) s, .done stOk [])
  | .atomic op wide b c =>
    let n := atomSize wide
    match s.homeRead p reader l n with
    | (s, .bytes d) =>
      match atomNew op wide (leWord 64 d) b c with
      | some v => (s.putHere l (bytesLE n v.toNat) input, .done stOk d)
      | none => (s, .done stOk d)
    | (s, .poison) => (s, .done stPoison [])
    | (s, .replay) => (s, .replay)

/-- Extents an access may write. -/
def HomeOp.writes (l : Nat) : HomeOp → List (Nat × Nat)
  | .load _ => []
  | .store ps => ps.map fun e => (e.1, e.2.length)
  | .atomic _ wide _ _ => [(l, atomSize wide)]

/-- Dies as a mask. -/
def dieMask (ds : List Nat) : Nat := ds.foldl (fun v d => v ||| 2 ^ d) 0

/-- An access is performed, or first waits until the other copies of the lines it writes are invalidated (R34, R267);
`except` is the issuing die's bit. -/
def State.homeTry (s : State) (p : Nat) (reader : List Nat) (except : Option Nat) (l : Nat) (o : HomeOp) (act : HomeAct) :
    State × HomeOut :=
  let ws := o.writes l
  let waits : SMap Nat := (ws.flatMap fun e => s.copies e.1 e.2 except).foldl (fun m c => SMap.put c.1 (dieMask c.2) m) []
  if waits.isEmpty then s.homeGo p reader l o act.input
  else
    let s := ws.foldl (fun s e => s.dropCopies e.1 e.2 except) s
    ({ s with fab := { s.fab with homeStores := s.fab.homeStores ++ [{ waits := waits, act := act }] } }, .acks)

/-! ## Holds -/

/-- Whether the package is stopped for coolant: accesses from outside are held (R367). -/
def State.coolantHeld (s : State) : Bool := s.therm.coolantState == 2 || s.therm.coolantState == 3

/-! ## A thread's access ends -/

/-- Notes the granules of pieces stored. -/
def State.touched (s : State) (k : Nat) (ps : List (Nat × Nat)) : State :=
  match s.task? k with
  | some t => s.setTask k (ps.foldl (fun t e => t.noteWrite e.1 e.2) t)
  | none => s

/-- Pieces of a store as local addresses. -/
def localPieces (ps : List (W64 × List Byte)) : List (Nat × List Byte) := ps.map fun e => (glocal e.1, e.2)

/-- The access a thread's store or atomic makes here. -/
def RelAccess.homeOp : RelAccess → HomeOp
  | .store ps => .store (localPieces ps)
  | .atomic op _ wide b c _ _ => .atomic op wide b c

/-- The first address of a thread's access. -/
def RelAccess.addr : RelAccess → W64
  | .store ps => (ps.head?.map Prod.fst).getD 0
  | .atomic _ a _ _ _ _ _ => a

/-- What the end of an access at this package does for its thread: the instruction completes, or raises EXC_DATA. -/
def State.threadEnd (s : State) (t : Tid) (x : RelAccess) (out : HomeOut) : State :=
  match s.thread? t with
  | none => s
  | some th =>
    match out with
    | .acks => s.setThread t { th with wait := .home }
    | .replay => s
    | .done st body =>
      match x with
      | .store ps =>
        (s.touched th.task ((localPieces ps).map fun e => (e.1, e.2.length))).setThread t { th.step with wait := .ready }
      | .atomic op a wide _ _ gd _ =>
        if failing st then s.raise t th .data a
        else
          let v : W64 := leWord 64 body
          let s := match s.task? th.task with
            | some k => s.setTask th.task (((k.atomResult th.tid (SMap.get 0 k.atomCount th.tid) (st, v)).atomNext th.tid).noteWrite
                (glocal a) (atomSize wide))
            | none => s
          let th := if op = .atadd then th else th.setG (BitVec.ofNat 6 gd) v
          s.setThread t { th.step with wait := .ready }

end Sys2Proof.Machine
end

