-- ==== Sys2Proof/Machine/ThreadMem.lean ====
section
/-! DEFINITION. The memory and atomic instructions of Table 03-8: where an access goes (R26, R28), what it waits for (R41,
R42, R48, R220, R332, R336), and its near, far and cached forms (R32, R36, R37). -/

namespace Sys2Proof.Machine

open Sys2Proof

/-! ## Waiting -/

/-- A thread waits; its PC still names the instruction. -/
def State.hold (s : State) (t : Tid) (x : Thread) (w : Wait := .held) : State := s.setThread t { x with wait := w }

/-- Whether a replay holds an access of a task to another package (R336). -/
def State.farHeld (s : State) (task : Nat) (a : W64) (n : Nat) : Bool := s.replayHeld (some task) (s.gkey a) n

/-- Whether an invalidate of this thread is still being served here (R38). -/
def State.servesOwn (s : State) (t : Tid) : Bool := s.fab.serving.any fun v => v.own == some t

/-- Whether the wait of a release is over (R42, R45). `store` allows the exception for posted OC0 stores to one destination. -/
def State.releaseReady (s : State) (t : Tid) (k : Task) (a : W64) (store : Bool) : Bool :=
  let out := s.outstanding t
  !s.awaitsCommit k && !s.servesOwn t &&
    (out.isEmpty || (store && !s.isOwn (gcoord a) &&
      out.all fun q => decide (q.op = 2) && q.req.cls == 0 && q.req.dst == gcoord a))

/-! ## Loads -/

/-- The bytes of cached lines, when a die holds all of [a, a + n). -/
def State.cachedBytes (s : State) (die : Nat) (a : W64) (n : Nat) : Option (List Byte) :=
  (((List.range n).map fun i => (s.cached? die ((a.toNat + i) / 64)).map fun w => byteOf w.toNat ((a.toNat + i) % 64))).mapM id

/-- A thread's load: the bytes when it is performed now, else the state in which it waits, has been sent, or raised.
`pre` is what an invalidate-on-acquire does first (R39); `kind` says what the response is for, by the offset of the wanted
bytes in it. -/
def State.threadLoad (s : State) (t : Tid) (x : Thread) (k : Task) (a : W64) (n align : Nat) (pre : State → State)
    (kind : Nat → PendKind) : State × Option (List Byte) :=
  let die := t.core.val / 64
  if a.toNat % align ≠ 0 then (s.raise t x .address a, none)
  else
    match s.resolve k.part a with
    | .refused => (s.refuseCount.raise t x .address a, none)
    | .here l =>
      if !s.mayLoad k.part l n then (s.raise t x .address a, none)
      else if s.orderWait t a n false then (s.hold t x, none)
      else if s.homeHeld (some x.task) l n then ((s.countHold (some x.task) l n).hold t x, none)
      else
        match (pre s).homeRead k.part [x.task] l n with
        | (s, .bytes d) => (s, some d)
        | (s, .poison) => (s.raise t x .data a, none)
        | (s, .replay) => (s, none)
    | .far c =>
      if s.farHeld x.task a n then ((s.count .replayHolds).hold t x, none)
      else if s.orderWait t a n false then (s.hold t x, none)
      else
        let s' := pre s
        match (if cacheable a then s'.cachedBytes die a n else none) with
        | some d => (s', some d)
        | none =>
          let line := decide (n < 64) && cacheable a
          let at_ : W64 := if line then BitVec.ofNat 64 (a.toNat / 64 * 64) else a
          match s'.sendReq (some k.part) 1 (reqTo at_ 1 (if line then 64 else n) die) (some x.task)
              (kind (if line then a.toNat % 64 else 0)) with
          | (s', .sent seq) => (s'.setThread t { x with wait := .far c seq }, none)
          | (s', .lost) => (s'.farFail t x stLost a, none)
          | (_, .waits) => (s.hold t x, none)

/-- Address of a format M access. -/
def mAddr (x : Thread) (f : MOp) : W64 := x.gr f.ga + f.off.signExtend 64
/-- Bytes a format M size names. -/
def mSize (f : MOp) : Nat := 2 ^ f.sz.toNat

/-- LD: GD ← SZ bytes, zero-extended; ORD 01 makes it an acquire. -/
def execLd (t : Tid) (f : MOp) (s : State) : Result :=
  s.issue t f.pred f.pneg (f.rsv == 0 && !f.rlx) false (f.sz.toNat ≤ 3 && f.ord.toNat ≤ 1) fun x k =>
    match s.threadLoad t x k (mAddr x f) (mSize f) (mSize f) id (.load t f.gd (mSize f)) with
    | (s, some d) => s.setThread t (x.setG f.gd (leWord 64 d)).step
    | (s, none) => s

/-- The vector register of LDV and STV: GD[5:1]. -/
def mVec (f : MOp) : BitVec 5 := f.gd.extractLsb' 1 5

/-- LDV: 512 bytes, predicated per 4-byte element (R62, R68). -/
def execLdv (t : Tid) (f : MOp) (s : State) : Result :=
  s.issue t f.pred f.pneg (f.rsv == 0 && !f.rlx) true (f.sz == 4 && !f.gd.getLsbD 0 && f.ord.toNat ≤ 1) fun x k =>
    let mask := x.gov f.pred f.pneg
    match s.threadLoad t x k (mAddr x f) 512 64 id (fun _ => .loadV t (mVec f) mask) with
    | (s, some d) => s.setThread t (x.setV (mVec f) (loadLanes (x.vr (mVec f)) mask d)).step
    | (s, none) => s

/-- LDAI: drops far lines of [GB, GB + GC) from this die, then loads 8 bytes at GA (R39, R66). -/
def execLdai (t : Tid) (f : SOp) (s : State) : Result :=
  s.issue t f.pred f.pneg (sOk f { gd := true, ga := true, gb := true, gc := true }) false true fun x k =>
    match s.threadLoad t x k (x.gr f.ga) 8 8 (fun s => s.acquireDrop (t.core.val / 64) (x.gr f.gb) (x.gr f.gc)) (.load t f.gd 8) with
    | (s, some d) => s.setThread t (x.setG f.gd (leWord 64 d)).step
    | (s, none) => s

/-! ## Stores -/

/-- Sends the pieces of a store to another package in order; none where one must wait. A piece that fails at once is recorded
as a failed store under its own address (R78; DESIGN CHOICE of log 91 for a store of several pieces). -/
def State.sendPieces (s : State) (t : Tid) (task part : Nat) (cls : BitVec 2) : List (W64 × List Byte) → Option State
  | [] => some s
  | (a, d) :: ps =>
    let die := t.core.val / 64
    match (s.nearDrop die a d.length).sendReq (some part) 2 (reqTo a cls d.length die d) (some task) (.store t) with
    | (s, .sent _) => s.sendPieces t task part cls ps
    | (s, .lost) => (s.storeFail t (some task) stLost a).sendPieces t task part cls ps
    | (_, .waits) => none

/-- Performs or posts a store whose checks have passed: [a, a + n) is its extent. -/
def State.storeNow (s : State) (t : Tid) (x : Thread) (k : Task) (a : W64) (n : Nat) (cls : BitVec 2)
    (ps : List (W64 × List Byte)) (wait : Wait) : State :=
  if ps.isEmpty then s.setThread t { x.step with wait := .ready }
  else if s.isOwn (gcoord a) then
    let l := glocal a
    if s.orderWait t a n true then s.hold t x wait
    else if s.homeHeld (some x.task) l n then (s.countHold (some x.task) l n).hold t x wait
    else
      let (s, out) := s.homeTry k.part [x.task] none l (.store (localPieces ps)) (.thread t (.store ps))
      s.threadEnd t (.store ps) out
  else if s.farHeld x.task a n then (s.count .replayHolds).hold t x wait
  else if s.orderWait t a n (cls != 1) then s.hold t x wait
  else
    match s.sendPieces t x.task k.part cls ps with
    | some s =>
      match s.thread? t with
      | some x => s.setThread t { x.step with wait := .ready }
      | none => s
    | none => s.hold t x wait

/-- A thread's store: the checks of R25, R26, R28, R31, R33 and R52 (R158, R284), then the wait of a release, then the store. -/
def State.threadStore (s : State) (t : Tid) (x : Thread) (k : Task) (a : W64) (n align : Nat) (ps : List (W64 × List Byte))
    (release relaxed : Bool) : State :=
  let go : State :=
    if !s.taskWrites k a n then s.raise t x .address a
    else if release && !s.releaseReady t k a true then s.hold t x (.release (.store ps))
    else s.storeNow t x k a n (if relaxed then 1 else 0) ps .held
  if a.toNat % align ≠ 0 then s.raise t x .address a
  else
    match s.resolve k.part a with
    | .refused => s.refuseCount.raise t x .address a
    | .here l => if s.taskMayStore k l n then go else s.raise t x .address a
    | .far _ => if s.farGuarded (some k) a n then s.raise t x .address a else go

/-- ST: the low SZ bytes of GD; ORD 01 makes it a release, RLX sends a far plain store as OC1. -/
def execSt (t : Tid) (f : MOp) (s : State) : Result :=
  s.issue t f.pred f.pneg (f.rsv == 0) false (f.sz.toNat ≤ 3 && f.ord.toNat ≤ 1 && !(f.rlx && f.ord == 1)) fun x k =>
    let a := mAddr x f
    s.threadStore t x k a (mSize f) (mSize f) [(a, bytesLE (mSize f) (x.gr f.gd).toNat)] (f.ord == 1) f.rlx

/-- Pieces of a vector store under its predicate: the whole register, whole lines, or 8- and 4-byte elements (R33, R62). -/
def vecPieces (a : W64) (v : VReg) (mask : Pred) : List (W64 × List Byte) :=
  let at_ (off n : Nat) : W64 × List Byte := (a + BitVec.ofNat 64 off, bytesLE n (v.toNat >>> (8 * off)))
  if mask = BitVec.allOnes 128 then [at_ 0 512]
  else (List.range 8).flatMap fun ln =>
    if (List.range 16).all fun i => mask.getLsbD (16 * ln + i) then [at_ (64 * ln) 64]
    else (List.range 8).flatMap fun j =>
      let e := 16 * ln + 2 * j
      if mask.getLsbD e && mask.getLsbD (e + 1) then [at_ (4 * e) 8]
      else (if mask.getLsbD e then [at_ (4 * e) 4] else []) ++ (if mask.getLsbD (e + 1) then [at_ (4 * e + 4) 4] else [])

/-- STV: 512 bytes, predicated per 4-byte element (R62, R68). -/
def execStv (t : Tid) (f : MOp) (s : State) : Result :=
  s.issue t f.pred f.pneg (f.rsv == 0) true
      (f.sz == 4 && !f.gd.getLsbD 0 && f.ord.toNat ≤ 1 && !(f.rlx && f.ord == 1)) fun x k =>
    let a := mAddr x f
    s.threadStore t x k a 512 64 (vecPieces a (x.vr (mVec f)) (x.gov f.pred f.pneg)) (f.ord == 1) f.rlx

/-! ## Atomics -/

/-- OP of an atomic request (Table 10-7). -/
def atomOp : AtomOp → Nat
  | .atadd => 3 | .atfadd => 4 | .cas => 5 | .fpadd => 6

/-- An atomic at this package: a logged result, a record of the fabric-operation log, then the access (R332). -/
def State.atomHere (s : State) (t : Tid) (x : Thread) (k : Task) (op : AtomOp) (a : W64) (wide : Bool) (b c : W64) (gd : Nat)
    (acq : Bool) (wait : Wait) : State :=
  let l := glocal a
  let n := atomSize wide
  let act : RelAccess := .atomic op a wide b c gd acq
  match (k.atomRec x.tid).bind (·.result) with
  | some (st, v) => s.threadEnd t act (.done st (bytesLE n v.toNat))
  | none =>
    if s.orderWait t a n true then s.hold t x wait
    else if s.homeHeld (some x.task) l n then (s.countHold (some x.task) l n).hold t x wait
    else if (k.atomRec x.tid).isNone && decide (logSize ≤ s.logUsed) then s.hold t x .log
    else
      let s := if (k.atomRec x.tid).isSome then s
        else s.takeLog x.task k { tid := x.tid, index := SMap.get 0 k.atomCount x.tid, dst := 0xFFF, tag := 0 }
      let (s, out) := s.homeTry k.part [x.task] none l act.homeOp (.thread t act)
      s.threadEnd t act out

/-- An atomic at another package: its tag, its record, and the request; the thread waits for the answer (R265, R332). A release
travels as OC0 (R67). -/
def State.atomFar (s : State) (t : Tid) (x : Thread) (k : Task) (op : AtomOp) (a : W64) (wide : Bool) (b c : W64) (gd : Nat)
    (release : Bool) (wait : Wait) : State :=
  let n := atomSize wide
  let dst := gcoord a
  let die := t.core.val / 64
  let old := k.atomRec x.tid
  let tag := match old with | some r => r.tag.toNat | none => (s.peer dst).nextTag
  let cls : BitVec 2 := if release then 0 else 1
  let index := SMap.get 0 k.atomCount x.tid
  let body := bytesLE n b.toNat ++ (if op = .cas then bytesLE n c.toNat else [])
  if s.farHeld x.task a n then (s.count .replayHolds).hold t x wait
  else if s.orderWait t a n release then s.hold t x wait
  else if old.isNone && decide (logSize ≤ s.logUsed) then s.hold t x .log
  else if s.ctag dst + 4096 < tag then (s.count .atomicWaits).hold t x .log
  else
    let s' := if old.isSome then s
      else
        let p := s.peer dst
        (s.setPeer dst { p with nextTag := p.nextTag + 1 }).takeLog x.task k
          { tid := x.tid, index := index, dst := dst, tag := BitVec.ofNat 32 tag }
    let r : FabReq := { reqTo a cls body.length die body with tag := BitVec.ofNat 32 tag }
    match (s'.nearDrop die a n).sendReq (some k.part) (atomOp op) r (some x.task) (.atomic t (BitVec.ofNat 6 gd) wide (op != .atadd) index) with
    | (s', .sent seq) => s'.setThread t { x with wait := .far dst seq }
    | (_, .lost) => s.farFail t x stLost a
    | (_, .waits) => s.hold t x wait

/-- An atomic whose checks and release wait are over. -/
def State.atomNow (s : State) (t : Tid) (x : Thread) (k : Task) (op : AtomOp) (a : W64) (wide : Bool) (b c : W64) (gd : Nat)
    (acq release : Bool) (wait : Wait) : State :=
  if s.isOwn (gcoord a) then s.atomHere t x k op a wide b c gd acq wait
  else s.atomFar t x k op a wide b c gd release wait

/-- A thread's atomic (R67): EXC_SCRIPT first for FPADD32 under SCRIPTED (R53, R80), then the address checks. -/
def State.threadAtomic (s : State) (t : Tid) (f : SOp) (op : AtomOp) (u : SUse) (legal : Bool) : Result :=
  s.issue t f.pred f.pneg (sOk f u true && legal) false true fun x k =>
    let a := x.gr f.ga
    let release := decide (2 ≤ f.ord.toNat)
    let acq := f.ord.getLsbD 0
    let go : State :=
      if release && !s.releaseReady t k a false then
        s.hold t x (.release (.atomic op a f.w (x.gr f.gb) (x.gr f.gc) f.gd.toNat acq))
      else s.atomNow t x k op a f.w (x.gr f.gb) (x.gr f.gc) f.gd.toNat acq release .held
    if op = .fpadd ∧ s.isScripted k.part then s.raise t x .script a
    else if a.toNat % atomSize f.w ≠ 0 then s.raise t x .address a
    else
      match s.resolve k.part a with
      | .refused => s.refuseCount.raise t x .address a
      | .here l => if s.taskMayStore k l (atomSize f.w) then go else s.raise t x .address a
      | .far _ => if s.farGuarded (some k) a (atomSize f.w) then s.raise t x .address a else go

/-- ATADD: adds GB to the location at GA; nothing is returned. -/
def execAtadd (t : Tid) (f : SOp) (s : State) : Result :=
  s.threadAtomic t f .atadd { ga := true, gb := true } true
/-- ATFADD: GD ← old value; location ← old + GB. -/
def execAtfadd (t : Tid) (f : SOp) (s : State) : Result :=
  s.threadAtomic t f .atfadd { gd := true, ga := true, gb := true } true
/-- CAS: GD ← old value; GC is stored when old = GB. -/
def execCas (t : Tid) (f : SOp) (s : State) : Result :=
  s.threadAtomic t f .cas { gd := true, ga := true, gb := true, gc := true } true
/-- FPADD32: location ← FP32 sum; GD ← old value; W must be 0. -/
def execFpadd32 (t : Tid) (f : SOp) (s : State) : Result :=
  s.threadAtomic t f .fpadd { gd := true, ga := true, gb := true } (!f.w)

end Sys2Proof.Machine
end

