-- ==== Sys2Proof/Machine/Serve.lean ====
section
/-! DEFINITION. Requests of peers and of the host at this package: the receiver's checks (R263, R384), the atomic log (R265,
R266), stores that waited for acknowledgements (R267), and BAR4 accesses (R421 to R423). -/

namespace Sys2Proof.Machine

open Sys2Proof

/-! ## Form of a request (Table 10-7) -/

/-- Payload bytes of a request, LEN_M1 + 1. -/
def reqLen (r : FabReq) : Nat := r.lenM1.toNat + 1

/-- Whether an OP is an atomic. -/
def isAtomOp (op : Nat) : Bool := decide (3 ≤ op ∧ op ≤ 6)

/-- The atomic an OP names. -/
def opAtom (op : Nat) : AtomOp := if op = 3 then .atadd else if op = 4 then .atfadd else if op = 5 then .cas else .fpadd

/-- Bytes an access covers from LOCAL: an atomic covers its operand, CAS carrying two. -/
def reqSize (op : Nat) (r : FabReq) : Nat := if op = 5 then reqLen r / 2 else reqLen r

/-- Sizes a LOAD or STORE may have. -/
def loadSizes : List Nat := [1, 2, 4, 8, 64, 512, 4096]

/-- Whether the size, the payload and the alignment are those of Table 10-7 and R33. -/
def reqFormOk (op : Nat) (r : FabReq) : Bool :=
  let n := reqSize op r
  if op = 1 then loadSizes.contains n && decide (r.addr.toNat % min n 64 = 0)
  else if op = 2 then loadSizes.contains n && decide (r.addr.toNat % min n 64 = 0) && decide (r.body.length = n)
  else if isAtomOp op then (n == 4 || (n == 8 && op != 6)) && (op != 5 || reqLen r == 2 * n) && decide (r.addr.toNat % n = 0) &&
    decide (r.body.length = reqLen r)
  else true

/-! ## Receiver checks (R263) -/

/-- Check 3. -/
def State.senderOk (s : State) (p : Nat) (c : BitVec 12) : Bool :=
  s.inBlock p c || (s.fohOk p && decide (4 ≤ cx c ∧ cx c ≤ 14))

/-- Check 4: one window in use grants the right (bit 0 READ, 1 WRITE, 2 ATOMIC) over the whole range. -/
def State.windowGrants (s : State) (p right l n : Nat) : Bool :=
  (List.range (min 64 (fld (s.fctx p) 342 336))).any fun w =>
    let e := s.fwin p w
    bit e right && inside l n (fld e 255 192) (fld e 191 128)

/-- The right an OP needs. -/
def opRight (op : Nat) : Nat := if op = 1 then 0 else if isAtomOp op then 2 else 1

/-- Checks 2 to 4, on the fabric contexts as they are committed: the receiving partition. A COLL request needs no window. -/
def State.contextCheck (s : State) (op : Nat) (r : FabReq) : Option Nat :=
  (s.jobPart r.jobId).filter fun p =>
    s.senderOk p r.src && (op == 0x10 || s.windowGrants p (opRight op) r.addr.toNat (reqLen r))

/-- The request as it is kept: with what the contexts committed at its arrival say (R264). -/
def State.contextNoted (s : State) (op : Nat) (r : FabReq) : FabReq := { r with checked := some (s.contextCheck op r) }

/-- What checks 2 to 4 said when the request arrived. -/
def State.receiver (s : State) (op : Nat) (r : FabReq) : Option Nat := r.checked.getD (s.contextCheck op r)

/-- The five checks on a request that names a partition's job; answers the receiving partition. -/
def State.reqCheck (s : State) (op : Nat) (r : FabReq) : Option Nat :=
  (s.receiver op r).filter fun p =>
    let l := r.addr.toNat
    let n := reqLen r
    reqFormOk op r && (if op = 1 then s.mayLoad p l n else if op = 8 ∨ op = 9 then s.permits p l n else s.mayStore p l n)

/-- Refuses a request with DENIED, counted (R263). -/
def State.refuseReq (s : State) : State × Byte × List Byte := (s.count .fctxRefusals, stDenied, [])

/-! ## Answers -/

/-- Logs an atomic's result under TAG mod 4,096 (R265). -/
def State.logAtom (s : State) (r : FabReq) (st : Byte) (v : W64) : State :=
  let p := s.peer r.src
  s.setPeer r.src { p with atoms := SMap.put (r.tag.toNat % 4096) (r.tag.toNat, v, st) p.atoms }

/-- Answers a request that has been performed or refused: an atomic is logged, ATADD returns no value (Table 10-7). -/
def State.answer (s : State) (op : Nat) (r : FabReq) (st : Byte) (body : List Byte) : State :=
  let s := if isAtomOp op then s.logAtom r st (leWord 64 body) else s
  s.respond op r st (if op = 3 then [] else body)

/-- The access a request makes. -/
def reqOp (op : Nat) (r : FabReq) : HomeOp :=
  let n := reqSize op r
  if op = 1 then .load n
  else if op = 2 then .store [(r.addr.toNat, r.body)]
  else .atomic (opAtom op) (n == 8) (leWord 64 (r.body.take n)) (leWord 64 (r.body.drop n))

/-- Bit of the sender's die in the directory, for a sender of this tray (R267). -/
def State.dieBit (s : State) (r : FabReq) : Option Nat := if s.near r.src then some (4 * cx r.src + r.die.val) else none

/-! ## BAR4 (R421 to R423) -/

/-- Whether a function's access to [l, l + n) of this package passes R26, R31 and R52; the PF has no partition. -/
def State.hostAllows (s : State) (f l n : Nat) (store : Bool) : Bool :=
  if f = 0 then
    s.populated l n && !(decide (windowOf l = .control) && overlap (l - baseCtl) n 0x2000000 0x2000000) &&
      !(store && s.guarded l n)
  else if store then s.mayStore (f - 1) l n else s.mayLoad (f - 1) l n

/-- The partition a function acts for; 0xFF for the PF. -/
def fnPart (f : Nat) : Nat := if f = 0 then 0xFF else f - 1

/-- Ends a BAR4 store performed here, at a global address. -/
def State.hostStored (s : State) (f a : Nat) (st : Byte) : State :=
  if failing st then s.bar4Fail f (BitVec.ofNat 64 a) st else s

/-- Ends a piece of a BAR4 read performed here. -/
def State.hostLoaded (s : State) (f id pos a : Nat) (st : Byte) (body : List Byte) : State :=
  (if failing st then s.bar4Fail f (BitVec.ofNat 64 a) st else s).hostPiece id pos st body

/-- Local part of a global address held as a number. -/
def localOf (a : Nat) : Nat := a % 2 ^ 52

/-! ## Accesses that waited -/

/-- Keeps an access that must wait (R220, R336, R367). -/
def State.keepAct (s : State) (a : HomeAct) : State := { s with fab := { s.fab with held := s.fab.held ++ [a] } }

/-- The access of a thread that has ended or stopped: a store it had issued is performed, an atomic is not. -/
def State.orphanDone (s : State) (x : RelAccess) : State :=
  match x with
  | .store ps => (s.homeGo 0xFF [] (glocal x.addr) (.store (localPieces ps))).1
  | .atomic _ _ _ _ _ _ _ => s

/-- Performs a store or atomic whose acknowledgements have all come (R267); an engine's bytes stand already. -/
def State.homeDone (s : State) (act : HomeAct) : State :=
  match act with
  | .thread t x =>
    match s.thread? t with
    | some th =>
      if th.wait ≠ .home then s.orphanDone x
      else
        let p := ((s.task? th.task).map (·.part)).getD 0xFF
        let (s, out) := s.homeGo p [th.task] (glocal x.addr) x.homeOp
        s.threadEnd t x out
    | none => s.orphanDone x
  | .orphan _ x => s.orphanDone x
  | .engine => s
  | .request op r =>
    match s.homeGo ((s.receiver op r).getD 0xFF) [] r.addr.toNat (reqOp op r) act.input with
    | (s, .done st body) => s.answer op r st body
    | (s, _) => s.keepAct act
  | .host f a bytes =>
    match s.homeGo (fnPart f) [] (localOf a) (.store [(localOf a, bytes)]) act.input with
    | (s, .done st _) => s.hostStored f a st
    | (s, _) => s.keepAct act
  | .hostRead f id pos a n =>
    match s.homeGo (fnPart f) [] (localOf a) (.load n) with
    | (s, .done st body) => s.hostLoaded f id pos a st body
    | (s, _) => s.keepAct act
  | .bell c tail v => s.bellWrite c tail v

/-- Takes a line or dies out of what the waiting stores wait for; those that wait for nothing more are performed in order. -/
def State.acknowledge (s : State) (f : Nat × Nat → Option (Nat × Nat)) : State :=
  let hs := s.fab.homeStores.map fun h => { h with waits := h.waits.filterMap f }
  let s := { s with fab := { s.fab with homeStores := hs.filter fun h => !h.waits.isEmpty } }
  (hs.filter fun h => h.waits.isEmpty).foldl (fun s h => s.homeDone h.act) s

/-! ## Peer mailboxes (R384) -/

/-- First peer mailbox and the offset past the last. -/
def peerBoxes : Nat × Nat := (baseCtl + 192 * 0x10000, 0x400000)

/-- A LOAD or STORE with JOB_ID 0: only a peer mailbox, from a torus coordinate, not one that another source has claimed. A
source's first GO claims the mailbox. -/
def State.mailboxReq (s : State) (op : Nat) (r : FabReq) : State × Byte × List Byte :=
  let l := r.addr.toNat
  let n := reqSize op r
  let e := s.route r.src
  let o := l - baseCtl
  let boxes := [o / 0x10000, (o + n - 1) / 0x10000]
  if !((op == 1 || op == 2) && reqFormOk op r && inside l n peerBoxes.1 peerBoxes.2 && routeValid e && !routeFoh e) ||
      boxes.any (fun m => (s.mailbox m).claim.any (· != r.src)) then s.refuseReq
  else if op = 1 then (s, stOk, (List.range n).map fun i => s.ctlByte (o + i))
  else
    let s := boxes.foldl (fun s m =>
      if overlap (m * 0x10000 + 0x10) 8 o n then s.setMailbox m { s.mailbox m with claim := some r.src } else s) s
    (s.ctlStore o r.body, stOk, [])

/-! ## What a wait looks at -/

/-- Whether an earlier operation of the source keeps a request waiting (R47, R49): both ordered, or either in OC2. -/
def reqBehind (r e : FabReq) : Bool := r.src == e.src && clsOrdered r.cls e.cls

/-- The request an act performs. -/
def HomeAct.req? : HomeAct → Option FabReq
  | .request _ r => some r
  | _ => none

/-- Whether a request waits behind what is held before it or waits for acknowledgements. -/
def State.reqWaits (s : State) (r : FabReq) : Bool :=
  (s.fab.held ++ s.fab.homeStores.map (·.act)).any fun a => a.req?.any fun e => reqBehind r e

end Sys2Proof.Machine
end

