-- ==== Sys2Proof/Machine/Loss.lean ====
section
/-! DEFINITION. Loss of a package and switch-in (R257 to R259, R341, R342): the declaration, the sequence of Table 10-5, the
route update and a survivor's actions (Table 13-5), and the ASSUME of an understudy (R256, R263). -/

namespace Sys2Proof.Machine

open Sys2Proof

/-! ## A survivor's actions (Table 13-5) -/

/-- Dies of a tray coordinate as bits of a directory entry. -/
def trayDies (c : BitVec 12) : Nat := 0xF * 2 ^ (4 * cx c)

/-- Clears bits of a mask. -/
def clearBits (v m : Nat) : Nat := v - (v &&& m)

/-- Order 3: copies of lines homed at c leave the die caches, and c's bits leave the directory (R267). -/
def State.forgetLines (s : State) (c : BitVec 12) : State :=
  let s := s.dropLines fun _ l => lineCoord l == c
  if !s.near c then s
  else
    let dir : SMap Nat := s.fab.directory.filterMap fun e =>
      let v := clearBits e.2 (trayDies c)
      if v = 0 then none else some (e.1, v)
    ({ s with fab := { s.fab with directory := dir } }).acknowledge fun w =>
      let v := clearBits w.2 (trayDies c)
      if v = 0 then none else some (w.1, v)

/-- Order 4: collectives and casting calls with a participant at c end (R213, R277). -/
def State.endShared (s : State) (c : BitVec 12) : State :=
  s.parts.foldl (fun s e =>
    let p := e.1
    let s := match (s.part p).call with
      | some call =>
        if (List.range (fld call.word 87 80 + 1)).any fun r => s.num (fld call.word 447 384 + 2 * r) 2 == c.toNat then
          s.failCall p stLost false else s
      | none => s
    (s.part p).colls.foldl (fun s (g : Nat × CollRun) =>
      if (s.collMembers p g.2.desc).contains c then s.endColl p g.1 stLost false else s) s) s

/-- Order 5: uncommitted tasks with a declared range at c complete with TARGET_LOST (R338). -/
def State.loseTasks (s : State) (c : BitVec 12) : State :=
  (s.tasks.filter fun (e : Nat × Task) => e.2.ranges.any fun r => gcoord r.base == c).foldl (fun s (e : Nat × Task) =>
    match s.task? e.1 with
    | none => s
    | some t =>
      if t.phase = .running then s.endCast e.1 stLost true
      else
        s.taskDone e.1 { t with status := worst t.status stLost, phase := .complete, rerun := false
                                saved := [], savedArrays := [], savedTile := [], savedBytes := 0 }) s

/-- Whether an entry's object is read in tier F at a coordinate (Table 09-4). -/
def State.entryAt (s : State) (e : CueEntry) (c : BitVec 12) : Bool :=
  match SMap.find? (ceObject e.word) s.objects with
  | none => false
  | some o =>
    objTier o.desc false == 2 && gcoord (objBase o.desc false) == c

/-- Order 6: running fly entries that read tier F at c are poisoned (R235). -/
def State.loseEntries (s : State) (c : BitVec 12) : State :=
  s.parts.foldl (fun s x =>
    match s.selSheet x.1 with
    | none => s
    | some sh =>
      sh.entries.zipIdx.foldl (fun s e =>
        if (SMap.get .idle (s.part x.1).entryPhase e.2).reads ∧ s.entryAt e.1 c then
          ((s.poisonEntry x.1 (SMap.get .idle (s.part x.1).entryPhase e.2).engine e.1 stLost).dropJobs (· == .cue x.1 e.2)).modPart
            x.1 fun y => y.entryDone e.2 e.1.pos
        else s) s) s

/-- What every package does on the new entry of a lost coordinate, in the order of Table 13-5; its claims on mailboxes end
(R384) and its lock entry returns to 23 (R365). -/
def State.loseCoord (s : State) (c : BitVec 12) : State :=
  let mine := s.fab.pend.filter fun q => q.req.dst == c
  let s := s.failAll (mine.filter fun q => q.req.cls == 0) stLost
  let s := s.failAll (mine.filter fun q => q.req.cls != 0) stLost
  let s := s.failSends c
  let s := ((((s.forgetLines c).endShared c).loseTasks c).loseEntries c).setPeer c {}
  let s := { s with mailboxes := SMap.mapVals (fun _ (m : Mailbox) => if m.claim = some c then { m with claim := none } else m)
                                   s.mailboxes }
  (s.lockForget c).wakeHeld

/-- Switch-ins of other coordinates. -/
def dropSwitch (l : List SwitchIn) (c : BitVec 12) : List SwitchIn := l.filter fun x => x.coord != c

/-- Takes a new route-table entry (R257, R342). A switch-in is recorded in the store. -/
def State.takeRoute (s : State) (c : BitVec 12) (e : W64) : State :=
  let s := if routeState e = 0 then s else s.loseCoord c
  let s := { s with fab := { s.fab with
    routes := SMap.put c.toNat e s.fab.routes
    lost := if routeState e = 1 then (s.fab.lost ++ [c]).eraseDups else s.fab.lost.filter (· ≠ c) } }
  if routeState e = 2 then
    let rec_ : SwitchIn := { coord := c, tenure := routeTenure e, usport := routeUsport e }
    let s := { s with fab := { s.fab with switched := dropSwitch s.fab.switched c ++ [rec_] } }
    s.storeJob .records
  else s

/-! ## The switch-in (Table 10-5) -/

/-- A coordinate's entry with a new STATE, TENURE and USPORT. -/
def routeWith (e : W64) (state tenure usport : Nat) : W64 :=
  setFld (setFld (setFld e 61 58 tenure) 57 56 state) 43 43 usport

/-- The packages a route update goes to: c's two ring neighbours along S first, then every other on the torus (R257). -/
def State.updateTargets (s : State) (c : BitVec 12) : List (BitVec 12) :=
  let p := routePhys (s.route c)
  let ring := [s.stepped p s.spareAxis false, s.stepped p s.spareAxis true].eraseDups
  let all := (s.fab.routes.filter fun e => routeValid e.2 && !routeFoh e.2 && routeState e.2 != 1 && e.1 != c.toNat &&
    s.fab.coord != some (BitVec.ofNat 12 e.1)).map fun e => BitVec.ofNat 12 e.1
  (all.filter ring.contains) ++ all.filter fun x => !ring.contains x

/-- Sends a route update to every package and takes it here. -/
def State.spreadRoute (s : State) (c : BitVec 12) (e : W64) : State :=
  let s' := (s.updateTargets c).foldl (fun s d =>
    s.post none 0x0B { port := 0, dst := d, src := 0, cls := 2, lenM1 := 15, body := bytesLE 8 c.toNat ++ bytesLE 8 e.toNat } .control) s
  s'.pumpSends.takeRoute c e

/-- Whether the package at a physical position is gone: its coordinate is lost, absent or served elsewhere. -/
def State.gone (s : State) (c : BitVec 12) : Bool := !routeValid (s.route c) || routeState (s.route c) != 0

/-- Whether this package's house manager runs the switch-in of a coordinate (R257): at S − 1 of its position, or at S + 1
when that neighbour is lost or absent; not while its house manager restarts (R344). In a line of one package, which has no such neighbour,
any package that sees the loss acts (DESIGN CHOICE, log 97). -/
def State.runsSwitch (s : State) (c : BitVec 12) : Bool :=
  let ax := s.spareAxis
  let p := routePhys (s.route c)
  s.hmServes && s.role == 0 && s.fab.coord.isSome && routeValid (s.route c) && !routeFoh (s.route c) &&
    routeState (s.route c) != 1 && !s.isOwn c &&
    (s.axisLen ax == 1 || s.physCoord == s.stepped p ax false || (s.physCoord == s.stepped p ax true && s.gone (s.stepped p ax false)))

/-- Declares a package lost (R341): the record, the retirement of its position, and orders 1 and 2 of Table 10-5. The
requests to it fail, and a new sequence starts with the ASSUME. A line of one package has no switch-in (R257). -/
def State.declareLost (s : State) (c : BitVec 12) (halted : Bool) : State :=
  if !s.runsSwitch c || s.fab.switchIns.any (·.coord == c) then s
  else
    let e := s.route c
    let s := s.retireSite (.package c)
    let s := s.retired { detail := BitVec.ofNat 64 c.toNat, unit := c.toNat, unitType := 6, cause := 0x0A, status := stLost
                         detail2 := if halted then 1 else 0 }
    let up (n : Nat) : Bool := (s.port n).phase == .up
    if s.axisLen s.spareAxis = 1 || (!up 18 && !up 19) then s.spreadRoute c (routeWith e 1 (routeTenure e) (routeUsport e))
    else
      let us := if up 18 then 0 else 1
      let t := (routeTenure e + 1) % 16
      let s := s.failAll (s.fab.pend.filter fun q => q.req.dst == c) stLost
      let r : FabReq := { port := Fin.ofNat 24 (18 + us), dst := c, src := s.fab.coord.getD 0, cls := 2, lenM1 := 15, seq := 1
                          body := bytesLE 8 c.toNat ++ bytesLE 8 t }
      let s := s.setPeer c { nextOrdered := 2, broken := true }
      let s := { s with fab := { s.fab with
        switchIns := s.fab.switchIns ++ [({ coord := c, tenure := t, usport := us } : SwitchIn)]
        pend := s.fab.pend ++ [({ op := 0x0C, req := r, task := none, kind := .control } : PendReq)] } }
      s.emit 0x0C r

/-- The answer to ASSUME: order 3, or, where the understudy did not take the coordinate, the entry of a coordinate with no
understudy. -/
def State.assumed (s : State) (c : BitVec 12) (st : Byte) : State :=
  match s.fab.switchIns.find? fun x => x.coord == c with
  | none => s
  | some x =>
    let e := s.route c
    if failing st then
      ({ s with fab := { s.fab with switchIns := dropSwitch s.fab.switchIns c } }).spreadRoute c
        (routeWith e 1 (routeTenure e) (routeUsport e))
    else s.spreadRoute c (routeWith e 2 x.tenure x.usport)

/-! ## An understudy (R256, R257, R263) -/

/-- Whether an ASSUME reaches an understudy that holds no coordinate from a line member it serves. -/
def State.assumeOk (s : State) (r : FabReq) : Bool :=
  s.fab.coord.isNone && s.role != 0 && r.jobId == 0 && decide (r.port.val < 18) &&
    (s.port r.port.val).farCoord == r.src && decide (cx r.src = cx s.physCoord) &&
    decide (axisPos r.src (if s.spareAxis = 1 then 2 else 1) = s.lineThird)

/-- Takes a logical coordinate: end-to-end state starts afresh, the directory bits start clear, its partitions become ACTIVE, and the store
records it (R256, R257, R261, R267). -/
def State.assume (s : State) (r : FabReq) : State :=
  let c := BitVec.ofNat 12 (leNat (r.body.take 8))
  let t := leNat (r.body.drop 8) % 16
  let s := { s with fab := { s.fab with
    coord := some c, tenure := t, peers := [], directory := []
    switched := dropSwitch s.fab.switched c ++ [({ coord := c, tenure := t, usport := s.role - 1 } : SwitchIn)] } }
  ((List.range 128).foldl State.adoptPart s).storeJob .records

end Sys2Proof.Machine
end

