-- ==== Sys2Proof/Machine/Arrive.lean ====
section
/-! DEFINITION. The arrival of a fabric request: end-to-end order and duplicates (R261), the control messages (R260, R341,
R364), the performance of a request once nothing holds it, and what the host does through BAR4. -/

namespace Sys2Proof.Machine

open Sys2Proof

/-! ## Invalidates (R38) -/

/-- Begins to serve an invalidate: the copies go now, the answer follows once fills in flight have landed. -/
def State.serveInval (s : State) (v : Serving) : State :=
  let s := (s.invalidate v.home v.lo v.n).markFills v.home v.lo v.n true
  { s with fab := { s.fab with serving := s.fab.serving ++ [v] } }

/-! ## Control messages -/

/-- FREQ_CUE, ROUTE_UPDATE, ASSUME and HALT at a package that holds a coordinate: only with JOB_ID 0, and ROUTE_UPDATE and HALT
only from a coordinate with an entry (R260). Their payloads are those of Table 10-7. -/
def State.controlReq (s : State) (op : Nat) (r : FabReq) : State × Byte :=
  let size := if op = 0x0A ∨ op = 0x0D then 8 else 16
  let w (i : Nat) : Nat := leNat ((r.body.drop i).take 8)
  if r.jobId ≠ 0 ∨ reqLen r ≠ size ∨ r.body.length ≠ size then (s, stDenied)
  else if op = 0x0A then (s.takeCue r.src (w 0), stOk)
  else if op = 0x0B then
    if routeValid (s.route r.src) then (s.takeRoute (BitVec.ofNat 12 (w 0)) (BitVec.ofNat 64 (w 8)), stOk) else (s, stDenied)
  else if op = 0x0C then
    (s, if s.role ≠ 0 ∧ s.fab.coord = some (BitVec.ofNat 12 (w 0)) ∧ s.fab.tenure = w 8 % 16 then stOk else stDenied)
  else if routeValid (s.route r.src) then (s.declareLost r.src true, stOk) else (s, stDenied)

/-! ## Performing a request -/

/-- Whether an OP is one of Table 10-7 that a port brings as a request. -/
def knownOp (op : Nat) : Bool := decide (1 ≤ op ∧ op ≤ 6) || decide (8 ≤ op ∧ op ≤ 0xD) || op == 0x10

/-- A LOAD, STORE or atomic of a partition's job; true when it must wait. -/
def State.accessReq (s : State) (op : Nat) (r : FabReq) : State × Bool :=
  let l := r.addr.toNat
  let n := reqSize op r
  match s.reqCheck op r with
  | none => let (s, st, d) := s.refuseReq; (s.answer op r st d, false)
  | some p =>
    if op = 6 ∧ s.isScripted p then ((s.count .scriptTraps).answer op r stScript [], false)
    else if s.homeHeld none l n then (s, true)
    else
      match s.homeTry p [] (s.dieBit r) l (reqOp op r) (.request op r) with
      | (s, .done st d) =>
        let s := match s.dieBit r with
          | some b => if op = 1 && !failing st && inTiers l && (n == 64 || n == 512) then s.noteCopies b l n else s
          | none => s
        (s.answer op r st d, false)
      | (s, .acks) => (s, false)
      | (s, .replay) => (s, true)

/-- An atomic whose tag is not in the log. -/
def State.freshAtom (s : State) (op : Nat) (r : FabReq) (p : Peer) : State × Bool :=
  if r.tag.toNat ≤ p.latestCtag then
    let s := s.logFault { detail := BitVec.ofNat 64 r.src.toNat, unit := r.port.val, unitType := 5, cls := 5
                          cause := Config.staleAtomicCause.toNat, status := stDenied, detail2 := r.tag.setWidth 64 }
    (s.respond op r stDenied [], false)
  else s.accessReq op r

/-- An atomic (R265): a logged one is answered from the log, one whose tag is committed and not logged is refused. -/
def State.atomReq (s : State) (op : Nat) (r : FabReq) : State × Bool :=
  let p := s.peer r.src
  match SMap.find? (r.tag.toNat % 4096) p.atoms with
  | some (tag, v, st) =>
    if tag = r.tag.toNat then
      ((s.count .dupAtomics).respond op r st (if op = 3 ∨ failing st then [] else bytesLE (reqSize op r) v.toNat), false)
    else s.freshAtom op r p
  | none => s.freshAtom op r p

/-- A COLL request: its segment reaches the receiving partition's collective or casting call (R206, R270). One for a partition that is not
ACTIVE is acknowledged and discarded (DESIGN CHOICE, log 95). -/
def State.collReq (s : State) (r : FabReq) : State :=
  match s.receiver 0x10 r, r.seg with
  | some p, .coll g =>
    if (s.part p).phase != .active then s.credit r else (s.collTake p r g).pumpSends
  | some p, .cast g =>
    if (s.part p).phase != .active then s.credit r
    else (if fld g.hdr 245 243 = 5 ∨ fld g.hdr 245 243 = 6 then s.rowsArrive p r g else s.segArrive p r g).pumpSends
  | _, _ => s.refuseSeg r

/-- Performs a request that is next in its order; true when it must wait (R47, R49, R220, R336, R367). -/
def State.performReq (s : State) (op : Nat) (r : FabReq) : State × Bool :=
  if s.coolantHeld || s.reqWaits r then (s, true)
  else if op = 0x0C ∧ s.fab.coord.isNone then
    if s.assumeOk r ∧ reqLen r = 16 ∧ r.body.length = 16 then ((s.assume r).respond op r stOk [], false)
    else let (s, st, d) := s.refuseReq; (s.answer op r st d, false)
  else if s.fab.coord ≠ some r.dst then let (s, st, d) := s.refuseReq; (s.answer op r st d, false)
  else if !knownOp op then
    ((s.transient (.port r.port) 0x0F (BitVec.ofNat 64 r.port.val) (BitVec.ofNat 64 op) stDenied).answer op r stDenied [], false)
  else if 0x0A ≤ op then let (s, st) := s.controlReq op r; (s.answer op r st [], false)
  else if r.jobId = 0 then
    if op = 1 ∨ op = 2 then let (s, st, d) := s.mailboxReq op r; (s.answer op r st d, false)
    else let (s, st, d) := s.refuseReq; (s.answer op r st d, false)
  else if op = 0x10 then (s.collReq r, false)
  else if isAtomOp op then s.atomReq op r
  else if op ≤ 2 then s.accessReq op r
  else
    match s.reqCheck op r with
    | none => let (s, st, d) := s.refuseReq; (s.answer op r st d, false)
    | some _ =>
      if op = 9 then (s.answer op r stOk [], false)
      else
        (s.serveInval { src := r.src, seq := r.seq, jobId := r.jobId, home := BitVec.ofNat 12 (leNat ((r.body.drop 8).take 8))
                        lo := r.addr.toNat, n := leNat (r.body.take 8) }, false)

/-- Performs a request, or keeps it; `first` says whether it is held for the first time. -/
def State.takeReq (s : State) (op : Nat) (r : FabReq) (first : Bool) : State :=
  match s.performReq op r with
  | (s, false) => s
  | (s, true) =>
    (if first then s.countHold none r.addr.toNat (reqSize op r) else s).keepAct (.request op r)

/-! ## End-to-end order (R261) -/

/-- Segments held against their credits (R270, R275). -/
def State.heldCredits (s : State) : List FabReq :=
  s.parts.flatMap fun e => e.2.earlySegs ++ e.2.heldSegs ++ e.2.colls.flatMap fun c => c.2.wait

/-- Whether a request that has been taken has not been answered. -/
def State.unanswered (s : State) (r : FabReq) : Bool :=
  s.heldCredits.any (fun e => e.src == r.src && e.seq == r.seq) ||
  (s.fab.held ++ s.fab.homeStores.map (·.act)).any (fun a => a.req?.any fun e => e.src == r.src && e.seq == r.seq) ||
  s.fab.serving.any fun v => v.own.isNone && v.src == r.src && v.seq == r.seq

/-- A duplicate: a load is performed again, an atomic is answered from the log, any other is acknowledged again. -/
def State.duplicate (s : State) (op : Nat) (r : FabReq) : State :=
  let s := s.count .dupRequests
  if s.unanswered r then s
  else if op = 1 ∨ isAtomOp op then s.takeReq op r false
  else
    let st := (((s.peer r.src).refused.find? fun e => e.1 == r.seq).map Prod.snd).getD stOk
    s.respond op r st []

/-- Takes the early arrivals that are now in order. -/
def State.drainEarly : Nat → State → BitVec 12 → State
  | 0, s, _ => s
  | n + 1, s, c =>
    let p := s.peer c
    match p.early.find? fun e => e.1 == p.expect % 2 ^ 31 with
    | none => s
    | some e =>
      ((s.setPeer c { p with expect := p.expect + 1, early := p.early.filter fun x => x.1 != e.1 }).takeReq e.2.1 e.2.2 true).drainEarly
        n c

/-- A request for another package goes on along its route, one of the chunks of a segment by its own port (R252, R258). One that cannot go
on is answered: with TARGET_LOST where the coordinate is lost or no port leads on, with DENIED where it has no entry. -/
def State.passOn (s : State) (op : Nat) (r : FabReq) : State :=
  let e := s.route r.dst
  if !routeValid e then let (s, st, d) := s.refuseReq; s.respond op r st d
  else if routeState e = 1 then s.respond op r stLost []
  else
    match s.firstHop (s.jobPart r.jobId) r.dst (if op = 0x10 then r.seq.toNat % 2 ^ 31 else 0) with
    | .port n => s.emit op { r with port := Fin.ofNat 24 n }
    | .unreachable ax plus =>
      (s.logFault { detail := BitVec.ofNat 64 (2 * ax + (if plus then 0 else 1)), unit := r.dst.toNat, unitType := 6, cls := 5
                    cause := Config.unreachableCause.toNat, status := stLost }).respond op r stLost []

/-- A request arrives on a port that is UP (R261, R263); its header carries the source's CTAG (R265). A package that holds no coordinate
passes none on. -/
def State.arrive (s : State) (op : Nat) (r : FabReq) : State :=
  if !s.fabricUp || (s.port r.port.val).phase != .up then s
  else if s.fab.coord.isNone then s.takeReq op (s.contextNoted op r) true
  else if s.fab.coord ≠ some r.dst then s.passOn op r
  else
    let r := s.contextNoted op r
    let p : Peer := { s.peer r.src with latestCtag := max (s.peer r.src).latestCtag r.ctag.toNat }
    let s := s.setPeer r.src p
    let q : Nat := r.seq.toNat % 2 ^ 31
    if r.seq.msb then
      if p.seen.contains q then s.duplicate op r
      else (s.setPeer r.src { p with seen := (q :: p.seen).take 4096 }).takeReq op r true
    else
      let ahead : Nat := (q + 2 ^ 31 - p.expect % 2 ^ 31) % 2 ^ 31
      if ahead = 0 then ((s.setPeer r.src { p with expect := p.expect + 1 }).takeReq op r true).drainEarly 257 r.src
      else if 2 ^ 30 ≤ ahead then s.duplicate op r
      else if p.early.any fun e => e.1 == q then s.count .dupRequests
      else if 256 ≤ p.early.length then s.sendNak r p.expect
      else s.setPeer r.src { p with early := p.early ++ [(q, op, r)] }

/-! ## BAR4 (R414, R421 to R423) -/

/-- Whether an access of a function waits behind one that is held (R422). -/
def State.hostWaits (s : State) (f : Nat) : Bool :=
  s.fab.held.any fun a => match a with | .host g _ _ => g == f | .hostRead g _ _ _ _ => g == f | _ => false

/-- Whether a range of the control window covers a doorbell of a host queue. -/
def coversBell (l n : Nat) : Bool :=
  decide (windowOf l = .control) &&
    (List.range n).any fun i =>
      let o := l + i - baseCtl
      decide (0x1000000 ≤ o ∧ o < 0x2000000 ∧ o % 0x10000 < 0x8000) && (o % 0x400 / 8 == 5 || o % 0x400 / 8 == 7)

/-- A BAR4 store performed at this package: `a` is its global address. -/
def State.hostStore (s : State) (f a : Nat) (d : List Byte) : State :=
  let l := localOf a
  if s.coolantHeld || s.homeHeld none l d.length || (coversBell l d.length && s.bar4Busy f) then s.keepAct (.host f a d)
  else if !s.hostAllows f l d.length true then s.hostStored f a stDenied
  else
    match s.homeTry (fnPart f) [] none l (.store [(l, d)]) (.host f a d) with
    | (s, .done st _) => s.hostStored f a st
    | (s, .acks) => s
    | (s, .replay) => s.keepAct (.host f a d)

/-- A piece of a BAR4 read performed at this package. -/
def State.hostLoad (s : State) (f id pos a n : Nat) : State :=
  let l := localOf a
  if s.coolantHeld || s.homeHeld none l n then s.keepAct (.hostRead f id pos a n)
  else if !s.hostAllows f l n false then s.hostLoaded f id pos a stDenied []
  else
    match s.homeGo (fnPart f) [] l (.load n) with
    | (s, .done st d) => s.hostLoaded f id pos a st d
    | (s, _) => s.keepAct (.hostRead f id pos a n)

/-- Where a BAR4 access goes: a VF's under R28, the PF's only to this package. -/
def State.hostPlace (s : State) (f : Nat) (a : W64) : Place :=
  if f = 0 then (if s.isOwn (gcoord a) then .here (glocal a) else .refused) else s.resolve (f - 1) a

/-- Counts a refusal of R28 of a VF's access. -/
def State.hostRefused (s : State) (f : Nat) : State := if f = 0 then s else s.refuseCount

/-- One naturally aligned store of a BAR4 write (R422): a store in OC0, under die 0, whose copy of a near line goes. -/
def State.hostPut (s : State) (f a : Nat) (d : List Byte) : State :=
  if s.hostWaits f then s.keepAct (.host f a d)
  else
    match s.hostPlace f (BitVec.ofNat 64 a) with
    | .here _ => s.hostStore f a d
    | .refused => (s.hostRefused f).hostStored f a stDenied
    | .far _ =>
      if s.farGuarded none (BitVec.ofNat 64 a) d.length then s.hostStored f a stDenied else
      match (s.nearDrop 0 (BitVec.ofNat 64 a) d.length).sendReq (some (f - 1)) 2 (reqTo (BitVec.ofNat 64 a) 0 d.length 0 d) none
          (.bar4Write f) with
      | (s, .sent _) => s
      | (s, .lost) => s.hostStored f a stLost
      | (_, .waits) => s.keepAct (.host f a d)

/-- Whether a BAR4 write of a function to the lines of a far address is outstanding. -/
def State.hostWriteOut (s : State) (f a n : Nat) : Bool :=
  s.fab.pend.any fun q => q.kind == .bar4Write f && q.req.dst == gcoord (BitVec.ofNat 64 a) && q.meetsLines (localOf a) n

/-- One naturally aligned load of a BAR4 read (R422), served from the home: a far one is a non-posted load (Table 02-5), so it waits
for the function's writes to its lines. -/
def State.hostGet (s : State) (f id pos a n : Nat) : State :=
  if s.hostWaits f || s.hostWriteOut f a n then s.keepAct (.hostRead f id pos a n)
  else
    match s.hostPlace f (BitVec.ofNat 64 a) with
    | .here _ => s.hostLoad f id pos a n
    | .refused => (s.hostRefused f).hostLoaded f id pos a stDenied []
    | .far _ =>
      match s.sendReq (some (f - 1)) 1 (reqTo (BitVec.ofNat 64 a) 1 n) none (.bar4Read f id pos) with
      | (s, .sent _) => s
      | (s, .lost) => s.hostLoaded f id pos a stLost []
      | (_, .waits) => s.keepAct (.hostRead f id pos a n)

/-! ## Accesses that no longer wait -/

/-- Tries a held access again. -/
def State.actAgain (s : State) (a : HomeAct) : State :=
  match a with
  | .thread _ _ => s
  | .orphan _ _ => s
  | .engine => s
  | .request op r => s.takeReq op r false
  | .host f a d => s.hostPut f a d
  | .hostRead f id pos a n => s.hostGet f id pos a n
  | .bell c tail v => s.bell c tail v

/-- Performs the held accesses that nothing holds any more, in order (R220, R336, R368), sends what engines, collectives and the house
manager still have to send, and lets held threads issue again. -/
def State.releaseHeld (s : State) : State :=
  let s := s.fab.held.foldl State.actAgain { s with fab := { s.fab with held := [] } }
  s.pumpJobs.pumpSends.cohPump.wakeHeld

end Sys2Proof.Machine
end

