-- ==== Sys2Proof/Machine/CanNode.lean ====
section
/-! DEFINITION. The CAN FD node: its USDO server (R385), NMT states and heartbeat (R389), TPDOs (R390), the emergency
inhibit time (R391) and bus-off (R388, R392). -/

namespace Sys2Proof.Machine

open Sys2Proof

/-! ## USDO -/

/-- Ends a transfer in progress. -/
def State.usdoClear (s : State) : State := { s with can := { s.can with usdo := none } }

/-- USDO_INITIATE: an initiating request. It ends a transfer in progress. A segmented write waits for its last segment, any other
access is ready at once (R382). -/
def execUsdoInitiate (write : Bool) (x : OdAddr) (d : List Byte) (segmented : Bool) (s : State) : Result :=
  if !s.canServes then .next s
  else
    let s := s.usdoClear
    if write && segmented then
      .next ({ s with can := { s.can with usdo := some { write := true, addr := x, data := d } } }.usdoAnswer (.ok []))
    else .next (s.usdoPerform write x d segmented).releaseHeld

/-- USDO_SEGMENT: a segment of a write adds its bytes, the last makes the write ready; a segment of a read takes the entry as it
stood at the initiating request (R382, R385). A segment of no transfer is no valid specifier. -/
def execUsdoSegment (d : List Byte) (last : Bool) (s : State) : Result :=
  if !s.canServes then .next s
  else
    match s.can.usdo with
    | none => .next (s.usdoAnswer (.error abSpecifier))
    | some u =>
      if u.write then
        if last then .next (s.usdoClear.usdoPerform true u.addr (u.data ++ d) true).releaseHeld
        else .next ({ s with can := { s.can with usdo := some { u with data := u.data ++ d } } }.usdoAnswer (.ok []))
      else .next (s.usdoClear.usdoAnswer (.ok u.data))

/-- USDO_TIMEOUT: a segmented transfer idle for more than 1 s is aborted (Table 15-3). -/
def execUsdoTimeout (s : State) : Result :=
  match s.can.usdo with
  | none => .next s
  | some _ => .next ((s.usdoClear.count .usdoTimeouts).usdoAnswer (.error 0x05040000))

/-! ## NMT -/

/-- Kind of the error-control frames in the outbox: boot-up and heartbeat. -/
def canErrorControl : Nat := 0

/-- Whether the node hears NMT commands: the house manager has started, the node has an identifier and the reference is present
(R388, R428). -/
def State.nmtHears (s : State) : Bool := s.house.running && s.house.nodeId != 0#7 && s.pins.refclk

/-- Takes an NMT state; emergencies that waited may go out. -/
def State.toNmt (s : State) (x : Nmt) : State := ({ s with can := { s.can with nmt := x } }).emcyGo

/-- NMT_START. -/
def execNmtStart (s : State) : Result := if s.nmtHears then .next (s.toNmt .operational) else .next s

/-- NMT_STOP: only heartbeat and NMT remain, so a USDO transfer ends. -/
def execNmtStop (s : State) : Result := if s.nmtHears then .next (s.usdoClear.toNmt .stopped) else .next s

/-- NMT_PRE_OPERATIONAL. -/
def execNmtPreOperational (s : State) : Result := if s.nmtHears then .next (s.toNmt .preOperational) else .next s

/-- NMT_RESET_COMMUNICATION: entries 0x1000 to 0x1FFF retake their persisted values, the data rate that was set takes effect,
then pre-operational (Tables 15-5 and 15-11). -/
def execNmtResetCommunication (s : State) : Result :=
  if !s.nmtHears then .next s
  else
    let kept := s.store.records.load s.house.nodeId.toNat
    let s := { s with od := takeEntries (fun e => decide (e.1 < 0x2000)) kept s.od }.usdoClear
    .next ({ s with can := { s.can with rate := s.cfgNum 0x2F20 1 0 1 } }.toNmt .preOperational)

/-- The house manager restarts (R344). -/
def State.hmRestart (s : State) : State := ({ s with house := { s.house with restarting := true } }).usdoClear

/-- NMT_RESET_NODE: the house manager restarts; the boot-up message follows (Table 15-5). -/
def execNmtResetNode (s : State) : Result :=
  if s.nmtHears then .next { s.hmRestart with can := { s.hmRestart.can with bootDue := true } } else .next s

/-- Code of an NMT state in a heartbeat (CiA 1301). -/
def nmtCode (x : Nmt) : Byte := match x with | .stopped => 0x04 | .operational => 0x05 | .preOperational => 0x7F

/-- HEARTBEAT: carries the NMT state; a period of 0 sends none, and none goes out while the house manager restarts (R344,
R389). -/
def execHeartbeat (s : State) : Result :=
  if s.nmtHears && s.hmServes && s.cfgNum 0x1017 0 0 2 != 0 then .next (s.send (.can canErrorControl [nmtCode s.can.nmt]))
  else .next s

/-! ## TPDOs (R390) -/

/-- Kind of a TPDO frame in the outbox. -/
def canTpdo : Nat := 2

/-- The mapped values of a TPDO, sampled at once. -/
def State.tpdoBytes (s : State) (n : Nat) : List Byte :=
  (List.range (s.cfgNum (0x1A00 + n) 0 0 1)).flatMap fun i =>
    let w := s.cfgNum (0x1A00 + n) (i + 1) 0 4
    (List.range (w % 256 / 8)).map fun o => s.odByte (w / 2 ^ 16) (w / 256 % 256) o

/-- TPDO_EVENT: a valid TPDO with an event timer is sent in the operational state. -/
def execTpdoEvent (n : Fin 4) (s : State) : Result :=
  if s.nmtHears && s.hmServes && s.can.nmt == .operational && decide (s.cfgByte (0x1800 + n.val) 1 3 < 0x80) &&
      s.cfgNum (0x1800 + n.val) 5 0 2 != 0 then
    .next (s.send (.can canTpdo (BitVec.ofNat 8 (n.val + 1) :: s.tpdoBytes n.val)))
  else .next s

/-! ## Emergencies and bus-off -/

/-- EMCY_INHIBIT: the inhibit time has passed and the next queued EMCY is sent (R391). -/
def execEmcyInhibit (s : State) : Result := .next ({ s with can := { s.can with inhibited := false } }.emcyGo)

/-- BUS_OFF: counted; the controller recovers, and bit 4 of the error register stands for 10 s (R388, R392). -/
def execBusOff (s : State) : Result :=
  if !s.house.started ∨ s.house.nodeId = 0#7 then .next s
  else .next ({ s with can := { s.can with busOffRecent := true } }.count .busOffs).settle

/-- BUS_OFF_WINDOW_EXPIRY: 10 s after the latest bus-off (R392). -/
def execBusOffWindowExpiry (s : State) : Result := .next { s with can := { s.can with busOffRecent := false } }.settle

end Sys2Proof.Machine
end

