-- ==== Sys2Proof/Machine/Collectives.lean ====
section
/-! DEFINITION. Collectives: a posting, the arrival of a segment, the time limit (R270, R275, R277). -/

namespace Sys2Proof.Machine

open Sys2Proof

/-- Whether a descriptor's KIND and reserved bits stand (Table 10-10). -/
def collFieldsOk (d : W512) : Bool := decide (cKind d ≤ 6) && zeroFld d 220 0

/-- Reads an extent for a unit of the package: the first uncorrectable line begins a replay or makes the data poison. -/
def State.readExts (s : State) (p k : Nat) (es : List (Nat × Nat)) : Option (State × Bool) :=
  match es.findSome? fun e => s.poisonAt e.1 e.2 with
  | none => none
  | some l => some (s.readError p l [k])

/-- Coordinates this participant sends to: its successors on the rings, every other participant, or the root of a merge. -/
def State.collDests (s : State) (p : Nat) (c : CollRun) : List (BitVec 12) :=
  let ds := if cKind c.desc ≤ 2 then (s.rings p c).map (·.succ)
    else if cKind c.desc ≤ 4 then s.collMembers p c.desc else [cRoot c.desc]
  ds.filter fun m => !s.isOwn m

/-- Whether R28 refuses a coordinate to a partition. -/
def State.coordRefused (s : State) (p : Nat) (m : BitVec 12) : Bool := s.resolve p (BitVec.ofNat 64 (m.toNat * 2 ^ 52)) == .refused

/-- What keeps a collective or a call from starting with those it sends to and its members: a refusal of R28, each counted, or a member
that is lost (R213, R253, R277). OK where nothing does. -/
def State.coordsStatus (s : State) (p : Nat) (dests members : List (BitVec 12)) : State × Byte :=
  let bad := dests.filter (s.coordRefused p)
  let lost := members.any fun m => !s.isOwn m && routeState (s.route m) == 1
  (bad.foldl (fun s _ => s.refuseCount) s, worst (if bad.isEmpty then stOk else stDenied) (if lost then stLost else stOk))

/-- Notes an all-to-all of a layer, once (R208). -/
def State.noteAllToAll (s : State) (p : Nat) (d : W512) : State :=
  s.modPart p fun x =>
    let e := (cLayer d, cId d)
    { x with allToAlls := if cKind d ≠ 4 ∨ x.allToAlls.contains e then x.allToAlls else x.allToAlls ++ [e] }

/-- Starts a posted collective: what it sends leaves, its own share is taken, then the segments that came early; an all-to-all of a casting
call carries the call's rows (R208, R270). -/
def State.collBegin (s : State) (p : Nat) (c : CollRun) : State :=
  let d := c.desc
  let id := (cId d).toNat
  let s := (s.takeLayer p (cLayer d)).noteAllToAll p d
  let c := { c with rowPhase := s.rowPhase p d }
  let x := s.part p
  let isMine (r : FabReq) : Bool := (segOf r).any fun g => g.collId == cId d
  let s := s.setPart p { x with
    colls := SMap.put id c x.colls, sentSegs := SMap.del id x.sentSegs, earlySegs := x.earlySegs.filter fun r => !isMine r }
  let s := match c.rowPhase, SMap.find? (cLayer d) x.endedCalls with
    | some phase, some call => s.rowsStart p call c phase
    | _, _ => s.collStart p c
  (x.earlySegs.filter isMine).foldl (fun s r => match segOf r with | some g => s.collTake p r g | none => s) s

/-- Posts a dispatched collective (R270): a bad descriptor is a job fault; an extent outside the partition's allocations, an output that
refuses a store, or a coordinate that R28 refuses completes it with DENIED, a lost participant with TARGET_LOST. -/
def State.postColl (s : State) (k : Nat) (t : Task) : State :=
  let p := t.part
  let d := s.word512 (dAux t.desc)
  let s := s.setTask k { t with handed := true }
  if !s.inAllocs p (dAux t.desc) 64 then s.taskStatus k stDenied
  else if !collFieldsOk d then s.jobFault p
  else
    let listOk := !bit d 229 || s.extOk p (cAux d, 2 * (fld d 228 221 + 1))
    let members := s.collMembers p d
    let exts := s.collExts d members.length
    let tableOk := cKind d != 4 || s.extOk p (cAux d, 32 * members.length)
    match members.findIdx? fun m => s.isOwn m with
    | none => s.taskStatus k stDenied
    | some i =>
      if !listOk || !tableOk || !(exts.1.all (s.extOk p)) || !s.extOk p exts.2 || s.guarded exts.2.1 exts.2.2 then
        s.taskStatus k stDenied
      else
        let c : CollRun := { task := k, desc := d, index := i, n := members.length, startTick := s.clk.ticks }
        match s.coordsStatus p (s.collDests p c) members with
        | (s, st) =>
          if st ≠ stOk then s.taskStatus k st
          else
            match s.readExts p k ((dAux t.desc, 64) :: exts.1) with
            | some (s', true) => s'
            | some (s', false) => s'.taskStatus k stPoison
            | none => s.collBegin p (c.setValues 0 (s.floats (cSrc d) (if cKind d ≤ 2 then cCount d else 0)))

/-- COLLECTIVE: a dispatched collective is handed to the fabric. -/
def execCollective (k : Nat) (s : State) : Result :=
  match s.task? k with
  | none => .next s
  | some t =>
    if !s.working || dType t.desc != 0x64 || t.phase != .running || t.handed then .next s
    else .next ((s.postColl k t).heldRows t.part).pumpSends

/-- COLL: a segment arrives as a COLL request (R263, R270). -/
def execColl (r : FabReq) (g : CollSegment) (s : State) : Result := .next (s.arrive 0x10 { r with seg := .coll g })

/-- Participants that a segment shows to have posted: those whose values it carries on a ring, else its sender (R272, R273). -/
def State.shownBy (s : State) (p : Nat) (c : CollRun) (g : CollSegment) : List Nat :=
  if 2 < cKind c.desc then [g.sender]
  else
    let rs := s.rings p c
    let mine := s.ringPlaces p c c.index
    (List.range c.n).filter fun i =>
      match rs[g.stage]? with
      | none => true
      | some r =>
        let at_ := s.ringPlaces p c i
        let steps (v : Nat) : Nat := (v + 2 * r.n - (g.pos % r.n + 1)) % r.n
        at_.drop (g.stage + 1) == mine.drop (g.stage + 1) &&
          decide (steps (at_.getD g.stage 0) ≤ steps ((s.ringPlaces p c g.sender).getD g.stage 0))

/-- Whether every participant is known to have posted (R277). -/
def State.allPosted (s : State) (p : Nat) (c : CollRun) : Bool :=
  let shown := c.index :: (c.segs ++ c.wait.filterMap segOf).flatMap (s.shownBy p c)
  (List.range c.n).all shown.contains

/-- COLL_TIMEOUT: of the collectives whose participants are not all known to have posted, the one posted longest ago completes with
DENIED; a limit of 0 never runs out (R277). -/
def execCollTimeout (p : Fin 128) (s : State) : Result :=
  let open_ : List (Nat × CollRun) := (s.part p.val).colls.filter fun e => e.2.ended.isNone && !s.allPosted p.val e.2
  match leastBy (fun a b => decide (a.2.startTick < b.2.startTick)) open_ with
  | none => .next s
  | some (id, _) =>
    if !s.working || s.cfgNum 0x2403 0 0 4 = 0 then .next s
    else .next ((s.endColl p.val id stDenied false).count .collTimeouts)

end Sys2Proof.Machine
end

