-- ==== Sys2Proof/Machine/Casting.lean ====
section
/-! DEFINITION. The casting unit's commands (chapter 8): a call, the arrival of its segments, a slot's final list, the time
limit, and the rows of the dispatch and return all-to-alls (R208). -/

namespace Sys2Proof.Machine

open Sys2Proof

/-- Hands a dispatched call to the casting unit (R196, R197, R198). A call that cannot start ends with its status, counted (R214): a
coordinate of the map that R28 refuses with DENIED, a lost member with TARGET_LOST (R213). -/
def State.handCall (s : State) (k : Nat) (t : Task) : State :=
  let p := t.part
  let s := s.setTask k { t with handed := true }
  let c := s.callOf k t
  let biasOk := s.inAllocs p (c.bias 0) (2 * castSstr c.experts)
  if !s.inAllocs p (dAux t.desc) 64 then (s.taskStatus k stDenied).count .calls p
  else if !s.callFieldsOk c then s.jobFault p
  else if !biasOk || !(c.reads ++ c.writes).all (s.extOk p) || c.writes.any (fun e => s.guarded e.1 e.2) then
    let s := (s.taskStatus k stDenied).count .calls p
    if biasOk && !s.guarded (c.bias (c.step + 1)) (4 * c.experts) then
      s.homeWrite (c.bias (c.step + 1)) (s.bytes (c.bias c.step) (4 * c.experts)) else s
  else
    let ranks := ((List.range c.group).filter (· ≠ c.rank)).map (s.rankCoord c)
    match s.coordsStatus p ranks ranks with
    | (s, st) =>
      if st ≠ stOk then (s.setCall p c).failCall p st false
      else
        match s.readExts p k ((dAux t.desc, 64) :: c.reads) with
        | some (s', true) => s'
        | some (s', false) => (s'.setCall p c).failCall p stPoison false
        | none =>
          let c := s.callCrcs c
          ((s.setTask k { t with handed := true, guards := t.guards ++ c.reads }).callBegin p c).takeHeld p c

/-- CASTING_CALL: a dispatched call starts when its partition has none running and no earlier one waits (R198). -/
def execCastingCall (k : Nat) (s : State) : Result :=
  match s.task? k with
  | none => .next s
  | some t =>
    let first := !(s.tasks.any fun e => decide (e.1 < k) && e.2.part == t.part && dType e.2.desc == 0x63 &&
      e.2.phase == .running && !e.2.handed)
    if !s.working || dType t.desc != 0x63 || t.phase != .running || t.handed || (s.part t.part).call.isSome || !first then .next s
    else .next (s.handCall k t).pumpSends

/-- A segment of a casting call arrives as a COLL request; its header says which phase (R206). -/
def State.castSegment (s : State) (r : FabReq) (g : Segment) : State := s.arrive 0x10 { r with seg := .cast g }

/-- SCORES_SEGMENT (R200). -/
def execScoresSegment (r : FabReq) (g : Segment) (s : State) : Result := .next (s.castSegment r g)
/-- OFFERS_SEGMENT (R201). -/
def execOffersSegment (r : FabReq) (g : Segment) (s : State) : Result := .next (s.castSegment r g)
/-- RESPONSES_SEGMENT (R201). -/
def execResponsesSegment (r : FabReq) (g : Segment) (s : State) : Result := .next (s.castSegment r g)
/-- NOTICES_SEGMENT (R200). -/
def execNoticesSegment (r : FabReq) (g : Segment) (s : State) : Result := .next (s.castSegment r g)
/-- COUNTS_SEGMENT (R204). -/
def execCountsSegment (r : FabReq) (g : Segment) (s : State) : Result := .next (s.castSegment r g)
/-- FAIL_SEGMENT (R207). -/
def execFailSegment (r : FabReq) (g : Segment) (s : State) : Result := .next (s.castSegment r g)
/-- DISPATCH_SEGMENT: rows of a home's tokens for this owner's slots (R208). -/
def execDispatchSegment (r : FabReq) (g : Segment) (s : State) : Result := .next (s.castSegment r g)
/-- RETURN_SEGMENT: an owner's outputs for this home's tokens (R208). -/
def execReturnSegment (r : FabReq) (g : Segment) (s : State) : Result := .next (s.castSegment r g)

/-- Cancels the fetches of an empty slot's object for the step: entries not yet started are skipped, their tiles counted
(R210, R236). -/
def State.cancelObject (s : State) (p id : Nat) : State :=
  let x := s.part p
  match s.selSheet p with
  | none => s
  | some sh =>
    let mine := sh.entries.zipIdx.filter fun e => ceObject e.1.word == id && SMap.get .idle x.entryPhase e.2 == .idle
    let s := s.setPart p { x with
      cancelled := BitVec.ofNat 64 id :: x.cancelled, entryPhase := mine.foldl (fun m e => SMap.put e.2 .skipped m) x.entryPhase }
    s.count .cancelledTiles p (mine.foldl (fun n e => n + ceTiles e.1.word) 0)

/-- A slot drew no token: its object's fetches are cancelled and its routed tasks complete (R210). -/
def State.slotEmpty (s : State) (p l slot e id : Nat) : State :=
  ((s.cancelObject p id).modPart p fun x => { x with emptySlots := (l, slot, e) :: x.emptySlots }).noteAll

/-- SLOT_LIST_FINAL: an owned slot's list is written; an empty one cancels its object's fetches (R202, R209, R210). -/
def execSlotListFinal (p : Fin 128) (j : Fin 64) (s : State) : Result :=
  match (s.part p.val).call with
  | none => .next s
  | some c =>
    match (s.owned c c.rank).find? fun x => x.1 == j.val with
    | none => .next s
    | some (_, e) =>
      if !s.working || !c.selected || c.finalSlots.contains j.val then .next s
      else
        let s := s.homeWrite (c.out + j.val * castOsz c.cap) (c.listBytes j.val)
        let s := (s.setCall p.val { c with finalSlots := j.val :: c.finalSlots }).callSettle p.val
        .next (if (c.takenOf j.val).isEmpty then s.slotEmpty p.val c.layer j.val e (meObject (s.mapEntry c e)) else s)

/-- CAST_TIMEOUT: the running call completes with DENIED; a limit of 0 never runs out (R198). -/
def execCastTimeout (p : Fin 128) (s : State) : Result :=
  if !s.working || s.cfgNum 0x270F 0 0 4 = 0 || (s.part p.val).call.isNone then .next s
  else .next ((s.failCall p.val stDenied false).count .castTimeouts p.val)

end Sys2Proof.Machine
end

