-- ==== Sys2Proof/Machine/Contexts.lean ====
section
/-! DEFINITION. Context operations (R172 to R180): pools, contexts, prefix handles. -/

namespace Sys2Proof.Machine

open Sys2Proof

/-- Whether an entry class is that of a context operation code. -/
def isCtxOp (code cls : Nat) : Bool := cls == 0x40 + code

/-- POOL: registers a page pool (R177). -/
def State.poolOp (s : State) (k p : Nat) (w : W512) : State :=
  let n := (wordA w).toNat
  let base := wordB w
  let size := (wordC w).toNat
  let d := wordD w
  let busy := (s.pool? p n).any fun x => !x.counts.isEmpty
  if busy || !zeroFld base 63 52 || !s.inAllocs p base.toNat size then s.finish k stDenied
  else
    (s.setPool p n { base := base.toNat, size := size, dblk := fld d 63 48 / 32, pmax := fld d 47 44, train := bit d 43 }).finish
      k stOk

/-- POOL. -/
def execPool (q : QRef) (e : W512) (s : State) : Result := s.withEntry q e (isCtxOp 1) State.poolOp

/-- A fresh descriptor (Table 07-3): the image's fields but those the KK7 keeps. -/
def freshCtx (img : W512) (p tenure use : Nat) : W512 :=
  let d : W512 := BitVec.ofNat 512 (fld img 447 384 * 2 ^ 384 + fld img 351 294 * 2 ^ 294 + fld img 293 282 * 2 ^ 282 +
    fld img 240 237 * 2 ^ 237)
  setFld (setFld (setFld d 281 275 p) 274 272 1) 271 241 (tenure % 16 * 2 ^ 27 + use % 2 ^ 27)

/-- The reference of a descriptor (Table 07-2). -/
def State.ctxRef (s : State) (i : Nat) (d : W512) : W64 :=
  BitVec.ofNat 64 ((s.fab.coord.getD 0xFFF).toNat * 2 ^ 52 + i * 2 ^ 31 + ctxGen d)

/-- CTX_ALLOC: takes the lowest FREE descriptor, with its page table cleared (R173, R174, R179). -/
def State.ctxAllocOp (s : State) (k p : Nat) (w : W512) : State :=
  let a := wordA w
  if !zeroFld a 63 52 || !s.permits p a.toNat 64 then s.finish k stDenied
  else
    let img := s.word512 a.toNat
    let t := ctxTableExt img
    let free := SMap.lowestFree 2097152 (SMap.keep (fun _ d => ctxState d != 0) s.ctxs)
    if s.poisoned a.toNat 64 then (s.memError (a.toNat / 64 * 64) 0 stPoison p).finish k stPoison
    else if !zeroFld (BitVec.ofNat 64 t.1) 63 52 || !s.inAllocs p t.1 t.2 then s.finish k stDenied
    else
      let badPool := ctxTrain img && (s.pool? p (ctxPool img)).any fun x => !x.train
      match free with
      | none => s.finish k stQuota
      | some i =>
        if badPool || decide (s.quotaH p < s.usedH p + 64) then s.finish k stQuota
        else
          let use := (((SMap.find? i s.ctxs).map fun d => ctxGen d % 2 ^ 27).getD 0) + 1
          let d := freshCtx img p s.fab.tenure use
          ((s.clearMem t.1 t.2).setCtx i d).finish k stOk (s.ctxRef i d)

/-- CTX_ALLOC. -/
def execCtxAlloc (q : QRef) (e : W512) (s : State) : Result := s.withEntry q e (isCtxOp 2) State.ctxAllocOp

/-- CTX_RELEASE: accepted; it completes once no uncommitted task names the context (R180). -/
def State.ctxReleaseOp (s : State) (k p : Nat) (w : W512) : State :=
  match s.refCheck p (wordA w) with
  | .error st => s.finish k st
  | .ok (i, _) => s.modExtra i fun x => { x with releasing := some k }

/-- CTX_RELEASE. -/
def execCtxRelease (q : QRef) (e : W512) (s : State) : Result := s.withEntry q e (isCtxOp 3) State.ctxReleaseOp

/-- Whether an uncommitted task names a context: through its request, open or ended, or through its tree. -/
def State.ctxNamed (s : State) (i : Nat) (d : W512) : Bool :=
  let r := s.ctxRef i d
  s.tasks.any fun e =>
    let c := s.taskCtx e.2
    e.2.part == ctxPart d &&
    (c == r || (s.isOwn (gcoord c) && fld c 51 0 == fld r 51 0) ||
      (dType e.2.desc == 0x61 && dMask e.2.desc == 2 && !dCollect e.2.desc &&
        decide (s.num (dAux e.2.desc + 56) 8 % 2 ^ 52 = fld r 51 0)))

/-- Valid entries of a context: (layer, group, page index, page base). -/
def State.ctxEntries (s : State) (d : W512) : List (Nat × Nat × Nat × W64) :=
  (ctxHeads d).flatMap fun (l, h) =>
    ((List.range (ctxPages d)).map fun k => (l, h, k, s.pageEntry d l h k)).filter fun x => bit x.2.2.2 0

/-- CTX_RELEASE_COMPLETE: frees unshared pages, lowers the counts of shared ones, and the descriptor is FREE. -/
def execCtxReleaseComplete (i : Fin 2097152) (s : State) : Result :=
  let x := SMap.get {} s.ctxExtra i.val
  match x.releasing, SMap.find? i.val s.ctxs with
  | some k, some d =>
    if s.ctxNamed i.val d then .next s
    else
      let p := ctxPart d
      let s := (s.ctxEntries d).foldl (fun s e => s.dropPage p (ctxPool d) (entryPage e.2.2.2)) s
      let s := x.scratch.foldl (fun s e => s.dropPage p (ctxPool d) e.2.page) s
      let s := { s with ctxExtra := SMap.del i.val s.ctxExtra }
      .next ((s.setCtx i.val (setFld d 274 272 0)).finish k stOk)
  | _, _ => .next s

/-- PUBLISH: registers the whole pages of a prefix, shared and counted, and a snapshot of its last partial page (R178,
R179). -/
def State.publishOp (s : State) (k p : Nat) (w : W512) : State :=
  match s.refCheck p (wordA w) with
  | .error st => s.finish k st
  | .ok (_, d) =>
    let h := wordB w
    let len := min (wordC w).toNat (ctxLen d)
    match SMap.find? h.toNat (s.part p).handles with
    | some x => s.finish k stOk (BitVec.ofNat 64 x.len)
    | none =>
      if len = 0 ∨ h = 0 then s.finish k stOk 0
      else
        let whole := len / 256
        let cut := len % 256
        let heads := ctxHeads d
        let n := ctxPool d
        let chain := heads.flatMap fun (l, g) => (List.range whole).map fun j => (l, g, j, entryPage (s.pageEntry d l g j))
        let room := ((s.pool? p n).map (·.free)).getD 0
        if 65536 ≤ (s.part p).handles.length ∨ (cut ≠ 0 ∧ room < heads.length) ∨
            s.quotaH p < s.usedH p + 8 * chain.length then s.finish k stQuota
        else
          let s := chain.foldl (fun s (l, g, j, a) => (s.setPageEntry d l g j a true true).holdPage p n a) s
          let (s, snaps) := if cut = 0 then (s, []) else heads.foldl (fun (acc : State × SMap Nat) (l, g) =>
            let src := entryPage (acc.1.pageEntry d l g whole)
            let P := acc.1.pagePrec p n src
            match acc.1.takeSlot p n P with
            | none => acc
            | some (s, a) =>
              ((s.copyRows src a (ctxBlocks d) P (ctxTrain d) cut).count .pageCopies p, SMap.put (groupKey l g) a acc.2))
            (s, [])
          let x : Prefix := {
            len := len, layerBase := ctxLayer0 d, layersM1 := ctxLayers d - 1, groupsM1 := ctxGroups d - 1
            dblkM1 := ctxBlocks d - 1, pool := n, snaps := snaps
            pages := chain.foldl (fun m (l, g, j, a) => SMap.put (pageKey l g j) a m) [] }
          let s := s.modPart p fun y => { y with handles := SMap.put h.toNat x y.handles }
          (s.count .handlePublishes p).finish k stOk (BitVec.ofNat 64 len)

/-- PUBLISH. -/
def execPublish (q : QRef) (e : W512) (s : State) : Result := s.withEntry q e (isCtxOp 4) State.publishOp

/-- Whether a prefix fits a context (R179). -/
def Prefix.fits (x : Prefix) (d : W512) : Bool :=
  ctxLen d == 0 && x.dblkM1 + 1 == ctxBlocks d && x.layerBase == ctxLayer0 d && x.layersM1 + 1 == ctxLayers d &&
    x.groupsM1 + 1 == ctxGroups d && x.pool == ctxPool d

/-- MAP: maps a published prefix into an empty context of its shape (R179). -/
def State.mapOp (s : State) (k p : Nat) (w : W512) : State :=
  match s.refCheck p (wordA w) with
  | .error st => s.finish k st
  | .ok (i, d) =>
    match SMap.find? (wordB w).toNat (s.part p).handles with
    | none => (s.count .handleMisses p).finish k stOk 0
    | some x =>
      if !x.fits d then (s.count .handleMisses p).finish k stOk 0
      else if ((s.pool? p x.pool).map (·.free)).getD 0 < x.snaps.length then s.finish k stQuota
      else
        let whole := x.len / 256
        let s := (ctxHeads d).foldl (fun s (l, g) => (List.range whole).foldl (fun s j =>
          let a := SMap.get 0 x.pages (pageKey l g j)
          let old := s.pageEntry d l g j
          let s := if bit old 0 then s.dropPage p x.pool (entryPage old) else s
          (s.setPageEntry d l g j a true true).holdPage p x.pool a) s) s
        let s := x.snaps.foldl (fun s e =>
          let l := e.1 / 64
          let g := e.1 % 64
          let P := s.pagePrec p x.pool e.2
          match s.takeSlot p x.pool P with
          | none => s
          | some (s, a) =>
            ((s.copyRows e.2 a (ctxBlocks d) P (ctxTrain d) (x.len % 256)).setPageEntry d l g whole a false false).count
              .pageCopies p) s
        let s := s.setCtx i (setFld (setFld d 383 352 x.len) 511 448 (wordB w).toNat)
        (s.count .handleMaps p).finish k stOk (BitVec.ofNat 64 x.len)

/-- MAP. -/
def execMap (q : QRef) (e : W512) (s : State) : Result := s.withEntry q e (isCtxOp 5) State.mapOp

/-- UNPUBLISH: removes a handle and lowers its pages' counts (R179). -/
def State.unpublishOp (s : State) (k p : Nat) (w : W512) : State :=
  let h := (wordA w).toNat
  match SMap.find? h (s.part p).handles with
  | none => s.finish k stOk
  | some x =>
    let s := (x.pages ++ x.snaps).foldl (fun s e => s.dropPage p x.pool e.2) s
    (s.modPart p fun y => { y with handles := SMap.del h y.handles }).finish k stOk

/-- UNPUBLISH. -/
def execUnpublish (q : QRef) (e : W512) (s : State) : Result := s.withEntry q e (isCtxOp 6) State.unpublishOp

/-- CTX_QUERY: writes the descriptor to the address in word B (R173, R280). -/
def State.ctxQueryOp (s : State) (k p : Nat) (w : W512) : State :=
  match s.refCheck p (wordA w) with
  | .error st => s.finish k st
  | .ok (_, d) =>
    let a := wordB w
    if !zeroFld a 63 52 || !s.mayStore p a.toNat 64 then s.finish k stDenied
    else (s.homeWrite a.toNat (bytesLE 64 d.toNat)).finish k stOk

/-- CTX_QUERY. -/
def execCtxQuery (q : QRef) (e : W512) (s : State) : Result := s.withEntry q e (isCtxOp 7) State.ctxQueryOp

end Sys2Proof.Machine
end

