-- ==== Sys2Proof/Machine/Control.lean ====
section
/-! DEFINITION. Fences, invalidates, barriers, waits and control flow of Table 03-11, FLYHINT (R74), and the events that end a
wait: FENCE_COMPLETE, RELEASE_ISSUE and WAITV_TIMEOUT (R42, R44, R76). -/

namespace Sys2Proof.Machine

open Sys2Proof

/-! ## FLYHINT -/

/-- FLYHINT: never changes a value; a hint without effect is counted (R74). It goes to engine core mod 16, which drops it while
cue-sheet work is due there or its microcode is being replaced (R232, R345). -/
def execFlyhint (t : Tid) (f : SOp) (s : State) : Result :=
  s.issue t f.pred f.pneg (sOk f { ga := true, gb := true }) false true fun x k =>
    let a := x.gr f.ga
    let n := (x.gr f.gb).toNat
    let s := s.setThread t x.step
    if n = 0 then s
    else if s.isOwn (gcoord a) && s.inAllocs k.part (glocal a) n && !s.engineDue (t.core.val % 16) &&
        s.updating != some (t.core.val % 16) then s
    else s.count .droppedHints k.part

/-! ## FENCE and releases -/

/-- Whether the conditions of a fence hold (R44, R45). -/
def State.fenceReady (s : State) (t : Tid) (k : Task) : Bool :=
  (s.outstanding t).isEmpty && !s.servesOwn t && !s.awaitsCommit k

/-- Ends a fence: GD takes the failed-store status, and the record is cleared (R78). -/
def Thread.fenced (x : Thread) (gd : BitVec 6) : Thread :=
  { (x.setG gd (x.failStatus.setWidth 64)).step with failStatus := stOk, farAddr := 0, wait := .ready }

/-- FENCE. -/
def execFence (t : Tid) (f : SOp) (s : State) : Result :=
  s.issue t f.pred f.pneg (sOk f { gd := true }) false true fun x k =>
    if s.fenceReady t k then s.setThread t (x.fenced f.gd) else s.hold t x (.fence f.gd.toNat)

/-- FENCE_COMPLETE: the fence's conditions are met and the thread continues. -/
def execFenceComplete (t : Tid) (s : State) : Result :=
  match s.thread? t with
  | none => .next s
  | some x =>
    match x.wait, s.task? x.task with
    | .fence gd, some k =>
      .next (if s.working && s.fenceReady t k then s.setThread t (x.fenced (BitVec.ofNat 6 gd)) else s)
    | _, _ => .next s

/-- Extent of the pieces of a store, from the first. -/
def piecesSpan (ps : List (W64 × List Byte)) : Nat :=
  match ps.head?, ps.getLast? with
  | some a, some b => b.1.toNat + b.2.length - a.1.toNat
  | _, _ => 0

/-- RELEASE_ISSUE: the wait of R42 is over and the release is performed. -/
def execReleaseIssue (t : Tid) (s : State) : Result :=
  match s.thread? t with
  | none => .next s
  | some x =>
    match x.wait, s.task? x.task with
    | .release act, some k =>
      if !s.working then .next s
      else
        match act with
        | .store ps =>
          let a := act.addr
          .next (if s.releaseReady t k a true then s.storeNow t x k a (piecesSpan ps) 0 ps x.wait else s)
        | .atomic op a wide b c gd acq =>
          .next (if s.releaseReady t k a false then s.atomNow t x k op a wide b c gd acq true x.wait else s)
    | _, _ => .next s

/-! ## FFENCE and INV -/

/-- The global address 0 of a coordinate. -/
def coordBase (c : BitVec 12) : W64 := BitVec.ofNat 64 (c.toNat * 2 ^ 52)

/-- FFENCE: a fabric fence to the package g[GA][11:0]; GD ← 0x00 or its failure status (R49). -/
def execFfence (t : Tid) (f : SOp) (s : State) : Result :=
  s.issue t f.pred f.pneg (sOk f { gd := true, ga := true }) false true fun x k =>
    let c : BitVec 12 := (x.gr f.ga).setWidth 12
    match s.resolve k.part (coordBase c) with
    | .refused => s.refuseCount.raise t x .address (x.gr f.ga)
    | .here _ => if s.servesOwn t then s.hold t x else s.setThread t (x.setG f.gd 0).step
    | .far c =>
      match s.sendReq (some k.part) 0x09 { port := 0, dst := c, src := 0, cls := 2, die := Fin.ofNat 4 (t.core.val / 64) }
          (some x.task) (.fence t f.gd) with
      | (s, .sent seq) => s.setThread t { x with wait := .far c seq }
      | (s, .lost) => s.setThread t (x.setG f.gd (stLost.setWidth 64)).step
      | (_, .waits) => s.hold t x

/-- Every coordinate of a partition's job block but this package's (Table 03-11). -/
def State.blockOthers (s : State) (p : Nat) : List (BitVec 12) :=
  ((List.range 4096).map (BitVec.ofNat 12)).filter fun c => s.inBlock p c && s.fab.coord != some c

/-- Sends an invalidate to each target in order; none where one must wait. A lost target is recorded (R78). -/
def State.sendInvals (s : State) (t : Tid) (x : Thread) (p : Nat) (home : BitVec 12) (ga gb : W64) :
    List (BitVec 12) → Option State
  | [] => some s
  | c :: cs =>
    if s.isOwn c then
      (s.serveInval { src := s.fab.coord.getD 0xFFF, seq := BitVec.ofNat 32 (tidKey t), home := home, lo := glocal ga
                      n := gb.toNat, own := some t, task := some x.task }).sendInvals t x p home ga gb cs
    else
      let r : FabReq := { port := 0, dst := c, src := 0, cls := 2, lenM1 := 15, addr := BitVec.ofNat 52 (glocal ga)
                          die := Fin.ofNat 4 (t.core.val / 64), body := bytesLE 8 gb.toNat ++ bytesLE 8 home.toNat }
      match s.sendReq (some p) 0x08 r (some x.task) (.inval t ga) with
      | (s, .sent _) => s.sendInvals t x p home ga gb cs
      | (s, .lost) => (s.storeFail t (some x.task) stLost ga).sendInvals t x p home ga gb cs
      | (_, .waits) => none

/-- Whether stores or atomics of a thread to a package are outstanding. -/
def State.storesOut (s : State) (t : Tid) (c : BitVec 12) : Bool := (s.outstanding t).any fun q => q.writes && q.req.dst == c

/-- INV: an invalidate of [GA, GA + GB) at g[GC][11:0], or at every other package of the job block (R38, R77). It waits for
the thread's stores to the lines' home that are not acknowledged, so that no target reads a line from its home again before they are
performed there. -/
def execInv (t : Tid) (f : SOp) (s : State) : Result :=
  s.issue t f.pred f.pneg (sOk f { ga := true, gb := true, gc := true }) false true fun x k =>
    let ga := x.gr f.ga
    let targets := if x.gr f.gc = BitVec.allOnes 64 then s.blockOthers k.part else [(x.gr f.gc).setWidth 12]
    let home : BitVec 12 := if s.isOwn (gcoord ga) then s.fab.coord.getD 0xFFF else gcoord ga
    if (targets.map coordBase ++ [ga]).any fun a => decide (s.resolve k.part a = .refused) then
      s.refuseCount.raise t x .address ga
    else if s.storesOut t home then s.hold t x
    else
      match s.sendInvals t x k.part home ga (x.gr f.gb) targets with
      | none => s.hold t x
      | some s =>
        match s.thread? t with
        | some x => s.setThread t x.step
        | none => s

/-! ## BAR -/

/-- Releases the threads of a cast once every live one has reached a BAR (R75). -/
def State.barCheck (s : State) (k : Nat) : State :=
  let live := (s.threadsOf k).filter fun e => !e.2.ended
  if live.all fun e => e.2.wait == .bar then
    { s with threads := SMap.mapVals (fun _ (x : Thread) => if x.task = k ∧ x.wait = .bar then { x.step with wait := .ready } else x)
                          s.threads }
  else s

/-- BAR. -/
def execBar (t : Tid) (f : SOp) (s : State) : Result :=
  s.issue t f.pred f.pneg (sOk f {}) false true fun x _ => (s.hold t x .bar).barCheck x.task

/-! ## WAITV -/

/-- Whether a poll of a thread is outstanding. -/
def State.polling (s : State) (t : Tid) : Bool :=
  (s.outstanding t).any fun q => match q.kind with | .poll _ _ => true | _ => false

/-- One poll of a thread in WAITV: an LDAI of the 8 bytes whose range is their line (R76). -/
def State.poll (s : State) (t : Tid) (x : Thread) (k : Task) (a : W64) : State :=
  let die := t.core.val / 64
  if a.toNat % 8 ≠ 0 then s.raise t x .address a
  else
    match s.resolve k.part a with
    | .refused => s.refuseCount.raise t x .address a
    | .here l =>
      if !s.mayLoad k.part l 8 then s.raise t x .address a
      else if s.orderWait t a 8 false || s.homeHeld (some x.task) l 8 then s.countHold (some x.task) l 8
      else
        match s.homeRead k.part [x.task] l 8 with
        | (s, .bytes d) => s.pollValue t x (leWord 64 d)
        | (s, .poison) => s.raise t x .data a
        | (s, .replay) => s
    | .far _ =>
      if s.farHeld x.task a 8 then s.count .replayHolds
      else if s.orderWait t a 8 false then s
      else
        let s' := s.acquireDrop die (BitVec.ofNat 64 (a.toNat / 64 * 64)) 64
        match (if cacheable a then s'.cachedBytes die a 8 else none) with
        | some d => s'.pollValue t x (leWord 64 d)
        | none =>
          let at_ : W64 := if cacheable a then BitVec.ofNat 64 (a.toNat / 64 * 64) else a
          match s'.sendReq (some k.part) 1 (reqTo at_ 1 (if cacheable a then 64 else 8) die) (some x.task)
              (.poll t (if cacheable a then a.toNat % 64 else 0)) with
          | (s', .sent _) => s'
          | (s', .lost) => s'.farFail t x stLost a
          | (_, .waits) => s

/-- WAITV: polls the 8 bytes at GA until they equal GB or GC cycles pass. Issued again while it waits, it polls again. -/
def execWaitv (t : Tid) (f : SOp) (s : State) : Result :=
  match s.thread? t with
  | none => .next s
  | some x =>
    match x.wait, s.task? x.task with
    | .waitv _ a _ _ _ _, some k => .next (if s.working && !s.polling t then s.poll t x k a else s)
    | _, _ =>
      s.issue t f.pred f.pneg (sOk f { gd := true, ga := true, gb := true, gc := true }) false true fun x k =>
        let y := { x with wait := .waitv f.gd.toNat (x.gr f.ga) (x.gr f.gb) 0 false (x.gr f.gc == 0) }
        (s.setThread t y).poll t y k (x.gr f.ga)

/-- WAITV_TIMEOUT: the cycles of GC have passed; GD holds the last value read and p7 is all zeros (R76). -/
def execWaitvTimeout (t : Tid) (s : State) : Result :=
  match s.thread? t with
  | none => .next s
  | some x =>
    match x.wait with
    | .waitv gd _ _ last polled _ =>
      .next (if s.working && polled && !s.polling t then s.waitvEnd t x gd last false else s)
    | _ => .next s

/-! ## Control flow -/

/-- Target of a relative branch: PC + 8 × DISP. -/
def brTarget (x : Thread) (f : BOp) : W64 := x.pc + 8 * f.disp.signExtend 64

/-- BR. -/
def execBr (t : Tid) (f : BOp) (s : State) : Result :=
  s.issue t f.pred f.pneg (bOk f false false true) false true fun x _ => s.setThread t { x with pc := brTarget x f }

/-- CALL: GD ← PC + 8. -/
def execCall (t : Tid) (f : BOp) (s : State) : Result :=
  s.issue t f.pred f.pneg (bOk f true false true) false true fun x _ =>
    s.setThread t { (x.setG f.gd (x.pc + 8)) with pc := brTarget x f }

/-- A JR target: the self alias and the package's own coordinate are cleared; any other value stays outside the code range
(R59). -/
def State.jumpTarget (s : State) (v : W64) : W64 :=
  if gcoord v = 0 ∨ s.isOwn (gcoord v) then BitVec.ofNat 64 (glocal v) else v

/-- JR: PC ← g[GA]. -/
def execJr (t : Tid) (f : BOp) (s : State) : Result :=
  s.issue t f.pred f.pneg (bOk f false true false) false true fun x _ =>
    s.setThread t { x with pc := s.jumpTarget (x.gr f.ga) }

/-- END: the thread ends, thread 0 with its norm report; the cast ends with its last thread (R24, R75, R78, R131). -/
def execEndThread (t : Tid) (f : BOp) (s : State) : Result :=
  s.issue t f.pred f.pneg (bOk f false false false) false true fun x _ =>
    let s := match s.task? x.task with
      | some k => if x.tid = 0 then s.report k ((x.gr 2).setWidth 32) else s
      | none => s
    let s := s.setThread t { x with ended := true }
    if (s.threadsOf x.task).all fun e => e.2.ended then s.endCast x.task stOk false else s.barCheck x.task

/-- ERET: returns from the handler to EXC_PC; outside one it is illegal (R81). -/
def execEret (t : Tid) (f : BOp) (s : State) : Result :=
  s.issue t f.pred f.pneg (bOk f false false false) false true fun x _ =>
    if x.inHandler then s.setThread t { x with pc := x.excPc, inHandler := false } else s.raise t x .illegal 0

/-- ERETS: returns to EXC_PC + 8. -/
def execErets (t : Tid) (f : BOp) (s : State) : Result :=
  s.issue t f.pred f.pneg (bOk f false false false) false true fun x _ =>
    if x.inHandler then s.setThread t { x with pc := x.excPc + 8, inHandler := false } else s.raise t x .illegal 0

/-- BRK: raises EXC_BREAK. -/
def execBrk (t : Tid) (f : BOp) (s : State) : Result :=
  s.issue t f.pred f.pneg (bOk f false false false) false true fun x _ => s.raise t x .brk 0

/-- YIELD: the thread issues nothing for the next cycle (R83). -/
def execYield (t : Tid) (f : BOp) (s : State) : Result :=
  s.issue t f.pred f.pneg (bOk f false false false) false true fun x _ =>
    s.setThread t { x.step with yieldUntil := s.clk.cycle + 2 }

end Sys2Proof.Machine
end

