-- ==== Sys2Proof/Machine/DictCmds.lean ====
section
/-! DEFINITION. Commands to the object dictionary: mailbox commands and their claim (R383, R384), writes over any path (R375,
R382), each entry with a behaviour of its own under its own name, and the fly engines' microcode (R345). -/

namespace Sys2Proof.Machine

open Sys2Proof

/-- A write of an entry over a path, and what no longer waits after it. -/
def State.entryWrite (s : State) (a : Acc) (idx : Nat) (sub : Nat) (d : List Byte) (off : Nat := 0) : State :=
  (s.writeBy a { index := BitVec.ofNat 16 idx, sub := BitVec.ofNat 8 sub, offset := off } d).releaseHeld

/-! ## Mailbox commands -/

/-- READ. -/
def execRead (m : Fin 256) (c : MbxCmd) (s : State) : Result := .next (s.mbxRun m.val opRead c)

/-- WRITE. -/
def execWrite (m : Fin 256) (c : MbxCmd) (s : State) : Result := .next (s.mbxRun m.val opWrite c).releaseHeld

/-- READ_WINGS. -/
def execReadWings (m : Fin 256) (c : MbxCmd) (s : State) : Result := .next (s.mbxRun m.val opWings c)

/-- MAILBOX_RELEASE. -/
def execMailboxRelease (m : Fin 256) (c : MbxCmd) (s : State) : Result := .next (s.mbxRun m.val opRelease c)

/-- MAILBOX_CLAIM_TIMEOUT: 10 ms without a GO end a claim (R384). -/
def execMailboxClaimTimeout (m : Fin 256) (s : State) : Result := .next (s.setMailbox m.val { s.mailbox m.val with claim := none })

/-! ## Writes of entries -/

/-- DICTIONARY_WRITE. -/
def execDictionaryWrite (a : Acc) (x : OdAddr) (d : List Byte) (s : State) : Result := .next (s.writeBy a x d).releaseHeld

/-- COOLANT_REENABLE. -/
def execCoolantReenable (a : Acc) (d : List Byte) (s : State) : Result := .next (s.entryWrite a 0x2200 6 d)

/-- CAP. -/
def execCap (a : Acc) (d : List Byte) (s : State) : Result := .next (s.entryWrite a 0x2100 1 d)

/-- STEP_MAX. -/
def execStepMax (a : Acc) (d : List Byte) (s : State) : Result := .next (s.entryWrite a 0x2100 2 d)

/-- CURRENT_LIMIT. -/
def execCurrentLimit (a : Acc) (d : List Byte) (s : State) : Result := .next (s.entryWrite a 0x2100 7 d)

/-- CURTAIN. -/
def execCurtain (a : Acc) (d : List Byte) (s : State) : Result := .next (s.entryWrite a 0x2F00 1 d)

/-- DISCARD. -/
def execDiscard (a : Acc) (d : List Byte) (s : State) : Result := .next (s.entryWrite a 0x2F00 2 d)

/-- LAYER_COUNTERS. -/
def execLayerCounters (a : Acc) (p : Fin 128) (d : List Byte) (s : State) : Result := .next (s.entryWrite a 0x2703 (p.val + 1) d)

/-- PART_RESET. -/
def execPartReset (a : Acc) (p : Fin 128) (d : List Byte) (s : State) : Result := .next (s.entryWrite a (0x3000 + p.val) 4 d)

/-- ERROR_COUNT. -/
def execErrorCount (a : Acc) (d : List Byte) (s : State) : Result := .next (s.entryWrite a 0x1003 0 d)

/-- STORE. -/
def execStore (a : Acc) (sub : Fin 256) (d : List Byte) (s : State) : Result := .next (s.entryWrite a 0x1010 sub.val d)

/-- RESTORE. -/
def execRestore (a : Acc) (sub : Fin 256) (d : List Byte) (s : State) : Result := .next (s.entryWrite a 0x1011 sub.val d)

/-- FLY_UCODE_GO. -/
def execFlyUcodeGo (a : Acc) (d : List Byte) (s : State) : Result := .next (s.entryWrite a 0x2906 2 d)

/-- PORT_RETRAIN. -/
def execPortRetrain (a : Acc) (n : Fin 24) (d : List Byte) (s : State) : Result := .next (s.entryWrite a 0x2907 (n.val + 1) d)

/-! ## Fly-engine microcode -/

/-- FLY_UCODE_ENGINE_LOADED: the engine being updated has finished the entries it had started, loads the image and resumes
(R345). -/
def execFlyUcodeEngineLoaded (e : Fin 16) (version : W32) (s : State) : Result :=
  if s.updating = some e.val ∧ !s.engineReads e.val ∧ version = imageVersion s.store.ucodeImage then
    let mask := s.store.ucodeMask - 2 ^ e.val
    .next { s with store := { s.store with ucode := SMap.put e.val (version, imageHash s.store.ucodeImage) s.store.ucode, ucodeMask := mask
                                           ucodeImage := if mask = 0 then [] else s.store.ucodeImage } }
  else .next s

end Sys2Proof.Machine
end

