-- ==== Sys2Proof/Machine/Dimmer.lean ====
section
/-! DEFINITION. The dimmer's events (R355 to R361, R364, R430). -/

namespace Sys2Proof.Machine

open Sys2Proof

/-- POWER_ESTIMATE: P_fix, and P_dyn from the activity counters before the gain, both in mW, with the part of each Cerain
core rail (R357). Permits, blackout and moves follow (R358, R359). -/
def execPowerEstimate (pFix : Nat) (pDyn : Nat) (shares : List Nat) (s : State) : Result :=
  let g (p : Nat) : Nat := p * s.dim.gainNum / s.dim.gainDen
  .next ({ s with dim := { s.dim with pFix := pFix, pDyn := g pDyn, railShares := (shares.take 4).map g } }.reassess true)

/-- GAIN_UPDATE: G = measured / estimated, clamped to 0.8 to 1.25; a clamped gain sets bit 7 of POWER_FLAGS (R357). With
nothing estimated and nothing measured the quotient has no stated value: a free one within the clamp. -/
def execGainUpdate (estimated : Nat) (measured : Nat) (s : State) : Result :=
  let s := { s with dim := { s.dim with measured := measured } }
  let set (s : State) (n d : Nat) (clamped : Bool) : State :=
    { s with dim := { s.dim with gainNum := n, gainDen := d, flags := if clamped then s.dim.flags ||| 0x80 else s.dim.flags } }
  if estimated = 0 ∧ measured = 0 then
    let (w, s) := s.draw
    .next (set s (80 + w.toNat % 46) 100 (w.getLsbD 63))
  else if measured * 5 < estimated * 4 then .next (set s 4 5 true)
  else if estimated * 5 < measured * 4 then .next (set s 5 4 true)
  else .next (set s measured estimated false)

/-- HOP_COMPLETE: the new frequency is in force; after a lowering hop the voltage follows (R355). -/
def execHopComplete (s : State) : Result :=
  match s.dim.move with
  | .lowerHop n =>
    let s := { s with dim := { s.dim with freqStep := n, move := .lowerVolt n } }.commandVolts n
    .next s.slewOn.bindReasons
  | .raiseHop n => .next ((({ s with dim := { s.dim with freqStep := n, move := .still } }).steer).slewOn.bindReasons)
  | _ => .next s

/-- VOLTAGE_CONFIRM: every rail reports VDone (R430): a raise hops, a lowering is complete (R355). -/
def execVoltageConfirm (s : State) : Result :=
  match s.dim.move with
  | .raiseVolt n => .next { s with dim := { s.dim with voltMv := stepMv n, fails := 0, move := .raiseHop n } }
  | .lowerVolt n =>
    let s := { s with dim := { s.dim with voltMv := stepMv n, fails := 0, move := .still } }
    .next (s.slewOn.steer.bindReasons)
  | _ => .next s

/-- The millivolts a move asks of a rail (R353): even rails are core rails, odd ones SRAM rails. -/
def railMv (rail step : Nat) : Nat := if rail % 2 = 0 then stepMv step else max (stepMv step) 700

/-- A voltage move that failed (R356): no hop follows, the rails go back, a record is written; the third failure in a row
holds the permit at the step in force. -/
def State.voltFailed (s : State) (rail n : Nat) : State :=
  let s := s.commandVolts s.dim.freqStep
  let s := s.logFault { detail := BitVec.ofNat 64 rail, unitType := 0x0A, cls := 5, cause := 0x10
                        detail2 := BitVec.ofNat 64 (railMv rail n) }
  if s.dim.fails + 1 < 3 then ({ s with dim := { s.dim with fails := s.dim.fails + 1, move := .retry n } }).bindReasons
  else
    { s with dim := { s.dim with fails := 0, move := .still
                                 voltHold := some (min s.dim.freqStep (s.dim.voltHold.getD 23)) } }.repermit

/-- VOLTAGE_TIMEOUT: a voltage move is not confirmed within 40 µs (R356); the rail is one that did not confirm. -/
def execVoltageTimeout (rail : Fin 12) (s : State) : Result :=
  match s.dim.move with
  | .raiseVolt n => .next (s.voltFailed rail.val n)
  | .lowerVolt n => .next (s.voltFailed rail.val n)
  | _ => .next s

/-- VOLTAGE_RETRY: the move is tried again (R356). -/
def execVoltageRetry (s : State) : Result :=
  match s.dim.move with
  | .retry n =>
    if s.dim.freqStep < n then .next (s.startRaise n)
    else .next ({ s with dim := { s.dim with move := .lowerVolt n } }.commandVolts n)
  | _ => .next s

/-- DROOP_STRETCH: a core's supply falls 40 mV below V_core, and its clock period doubles (R360). -/
def execDroopStretch (c : Fin 256) (s : State) : Result :=
  let k := s.core c.val
  .next (s.setCore c.val { k with stretched := true, stretches := k.stretches + 1 })

/-- DROOP_RECOVERY: the period returns (R360). -/
def execDroopRecovery (c : Fin 256) (s : State) : Result :=
  .next (s.setCore c.val { s.core c.val with stretched := false })

/-- Whether a core exceeds 1,000 stretches in the millisecond being counted. -/
def State.droopOver (s : State) : Bool := s.cores.any fun e => decide (1000 < e.2.stretches)

/-- DROOP_RATE_CHECK: at the end of a millisecond, a core above the rate lowers the droop permit by one step; the counts
start again (R361). -/
def execDroopRateCheck (s : State) : Result :=
  let excess := s.droopOver
  let s := { s with cores := SMap.mapVals (fun _ (k : Core) => { k with stretches := 0 }) s.cores }
  if excess then .next { s with dim := { s.dim with droopPermit := s.dim.droopPermit - 1 } }.repermit else .next s

/-- DROOP_PERMIT_RESTORE: the droop permit rises by one step while no core exceeds the rate (R361). -/
def execDroopPermitRestore (s : State) : Result :=
  if s.droopOver ∨ 23 ≤ s.dim.droopPermit then .next s
  else .next { s with dim := { s.dim with droopPermit := s.dim.droopPermit + 1 } }.repermit

/-- LOCK_FORCE: 200 µs without a barrier apply a lower J, and a member that made the lower request sends FORCE cues
(R364). -/
def execLockForce (s : State) : Result :=
  if s.lockId = 0 then .next s
  else
    let s := if s.dim.forceDue then { s.sendCues true with dim := { (s.sendCues true).dim with forceDue := false } } else s
    if s.dim.jobStep < s.dim.jobApplied then
      .next { s with dim := { s.dim with jobApplied := s.dim.jobStep } }.repermit
    else .next s

end Sys2Proof.Machine
end

