-- ==== Sys2Proof/Machine/Fabric.lean ====
section
/-! DEFINITION. The fabric's commands: requests that arrive (R260 to R266), responses and resends (R262), coherence messages
(R267), lost packages and switch-ins (R257, R341), and the front-of-house latency (R268). -/

namespace Sys2Proof.Machine

open Sys2Proof

/-- LOAD. -/
def execLoadRequest (r : FabReq) (s : State) : Result := .next (s.arrive 0x01 r)
/-- STORE; a mailbox command it starts may end what held other accesses. -/
def execStoreRequest (r : FabReq) (s : State) : Result := .next (s.arrive 0x02 r)
/-- ATADD. -/
def execAtaddRequest (r : FabReq) (s : State) : Result := .next (s.arrive 0x03 r)
/-- ATFADD. -/
def execAtfaddRequest (r : FabReq) (s : State) : Result := .next (s.arrive 0x04 r)
/-- CAS. -/
def execCasRequest (r : FabReq) (s : State) : Result := .next (s.arrive 0x05 r)
/-- FPADD32. -/
def execFpadd32Request (r : FabReq) (s : State) : Result := .next (s.arrive 0x06 r)
/-- INVAL. -/
def execInval (r : FabReq) (s : State) : Result := .next (s.arrive 0x08 r)
/-- FENCE. -/
def execFenceRequest (r : FabReq) (s : State) : Result := .next (s.arrive 0x09 r)
/-- FREQ_CUE (R364). -/
def execFreqCue (r : FabReq) (s : State) : Result := .next (s.arrive 0x0A r)
/-- ROUTE_UPDATE (R342). -/
def execRouteUpdate (r : FabReq) (s : State) : Result := .next (s.arrive 0x0B r)
/-- ASSUME (R257). -/
def execAssume (r : FabReq) (s : State) : Result := .next (s.arrive 0x0C r)
/-- HALT (R341). -/
def execHalt (r : FabReq) (s : State) : Result := .next (s.arrive 0x0D r)

/-- A request whose OP is not in Table 10-7 (R260); an OP of the table is no such request. -/
def execUnknownOperation (r : FabReq) (op : Byte) (s : State) : Result :=
  if knownOp op.toNat then .next s else .next (s.arrive op.toNat r)

/-- INVALIDATE_COMPLETE: every fill of a line of the range that was in flight has landed, and the invalidate is acknowledged
(R38). This package's own is named by its coordinate and the key of its thread. -/
def execInvalidateComplete (src : BitVec 12) (seq : W32) (s : State) : Result :=
  match s.fab.serving.find? fun v => v.src == src && v.seq == seq with
  | none => .next s
  | some v =>
    if s.fab.pend.any fun q => q.passed && q.req.dst == v.home && q.meetsLines v.lo v.n then .next s
    else
      let s := { s with fab := { s.fab with serving := s.fab.serving.erase v } }
      .next (if v.own.isSome then s.wakeHeld else s.respondTo none src v.jobId 0x08 seq stOk [])

/-- A response for another package goes on along its route (R252). -/
def State.passResponse (s : State) (r : FabResp) (c : BitVec 12) : State :=
  match s.firstHop (s.jobPart r.jobId) c with
  | .port n => s.portSend n 1 (respPacket c r.dst r.jobId r.op r.seq r.status r.body)
  | .unreachable _ _ => s

/-- An end-to-end NAK: the ordered requests that are not acknowledged are sent again from the SEQ it names, in order (R261). -/
def State.nakResend (s : State) (c : BitVec 12) (expect : Nat) : State :=
  (s.fab.pend.filter fun q => q.req.dst == c && !q.req.seq.msb && decide ((q.req.seq.toNat + 2 ^ 31 - expect % 2 ^ 31) % 2 ^ 31 < 2 ^ 30)).foldl
    (fun s q => s.emit q.op q.req) s

/-- RESPONSE: completes the request it answers; an unknown status completes it with POISON and is logged (R10, R260). One for another
package is passed on, and an end-to-end NAK has requests sent again. -/
def execResponse (r : FabResp) (s : State) : Result :=
  if !s.fabricUp || (s.port r.port.val).phase != .up || s.coolantHeld then .next s
  else if let some c := r.dest.filter fun c => s.fab.coord.isSome && !s.isOwn c then .next (s.passResponse r c)
  else if r.nak then .next (s.nakResend r.dst r.seq.toNat)
  else
    match s.fab.pend.find? fun q => q.req.dst == r.dst && q.req.seq == r.seq with
    | none => .next s
    | some q =>
      let (s, st) := s.farStatus r.port.val r.status
      let s := s.complete q st r.body
      .next (if q.op = 0x0C then s.assumed r.dst st else s).releaseHeld

/-- E2E_RESEND: 100 µs without an acknowledgement; after 8 resends the destination is reported to the house manager and the request
completes with TARGET_LOST (R262). -/
def execE2eResend (dst : BitVec 12) (seq : W32) (s : State) : Result :=
  if !s.fabricUp then .next s
  else
    match s.fab.pend.find? fun q => q.req.dst == dst && q.req.seq == seq with
    | none => .next s
    | some q =>
      if q.resends < 8 then
        let up (x : PendReq) : PendReq := if x.same q then { x with resends := x.resends + 1 } else x
        .next (({ s with fab := { s.fab with pend := s.fab.pend.map up } }.count .e2eResends).emit q.op q.req)
      else
        let s := ({ s with fab := { s.fab with reported := (s.fab.reported ++ [dst]).eraseDups } }).complete q stLost []
        .next (if q.op = 0x0C then s.assumed dst stLost else s).releaseHeld

/-- COHERENCE_INVALIDATE: a die of this package drops its copy of a tray member's line and acknowledges; a fill of it in flight
is dropped when it lands (R34, R267). -/
def execCoherenceInvalidate (die : Fin 4) (line : W64) (s : State) : Result :=
  if !s.fabricUp then .next s
  else
    let s := s.dropLines fun d l => d == die.val && l == line.toNat
    let home := lineCoord line.toNat
    let s := s.markFills home (line.toNat % 2 ^ 46 * 64) 64 false
    .next (s.cohSend home die.val line.toNat true)

/-- COHERENCE_ACK: the last acknowledgement for a line of this package (its local line number); stores that wait for no other
line are performed (R267). -/
def execCoherenceAck (line : W64) (s : State) : Result :=
  if !s.fabricUp then .next s
  else .next (s.acknowledge fun w => if w.1 = line.toNat then none else some w).releaseHeld

/-- PORT_DOWN_TIMEOUT: no port to a package has been UP for 1 ms (R341). -/
def execPortDownTimeout (c : BitVec 12) (s : State) : Result :=
  let toIt := s.fab.ports.any fun e => e.2.phase == .up && decide (e.1 < 18) && e.2.farCoord == routePhys (s.route c)
  if !s.fabricUp || toIt || s.coolantHeld then .next s else .next (s.declareLost c false)

/-- SWITCH_IN_COMPLETE: every package has acknowledged the route update (Table 10-5, order 4). -/
def execSwitchInComplete (c : BitVec 12) (s : State) : Result :=
  match s.fab.switchIns.find? fun x => x.coord == c with
  | none => .next s
  | some x =>
    let mine (op : Nat) (r : FabReq) : Bool := decide (op = 0x0B ∨ op = 0x0C) && decide (leNat (r.body.take 8) = c.toNat)
    let waits := (s.fab.pend.any fun q => mine q.op q.req) || s.fab.sendq.any fun q => mine q.op q.req
    if waits || routeState (s.route c) ≠ 2 then .next s
    else
      let s := ({ s with fab := { s.fab with switchIns := dropSwitch s.fab.switchIns c } }).count .switchIns
      .next (s.logFault { detail := BitVec.ofNat 64 c.toNat, unit := c.toNat, unitType := 6, cls := 5, cause := 0x0B
                          detail2 := BitVec.ofNat 64 x.tenure })

/-- FOH_LATENCY_MEASURE: a front-of-house port reports the switch stage's one-way latency (R268). -/
def execFohLatencyMeasure (n : Fin 24) (ns : W32) (s : State) : Result :=
  if (n.val = 22 ∨ n.val = 23) ∧ (s.port n.val).phase = .up then .next (s.setPort n.val { s.port n.val with ns := ns }) else .next s

end Sys2Proof.Machine
end

