-- ==== Sys2Proof/Machine/Faults.lean ====
section
/-! DEFINITION. Faults and live repair: failed checks and replays (R334, R336), permanent sites (R326), lane copies (R220),
die links (R17) and the faults that halt the package (R325, R330). -/

namespace Sys2Proof.Machine

open Sys2Proof

/-- Whether a task's run may be struck by a failed check: it runs or has completed, and has not committed. -/
def Task.struck (t : Task) : Bool := t.phase == .running || t.phase == .complete

/-- Address of a task's descriptor, as a fault record names it. -/
def Task.descWord (t : Task) : W64 := BitVec.ofNat 64 (t.descAddr.getD 0)

/-- CHECK_FAILURE: a residue or parity check of a task's instruction, an uncorrectable error in its tile store, table slot or
thread state, or one in a line of memory; a replay begins where the work can be rebuilt (R334). What DETAIL tells of lost
thread state is left open: a free value. -/
def execCheckFailure (c : CheckSite) (s : State) : Result :=
  if !s.working then .next s
  else
    match c with
    | .residue k pc =>
      match s.task? k with
      | none => .next s
      | some t =>
        if !t.struck || !dIsCast t.desc then .next s
        else .next ((s.transient (.core (Fin.ofNat 256 t.core)) 0x02 t.descWord pc stOk t.part).startReplay k)
    | .state k =>
      match s.task? k with
      | none => .next s
      | some t =>
        if !t.struck || !dIsCast t.desc then .next s
        else
          let (w, s) := s.draw
          let (v, s) := s.draw
          .next ((s.transient (.core (Fin.ofNat 256 t.core)) 0x01 w v stOk t.part).startReplay k)
    | .line a syndrome =>
      let l := a.toNat / 64 * 64
      if !s.populated l 64 || windowOf l = .control then .next s
      else
        let s := s.addPoison (l / 64)
        let own := List.find? (fun (e : Nat × Task) => e.2.dispatched && e.2.outs.any fun r => overlap r.1 r.2 (lkey l) 64) s.tasks
        let s := s.memError l syndrome stPoison ((own.map fun e => e.2.part).getD 0xFF)
        .next (match own with | some e => s.startReplay e.1 | none => s)

/-- REPLAY_COMPLETE: every member's new run has completed; the members may commit and the held accesses are performed (R336). -/
def execReplayComplete (p : Fin 128) (s : State) : Result :=
  let set := (s.part p.val).replay.filter fun k => (s.task? k).isSome
  if (s.part p.val).replay.isEmpty ∨ set.any (fun k => (s.task? k).any fun t => t.phase != .complete) then .next s
  else
    let s := set.foldl (fun s k =>
      match s.task? k with
      | some t => s.setTask k { t with replaying := false, status := worst t.status stReplayed }
      | none => s) s
    .next (s.modPart p.val fun x => { x with replay := [] }).releaseHeld

/-- The newest record of a site in the fault log. -/
def State.newestRecord (s : State) (x : Site) : Option FaultRec :=
  let u := siteUnit x
  let age (i : Nat) : Nat := (s.faults.next + 4095 - i) % 4096
  (leastBy (fun a b => decide (age a.1 < age b.1)) (s.faults.log.filter fun (e : Nat × Nat × FaultRec) =>
    e.2.2.unitType == u.1 && e.2.2.unit == u.2)).map fun e => e.2.2

/-- SITE_PERMANENT: a site has taken its 17th transient within 10 s and is retired (R326, R327). -/
def execSitePermanent (x : Site) (s : State) : Result :=
  if !s.serving || decide (s.recent x < 17) || s.isRetired x then .next s
  else
    let r := (s.newestRecord x).getD {}
    .next (s.makePermanent x r.cause r.detail r.detail2 r.status r.part).releaseHeld

/-- Local address of 64-byte line i of a lane (R217, R218). -/
def State.laneLine (s : State) (tierD : Bool) (region lane i : Nat) : Nat :=
  if tierD then baseD + region * s.regionD + 64 * i / 4096 * (s.lanesD * 4096) + lane * 4096 + 64 * i % 4096
  else region * regionH + 64 * i / 1024 * (512 * 1024) + lane * 1024 + 64 * i % 1024

/-- LANE_COPY_COMPLETE: the lane word is rewritten, lines that could not be corrected are poisoned, and held accesses are
performed at the new home (R220). `bad` holds their line numbers within the lane. -/
def execLaneCopyComplete (tierD : Bool) (region : Nat) (lane : Nat) (bad : List Nat) (s : State) : Result :=
  match s.faults.copies.find? fun c => c.tierD == tierD && c.region == region && c.lane == lane with
  | none => .next s
  | some c =>
    if !s.serving then .next s
    else
      let lines := if tierD then 1048576 else 65536
      let f := { s.faults with copies := s.faults.copies.erase c }
      let f := if tierD then { f with lanesD := SMap.put (s.lanesD * region + lane) (c.chan, c.slot) f.lanesD }
        else { f with lanesH := SMap.put (512 * region + lane) (c.chan, c.slot) f.lanesH }
      let s := (bad.filter (· < lines)).foldl (fun s i => s.addPoison (s.laneLine tierD region lane i / 64)) { s with faults := f }
      .next s.releaseHeld

/-- DIE_LINK_FLIT_ERROR: a die-to-die or bridge flit is retried: a corrected fault (R17). -/
def execDieLinkFlitError (_l : Fin 9) (s : State) : Result :=
  if !s.house.started ∨ s.house.deviceState = 3 then .next s else .next (s.count .corrected)

/-- DIE_LINK_RETRY_LIMIT: a link still fails past its limit: device-fatal in any package that has started (R17, R325, R330). -/
def execDieLinkRetryLimit (l : Fin 9) (retries : Nat) (s : State) : Result :=
  if !s.house.started then .next s
  else
    .next (s.haltNow { detail := BitVec.ofNat 64 l.val, unit := l.val, unitType := 7, cause := 0x03,
                       detail2 := BitVec.ofNat 64 retries })

/-- PROMPT_BOOK_PARITY_ERROR: device-fatal (R325). Its record's details are left open: free values. -/
def execPromptBookParityError (die : Fin 4) (s : State) : Result :=
  if !s.house.started then .next s
  else
    let (w, s) := s.draw
    let (v, s) := s.draw
    .next (s.haltNow { detail := w, unit := die.val, unitType := 9, cause := 0x02, detail2 := v })

/-- LOCK_UP: a stage manager (die n) or a fly engine locks up: device-fatal (R325). Its record's cause and details are left
open. -/
def execLockUp (engine : Bool) (n : Fin 16) (s : State) : Result :=
  if !s.house.started ∨ (engine = false ∧ 4 ≤ n.val) then .next s
  else
    let (w, s) := s.draw
    let (v, s) := s.draw
    .next (s.haltNow { detail := w, unit := n.val, unitType := if engine then 8 else 9, cause := Config.lockUpCause.toNat, detail2 := v })

end Sys2Proof.Machine
end

