-- ==== Sys2Proof/Machine/HostPort.lean ====
section
/-! DEFINITION. The host port: queue registers and doorbells (R281, R416, R417), ring errors (R419), interrupts (R420), the
aperture and BAR4 (R421 to R423), function and port resets and the number of VFs (R414). -/

namespace Sys2Proof.Machine

open Sys2Proof

/-- Whether the registers of BAR2 answer: the house manager has started and the package is neither in ghost-light mode nor halted
(R330, R402, R405). -/
def State.barsUp (s : State) : Bool :=
  s.house.running && (s.house.deviceState == 0 || s.house.deviceState == 1) && s.pins.refclk

/-- Whether a queue's registers answer: a host queue's while its VF exists (R414). -/
def State.queueUp (s : State) (q : QRef) : Bool :=
  s.barsUp && match q with | .host p _ => s.fnExists (p.val + 1) | .dev _ _ => true

/-! ## Doorbells and ring registers -/

/-- SQ_TAIL. -/
def execSqTail (q : QRef) (v : W64) (s : State) : Result :=
  if !s.queueUp q then .next s
  else match q with
    | .host _ _ => .next (s.bell (qCode q) true v)
    | .dev _ _ => .next (s.sqTailWrite (qCode q) v)

/-- CQ_HEAD. -/
def execCqHead (q : QRef) (v : W64) (s : State) : Result :=
  if !s.queueUp q then .next s
  else match q with
    | .host _ _ => .next (s.bell (qCode q) false v)
    | .dev _ _ => .next (s.cqHeadWrite (qCode q) v)

/-- QRESET. -/
def execQreset (q : QRef) (v : W64) (s : State) : Result := if s.queueUp q then .next (s.qresetWrite (qCode q) v) else .next s

/-- QUEUE_RESET_COMPLETE: every accepted entry has committed; a reset of the partition under way comes first (R281, R414). -/
def execQueueResetComplete (q : QRef) (s : State) : Result :=
  let c := qCode q
  if !(s.queue c).resetWanted || s.qBusy c || (s.part (qPart q)).phase == .reset then .next s else .next (s.qDefaults c)

/-- QUEUE_RING_WRITE. -/
def execQueueRingWrite (q : QRef) (r : RingReg) (v : W64) (s : State) : Result :=
  if s.queueUp q then .next (s.ringWrite (qCode q) r v) else .next s

/-- ENABLE_SET: a write of RING_CFG with ENABLE 1. -/
def execEnableSet (q : QRef) (v : W64) (s : State) : Result :=
  if s.queueUp q ∧ codeIsHost (qCode q) then .next (s.ringCfgWrite (qCode q) (v ||| 1#64)) else .next s

/-- ENABLE_CLEAR: a write of RING_CFG with ENABLE 0. -/
def execEnableClear (q : QRef) (v : W64) (s : State) : Result :=
  if s.queueUp q ∧ codeIsHost (qCode q) then .next (s.ringCfgWrite (qCode q) (v &&& ~~~1#64)) else .next s

/-- UNKNOWN_ENTRY_CLASS: an entry of no class of Table 11-1 completes with DENIED (R280). -/
def execUnknownEntryClass (q : QRef) (e : W512) (s : State) : Result :=
  s.withEntry q e (fun c => entryKind c == .unknown) fun s k _ _ => s.finish k stDenied

/-- RING_ACCESS_ERROR: a host-ring access fails, and the queue reads no further entry (R419); it is reported under AER (R423). -/
def execRingAccessError (p : Fin 128) (n : Fin 32) (cause : RingCause) (s : State) : Result :=
  let c := qCode (.host p n)
  let st := s.qStatus c
  if s.qLocal c ∨ ¬ (st = 1 ∨ st = 3) then .next s
  else .next ((s.qError c (match cause with | .translation => 2 | .readError => 3 | .writeError => 4)).send (.aer (p.val + 1) (.ring cause)))

/-! ## Interrupts -/

/-- INTERRUPT_TIMER: TIME has passed since the first entry not yet signalled (R420). -/
def execInterruptTimer (p : Fin 128) (n : Fin 32) (s : State) : Result :=
  let c := qCode (.host p n)
  let x := s.queue c
  if fld x.coalesce 25 16 = 0 ∨ x.sinceMsg = 0 then .next s
  else .next ((s.setQueue c { x with sinceMsg := 0 }).msix (p.val + 1) n.val)

/-- Vectors of a function. -/
def vectors (f : Nat) : Nat := if f = 0 then 2 else 33

/-- MSIX_UNMASK: a vector with its Pending Bit set sends its message (R420). -/
def execMsixUnmask (f : Fin 129) (v : Fin 33) (s : State) : Result :=
  let h := s.hostFn f.val
  if !s.fnExists f.val ∨ vectors f.val ≤ v.val ∨ h.unmasked.contains v.val then .next s
  else
    let due := h.pendingVec.contains v.val
    let s := s.setHostFn f.val { h with unmasked := v.val :: h.unmasked, pendingVec := h.pendingVec.filter (· ≠ v.val) }
    .next (if due then s.send (.msix f.val v.val) else s)

/-- ATS_INVALIDATE: a ring access is a part of one command here, so none that uses a translation is under way (R419). -/
def execAtsInvalidate (f : Fin 129) (s : State) : Result :=
  if s.fnExists f.val ∧ s.house.started then .next (s.send (.atsDone f.val)) else .next s

/-! ## BAR4 -/

/-- APERTURE. -/
def execAperture (f : Fin 129) (v : W64) (s : State) : Result :=
  if s.barsUp && s.fnExists f.val then .next (s.apertureWrite f.val v) else .next s

/-- BAR4_FAULT_STATUS_READ: the record is returned and cleared (Table 17-5). -/
def execBar4FaultStatusRead (f : Fin 129) (s : State) : Result :=
  if !(s.barsUp && s.fnExists f.val) then .next s
  else
    let h := s.hostFn f.val
    .next ((s.setHostFn f.val { h with faultAddr := 0, faultStatus := 0 }).send
      (.completion f.val true (bytesLE 8 h.faultStatus.toNat)))

/-- The naturally aligned pieces of 8 bytes and smaller of n bytes at an address: offset and size (R422). -/
def hostPieces (a : Nat) : Nat → Nat → List (Nat × Nat)
  | 0, _ => []
  | fuel + 1, n =>
    if n = 0 then []
    else
      let k := (([8, 4, 2] : List Nat).find? fun k => decide (a % k = 0 ∧ k ≤ n)).getD 1
      (a, k) :: hostPieces (a + k) fuel (n - k)

/-- Global address of an offset in a function's BAR4. -/
def State.bar4Addr (s : State) (f : Nat) (off : BitVec 36) : Nat := (s.hostFn f).aperture.toNat + off.toNat

/-- BAR4_READ: loads of the pieces, and a completion once all have ended. Outside service every read completes with UR
(R330, R423). -/
def execBar4Read (f : Fin 129) (off : BitVec 36) (n : Nat) (s : State) : Result :=
  if !s.house.started ∨ !s.fnExists f.val then .next s
  else if !s.serving then
    .next ((s.send (.aer f.val (if s.house.deviceState = 3 then .internal else .unsupportedRequest))).send (.completion f.val false []))
  else
    let a := s.bar4Addr f.val off
    let ps := hostPieces a n n
    if ps.isEmpty then .next (s.send (.completion f.val true []))
    else
      let id := s.fab.nextRead
      let s := { s with fab := { s.fab with
        nextRead := id + 1, hostReads := SMap.put id { fn := f.val, n := n, left := ps.length } s.fab.hostReads } }
      .next (ps.foldl (fun s x => s.hostGet f.val id (x.1 - a) x.1 x.2) s)

/-- BAR4_WRITE: stores of the pieces, in order. Outside service a write is dropped. -/
def execBar4Write (f : Fin 129) (off : BitVec 36) (d : List Byte) (s : State) : Result :=
  if !s.fnExists f.val ∨ !s.serving then .next s
  else
    let a := s.bar4Addr f.val off
    .next ((hostPieces a d.length d.length).foldl (fun s x => s.hostPut f.val x.1 ((d.drop (x.1 - a)).take x.2)) s).releaseHeld

/-! ## Resets of functions and of the port (R414) -/

/-- Drops what a function has under way: reads, and accesses that wait. -/
def State.fnDrop (s : State) (f : Nat) : State :=
  { s with fab := { s.fab with
    hostReads := SMap.keep (fun _ (r : HostRead) => r.fn != f) s.fab.hostReads
    held := s.fab.held.filter fun a => !(a.hostOf f || match a with | .hostRead g _ _ _ _ => g == f | _ => false)
    pend := s.fab.pend.filter fun q => match q.kind with | .bar4Read g _ _ => g != f | _ => true } }

/-- A function's page, vectors and counters at their defaults. -/
def State.fnDefaults (s : State) (f : Nat) : State :=
  ((((s.fnDrop f).setHostFn f {}).setCtr .fnDoorbellErrors f 0).setCtr .fnCqFullWaits f 0).setCtr .bar4Refusals f 0

/-- Disables a host queue (R416) and returns it to its defaults once its accepted entries have committed. -/
def State.queueOff (s : State) (c : Nat) : State :=
  if s.qHolds c then
    let s := s.ringCfgWrite c 0
    s.setQueue c { s.queue c with resetWanted := true }
  else s.setQueue c {}

/-- Disables the host queues of a VF. -/
def State.vfQueuesOff (s : State) (p : Nat) : State := (List.range 32).foldl (fun s n => s.queueOff (0x8000 + 128 * p + n)) s

/-- Returns the host queues of a VF to their defaults: those with accepted entries once these have committed (R414). -/
def State.vfQueuesReset (s : State) (p : Nat) : State :=
  (List.range 32).foldl (fun s n =>
    let c := 0x8000 + 128 * p + n
    if s.qHolds c ∨ (s.part p).phase = .reset then s.setQueue c { s.queue c with resetWanted := true } else s.setQueue c {}) s

/-- FLR: of the PF, its aperture and fault record return to their defaults; of VF p + 1, partition p is reset, and then the
function's queue registers return to theirs. -/
def execFlr (f : Fin 129) (s : State) : Result :=
  if !s.fnExists f.val then .next s
  else
    let s := s.fnDefaults f.val
    if f.val = 0 then .next s else .next ((s.jobFault (f.val - 1)).vfQueuesReset (f.val - 1))

/-- The VFs from `lo` to `hi` go out of existence: their functions return to their defaults and their queues are disabled. -/
def State.dropVfs (s : State) (lo hi : Nat) : State :=
  (List.range (hi - lo)).foldl (fun s i => (s.fnDefaults (lo + i + 1)).vfQueuesOff (lo + i)) s

/-- PERST: every function resets, no partition does, and every host queue is disabled. NumVFs returns to 0. -/
def execPerst (s : State) : Result :=
  .next { (s.fnDefaults 0).dropVfs 0 s.numVfs with numVfs := 0 }

/-- NUMVFS: VFs come into or go out of existence. -/
def execNumvfs (n : Fin 129) (s : State) : Result :=
  if !(s.house.running || s.store.romRecovery) then .next s else .next { s.dropVfs n.val s.numVfs with numVfs := n.val }

end Sys2Proof.Machine
end

