-- ==== Sys2Proof/Machine/KeyValue.lean ====
section
/-! DEFINITION. The key-value writer (R166 to R170, R188, R190). -/

namespace Sys2Proof.Machine

open Sys2Proof

/-- Whether a write has the shape of its context: layer, group and row length. -/
def kvFits (u : KvWrite) (d : W512) : Bool :=
  decide (ctxLayer0 d ≤ u.layer) && decide (u.layer < ctxLayer0 d + ctxLayers d) && decide (u.group < ctxGroups d) &&
    u.keys.length == 32 * ctxBlocks d && u.vals.length == 32 * ctxBlocks d

/-- Appends a position's row of one (layer, group). Rows come in ascending order; a row already appended in this step is a
replayed write, which writes the same bits to the same place (R169) and counts no position. -/
def State.kvRow (s : State) (p i : Nat) (d : W512) (u : KvWrite) : State :=
  let g := groupKey u.layer u.group
  let a := SMap.get 0 (SMap.get {} s.ctxExtra i).appended g
  if u.row < a then
    let (s, st) := s.appendRow true p i u.layer u.group (ctxLen d + u.row) u.keys u.vals
    s.send (.kvDone u.ref st)
  else if a < u.row then s
  else
    let (s, st) := s.appendRow false p i u.layer u.group (ctxLen d + a) u.keys u.vals
    let s := if st ≠ stOk then s
      else
        let s := s.modExtra i fun x => { x with appended := SMap.put g (a + 1) x.appended }
        s.modPart p fun x => { x with appends := SMap.put i (max (SMap.get 0 x.appends i) (a + 1)) x.appends }
    s.send (.kvDone u.ref st)

/-- Appends a tree node's row to the scratch page of its (layer, group), taken from the context's pool at the first node
(R188), or refused where the pool holds no slot or no page of the layer's precision (R169). -/
def State.kvNode (s : State) (p i : Nat) (d : W512) (u : KvWrite) (node : Nat) : State :=
  let g := groupKey u.layer u.group
  let c := s.layerRec p u.layer
  let nb := ctxBlocks d
  let at_ : Option (State × Scratch) :=
    match SMap.find? g (SMap.get {} s.ctxExtra i).scratch with
    | some x => some (s, x)
    | none =>
      if (s.pool? p (ctxPool d)).any (fun x => decide (x.pmax < recKvBits c)) then none
      else (s.takeSlot p (ctxPool d) (recKvBits c)).map fun (s, a) =>
        (s.initPage a nb (recKvBits c) (ctxTrain d), { page := a })
  match at_ with
  | none => s.send (.kvDone u.ref stQuota)
  | some (s', x) =>
    if x.rows < node ∨ 64 ≤ node then s
    else
      let P := s'.pagePrec p (ctxPool d) x.page
      let (kb, c1) := encodeBlocks (.int P 0) (recStatic c) u.keys
      let (vb, c2) := encodeBlocks (.int P 0) (recStatic c) u.vals
      let (s', rw) := s'.pageRow (decide (node < x.rows)) x.page nb P node (ctxTrain d) { k := kb, v := vb }
      let s' := s'.modExtra i fun y => { y with scratch := SMap.put g { x with rows := max x.rows (node + 1) } y.scratch }
      ((s'.count .vtileRewrites p rw).layerCounts p u.layer (c1.add c2)).send (.kvDone u.ref stOk)

/-- KV_APPEND: appends a key row and a value row, encoded at the page's precision. A reference that fails R175 completes
with its status; an INTERMISSION context takes no append (R176). -/
def execKvAppend (u : KvWrite) (s : State) : Result :=
  let p := u.p.val
  if !s.working || (s.part p).phase != .active then .next s
  else
    match s.refCheck p u.ref with
    | .error st => .next (s.send (.kvDone u.ref st))
    | .ok (i, d) =>
      if ctxState d ≠ 1 || !kvFits u d then .next s
      else
        match u.node with
        | none => .next (s.kvRow p i d u)
        | some n => .next (s.kvNode p i d u n)

end Sys2Proof.Machine
end

