-- ==== Sys2Proof/Machine/Startup.lean ====
section
/-! DEFINITION. Package reset and start (R402 to R406, R426, R427), the house manager's start and restart (R344, R404), the
route and interleave tables of a start (R220, R250, R253). -/

namespace Sys2Proof.Machine

open Sys2Proof

/-! ## Package reset -/

/-- A package reset: everything returns to its reset value but the store's banks and the levels outside the package: REFCLK,
LASER_OK, COOLANT_OK, and THERMTRIP#, which only MGMT_RST# or the loss of VAUX releases (R434). -/
def State.packageReset (s : State) : State :=
  { State.reset with
    pending := s.pending
    store := { bank0 := s.store.bank0, bank1 := s.store.bank1 }
    pins := { refclk := s.pins.refclk, laserOk := s.pins.laserOk, thermTrip := s.pins.thermTrip }
    therm := { coolantOk := s.therm.coolantOk }
    outbox := s.outbox
    draws := s.draws }

/-! ## Routes (R250, R253, R329) -/

/-- The switch-in that gave an understudy its own coordinate: on its line and its port. -/
def State.ownSwitch (s : State) : Option SwitchIn :=
  s.fab.switched.find? fun x =>
    decide (x.usport + 1 = s.role) && decide (cx x.coord = cx s.physCoord) &&
      decide (axisPos x.coord (if s.spareAxis = 1 then 2 else 1) = s.lineThird)

/-- The entry of a coordinate at a start. -/
def State.startRoute (s : State) (c : Nat) : Option W64 :=
  let b : BitVec 12 := BitVec.ofNat 12 c
  let e : W64 := BitVec.ofNat 64 (2 ^ 63 + c * 2 ^ 44)
  if cx b < 4 ∧ cy b < s.axisLen 1 ∧ cz b < s.axisLen 2 then
    match s.fab.switched.find? fun x => x.coord == b with
    | some x => some (routeWith e 2 x.tenure x.usport)
    | none => some (if s.faults.retiredPositions.contains c then routeWith e 1 0 0 else e)
  else if 4 ≤ cx b ∧ cx b < 15 ∧ Config.fohEntry b then some (setFld e 62 62 1)
  else none

/-- The coordinate this package holds from the start, with its tenure: an active package its physical one unless an understudy
holds it, an understudy the one a switch-in gave it. -/
def State.startCoord (s : State) : Option (BitVec 12) × Nat :=
  if s.role = 0 then
    if s.fab.switched.any fun x => x.coord == s.physCoord then (none, 0) else (some s.physCoord, 0)
  else match s.ownSwitch with
    | some x => (some x.coord, x.tenure)
    | none => (none, 0)

/-- The route table and the coordinate of a start. -/
def State.buildRoutes (s : State) : State :=
  let routes : SMap W64 := (List.range 4096).filterMap fun c => (s.startRoute c).map fun e => (c, e)
  { s with fab := { s.fab with routes := routes, coord := s.startCoord.1, tenure := s.startCoord.2 } }

/-! ## Retirement lists (R220, R327, R329) -/

/-- The lists as RETIRE_CLEAR leaves them: bits 0 HBM, 1 DDR5, 2 cores, 3 optics, 4 positions with their switch-ins. -/
def clearedLists (l : Retired) (bits : Nat) : Retired :=
  { channels := if bits.testBit 0 then [] else l.channels
    subchannels := if bits.testBit 1 then [] else l.subchannels
    cores := if bits.testBit 2 then [] else l.cores
    optics := if bits.testBit 3 then [] else l.optics
    positions := if bits.testBit 4 then [] else l.positions
    switchIns := if bits.testBit 4 then [] else l.switchIns }

/-- Takes the new homes of lanes: nothing has to be copied at a start. -/
def State.settleLanes (s : State) : State :=
  let put (d : Bool) (n : Nat) (m : SMap (Nat × Nat)) : SMap (Nat × Nat) :=
    (s.faults.copies.filter fun c => c.tierD == d).foldl
      (fun (m : SMap (Nat × Nat)) (c : LaneCopy) => SMap.put (n * c.region + c.lane) (c.chan, c.slot) m) m
  { s with faults := { s.faults with lanesH := put false 512 s.faults.lanesH, lanesD := put true s.lanesD s.faults.lanesD
                                     copies := [] } }

/-- Applies the persisted lists in order. -/
def State.applyLists (s : State) (l : Retired) : State :=
  let s := { s with
    faults := { s.faults with retiredCores := l.cores, retiredPositions := l.positions }
    fab := { s.fab with switched := l.switchIns } }
  let s := l.optics.foldl (fun s h => s.retireHalves (h / 2) (BitVec.ofNat 2 (2 ^ (h % 2)))) s
  let s := l.channels.foldl (fun s x => (s.retireChannel false x).settleLanes) s
  l.subchannels.foldl (fun s x => (s.retireChannel true x).settleLanes) s

/-! ## The house manager -/

/-- The house manager runs the image of the bank in force and serves what waited (R344, R382): accesses in order, emergencies
as the inhibit time lets them. -/
def State.hmServe (s : State) : State :=
  let img := s.store.records.hm
  let s := { s with
    store := { s.store with hmVersion := imageVersion img, hmHash := imageHash img }
    house := { s.house with running := true, restarting := false } }
  (s.emcyGo.serveReady).releaseHeld

/-- The boot-up message of a node that has an identifier (R389); the NMT state is pre-operational after it. -/
def State.bootUp (s : State) : State :=
  let s := { s with can := { s.can with nmt := .preOperational, bootDue := false } }
  if s.house.nodeId = 0#7 then s else s.send (.can canErrorControl [0])

/-- The house manager's own start (R389, Table 16-3). -/
def State.hmStart (s : State) : State := s.bootUp.hmServe

/-! ## PACKAGE_START -/

/-- Enters ghost-light mode: the fabric stays unstarted and every laser request off (R405). -/
def State.ghost (s : State) (reason : Nat) : State :=
  ({ s with
      house := { s.house with deviceState := 2, ghostReason := reason }
      fab := { s.fab with ports := SMap.mapVals (fun _ (x : Port) =>
        if x.phase == PortPhase.retired then x else { x with phase := PortPhase.dark }) s.fab.ports }
      pins := { s.pins with pkgReady := false, laserReq := 0 } }).settle

/-- What the state takes from the bank a package starts from: settings, lists, placement, voltages' step and limits. -/
def State.takeBank (s : State) (b : Bank) : State :=
  let s := { s with od := b.load s.house.nodeId.toNat }
  let s := { s with
    house := { s.house with placement := BitVec.ofNat 32 (s.cfgNum 0x2402 1 0 4), spreadNow := s.cfgNum 0x2100 8 0 1 }
    can := { s.can with rate := s.cfgNum 0x2F20 1 0 1 } }
  let bits := s.cfgNum 0x2904 1 0 1
  let s := (s.applyLists (clearedLists b.lists bits)).buildRoutes.lasers.repermit
  if bits = 0 then s else (s.setCfg 0x2904 1 0 [0]).storeJob .records

/-- The banks as the boot ROM finds them: valid ones are those that read back unchanged (R396). -/
def Store.found (t : Store) (u : StartReport) : Store :=
  { t with
    bank0 := { t.bank0 with valid := t.bank0.valid && u.bank0Reads, recordsOk := t.bank0.recordsOk && (u.bank0Reads || u.records0Read) }
    bank1 := { t.bank1 with valid := t.bank1.valid && u.bank1Reads, recordsOk := t.bank1.recordsOk && (u.bank1Reads || u.records1Read) } }

/-- Whether a bank's HM image passes with the owner keys its RECORDS hold (R402, R407). -/
def Bank.boots (b : Bank) : Bool := imageOk b.ownerKeys 1 b.hm

/-- Notes the images that fail before one passes, and the one that passes. -/
def Store.tried (t : Store) : Store :=
  t.order.foldl (fun t i => t.setBank i { t.bank i with hmOk := (t.bank i).boots }) t

/-- The ROM's decision (R402). -/
def State.bootDecide (s : State) (u : StartReport) : State :=
  let t := s.store.found u
  match t.order.find? fun i => (t.bank i).boots with
  | none => ({ s with store := { t with romRecovery := true } }).ghost (if t.order.isEmpty then 2 else 3)
  | some i =>
    let b := t.bank i
    let s := { s with store := { t.tried with boot := i, bootSeq := b.seq, identityOk := b.puf && u.pufOk } }.takeBank b
    if !(b.puf && u.pufOk) then (s.ghost 4).hmStart
    else if b.ghostRequest then { s with store := { s.store with jobs := .ghostClear :: s.store.jobs } }.ghost 6
    else if 3 ≤ b.failedStarts then (s.ghost 1).hmStart
    else { s with store := { s.store with jobs := .countUp :: s.store.jobs } }

/-- PACKAGE_START: straps and modules are read and the boot ROM decides. Only a package held in reset starts, with the reference
present (R402, R427, R432). -/
def execPackageStart (u : StartReport) (s : State) : Result :=
  if s.house.started ∨ !s.pins.refclk then .next s
  else
    let s := { s with
      pins := { s.pins with mgmtRst := false }
      house := { s.house with started := true, nodeId := u.nodeId, trayPos := u.trayPos, modules := u.modules }
      therm := { s.therm with coolantState := if s.therm.coolantOk then 0 else 1 } }
    .next (s.bootDecide u)

/-! ## Show-ready -/

/-- The microcode the engines load at a start: the FLY slot's, or the ROM's own where the slot is empty or its image fails
(R403, R406, R407). -/
def State.loadUcode (s : State) : State :=
  let img := s.store.records.fly
  let v : W32 × BitVec 256 := if imageOk s.store.owners 2 img then (imageVersion img, imageHash img)
    else (Config.romUcodeVersion, Config.romUcodeHash)
  { s with store := { s.store with ucode := (List.range 16).map fun e => (e, v) } }

/-- A site that fails its self-test is permanent (R403, Table 13-1). -/
def State.failsTest (s : State) (x : Site) : State :=
  let (v, s) := s.draw
  let (w, s) := s.draw
  (s.makePermanent x Config.selfTestCause.toNat v w 0 0xFF).settleLanes

/-- Partitions whose record enables them become ACTIVE (Table 11-10). -/
def State.adoptParts (s : State) : State := (List.range 128).foldl (fun s p => s.adoptPart p) s

/-- SHOW_READY: sites that fail are retired; without a core or room for region 0 the package goes to ghost-light mode, and else
it is show-ready; neither leaves the start counted (R403). A coolant stop holds the self-tests (R433). -/
def execShowReady (u : SelfTest) (s : State) : Result :=
  if !s.house.running ∨ s.house.restarting ∨ s.house.deviceState ≠ 0 ∨ s.therm.coolantState = 2 ∨ s.therm.coolantState = 3 then
    .next s
  else
    let s := (u.failed.foldl State.failsTest s).storeJob (.countZero false)
    if ((List.range 256).all fun k => s.faults.retiredCores.contains k) ∨ s.faults.withdrawnH.contains 0 then .next (s.ghost 5)
    else
      let s := { s with house := { s.house with deviceState := 1 }, pins := { s.pins with pkgReady := true } }.loadUcode
      .next s.adoptParts.settle

/-- START_TIMEOUT: show-ready has not been reached 30 s after reset release, and the package resets itself (R404). -/
def execStartTimeout (s : State) : Result :=
  if s.house.started ∧ s.house.deviceState = 0 then .next s.packageReset else .next s

/-- WATCHDOG_EXPIRY: before show-ready the package resets, after it the house manager restarts (R404). A halt is ended by a
package reset alone (R330), so a halted package's house manager restarts. -/
def execWatchdogExpiry (s : State) : Result :=
  if !s.hmServes then .next s
  else if s.house.deviceState = 0 ∨ s.house.deviceState = 2 then .next s.packageReset
  else .next ((s.hmRestart.count .transients).logFault { unitType := 0x0A, cls := 1, cause := Config.watchdogCause.toNat })

/-- HM_RESTART_COMPLETE: the image of the bank in force is tested; one that fails has its bank's header erased, and the other
bank's image runs (R344, R410). A boot-up message follows where the restart was commanded by NMT. -/
def execHmRestartComplete (s : State) : Result :=
  if !s.house.restarting then .next s
  else
    let t := s.store
    let i := t.base.getD 0
    let s := if imageOk t.owners 1 (t.bank i).hm ∨ !(t.bank (1 - i)).valid then s
      else ({ s with store := t.setBank i { t.bank i with valid := false, recordsOk := false } }).logFault
        { detail := BitVec.ofNat 64 i, unitType := 0x0A, cls := 5, cause := 0x0D }
    let s := if s.store.state = 2 ∧ s.store.writing.isNone ∧ !s.store.jobs.contains .image then
      { s with store := { s.store with state := 0, stagingType := 0 } } else s
    .next (if s.can.bootDue then s.bootUp.hmServe else s.hmServe)

end Sys2Proof.Machine
end

