-- ==== Sys2Proof/Machine/Lands.lean ====
section
/-! DEFINITION. Management lands, rails and references (R425 to R435): package reset, loss of VAUX, rail faults, the reference
clock and LASER_OK. -/

namespace Sys2Proof.Machine

open Sys2Proof

/-- A package reset that releases THERMTRIP# (R434). -/
def State.coldReset (s : State) : State := { s.packageReset with pins := { s.packageReset.pins with thermTrip := false } }

/-- MGMT_RST: held low for at least 10 µs, the package is in reset (R427, Table 18-3). -/
def execMgmtRst (s : State) : Result :=
  .next { s.coldReset with pins := { s.coldReset.pins with mgmtRst := true } }

/-- VAUX_LOSS: VAUX falls below 1.0 V; the next start needs its return (R427). -/
def execVauxLoss (s : State) : Result := .next { s.coldReset with pins := { s.coldReset.pins with mgmtRst := s.pins.mgmtRst } }

/-- Nominal voltage and absolute maximum of rails 12 to 17, mV (Table 18-2). -/
def fixedRails : List (Nat × Nat) := [(1050, 1200), (750, 850), (1800, 2000), (1100, 1250), (900, 1000), (1800, 2000)]

/-- Set point of a rail, mV: the voltage in force for a core rail, that or 700 mV for an SRAM rail, else the nominal one. -/
def State.setPoint (s : State) (r : Nat) : Nat :=
  if r < 12 then (if r % 2 = 0 then s.dim.voltMv else max s.dim.voltMv 700) else (fixedRails.getD (r - 12) (0, 0)).1

/-- Absolute maximum of a rail, mV. -/
def railMax (r : Nat) : Nat := if r < 12 then 950 else (fixedRails.getD (r - 12) (0, 0)).2

/-- RAIL_FAULT: below 90 % of its set point for 20 µs, or above its absolute maximum, after the start has begun, a rail halts the
package (R428). -/
def execRailFault (rail : Fin 18) (mv : Nat) (s : State) : Result :=
  if s.house.started ∧ (10 * mv < 9 * s.setPoint rail.val ∨ railMax rail.val < mv) then
    .next (s.haltNow { detail := BitVec.ofNat 64 rail.val, cause := 0x15, detail2 := BitVec.ofNat 64 mv })
  else .next s

/-- REFCLK_LOSS: 2 µs without the reference halts the package; no path answers until it returns (R428). -/
def execRefclkLoss (s : State) : Result :=
  let s' := if s.house.started then s.haltNow { cause := 0x16 } else s
  .next { s' with pins := { s'.pins with refclk := false } }

/-- REFCLK_RETURN: the halted package serves its paths; accesses that waited are served in order. -/
def execRefclkReturn (s : State) : Result :=
  let s := { s with pins := { s.pins with refclk := true } }
  if s.dictServes then .next s.serveReady else .next s

/-- LASER_OK_CHANGE: while LASER_OK[q] is low, ports 4q to 4q + 3 see no light and are DARK; their requests stay high (R435). -/
def execLaserOkChange (q : Fin 6) (high : Bool) (s : State) : Result :=
  let m : BitVec 6 := BitVec.ofNat 6 (2 ^ q.val)
  let s := { s with pins := { s.pins with laserOk := if high then s.pins.laserOk ||| m else s.pins.laserOk &&& ~~~m } }
  if high then .next s else .next ((List.range 4).foldl (fun s i => s.lightGone (4 * q.val + i)) s)

end Sys2Proof.Machine
end

