-- ==== Sys2Proof/Machine/NormWatch.lean ====
section
/-! DEFINITION. The norm watch (R131 to R136) and the encore (R138, R139, R238). -/

namespace Sys2Proof.Machine

open Sys2Proof

/-! ## Judging -/

/-- The layer norm n of reports in index order (R132). -/
def normOf (rs : List W32) : W32 :=
  match rs with
  | [] => 0
  | r :: rs => BitVec.ofNat 32 (fpSqrt .fp32 (rs.foldl f32Add r).toNat)

/-- The reason a norm is flagged for, none when it is not (R133): 1 HIGH, 2 LOW, 3 NONFINITE. -/
def nwFlag (k : NwKind) (n ratio : W32) (warmup : Nat) : Option Nat :=
  if !f32IsFin n then some 3
  else if k.count < max 1 warmup then none
  else if f32Lt (f32Mul ratio k.mean) n then some 1
  else if f32Lt (f32Mul n ratio) k.mean then some 2
  else none

/-- 2^−k as FP32. -/
def f32Pow2Neg (k : Nat) : W32 := BitVec.ofNat 32 ((127 - k) * 2 ^ 23)

/-- The mean, COUNT and CONSEC after a verdict (R134); the second part says whether it rebased. -/
def nwUpdate (k : NwKind) (n : W32) (shift : Nat) (flag : Option Nat) : NwKind × Bool :=
  let k := { k with lastN := n }
  let up := min 255 (k.consec + 1)
  match flag with
  | none =>
    if k.count = 0 then ({ k with mean := n, count := 1, consec := 0 }, false)
    else
      let m := f32Add k.mean (f32Mul (f32Sub n k.mean) (f32Pow2Neg shift))
      ({ k with mean := m, count := min 65535 (k.count + 1), consec := 0 }, false)
  | some 3 => ({ k with consec := up }, false)
  | some _ =>
    if 16 ≤ up then ({ k with mean := n, count := 1, consec := 0 }, true) else ({ k with consec := up }, false)

/-- A kind of a layer's state. -/
def NwLayer.kind (x : NwLayer) (grad : Bool) : NwKind := if grad then x.grad else x.out
/-- Replaces a kind. -/
def NwLayer.setKind (x : NwLayer) (grad : Bool) (k : NwKind) : NwLayer :=
  if grad then { x with grad := k } else { x with out := k }

/-- Forms the verdict of a layer and kind: flag, mean, events (R133 to R135). Answers the flag. -/
def State.judge (s : State) (p l : Nat) (grad : Bool) (n : W32) : State × Option Nat :=
  let c := s.layerRec p l
  let k := ((s.part p).nwLayer l).kind grad
  let flag := nwFlag k n (recRatio c grad) (recWarmup c)
  let (k', rebased) := nwUpdate k n (recShift c) flag
  let s := s.modPart p fun x => { x with nw := SMap.put l ((x.nwLayer l).setKind grad k') x.nw }
  let s := match flag with | some r => s.nwEvent p l r | none => s
  (if rebased then s.nwEvent p l 8 else s, flag)

/-! ## The encore -/

/-- Entries of the selected sheet at a position of a layer with an extension to merge, with their numbers (R139, R238). -/
def State.encoreNumbered (s : State) (p l : Nat) : List (CueEntry × Nat) :=
  match s.selSheet p with
  | none => []
  | some sh => sh.entries.zipIdx.filter fun e => sh.layers.getD e.1.pos 1024 == l && ceExtUnits e.1.word != 0

/-- Those entries. -/
def State.encoreEntries (s : State) (p l : Nat) : List CueEntry := (s.encoreNumbered p l).map Prod.fst

/-- Those that are merged: not of an object cancelled in this step (R236). -/
def State.encoreMerged (s : State) (p l : Nat) : List (CueEntry × Nat) :=
  (s.encoreNumbered p l).filter fun e => !(s.part p).cancelled.contains (BitVec.ofNat 64 (ceObject e.1.word))

/-- The lowest range of n bytes of a partition's part on a core that avoids the selected sheet's destinations (R238). -/
def State.encoreRange (s : State) (p c n : Nat) : Option Nat :=
  let ts := s.tsRange p c
  let taken : List (Nat × Nat) := match s.selSheet p with
    | none => []
    | some sh => sh.entries.filterMap fun (e : CueEntry) =>
      if ceCore e.word = c then some (tileBase c + 128 * ceDest e.word, 128 * ceUnits e.word) else none
  let starts := ts.1 :: taken.map fun r => r.1 + r.2
  let ok (a : Nat) : Bool := inside a n ts.1 ts.2 && taken.all fun r => !overlap r.1 r.2 a n
  (starts.filter ok).min?

/-- The ranges an encore reserves, by core; none where a core has no such range or too many extended tiles. -/
def State.encoreRanges (s : State) (p l : Nat) : Option (List (Nat × Nat × Nat)) :=
  let es := s.encoreEntries p l
  let cores := (es.map fun e => ceCore e.word).eraseDups
  cores.foldl (fun acc c =>
    let mine := es.filter fun e => ceCore e.word == c
    let n := (mine.map fun e => 128 * (ceUnits e.word + ceExtUnits e.word)).foldl (· + ·) 0
    let tiles := (mine.map fun e => ceTiles e.word).foldl (· + ·) 0
    match acc with
    | none => none
    | some rs => if 4096 < tiles then none else (s.encoreRange p c n).map fun a => rs ++ [(c, a, n)]) (some [])

/-- Starts the LOADs of the extensions that lie in another package (R50). -/
def State.askExtensions (s : State) (p l : Nat) : State :=
  (s.encoreMerged p l).foldl (fun s e =>
    match SMap.find? (ceObject e.1.word) s.objects with
    | none => s
    | some o => s.askFar (.ext p l e.2) p o.desc true (ceExtOff e.1.word) (128 * ceExtUnits e.1.word)) s

/-- Starts an encore for a kind, or joins the one that stands; where it cannot run, the flag counts as EVENT (R138, R139). -/
def State.startEncore (s : State) (p l : Nat) (grad : Bool) : State :=
  let x := s.part p
  match SMap.find? l x.encores with
  | some e =>
    if e.placed then s else s.setPart p { x with encores := SMap.put l { e with kinds := e.kinds ++ [grad] } x.encores }
  | none =>
    if (s.encoreEntries p l).isEmpty then s.nwEvent p l 6
    else
      match s.encoreRanges p l with
      | none => (s.count .quotaRefusals p).nwEvent p l 7
      | some rs =>
        let n := x.encores.foldl (fun m e => max m (e.2.order + 1)) 0
        (s.setPart p { x with encores := SMap.put l { kinds := [grad], ranges := rs, order := n } x.encores }).askExtensions p l

/-- Ends a kind's part in an encore, which is over with the last kind; its reservation stands until the layer commits
(R138, R238); a re-run that is flagged again, in one kind or both, raises ENCORE_UNRESOLVED once. -/
def Part.encoreJudged (x : Part) (l : Nat) (grad flagged : Bool) : Part :=
  match SMap.find? l x.encores with
  | none => x
  | some e =>
    let ks := e.kinds.filter (· ≠ grad)
    { x with encores := SMap.put l { e with kinds := ks, judged := ks.isEmpty, unresolved := e.unresolved || flagged } x.encores }

/-- Whether all reports of a layer and kind have arrived and no verdict has been formed. -/
def NwReports.due (r : NwReports) : Bool := !r.judged && !r.failed && r.total != 0 && r.vals.length == r.total

/-- NORM_VERDICT: the norm of a layer and kind is formed and judged (R132 to R134), and the flag takes its action (R135). -/
def execNormVerdict (p : Fin 128) (l : Fin 1024) (grad : Bool) (s : State) : Result :=
  let x := s.part p.val
  let key := reportKey l.val grad
  let r := SMap.get {} x.reports key
  let act := recAction (s.layerRec p.val l.val) grad
  if !s.working || x.phase != .active || !r.due || act == 0 then .next s
  else
    let again := ((SMap.find? l.val x.encores).map fun e => e.placed && !e.judged && e.kinds.contains grad).getD false
    let (s, flag) := s.judge p.val l.val grad (normOf r.vals.values)
    let s := s.modPart p.val fun x => { x with reports := SMap.put key { r with judged := true } x.reports }
    if again then
      let told := (SMap.find? l.val x.encores).any (·.unresolved)
      let s := if flag.isSome && !told then s.nwEvent p.val l.val 5 else s
      .next (s.modPart p.val fun x => x.encoreJudged l.val grad flag.isSome)
    else
      match flag with
      | none => .next s
      | some f =>
        if act = 3 then .next ((s.count .nwStops).jobFault p.val)
        else if act = 2 ∧ f ≠ 3 then .next (s.startEncore p.val l.val grad)
        else .next s

/-! ## The reservation -/

/-- Tiles of an entry as they stand in the tile store: address and LENGTH, in order. -/
def State.entryTiles (s : State) (core dest : Nat) : Nat → Nat → List (Nat × Nat)
  | 0, _ => []
  | n + 1, off =>
    let a := tileBase core + 128 * dest + off
    let len := s.tileLength a
    (a, len) :: s.entryTiles core dest n (roundUp 128 (off + len))

/-- A merge of one entry (R130, R238): the merged tiles' bytes and the redirection records, from a free address. -/
structure MergeRun where
  s : State
  engine : Nat
  free : Nat
  ext : List Byte
  records : List (Nat × Nat × Redirect) := []

/-- Merges one tile of an entry: the extension tile is checked first (R128); a failed check or a refused merge places the base
tile failed, and is counted by its kind. -/
def MergeRun.tile (m : MergeRun) (p core : Nat) (t : Nat × Nat) : MergeRun :=
  let base := m.s.bytes t.1 t.2
  let elen := numAt m.ext 0x2C 4
  let ext := m.ext.take elen
  let ok := tileOk (ext.take 768)
  let (s, tile) := match if ok && fld (leWord 512 (ext.take 64)) 7 4 == 1 then mergeTile base ext else none with
    | some x => (m.s.count .encoreMerges p, x)
    | none => ((m.s.count (if ok then .mergeRefusals else .checkFails) p).tileFail p m.engine base, failTile base)
  let s := s.homeWrite m.free tile (inputOfEngine m.engine)
  { s := s.count .tilesPlaced p, engine := m.engine, free := roundUp 128 (m.free + tile.length), ext := m.ext.drop (roundUp 128 elen)
    records := m.records ++ [(core, t.1, { addr := m.free, baseLen := t.2 })] }

/-- What reading an entry's base tiles from where they were placed gives: POISON where a unit of it is poisoned (R234), or a line holds
an uncorrectable error; none where that begins a replay or the read is held. -/
def State.baseRead (s : State) (p : Nat) (e : BitVec 256) : State × Option Byte :=
  match s.engineRead p [(tileBase (ceCore e) + 128 * ceDest e, 128 * ceUnits e)] with
  | (s, none) => (s, none)
  | (s, some st) => (s, some (if unitsMeet (s.core (ceCore e)).poisonUnits (128 * ceDest e) (128 * ceUnits e) then stPoison else st))

/-- Extension bytes of an entry, once its base has been read: from memory, free values where the part lies in another package. -/
def State.encoreFetch (s : State) (p l u : Nat) (o : W512) (e : CueEntry × Nat) : State × Option Fetched :=
  match s.baseRead p e.1.word with
  | (s, none) => (s, none)
  | (s, some base) =>
    let n := 128 * ceExtUnits e.1.word
    let r := fetchExt o true (ceExtOff e.1.word) n
    let d := s.draws
    let far := match s.partAt p o true with | .far _ => true | _ => false
    let b : Arrival := if far then { bytes := (List.range r.2).map fun i => Config.freeByte (d + i) } else {}
    let s := if far then { s with draws := d + r.2 } else s
    match s.fetch (.ext p l e.2) p u o true (ceExtOff e.1.word) n b with
    | (s, none) => (s, none)
    | (s, some f) => (s, some { f with status := worst f.status base })

/-- Poisons the units of a merged range whose extension could not be read. -/
def State.poisonRange (s : State) (core a n : Nat) : State :=
  let c := s.core core
  let u := (a - tileBase core) / 128
  s.setCore core { c with poisonUnits := c.poisonUnits ++ (List.range (ceilDiv n 128)).map (u + ·) }

/-- Merges the extended tiles of one core's entries into its range. Which engine merges an entry is left open: a free value. -/
def State.mergeCore (s : State) (p l core base : Nat) : State × List (Nat × Nat × Redirect) :=
  let es := (s.encoreMerged p l).filter fun e => ceCore e.1.word == core
  let r := es.foldl (fun (a : State × Nat × List (Nat × Nat × Redirect)) x =>
    let (s, free, recs) := a
    let e := x.1
    match SMap.find? (ceObject e.word) s.objects with
    | none => a
    | some o =>
      let tiles := s.entryTiles core (ceDest e.word) (ceTiles e.word) 0
      let (w, s) := s.draw
      let u := w.toNat % 16
      match s.encoreFetch p l u o.desc x with
      | (s, none) => (s, free, recs)
      | (s, some f) =>
        if failing f.status ∨ !f.lost.isEmpty then
          let n := 128 * (ceUnits e.word + ceExtUnits e.word)
          let s := ((s.count .poisonedEntries p).logFault
            { detail := BitVec.ofNat 64 (ceObject e.word), unit := u, unitType := 8, cls := 5, cause := 0x08, status := stPoison
              part := p, detail2 := BitVec.setWidth 64 (if failing f.status then f.status else stPoison) }).poisonRange core free n
          (s, free + n, recs ++ tiles.map fun t => (core, t.1, { addr := free, baseLen := t.2 }))
        else
          let m := tiles.foldl (fun (m : MergeRun) t => m.tile p core t) { s := s, engine := u, free := free, ext := f.bytes }
          (m.s, m.free, recs ++ m.records)) (s, base, [])
  (r.1, r.2.2)

/-- What keeps the merges of a layer from being made now: a read that is held, one that begins a replay, or LOADs still to be sent. -/
def State.mergeWaits (s : State) (p l : Nat) : Option State :=
  (s.encoreMerged p l).findSome? fun e =>
    match SMap.find? (ceObject e.1.word) s.objects with
    | none => none
    | some o =>
      if s.fab.jobs.any fun j => j.job == .ext p l e.2 && j.left != 0 then some s
      else match s.encoreFetch p l 0 o.desc e with | (s', none) => some s' | _ => none

/-- Whether casts live now, or an earlier reservation of another layer, still hold a range (R238). -/
def State.rangeHeld (s : State) (p l : Nat) (r : Nat × Nat × Nat) : Bool :=
  let mine := ((SMap.find? l (s.part p).encores).map (·.order)).getD 0
  (s.tasks.any fun t => dIsCast t.2.desc && (t.2.live || t.2.phase == .running) && t.2.core == r.1 && t.2.tsSize != 0 && overlap t.2.tsBase t.2.tsSize r.2.1 r.2.2) ||
  s.parts.any fun x => x.2.encores.any fun e => !(x.1 == p && e.1 == l) && (e.2.placed || (x.1 == p && decide (e.2.order < mine))) &&
    e.2.ranges.any fun y => y.1 == r.1 && overlap y.2.1 y.2.2 r.2.1 r.2.2

/-- The tasks of a layer in the current step: those that run as casts. Its casting call is never run again (R213), and a collective that
carries its outputs has not started (R136). -/
def State.layerCasts (s : State) (p l : Nat) : List (Nat × Task) :=
  s.tasks.filter fun e => e.2.part == p && e.2.step == (s.part p).step.toNat && dLayer e.2.desc == l && dIsCast e.2.desc

/-- ENCORE_RESERVATION: once nothing holds the ranges, the merged tiles are placed and the layer's tasks run again (R138,
R238). -/
def execEncoreReservation (p : Fin 128) (l : Fin 1024) (s : State) : Result :=
  let x := s.part p.val
  match SMap.find? l.val x.encores with
  | none => .next s
  | some e =>
    let casts := s.layerCasts p.val l.val
    if !s.working || x.phase != .active || e.placed || s.kindHeld p.val l.val false || s.kindHeld p.val l.val true ||
        e.ranges.any (s.rangeHeld p.val l.val) || casts.any (fun c => c.2.phase != .complete || c.2.replaying) then .next s
    else
      match s.mergeWaits p.val l.val with
      | some s' => .next s'
      | none =>
      let (s, recs) := e.ranges.foldl (fun (a : State × List (Nat × Nat × Redirect)) r =>
        let (s, rs) := a.1.mergeCore p.val l.val r.1 r.2.1
        (s, a.2 ++ rs)) (s, [])
      let s := casts.foldl (fun s c => (s.raiseVclock p.val).setTask c.1 { c.2 with
        phase := .waiting, encore := true, readyAt := some s.clk.cycle, status := stOk, arrSeq := [], arrDone := []
        granules := [], atomCount := [], saved := [], savedArrays := [] }) s
      let s := s.modPart p.val fun x =>
        let fresh (x : Part) (g : Bool) : Part := { x with reports := SMap.del (reportKey l.val g) x.reports }
        let x := { x with encores := SMap.put l.val { e with placed := true, redirects := recs } x.encores
                          encoresRun := x.encoresRun + 1 }
        e.kinds.foldl fresh x
      let s := { s with requests := SMap.mapVals (fun _ (r : Request) =>
        if r.part == p.val && r.state != 2 then { r with sawEncore := true } else r) s.requests }
      .next (s.count .encores)

end Sys2Proof.Machine
end

