-- ==== Sys2Proof/Machine/Preempt.lean ====
section
/-! DEFINITION. Context switches (R84, R108, R158, R304, R305). -/

namespace Sys2Proof.Machine

open Sys2Proof

/-- Bytes of a thread's saved state: the registers written since the cast started and 64 bytes more (R84). -/
def Thread.savedSize (t : Thread) : Nat := 8 * t.liveG.length + 512 * t.liveV.length + 16 * t.liveP.length + 64

/-- L_thr of a cast (R305). -/
def State.liveBytes (s : State) (k : Nat) : Nat := (s.threadsOf k).foldl (fun n e => n + e.2.savedSize) 0

/-- L_tile of a cast (R305). -/
def Task.tileBytes (t : Task) : Nat := 4096 * t.granules.length

/-- Bytes a victim takes in the save area: thread state, granules, queued commands and table records. -/
def State.saveBytes (s : State) (k : Nat) (t : Task) : Nat :=
  let cmds := s.arrays.foldl (fun n e => if e.2.owner = some k then n + e.2.queue.length else n) 0
  s.liveBytes k + t.tileBytes + 64 * cmds + 16 * t.tables.length

/-- Free bytes of a partition's save area (Table 11-9). -/
def State.saveFree (s : State) (p : Nat) : Nat :=
  fld (s.partRec p) 191 160 * 0x200000 -
    (s.tasks.filter fun e => e.2.part == p).foldl (fun n e => n + e.2.savedBytes) 0

/-- ⌊VCLOCK × 256 / SHARES⌋; a partition of SHARES 0 ranks above every other. -/
def State.rankValue (s : State) (p : Nat) : Nat :=
  if s.shares p = 0 then s.vclock p * 256 * 2 ^ 16 else s.vclock p * 256 / s.shares p

/-- The request class a task serves, if any. -/
def State.servedClass (s : State) (t : Task) : Option Nat := ((dReq t.desc).bind fun r => SMap.find? r s.requests).map (·.cls)

/-- Whether a task may call for a switch: a DEADLINE or INTERACTIVE task that is ready and finds no free core, in a
partition that switches. -/
def State.wantsSwitch (s : State) (w : Task) : Bool :=
  w.phase == .waiting && w.readyAt.isSome && dIsCast w.desc && fld (s.partRec w.part) 79 64 != 0 &&
    (s.servedClass w == some 0 || s.servedClass w == some 2) && (s.placeOn w).isNone

/-- Whether cast k qualifies as a victim for a waiting task (R304). A cast with accesses outstanding is left until they
return. -/
def State.victimFor (s : State) (w : Task) (k : Nat) (t : Task) : Bool :=
  let freed := s.setTask k { t with phase := .switchedOut }
  t.phase == .running && !t.castOver && dIsCast t.desc && s.servedClass t == some 1 && s.ownsCore w.part t.core &&
    freed.coreFits w t.core && (bookFree (s.bookTaken (some t.core) 0)).isSome &&
    (t.part == w.part || decide (s.rankValue w.part < s.rankValue t.part)) &&
    !(s.fab.pend.any fun q => q.task == some k) &&
    (s.threadsOf k).all fun e => match e.2.wait with | .far _ _ => false | .home => false | .sfload _ _ => false | _ => true

/-- The victim a waiting task takes: highest rank value, then highest core, then highest slot. -/
def State.victimOf (s : State) (w : Task) : Option Nat :=
  let cs := s.tasks.filter fun e => s.victimFor w e.1 e.2
  let key (e : Nat × Task) : List Nat := [s.rankValue e.2.part, e.2.core, e.2.slots.foldl max 0]
  (leastBy (fun a b => decide (key b < key a)) cs).map Prod.fst

/-- What a save leaves in the save area: bytes of a layout the spec does not give, as free values at a free place of it. -/
def State.fillSave (s : State) (p n : Nat) : State :=
  let r := s.partRec p
  let (w, s) := s.draw
  let bs := (List.range n).map fun i => Config.freeByte (s.draws + i)
  { s with draws := s.draws + n }.homeWrite (fld r 255 192 + w.toNat % (fld r 191 160 * 0x200000 - n + 1)) bs

/-- Saves a cast's threads, granules and arrays and frees its arrays (R84, R108, R305). -/
def State.saveCast (s : State) (k : Nat) (t : Task) : State :=
  let mine := s.arrays.filter fun e => e.2.owner == some k
  let t := { t with
    phase := .switchingOut, saved := s.threadsOf k, savedArrays := mine, savedBytes := s.saveBytes k t
    savedTile := t.granules.map fun g => (t.tsBase + 4096 * g, s.bytes (t.tsBase + 4096 * g) 4096) }
  ((((s.setTask k t).freeThreads k).releaseArrays k).count .preemptions).fillSave t.part t.savedBytes

/-- SWITCH_OUT: a waiting task's victim is switched out, unless its state does not fit the save area (R304). -/
def execSwitchOut (k : Nat) (s : State) : Result :=
  match s.task? k with
  | none => .next s
  | some t =>
    if !s.working || !(s.tasks.any fun e => s.wantsSwitch e.2 && s.victimOf e.2 == some k) then .next s
    else if s.saveFree t.part < s.saveBytes k t then .next (s.count .saveFull t.part)
    else .next (s.saveCast k t)

/-- SWITCH_OUT_COMPLETE: the victim's slots and ranges become free; it ranks as ready from now (R305). -/
def execSwitchOutComplete (k : Nat) (s : State) : Result :=
  match s.task? k with
  | none => .next s
  | some t =>
    if t.phase ≠ .switchingOut then .next s
    else .next (s.setTask k { t with phase := .switchedOut, readyAt := some s.clk.cycle })

/-- Whether a switched-out cast's core, slots, range, arrays and table slots are free again. -/
def State.mayResume (s : State) (k : Nat) (t : Task) : Bool :=
  t.phase == .switchedOut && (s.part t.part).phase == .active && !s.faults.retiredCores.contains t.core &&
    t.slots.all (fun i => (s.freeSlots t.core).contains i) &&
    (s.tsTaken t.part t.core).all (fun r => !overlap r.1 r.2 t.tsBase t.tsSize) && s.tablesFree t.core t &&
    t.savedArrays.all (fun e => (s.array e.1).owner == none && !(e.2.loaded.any fun w => s.loadHeld k w)) &&
    (s.readyOn t.home).all fun e => !s.before e (k, t) || (s.placeOn e.2).isNone

/-- Whether the protection of the LOAD that formed an array's block still stands: no later LOAD of the array is queued (R93). -/
def ArrayUnit.blockHeld (a : ArrayUnit) : Bool := !(a.queue.any fun c => !c.ran && cmdType c.word == 1)

/-- A saved array stands again for a resumed cast: the LOAD that formed its block runs again from its source (R108). Where a later
LOAD has been accepted, which ends the protection of that source (R93), the block stands as saved, its 256 row cycles counted. -/
def State.resumeArray (s : State) (k : Nat) (t : Task) (e : Nat × ArrayUnit) : State :=
  let u := { e.2 with nextSeq := max e.2.nextSeq (s.array e.1).nextSeq }
  let s := s.setArray e.1 u
  match e.2.loaded with
  | none => s
  | some w =>
    if !u.blockHeld then s.loadCycles e.1 t
    else
      match s.runLoad e.1 k t w with
      | (s', some (b, _)) => s'.setArray e.1 { u with block := some b }
      | (s', none) => s'

/-- CAST_RESUME: the cast resumes in the same slots and range; its tables and stationary blocks are loaded again (R108,
R158, R305). A replay that the reading of a LOAD's source begins stops it as a member. -/
def execCastResume (k : Nat) (s : State) : Result :=
  match s.task? k with
  | none => .next s
  | some t =>
    if !s.working || !s.mayResume k t then .next s
    else
      let c := s.core t.core
      let s := (s.setCore t.core { c with tables := t.tables.foldl (fun (m : SMap TableSlot) (e : Nat × TableSlot) => SMap.put e.1 e.2 m) c.tables }).count
        .tableLoads t.core t.tables.length
      let s := s.writeAll t.savedTile
      let s := { s with threads := t.saved.foldl (fun (m : SMap Thread) (e : Nat × Thread) => SMap.put e.1 e.2 m) s.threads }
      let s := s.setTask k { t with phase := .running, saved := [], savedArrays := [], savedTile := [], savedBytes := 0 }
      .next (t.savedArrays.foldl (fun (s : State) (e : Nat × ArrayUnit) =>
        if (s.task? k).any fun t => t.phase == .running then s.resumeArray k t e else s) s)

end Sys2Proof.Machine
end

