-- ==== Sys2Proof/Machine/Requests.lean ====
section
/-! DEFINITION. Requests, the call monitor, stand-ins and token budgets (R294 to R302). -/

namespace Sys2Proof.Machine

open Sys2Proof

/-! ## Opening -/

/-- The checks of R294 on a REQ_OPEN: the status of the first that fails. -/
def State.reqOpenCheck (s : State) (p : Nat) (w : W512) : Option Byte :=
  let slot := fld w 255 244
  let ctx : W64 := BitVec.ofNat 64 (fld w 511 448)
  let res : W64 := BitVec.ofNat 64 (fld w 447 384)
  let cls := fld w 231 230
  let cust := fld w 243 232
  let ctxBad := ctx != 0 &&
    match s.refCheck p ctx with
    | .error _ => true
    | .ok (_, d) => ctxCustomer d != cust
  let budgetBad := if cls = 2 then fld w 383 352 == 0 else fld w 383 352 != 0
  if (SMap.find? slot s.requests).isSome || cls == 3 || !zeroFld w 225 8 || decide (res.toNat % 32 ≠ 0) ||
      !zeroFld res 63 52 || !s.inAllocs p res.toNat 32 || ctxBad || budgetBad then some stDenied
  else if cls = 0 ∧ s.exhausted cust = true then some stBudget
  else none

/-- REQ_OPEN: opens a request slot, or refuses it (R294, R301); an exhausted budget is counted whichever status it reports (R9). One that
opens in a step in which an encore ran has seen it (R298). -/
def State.reqOpenOp (s : State) (k p : Nat) (w : W512) : State :=
  match s.reqOpenCheck p w with
  | some st =>
    let c := fld w 243 232
    let s := if fld w 231 230 = 0 ∧ s.exhausted c = true then
      (s.setCustomer c { s.customer c with refused := (s.customer c).refused + 1 }).count .budgetRefusals else s
    s.finish k st
  | none =>
    let r : Request := {
      part := p, ctx := BitVec.ofNat 64 (fld w 511 448), result := BitVec.ofNat 64 (fld w 447 384)
      budgetUs := fld w 383 352, estTotal := fld w 351 320, sarg := BitVec.ofNat 64 (fld w 319 256)
      customer := fld w 243 232, cls := fld w 231 230, standin := fld w 229 226, opened := s.clk.ticks
      sawEncore := decide ((s.part p).encoresRun ≠ 0) }
    ({ s with requests := SMap.put (fld w 255 244) r s.requests }).finish k stOk

/-- REQ_OPEN. -/
def execReqOpen (q : QRef) (e : W512) (s : State) : Result := s.withEntry q e (· == 0x71) State.reqOpenOp

/-- Runs a request entry that names a slot the partition holds open; any other completes with DENIED (R298). -/
def State.withRequest (s : State) (k p : Nat) (w : W512) (clean : Bool) (f : State → Nat → Request → State) : State :=
  let slot := fld w 255 244
  match SMap.find? slot s.requests with
  | some r => if r.part = p ∧ clean then f s slot r else s.finish k stDenied
  | none => s.finish k stDenied

/-- Whether only SLOT is set beside the code (Table 11-1). -/
def slotOnly (w : W512) : Bool := zeroFld w 511 256 && zeroFld w 243 8

/-! ## Tokens -/

/-- Charges a customer (R301). -/
def State.charge (s : State) (c n : Nat) : State :=
  let x := s.customer c
  let metered := s.cfgNum 0x4000 1 (32 * c + 24) 4 ≠ 0
  let level := if metered then max (-(2 ^ 63 : Int)) (x.level - n * 1000000) else x.level
  s.setCustomer c { x with level := level, charged := x.charged + BitVec.ofNat 64 n }

/-- A request after tokens at a tick, with what they miss: time to first token, time between tokens (R296). -/
def Request.emit (r : Request) (n now : Nat) (ttftTarget tbtTarget : Nat) : Request × Bool × Bool :=
  let r := { r with tokens := r.tokens + n }
  if !r.firstDone then
    let d := now - r.opened
    ({ r with firstDone := true, ttft := d, lastTick := now }, decide (ttftTarget ≠ 0 ∧ 100 * ttftTarget < d), false)
  else
    let d := now - r.lastTick
    ({ r with lastTick := now, tbtSum := r.tbtSum + d, tbtMax := max r.tbtMax d }, false, decide (tbtTarget ≠ 0 ∧ 100 * tbtTarget < d))

/-- REQ_TOKENS (R296). -/
def State.reqTokensOp (s : State) (k p : Nat) (w : W512) : State :=
  let n := fld w 239 224
  s.withRequest k p w (zeroFld w 511 256 && zeroFld w 243 240 && zeroFld w 223 8 && n != 0) fun s slot r =>
    let rec_ := s.partRec p
    let (r, late1, late2) := r.emit n s.clk.ticks (fld rec_ 31 16) (fld rec_ 15 1)
    let s := { s with requests := SMap.put slot r s.requests }
    let s := if late1 then s.count .ttftMisses p else s
    let s := if late2 then s.count .tbtMisses p else s
    (s.charge r.customer n).finish k stOk

/-- REQ_TOKENS. -/
def execReqTokens (q : QRef) (e : W512) (s : State) : Result := s.withEntry q e (· == 0x72) State.reqTokensOp

/-! ## Pause, resume, close -/

/-- REQ_PAUSE: only on a BACKGROUND request (R302). -/
def State.reqPauseOp (s : State) (k p : Nat) (w : W512) : State :=
  s.withRequest k p w (slotOnly w) fun s slot r =>
    if r.cls ≠ 1 then s.finish k stDenied
    else ({ s with requests := SMap.put slot { r with paused := true } s.requests }).finish k stOk

/-- REQ_PAUSE. -/
def execReqPause (q : QRef) (e : W512) (s : State) : Result := s.withEntry q e (· == 0x73) State.reqPauseOp

/-- REQ_RESUME: clears the PAUSE reason (R302). -/
def State.reqResumeOp (s : State) (k p : Nat) (w : W512) : State :=
  s.withRequest k p w (slotOnly w) fun s slot r =>
    ({ s with requests := SMap.put slot { r with paused := false } s.requests }).finish k stOk

/-- REQ_RESUME. -/
def execReqResume (q : QRef) (e : W512) (s : State) : Result := s.withEntry q e (· == 0x74) State.reqResumeOp

/-- REQ_CLOSE: ends the request (R297, R298). -/
def State.reqCloseOp (s : State) (k p : Nat) (w : W512) : State :=
  s.withRequest k p w (slotOnly w) fun s slot _ => (s.endRequest slot stOk).finish k stOk

/-- REQ_CLOSE. -/
def execReqClose (q : QRef) (e : W512) (s : State) : Result := s.withEntry q e (· == 0x75) State.reqCloseOp

/-! ## The call monitor (R299, R300) -/

/-- Predicted completion in ticks: time so far and the remaining estimate at a clock of f MHz. -/
def predict (elapsed remaining f : Nat) : Nat := elapsed + ceilDiv (10 * remaining * 2000) f

/-- Stand-in record n of a partition (Table 11-7). -/
def State.standinRec (s : State) (p n : Nat) : BitVec 128 := BitVec.ofNat 128 (s.cfgNum (0x3000 + p) 5 (16 * n) 16)

/-- A stand-in descriptor as appended: REQ, REQ_EN and ARG replaced (R300). -/
def standinDesc (d : W512) (slot : Nat) (sarg : W64) : W512 :=
  setFld (setFld (setFld d 95 84 slot) 83 83 1) 447 384 sarg.toNat

/-- Appends COUNT descriptors at a queue's tail and rings it. -/
def State.appendStandins (s : State) (p slot : Nat) (r : Request) (rec_ : BitVec 128) : State :=
  let c := p * 128 + fld rec_ 55 53
  let q := s.queue c
  let n := q.sqEntries.toNat
  let cnt := fld rec_ 63 56
  let list := fld rec_ 127 64
  let s := (List.range cnt).foldl (fun s j =>
    let a := list + 64 * j
    let at_ := q.sqBase.toNat + 64 * ((q.sqTail + j) % n)
    let bad := s.poisoned a 64
    let s := s.homeWrite at_ (bytesLE 64 (standinDesc (s.word512 a) slot r.sarg).toNat)
    if bad then (s.memError (a / 64 * 64) 0 stPoison p).addPoison (at_ / 64) else s) s
  s.ringTail c ((q.sqTail + cnt) % n)

/-- Switches a request to its stand-in (R300). -/
def State.standinSwitch (s : State) (slot : Nat) (r : Request) (rec_ : BitVec 128) : State :=
  let r := { r with state := 3, estTotal := fld rec_ 52 37, cEst := 0, switched := true }
  let s := { s with requests := SMap.put slot r s.requests }
  let named := (s.tasks.filter fun e => e.2.part == r.part && dReq e.2.desc == some slot && !e.2.dispatched).map Prod.fst
  let s := named.foldl (fun s k => s.skipTask k stStandin true) s
  (s.appendStandins r.part slot r rec_).count .standinSwitches

/-- Evaluates one DEADLINE request. -/
def State.monitor (s : State) (slot : Nat) : State :=
  match SMap.find? slot s.requests with
  | none => s
  | some r =>
    if r.cls ≠ 2 then s
    else
      let el := s.clk.ticks - r.opened
      let budget := 100 * r.budgetUs
      let (s, r) := if r.missed s.clk.ticks then
          let r := { r with missCounted := true }
          (({ s with requests := SMap.put slot r s.requests }).count .deadlineMisses, r)
        else (s, r)
      if r.switched then s
      else
        let rec_ := s.standinRec r.part r.standin
        let P := predict el (r.estTotal - r.cEst) s.mhz
        let PS := predict el (fld rec_ 52 37) s.mhz
        if P ≤ budget then s
        else
          let q := s.queue (r.part * 128 + fld rec_ 55 53)
          let n := q.sqEntries.toNat
          let room := n - 1 - (q.sqTail + n - q.sqHead) % n
          let can := bit rec_ 0 && decide (PS < P) && q.sqBase != 0 && decide (fld rec_ 63 56 ≤ room)
          if can && !s.isScripted r.part then s.standinSwitch slot r rec_
          else
            let s' := { s with requests := SMap.put slot { r with lateCounted := true, scriptHeld := r.scriptHeld || can } s.requests }
            let s' := if r.lateCounted then s' else s'.count .lateNoSwitch r.part
            if can && !r.scriptHeld then s'.count .scriptHolds else s'

/-- CALL_MONITOR_TICK: every open DEADLINE request is evaluated. -/
def execCallMonitorTick (s : State) : Result :=
  if !s.working then .next s else .next ((s.requests.map Prod.fst).foldl State.monitor s)

/-- A customer's bucket after 1 µs (R301). -/
def refill (rate depth : Nat) (c : Customer) : Customer := { c with level := min (c.level + rate) (depth * 1000000) }

/-- BUDGET_REFILL: every metered customer's bucket is filled. -/
def execBudgetRefill (s : State) : Result :=
  .next ((List.range 4096).foldl (fun s c =>
    let depth := s.cfgNum 0x4000 1 (32 * c + 24) 4
    if depth = 0 then s else s.setCustomer c (refill (s.cfgNum 0x4000 1 (32 * c + 28) 4) depth (s.customer c))) s)

end Sys2Proof.Machine
end

