-- ==== Sys2Proof/Machine/Flags.lean ====
section
/-! DEFINITION. Compare conditions (Table 03-7) and the FP_FLAGS that comparisons and arithmetic set (Table 03-3, R65). -/

namespace Sys2Proof.Machine

open Sys2Proof

/-- INVALID of an ordered comparison: a signaling NaN sets it; whether a quiet NaN does under codes 0x6 and 0x7 is a free
value. -/
def cmpFlags (f : Fmt) (a b : Nat) (ordered : Bool) : FpFlags :=
  let x := fpDecode f a; let y := fpDecode f b
  if x = .nan true ∨ y = .nan true then FpFlags.invalid
  else if ordered && (x.isNan || y.isNan) && Config.cmpInvalidOnQuietNan then FpFlags.invalid
  else FpFlags.none

/-- Integer conditions 0x0 to 0x5 on w-bit patterns. -/
def intCond (w c a b : Nat) : Bool :=
  let sg (v : Nat) : Int := (BitVec.ofNat w v).toInt
  match c with
  | 0 => decide (a = b) | 1 => decide (a ≠ b) | 2 => decide (sg a < sg b) | 3 => decide (sg b ≤ sg a)
  | 4 => decide (a < b) | 5 => decide (b ≤ a) | _ => false

/-- FP conditions 0x6 to 0x8. -/
def fpCond (f : Fmt) (c a b : Nat) : Bool :=
  match c with
  | 6 => fpLt f a b | 7 => fpLe f a b | 8 => fpEq f a b | _ => false

/-- CMP: the condition and the flags it sets; codes above 0x8 are illegal and refused before this. -/
def scalarCond (c : Nat) (a b : W64) : Bool × FpFlags :=
  if c ≤ 5 then (intCond 64 c a.toNat b.toNat, FpFlags.none)
  else
    let x := a.toNat % 2 ^ 32; let y := b.toNat % 2 ^ 32
    (fpCond .fp32 c x y, cmpFlags .fp32 x y (c ≠ 8))

/-- A predicate of all ones or all zeros. -/
def predAll (b : Bool) : Pred := if b then BitVec.allOnes 128 else 0

end Sys2Proof.Machine
end

