-- ==== Sys2Proof/Machine/Scalar.lean ====
section
/-! DEFINITION. The scalar instructions of Table 03-6 and the special registers of Table 03-2. -/

namespace Sys2Proof.Machine

open Sys2Proof

/-- GD ← f GA GB. -/
def State.binary (s : State) (t : Tid) (f : SOp) (op : W64 → W64 → W64) : Result :=
  s.sOp t f { gd := true, ga := true, gb := true } true true fun x => x.setG f.gd (op (x.gr f.ga) (x.gr f.gb))

/-- GD ← f GA. -/
def State.unary (s : State) (t : Tid) (f : SOp) (op : W64 → W64) : Result :=
  s.sOp t f { gd := true, ga := true } true true fun x => x.setG f.gd (op (x.gr f.ga))

/-- GD ← f GA IMM. -/
def State.immediate (s : State) (t : Tid) (f : IOp) (op : W64 → W64 → W64) : Result :=
  s.iOp t f fun x => x.setG f.gd (op (x.gr f.ga) (immSx f))

/-- Population count. -/
def popCount (a : W64) : Nat := (List.range 64).countP fun i => a.getLsbD i

/-- Leading zeros; 64 for 0. -/
def leadZeros (a : W64) : Nat := if a = 0 then 64 else 63 - Nat.log2 a.toNat

/-- Signed quotient rounded toward zero with the corners of R64. -/
def divSigned (a b : W64) : W64 := if b = 0 then BitVec.allOnes 64 else BitVec.ofInt 64 (a.toInt.tdiv b.toInt)

/-- Signed remainder with the sign of GA and the corners of R64. -/
def remSigned (a b : W64) : W64 := if b = 0 then a else BitVec.ofInt 64 (a.toInt.tmod b.toInt)

/-- NOP: nothing; every field zero. -/
def execNop (t : Tid) (f : SOp) (s : State) : Result := s.sOp t f {} true true id
/-- ADD. -/
def execAdd (t : Tid) (f : SOp) (s : State) : Result := s.binary t f (· + ·)
/-- SUB. -/
def execSub (t : Tid) (f : SOp) (s : State) : Result := s.binary t f (· - ·)
/-- MUL: the low 64 bits. -/
def execMul (t : Tid) (f : SOp) (s : State) : Result := s.binary t f (· * ·)
/-- MULHU: the high 64 bits of the unsigned product. -/
def execMulhu (t : Tid) (f : SOp) (s : State) : Result :=
  s.binary t f fun a b => BitVec.ofNat 64 (a.toNat * b.toNat / 2 ^ 64)
/-- MULHS: the high 64 bits of the signed product. -/
def execMulhs (t : Tid) (f : SOp) (s : State) : Result :=
  s.binary t f fun a b => BitVec.ofInt 64 ((a.toInt * b.toInt) / 2 ^ 64)
/-- DIVU (R64). -/
def execDivu (t : Tid) (f : SOp) (s : State) : Result :=
  s.binary t f fun a b => if b = 0 then BitVec.allOnes 64 else BitVec.ofNat 64 (a.toNat / b.toNat)
/-- DIVS (R64). -/
def execDivs (t : Tid) (f : SOp) (s : State) : Result := s.binary t f divSigned
/-- REMU (R64). -/
def execRemu (t : Tid) (f : SOp) (s : State) : Result :=
  s.binary t f fun a b => if b = 0 then a else BitVec.ofNat 64 (a.toNat % b.toNat)
/-- REMS (R64). -/
def execRems (t : Tid) (f : SOp) (s : State) : Result := s.binary t f remSigned
/-- AND. -/
def execAnd (t : Tid) (f : SOp) (s : State) : Result := s.binary t f (· &&& ·)
/-- OR. -/
def execOr (t : Tid) (f : SOp) (s : State) : Result := s.binary t f (· ||| ·)
/-- XOR. -/
def execXor (t : Tid) (f : SOp) (s : State) : Result := s.binary t f (· ^^^ ·)
/-- SHL by GB mod 64. -/
def execShl (t : Tid) (f : SOp) (s : State) : Result := s.binary t f fun a b => a <<< (b.toNat % 64)
/-- SHR by GB mod 64. -/
def execShr (t : Tid) (f : SOp) (s : State) : Result := s.binary t f fun a b => a >>> (b.toNat % 64)
/-- SRA by GB mod 64. -/
def execSra (t : Tid) (f : SOp) (s : State) : Result := s.binary t f fun a b => a.sshiftRight (b.toNat % 64)
/-- MINS. -/
def execMins (t : Tid) (f : SOp) (s : State) : Result := s.binary t f fun a b => if b.slt a then b else a
/-- MAXS. -/
def execMaxs (t : Tid) (f : SOp) (s : State) : Result := s.binary t f fun a b => if a.slt b then b else a
/-- POPC. -/
def execPopc (t : Tid) (f : SOp) (s : State) : Result := s.unary t f fun a => BitVec.ofNat 64 (popCount a)
/-- CLZ. -/
def execClz (t : Tid) (f : SOp) (s : State) : Result := s.unary t f fun a => BitVec.ofNat 64 (leadZeros a)

/-- CMP: p[GD[2:0]] ← condition GC[3:0]; GD[5:3] and GC[5:4] are zero, codes 0x9 to 0xF illegal. -/
def execCmp (t : Tid) (f : SOp) (s : State) : Result :=
  s.sOp t f { gd := true, ga := true, gb := true, gc := true }
    (zeroFld f.gd 5 3 && zeroFld f.gc 5 4) (decide (fld f.gc 3 0 ≤ 8)) fun x =>
      let (c, fl) := scalarCond (fld f.gc 3 0) (x.gr f.ga) (x.gr f.gb)
      (x.setP (f.gd.setWidth 3) (predAll c)).orFlags fl

/-- SEL: GD ← bit 0 of p[GC[2:0]] ? GA : GB; GC[5:3] is zero. -/
def execSel (t : Tid) (f : SOp) (s : State) : Result :=
  s.sOp t f { gd := true, ga := true, gb := true, gc := true } (zeroFld f.gc 5 3) true fun x =>
    x.setG f.gd (if (x.pr (f.gc.setWidth 3)).getLsbD 0 then x.gr f.ga else x.gr f.gb)

/-- ADDI. -/
def execAddi (t : Tid) (f : IOp) (s : State) : Result := s.immediate t f (· + ·)
/-- ANDI. -/
def execAndi (t : Tid) (f : IOp) (s : State) : Result := s.immediate t f (· &&& ·)
/-- ORI. -/
def execOri (t : Tid) (f : IOp) (s : State) : Result := s.immediate t f (· ||| ·)
/-- XORI. -/
def execXori (t : Tid) (f : IOp) (s : State) : Result := s.immediate t f (· ^^^ ·)
/-- SHLI by IMM mod 64. -/
def execShli (t : Tid) (f : IOp) (s : State) : Result := s.immediate t f fun a b => a <<< (b.toNat % 64)
/-- SHRI by IMM mod 64. -/
def execShri (t : Tid) (f : IOp) (s : State) : Result := s.immediate t f fun a b => a >>> (b.toNat % 64)
/-- MOVHI: IMM[31:0] << 32, with the low half of GA. -/
def execMovhi (t : Tid) (f : IOp) (s : State) : Result :=
  s.iOp t f fun x => x.setG f.gd ((f.imm.setWidth 64 <<< 32) ||| (x.gr f.ga &&& 0xFFFFFFFF#64))

/-- Low 32 bits of a register, as an FP32 pattern. -/
def lo32 (a : W64) : Nat := a.toNat % 2 ^ 32

/-- Writes an FP32 result with zeros above, and its flags. -/
def Thread.setF (x : Thread) (i : BitVec 6) (r : Nat × FpFlags) : Thread :=
  (x.setG i (BitVec.ofNat 64 (r.1 % 2 ^ 32))).orFlags r.2

/-- FADD. -/
def execFadd (t : Tid) (f : SOp) (s : State) : Result :=
  s.sOp t f { gd := true, ga := true, gb := true } true true fun x =>
    x.setF f.gd (fpAdd .fp32 (lo32 (x.gr f.ga)) (lo32 (x.gr f.gb)))
/-- FMUL. -/
def execFmul (t : Tid) (f : SOp) (s : State) : Result :=
  s.sOp t f { gd := true, ga := true, gb := true } true true fun x =>
    x.setF f.gd (fpMul .fp32 (lo32 (x.gr f.ga)) (lo32 (x.gr f.gb)))
/-- FFMA: one rounding. -/
def execFfma (t : Tid) (f : SOp) (s : State) : Result :=
  s.sOp t f { gd := true, ga := true, gb := true, gc := true } true true fun x =>
    x.setF f.gd (fpFma .fp32 (lo32 (x.gr f.ga)) (lo32 (x.gr f.gb)) (lo32 (x.gr f.gc)))
/-- FCVTSF: FP32 ← signed 64-bit GA. -/
def execFcvtsf (t : Tid) (f : SOp) (s : State) : Result :=
  s.sOp t f { gd := true, ga := true } true true fun x => x.setF f.gd (fpOfInt .fp32 (x.gr f.ga).toInt)
/-- FCVTFS: signed 64-bit ← FP32 GA, saturating. -/
def execFcvtfs (t : Tid) (f : SOp) (s : State) : Result :=
  s.sOp t f { gd := true, ga := true } true true fun x =>
    let (z, fl) := fpToSInt .fp32 64 (lo32 (x.gr f.ga))
    (x.setG f.gd (BitVec.ofInt 64 z)).orFlags fl

/-! ## Special registers -/

/-- A special register; none for a number not in Table 03-2. -/
def State.special (s : State) (t : Tid) (x : Thread) (k : Task) (n : Nat) : Option W64 :=
  match n with
  | 0x00 => some (BitVec.ofNat 64 x.tid)
  | 0x01 => some (BitVec.ofNat 64 (dThreads k.desc))
  | 0x02 => some (BitVec.ofNat 64 t.core.val)
  | 0x03 => some (BitVec.ofNat 64 t.slot.val)
  | 0x04 => some (BitVec.ofNat 64 k.part)
  | 0x05 => some ((s.fab.coord.getD 0).setWidth 64)
  | 0x06 => some (BitVec.ofNat 64 s.clk.cycle)
  | 0x07 => some (s.part k.part).step
  | 0x08 => some (BitVec.ofNat 64 k.tsBase)
  | 0x09 => some (BitVec.ofNat 64 k.tsSize)
  | 0x0A => some (if s.scripted k.part then 1 else 0)
  | 0x10 => some x.excCode
  | 0x11 => some x.excPc
  | 0x12 => some x.excAddr
  | 0x13 => some x.excStatus
  | 0x14 => some x.farAddr
  | 0x15 => some x.fpFlags
  | _ => none

/-- RDS: GD ← special register IMM; GA is unused (R58). -/
def execRds (t : Tid) (f : IOp) (s : State) : Result :=
  s.issue t f.pred f.pneg (iOk f && f.ga == 0) false true fun x k =>
    match s.special t x k (immSx f).toNat with
    | some v => s.setThread t (x.setG f.gd v).step
    | none => s.raise t x .illegal 0

/-- WRS: special register IMM ← GA; only FP_FLAGS is writable, and its reserved bits ignore writes (R58, Table 03-3). -/
def execWrs (t : Tid) (f : IOp) (s : State) : Result :=
  s.issue t f.pred f.pneg (iOk f && f.gd == 0) false true fun x _ =>
    if (immSx f).toNat = 0x15 then s.setThread t ({ x with fpFlags := x.gr f.ga &&& 0x1F#64 }).step
    else s.raise t x .illegal 0

end Sys2Proof.Machine
end

