-- ==== Sys2Proof/Machine/Vector.lean ====
section
/-! DEFINITION. The vector instructions of Table 03-9: element types (Table 03-1), predication by element (R57, R62),
arithmetic under R65, conversions (R69, R118, R120) and reductions (R70). -/

namespace Sys2Proof.Machine

open Sys2Proof

/-! ## Elements -/

/-- Element width of an ET code (Table 03-1). -/
def etWidth (et : BitVec 3) : Nat :=
  match et.toNat with
  | 0 => 32 | 1 => 16 | 2 => 32 | 3 => 16 | 4 => 8 | 5 => 8 | 6 => 8 | _ => 8

/-- Elements per register. -/
def etCount (et : BitVec 3) : Nat := 4096 / etWidth et

/-- The FP format of ET 000 and 001. -/
def etFmt (et : BitVec 3) : Option Fmt := if et = 0 then some .fp32 else if et = 1 then some .bf16 else none

/-- Whether ET is an integer type. -/
def etInt (et : BitVec 3) : Bool := et == 2 || et == 3 || et == 4

/-- Whether ET may be used outside VCVT. -/
def etPlain (et : BitVec 3) : Bool := decide (et.toNat ≤ 4)

/-- Element i of width w of a register. -/
def velem (w : Nat) (v : VReg) (i : Nat) : Nat := (v.toNat >>> (w * i)) % 2 ^ w

/-- A register from its elements, least first. -/
def vpack (w : Nat) (xs : List Nat) : VReg := BitVec.ofNat 4096 (xs.foldr (fun x acc => x % 2 ^ w + 2 ^ w * acc) 0)

/-- Whether predicate bit of element i of width w is set (R57). -/
def egov (g : Pred) (w i : Nat) : Bool := g.getLsbD (i * w / 32)

/-- Fields of format V an opcode uses. -/
structure VUse where
  vd : Bool := false
  va : Bool := false
  vb : Bool := false
  vc : Bool := false
  pd : Bool := false
  gs : Bool := false
  lane : Bool := false
  deriving DecidableEq, Repr

/-- Reserved and unused fields of format V are zero (R61). ET is used by every vector opcode. -/
def vOk (f : VOp) (u : VUse) : Bool :=
  f.rsv == 0 && (u.vd || f.vd == 0) && (u.va || f.va == 0) && (u.vb || f.vb == 0) && (u.vc || f.vc == 0) &&
  (u.pd || f.pd == 0) && (u.gs || f.gs == 0) && (u.lane || f.lane == 0)

/-- A vector instruction whose effect is on the thread alone. -/
def State.vOp (s : State) (t : Tid) (f : VOp) (u : VUse) (legal : Bool) (eff : Thread → Thread) : Result :=
  s.issue t f.pred f.pneg (vOk f u) true legal fun x _ => s.setThread t (eff x).step

/-- VD ← op per element, predicated-off elements kept (R62); answers the union of the flags of the governed elements. -/
def vapply (x : Thread) (f : VOp) (op : Nat → Nat × FpFlags) : Thread :=
  let w := etWidth f.et
  let g := x.gov f.pred f.pneg
  let old := x.vr f.vd
  let rs := (List.range (etCount f.et)).map fun i =>
    if egov g w i then op i else (velem w old i, FpFlags.none)
  (x.setV f.vd (vpack w (rs.map Prod.fst))).orFlags (rs.foldl (fun a r => a ||| r.2) FpFlags.none)

/-- Signed value of a w-bit pattern. -/
def sval (w v : Nat) : Int := (BitVec.ofNat w v).toInt

/-- w-bit pattern of an integer, wrapping. -/
def swrap (w : Nat) (z : Int) : Nat := (BitVec.ofInt w z).toNat

/-- VD ← VA op VB by ET: FP operation, or integer operation. -/
def State.vArith (s : State) (t : Tid) (f : VOp) (fop : Fmt → Nat → Nat → Nat × FpFlags)
    (iop : Nat → Int → Int → Int) : Result :=
  s.vOp t f { vd := true, va := true, vb := true } (etPlain f.et) fun x =>
    let w := etWidth f.et
    vapply x f fun i =>
      let a := velem w (x.vr f.va) i; let b := velem w (x.vr f.vb) i
      match etFmt f.et with
      | some m => fop m a b
      | none => (swrap w (iop w (sval w a) (sval w b)), FpFlags.none)

/-- VADD. -/
def execVadd (t : Tid) (f : VOp) (s : State) : Result := s.vArith t f fpAdd fun _ a b => a + b
/-- VSUB. -/
def execVsub (t : Tid) (f : VOp) (s : State) : Result := s.vArith t f fpSub fun _ a b => a - b
/-- VMUL. -/
def execVmul (t : Tid) (f : VOp) (s : State) : Result := s.vArith t f fpMul fun _ a b => a * b

/-- VFMA: VA × VB + VC with one rounding. -/
def execVfma (t : Tid) (f : VOp) (s : State) : Result :=
  s.vOp t f { vd := true, va := true, vb := true, vc := true } (etPlain f.et) fun x =>
    let w := etWidth f.et
    vapply x f fun i =>
      let a := velem w (x.vr f.va) i; let b := velem w (x.vr f.vb) i; let c := velem w (x.vr f.vc) i
      match etFmt f.et with
      | some m => fpFma m a b c
      | none => (swrap w (sval w a * sval w b + sval w c), FpFlags.none)

/-- VMAX: NaN if either is NaN, −0 below +0; signed at an integer ET. -/
def execVmax (t : Tid) (f : VOp) (s : State) : Result :=
  s.vArith t f (fun m a b => (fpMax m a b, fpNanFlags m a b)) fun _ a b => max a b
/-- VMIN. -/
def execVmin (t : Tid) (f : VOp) (s : State) : Result :=
  s.vArith t f (fun m a b => (fpMin m a b, fpNanFlags m a b)) fun _ a b => min a b

/-- A bitwise or shift operation: integer ET only. -/
def State.vBits (s : State) (t : Tid) (f : VOp) (op : Nat → Nat → Nat → Nat) : Result :=
  s.vOp t f { vd := true, va := true, vb := true } (etInt f.et) fun x =>
    let w := etWidth f.et
    vapply x f fun i => (op w (velem w (x.vr f.va) i) (velem w (x.vr f.vb) i) % 2 ^ w, FpFlags.none)

/-- VAND. -/
def execVand (t : Tid) (f : VOp) (s : State) : Result := s.vBits t f fun _ a b => a &&& b
/-- VOR. -/
def execVor (t : Tid) (f : VOp) (s : State) : Result := s.vBits t f fun _ a b => a ||| b
/-- VXOR. -/
def execVxor (t : Tid) (f : VOp) (s : State) : Result := s.vBits t f fun _ a b => a ^^^ b
/-- VSHL: by the VB element mod the element width. -/
def execVshl (t : Tid) (f : VOp) (s : State) : Result := s.vBits t f fun w a b => a <<< (b % w)
/-- VSHR: arithmetic. -/
def execVshr (t : Tid) (f : VOp) (s : State) : Result := s.vBits t f fun w a b => swrap w (sval w a >>> (b % w))

/-- Whether a VCMP condition exists at an ET (R63). -/
def vcmpLegal (et : BitVec 3) (c : Nat) : Bool :=
  if etInt et then decide (c ≤ 5) else (etFmt et).isSome && (decide (c ≤ 3) || (decide (6 ≤ c) && decide (c ≤ 8)))

/-- VCMP: one bit per element group, set when the condition holds for every element of the group; a group whose
governing bit is false keeps its old bit (R63, Table 03-9). -/
def execVcmp (t : Tid) (f : VOp) (s : State) : Result :=
  s.vOp t f { va := true, vb := true, vc := true, pd := true } (!bit f.vc 4 && vcmpLegal f.et (fld f.vc 3 0)) fun x =>
    let w := etWidth f.et
    let c := fld f.vc 3 0
    let g := x.gov f.pred f.pneg
    let n := 32 / w
    let el (i : Nat) : Bool × FpFlags :=
      let a := velem w (x.vr f.va) i; let b := velem w (x.vr f.vb) i
      match etFmt f.et with
      | some m => if 6 ≤ c then (fpCond m c a b, cmpFlags m a b (c ≠ 8)) else (intCond w c a b, FpFlags.none)
      | none => (intCond w c a b, FpFlags.none)
    let old := x.pr f.pd
    let rs := (List.range 128).map fun j =>
      if g.getLsbD j then
        let es := (List.range n).map fun i => el (j * n + i)
        (es.all Prod.fst, es.foldl (fun a r => a ||| r.2) FpFlags.none)
      else (old.getLsbD j, FpFlags.none)
    let v := rs.foldr (fun r acc => (if r.1 then 1 else 0) + 2 * acc) 0
    (x.setP f.pd (BitVec.ofNat 128 v)).orFlags (rs.foldl (fun a r => a ||| r.2) FpFlags.none)

/-- VSEL: VD ← p[PD] ? VA : VB. -/
def execVsel (t : Tid) (f : VOp) (s : State) : Result :=
  s.vOp t f { vd := true, va := true, vb := true, pd := true } (etPlain f.et) fun x =>
    let w := etWidth f.et
    vapply x f fun i =>
      (if egov (x.pr f.pd) w i then velem w (x.vr f.va) i else velem w (x.vr f.vb) i, FpFlags.none)

/-! ## Conversion -/

/-- The exact value of an element of any type. -/
def etValue (et : BitVec 3) (v : Nat) : FVal :=
  match et.toNat with
  | 0 => fpDecode .fp32 v
  | 1 => fpDecode .bf16 v
  | 5 => elemDecode .e4m3 v
  | 6 => elemDecode .e5m2 v
  | _ => let z := sval (etWidth et) v; .fin (decide (z < 0)) z.natAbs 0

/-- Rounds a value to FP8 under R118 and R120, with the flags of R65: INVALID for a signaling NaN, OVERFLOW where a
finite value saturates, INEXACT where the result differs, UNDERFLOW where it is also tiny after rounding. -/
def toFp8 (f : ElemFmt) (v : FVal) : Nat × FpFlags :=
  let (c, sat) := elemRound f v
  match v with
  | .nan sg => (c, if sg then FpFlags.invalid else FpFlags.none)
  | .inf _ => (c, FpFlags.none)
  | .fin _ m e =>
    if sat then (c, FpFlags.overflow)
    else if fpOrder v (elemDecode f c) = 0 then (c, FpFlags.none)
    else
      let (_, mb, bias) := f.layout
      (c, if tinyRounded mb (1 - (bias : Int)) m e false then FpFlags.underflow ||| FpFlags.inexact else FpFlags.inexact)

/-- Rounds a value to a signed integer of w bits: nearest even, saturating, NaN to 0 (R69). -/
def toInt (w : Nat) (v : FVal) : Nat × FpFlags :=
  let hi : Int := 2 ^ (w - 1) - 1
  let lo : Int := -2 ^ (w - 1)
  match v with
  | .nan _ => (0, FpFlags.invalid)
  | .inf n => (swrap w (if n then lo else hi), FpFlags.invalid)
  | .fin n m e =>
    let (z, ix) := fpToInt n m e
    if hi < z then (swrap w hi, FpFlags.invalid) else if z < lo then (swrap w lo, FpFlags.invalid)
    else (swrap w z, if ix then FpFlags.inexact else FpFlags.none)

/-- Conversion of one element. -/
def etConvert (src dst : BitVec 3) (v : Nat) : Nat × FpFlags :=
  let x := etValue src v
  match dst.toNat with
  | 0 => fpRound .fp32 x
  | 1 => fpRound .bf16 x
  | 5 => toFp8 .e4m3 x
  | 6 => toFp8 .e5m2 x
  | _ => if etInt src then
      -- integer to integer: saturating, no flag
      ((toInt (etWidth dst) x).1, FpFlags.none)
    else toInt (etWidth dst) x

/-- VCVT (R69): n elements of the wider type; a narrowing conversion zeroes the part above its results. -/
def execVcvt (t : Tid) (f : VOp) (s : State) : Result :=
  let dst : BitVec 3 := f.vb.setWidth 3
  s.vOp t f { vd := true, va := true, vb := true } (zeroFld f.vb 4 3 && f.et != 7 && dst != 7) fun x =>
    let ws := etWidth f.et; let wd := etWidth dst
    let wm := max ws wd
    let n := 4096 / wm
    let g := x.gov f.pred f.pneg
    let rs := (List.range n).map fun i =>
      if egov g wm i then etConvert f.et dst (velem ws (x.vr f.va) i) else (velem wd (x.vr f.vd) i, FpFlags.none)
    (x.setV f.vd (vpack wd (rs.map Prod.fst))).orFlags (rs.foldl (fun a r => a ||| r.2) FpFlags.none)

/-! ## Moves -/

/-- VBCAST: every element ← low bits of g[GS]. -/
def execVbcast (t : Tid) (f : VOp) (s : State) : Result :=
  s.vOp t f { vd := true, gs := true } (etPlain f.et) fun x =>
    vapply x f fun _ => ((x.gr f.gs).toNat % 2 ^ etWidth f.et, FpFlags.none)

/-- VEXT: g[GS] ← element LANE of VA, sign-extended; LANE at or above n is illegal. -/
def execVext (t : Tid) (f : VOp) (s : State) : Result :=
  s.vOp t f { va := true, gs := true, lane := true } (etPlain f.et && decide (f.lane.toNat < etCount f.et)) fun x =>
    let w := etWidth f.et
    if egov (x.gov f.pred f.pneg) w f.lane.toNat then x.setG f.gs (sext64 w (velem w (x.vr f.va) f.lane.toNat)) else x

/-- VINS: element LANE of VD ← low bits of g[GS]. -/
def execVins (t : Tid) (f : VOp) (s : State) : Result :=
  s.vOp t f { vd := true, gs := true, lane := true } (etPlain f.et && decide (f.lane.toNat < etCount f.et)) fun x =>
    let w := etWidth f.et
    vapply x f fun i =>
      (if i = f.lane.toNat then (x.gr f.gs).toNat % 2 ^ w else velem w (x.vr f.vd) i, FpFlags.none)

/-- VPERM: VD[i] ← VA[VB[i] mod n]. -/
def execVperm (t : Tid) (f : VOp) (s : State) : Result :=
  s.vOp t f { vd := true, va := true, vb := true } (etPlain f.et) fun x =>
    let w := etWidth f.et
    vapply x f fun i => (velem w (x.vr f.va) (velem w (x.vr f.vb) i % etCount f.et), FpFlags.none)

/-! ## Reductions -/

/-- One level of the pairwise tree: element 2j with element 2j + 1, ascending j. -/
def pairUp (op : Nat → Nat → Nat × FpFlags) : List Nat → List Nat × FpFlags
  | a :: b :: rest =>
    let (r, fl) := op a b
    let (rs, fs) := pairUp op rest
    (r :: rs, fl ||| fs)
  | xs => (xs, FpFlags.none)

/-- The pairwise tree of R70 over 2^levels elements. -/
def pairTree (op : Nat → Nat → Nat × FpFlags) : Nat → List Nat → Nat × FpFlags
  | 0, xs => (xs.headD 0, FpFlags.none)
  | k + 1, xs =>
    let (ys, fl) := pairUp op xs
    let (r, fr) := pairTree op k ys
    (r, fl ||| fr)

/-- g[GS] ← reduction of VA, with identities in place of predicated-off elements (R62, R70). -/
def State.vReduce (s : State) (t : Tid) (f : VOp) (fop : Fmt → Nat → Nat → Nat × FpFlags) (fid : Fmt → Nat)
    (iop : Int → Int → Int) (iid : Nat → Int) : Result :=
  s.vOp t f { va := true, gs := true } (etPlain f.et) fun x =>
    let w := etWidth f.et
    let g := x.gov f.pred f.pneg
    let n := etCount f.et
    match etFmt f.et with
    | some m =>
      let xs := (List.range n).map fun i => if egov g w i then velem w (x.vr f.va) i else fid m
      let (r, fl) := pairTree (fop m) (Nat.log2 n) xs
      (x.setG f.gs (BitVec.ofNat 64 r)).orFlags fl
    | none =>
      let xs := (List.range n).map fun i => if egov g w i then sval w (velem w (x.vr f.va) i) else iid w
      x.setG f.gs (sext64 w (swrap w (xs.foldl iop (iid w))))

/-- VREDSUM: fixed pairwise tree, each sum rounded to ET; integer sums wrap. -/
def execVredsum (t : Tid) (f : VOp) (s : State) : Result :=
  s.vReduce t f fpAdd (fun m => fpSign m true 0) (· + ·) fun _ => 0
/-- VREDMAX. -/
def execVredmax (t : Tid) (f : VOp) (s : State) : Result :=
  s.vReduce t f (fun m a b => (fpMax m a b, fpNanFlags m a b)) (fun m => fpSign m true m.infBits) max
    fun w => -2 ^ (w - 1)
/-- VREDMIN. -/
def execVredmin (t : Tid) (f : VOp) (s : State) : Result :=
  s.vReduce t f (fun m a b => (fpMin m a b, fpNanFlags m a b)) (fun m => fpSign m false m.infBits) min
    fun w => 2 ^ (w - 1) - 1

end Sys2Proof.Machine
end

