-- ==== Sys2Proof/Machine/SpecialFn.lean ====
section
/-! DEFINITION. The special-function unit: tables and their load check (R148, R153 to R156), evaluation (R149 to R152),
and the instructions SFE and SFLOAD (R71, R157, R158, R165). -/

namespace Sys2Proof.Machine

open Sys2Proof

/-! ## Tables (R148, Table 06-3) -/

/-- A table image: 4,160 bytes, the header lowest. -/
abbrev TableImage := BitVec 33280

/-- Header bits [hi:lo] of a table. -/
def tabFld (t : TableImage) (hi lo : Nat) : Nat := fld t hi lo
/-- PREP. -/
def tabPrep (t : TableImage) : Nat := fld t 15 13
/-- SYM. -/
def tabSym (t : TableImage) : Nat := fld t 11 10
/-- MONO. -/
def tabMono (t : TableImage) : Nat := fld t 9 8
/-- EBASE, signed. -/
def tabEbase (t : TableImage) : Int := (BitVec.ofNat 8 (fld t 23 16)).toInt
/-- Binades of the window: 16 for SYM 00 and 32 for 01 and 10 (R150). -/
def tabWin (t : TableImage) : Nat := if tabSym t = 0 then 16 else 32
/-- Sides: two for SYM 00. -/
def tabSides (t : TableImage) : Nat := if tabSym t = 0 then 2 else 1
/-- Segments of one side. -/
def tabSegs (t : TableImage) : Nat := 8 * tabWin t
/-- ABOVE_MODE of a side: 1 is identity. -/
def tabMode (t : TableImage) (side : Nat) : Bool := if side = 0 then bit t 6 else bit t 7
/-- ABOVE constant of a side. -/
def tabAbove (t : TableImage) (side : Nat) : Nat := if side = 0 then fld t 447 416 else fld t 415 384
/-- FTZ_THRESH. -/
def tabFtz (t : TableImage) : Nat := fld t 383 352
/-- Coefficient j of segment i, an FP32 pattern. -/
def tabCoef (t : TableImage) (i j : Nat) : Nat := (t.toNat >>> (512 + 128 * i + 32 * j)) % 2 ^ 32

/-! ## Evaluation (R149 to R152) -/

/-- An exact power of two. -/
def pow2 (e : Int) : FVal := .fin false 1 e

/-- FP32 pattern of a value, one rounding. -/
def r32 (v : FVal) : Nat := (fpRound .fp32 v).1

/-- Exact value of an FP32 pattern. -/
def v32 (a : Nat) : FVal := fpDecode .fp32 a

/-- Exact sum. -/
def vadd (a b : FVal) : FVal := (fpSumExact a b).1
/-- Exact product. -/
def vmul (a b : FVal) : FVal := (fpMulExact a b).1

/-- Unbiased exponent of a finite non-zero value. -/
def fexp : FVal → Int
  | .fin _ m e => (Nat.log2 m : Int) + e
  | _ => 0

/-- Magnitude of a value. -/
def fabsv : FVal → FVal
  | .fin _ m e => .fin false m e
  | .inf _ => .inf false
  | v => v

/-- The three bits after the leading one of a finite non-zero magnitude. -/
def top3 : FVal → Nat
  | .fin _ m _ => (m <<< 3) / 2 ^ Nat.log2 m % 8
  | _ => 0

/-- Where an argument falls (R150). -/
inductive Zone where
  | below | inWindow | above
  deriving DecidableEq, Repr

/-- Start of segment j of a side: 2^e × (1 + m3 / 8). -/
def segStart (t : TableImage) (j : Nat) : FVal := .fin false (8 + j % 8) (tabEbase t + (j / 8 : Nat) - 3)

/-- Segment value at distance d (R150): two fused operations, each rounded once. -/
def segValue (t : TableImage) (i d : Nat) : Nat :=
  (fpFma .fp32 d (fpFma .fp32 d (tabCoef t i 2) (tabCoef t i 1)).1 (tabCoef t i 0)).1

/-- Zone and table value y at magnitude `a` on a side, before the sign rule of SYM 01. -/
def tabMag (t : TableImage) (side : Nat) (a : FVal) : Nat × Zone :=
  let base := if tabSym t = 0 then 128 * side else 0
  let lo := pow2 (tabEbase t)
  let hi := pow2 (tabEbase t + tabWin t)
  if fpOrder a lo < 0 then
    (segValue t base (r32 (vadd a lo.negate)), .below)
  else if fpOrder hi a ≤ 0 then
    (if tabMode t side then r32 a else tabAbove t side, .above)
  else
    let j := (8 * (fexp a - tabEbase t)).toNat + top3 a
    (segValue t (base + j) (r32 (vadd a (segStart t j).negate)), .inWindow)

/-- Table value y at argument r on a side (R150); a table of one side (SYM 01, 10) has side 0 alone. -/
def tabValue (t : TableImage) (side : Nat) (r : FVal) : FVal × Zone :=
  let (y, z) := tabMag t (if tabSym t = 0 then side else 0) (fabsv r)
  let y := v32 y
  (if tabSym t = 1 && r.neg && !r.isZero then y.negate else y, z)

/-- The sign side of an argument: side 1 when it is negative and not zero. -/
def signSide (r : FVal) : Nat := if r.neg && !r.isZero then 1 else 0

/-- 2π held to 192 bits, in units of 2^−189 (PREP TRIG). -/
def twoPi192 : Nat := 0xc90fdaa22168c234c4c6628b80dc1cd129024e088a67cc74

/-- Rounds n / d to the nearest integer, ties to even. -/
def rneDiv (n d : Nat) : Nat :=
  let q := n / d
  let r := n % d
  if 2 * r < d then q else if d < 2 * r then q + 1 else q + q % 2

/-- Reduction by 2π (PREP TRIG): x − 2πk, rounded once to FP32. -/
def reduceTrig : FVal → FVal
  | .fin n m e =>
    -- in units of 2^lo, with lo at or below −189 and e
    let lo : Int := min e (-189)
    let x := m * 2 ^ (e - lo).toNat
    let p := twoPi192 * 2 ^ (-189 - lo).toNat
    let k := rneDiv x p
    let z : Int := (x : Int) - (k * p : Nat)
    let z := if n then -z else z
    v32 (r32 (.fin (if z = 0 then n else decide (z < 0)) z.natAbs lo))
  | v => v

/-- A magnitude, normalised first, as 2ⁿ × (1 + r) with 0 ≤ r < 1: n and r (Table 06-4). -/
def splitOne (x : FVal) : Int × FVal :=
  match x with
  | .fin _ m e =>
    let n := (Nat.log2 m : Int) + e
    (n, .fin false (m - 2 ^ Nat.log2 m) (-(Nat.log2 m : Int)))
  | v => (0, v)

/-- Applies a sign. -/
def withSign (neg : Bool) (v : FVal) : FVal := if neg then v.negate else v

/-- The function value of one FP32 argument before the flush (Table 06-4): the FP32 pattern, and the zone where a
segment was evaluated. -/
def tabFunction (t : TableImage) (xa : Nat) : Nat × Option Zone :=
  let x := v32 xa
  match x with
  | .nan _ => (Fmt.nanBits .fp32, none)
  | _ =>
    match tabPrep t with
    | 1 =>
      match x with
      | .inf n => (if n then 0 else Fmt.infBits .fp32, none)
      | .fin ng m e =>
        if fpOrder x (.fin true 126 0) < 0 then (0, none)
        else if 0 ≤ fpOrder x (.fin false 128 0) then (Fmt.infBits .fp32, none)
        else
          let n := (fpToInt ng m e).1
          let r := vadd x (.fin (decide (0 < n)) n.natAbs 0)
          if r.isZero then (r32 (pow2 n), none)
          else
            let (y, z) := tabValue t (signSide r) r
            (r32 (y.scale n), some z)
      | _ => (0, none)
    | 2 =>
      match x with
      | .inf n => (if n then Fmt.nanBits .fp32 else Fmt.infBits .fp32, none)
      | .fin ng m _ =>
        if m = 0 then (fpSign .fp32 true (Fmt.infBits .fp32), none)
        else if ng then (Fmt.nanBits .fp32, none)
        else
          let (n, r) := splitOne x
          let (y, z) := tabValue t 0 r
          (r32 (vadd (.fin (decide (n < 0)) n.natAbs 0) y), some z)
      | _ => (0, none)
    | 3 =>
      match x with
      | .inf n => (fpSign .fp32 n 0, none)
      | .fin ng m _ =>
        if m = 0 then (fpSign .fp32 ng (Fmt.infBits .fp32), none)
        else
          let (n, r) := splitOne x
          let (y, z) := tabValue t 0 r
          (r32 (withSign ng (y.scale (-n))), some z)
      | _ => (0, none)
    | 4 =>
      match x with
      | .inf n => (if n then Fmt.nanBits .fp32 else 0, none)
      | .fin ng m _ =>
        if m = 0 then (Fmt.infBits .fp32, none)
        else if ng then (Fmt.nanBits .fp32, none)
        else
          let (n, r) := splitOne x
          let (y, z) := tabValue t (n % 2).toNat r
          (r32 (y.scale (-(n / 2))), some z)
      | _ => (0, none)
    | 5 =>
      match x with
      | .inf _ => (Fmt.nanBits .fp32, none)
      | _ =>
        let r := reduceTrig x
        let (y, z) := tabValue t (signSide r) r
        (r32 y, some z)
    | _ =>
      let (y, z) := tabValue t (signSide x) x
      (r32 y, some z)

/-- The flush of R152: the result and whether it was flushed. -/
def tabFlush (t : TableImage) (y : Nat) : Nat × Bool :=
  let v := v32 y
  if v.isFin && !v.isZero && decide (fpOrder (fabsv v) (v32 (tabFtz t)) < 0) then (fpSign .fp32 v.neg 0, true)
  else (y, false)

/-- What SFE does to one element: result pattern, zone, whether it was flushed (R149 to R152). -/
def sfElem (t : TableImage) (f : Fmt) (a : Nat) : Nat × Option Zone × Bool :=
  let (y, z) := tabFunction t (if f = .bf16 then r32 (fpDecode .bf16 a) else a)
  let (y, fl) := tabFlush t y
  (if f = .bf16 then (fpRound .bf16 (v32 y)).1 else y, z, fl)

/-! ## The load check (R153 to R156) -/

/-- Finite FP32 pattern. -/
def fin32 (a : Nat) : Bool := (v32 a).isFin

/-- Check 1: VERSION, reserved fields and bytes, codes and the must-be-zero fields of Table 06-3. -/
def chkHeader (t : TableImage) : Bool :=
  decide (fld t 3 0 = 1) && zeroFld t 5 4 && zeroFld t 351 24 && decide (tabPrep t ≤ 5) && decide (tabSym t ≠ 3) &&
  decide (tabMono t ≠ 3) && (!bit t 6 || decide (fld t 447 416 = 0)) &&
  (tabSym t == 0 || (!bit t 7 && decide (fld t 415 384 = 0))) && (!bit t 7 || decide (fld t 415 384 = 0)) &&
  (List.range 256).all fun i => decide (tabCoef t i 3 = 0)

/-- Check 2: SYM and EBASE as PREP requires. -/
def chkPrep (t : TableImage) : Bool :=
  match tabPrep t with
  | 1 => tabSym t == 0 && decide (tabEbase t = -16)
  | 2 => tabSym t == 2 && decide (tabEbase t = -32)
  | 3 => tabSym t == 2 && decide (tabEbase t = -32)
  | 4 => tabSym t == 0 && decide (tabEbase t = -16)
  | 5 => tabSym t == 0 && decide (tabEbase t = -14)
  | _ => decide (-126 ≤ tabEbase t) && decide (tabEbase t ≤ 127 - (tabWin t : Int))

/-- Check 3: finite values; FTZ_THRESH at or above +0; c2 = +0 throughout when ORDER is 0. -/
def chkFinite (t : TableImage) : Bool :=
  fin32 (tabAbove t 0) && fin32 (tabAbove t 1) && fin32 (tabFtz t) && !(v32 (tabFtz t)).neg &&
  (List.range 256).all fun i => (List.range 3).all fun j => fin32 (tabCoef t i j) &&
    (bit t 12 || j != 2 || tabCoef t i 2 == 0)

/-- Width of segment j of a side. -/
def segWidth (t : TableImage) (j : Nat) : FVal := pow2 (tabEbase t + (j / 8 : Nat) - 3)

/-- The exact end value L = c0 + c1·h + c2·h² of segment j of a side, rounded once. -/
def segEnd (t : TableImage) (side j : Nat) : Nat :=
  let i := (if tabSym t = 0 then 128 * side else 0) + j
  let h := segWidth t j
  r32 (vadd (v32 (tabCoef t i 0)) (vadd (vmul (v32 (tabCoef t i 1)) h) (vmul (v32 (tabCoef t i 2)) (vmul h h))))

/-- The value on the right of the end of segment j: the next segment's c0, or the value above the window. -/
def segRight (t : TableImage) (side j : Nat) : FVal :=
  if j + 1 < tabSegs t then v32 (tabCoef t ((if tabSym t = 0 then 128 * side else 0) + j + 1) 0)
  else if tabMode t side then pow2 (tabEbase t + tabWin t) else v32 (tabAbove t side)

/-- One ulp of a value (R155). -/
def ulp32 (v : FVal) : FVal :=
  if v.isZero || decide (fexp v < -126) then pow2 (-149) else pow2 (fexp v - 23)

/-- Whether a side's sign is reversed against MONO (R154): side 1 where the side is the sign of r. -/
def sideReversed (t : TableImage) (side : Nat) : Bool :=
  side == 1 && (tabPrep t == 0 || tabPrep t == 1 || tabPrep t == 5)

/-- Whether a value has the direction a side requires: zero, or rising (`up`) or falling. -/
def dirOk (up : Bool) (v : FVal) : Bool := v.isZero || v.neg != up

/-- Whether a step from v to w does not go against a direction. -/
def stepOk (up : Bool) (v w : FVal) : Bool := if up then decide (fpOrder v w ≤ 0) else decide (0 ≤ fpOrder v w)

/-- The monotone checks of one segment of one side (R154). -/
def chkMonoSeg (t : TableImage) (side j : Nat) : Bool :=
  let up := (tabMono t == 1) != sideReversed t side
  let i := (if tabSym t = 0 then 128 * side else 0) + j
  let h := segWidth t j
  let c1 := v32 (tabCoef t i 1)
  let c2 := v32 (tabCoef t i 2)
  let slope (d : FVal) : FVal := vadd c1 (vmul (vmul (.fin false 2 0) c2) d)
  let right := segRight t side j
  -- greatest FP32 magnitude below the end of the segment: the end less one unit of its binade
  let last := vadd (vadd (segStart t j) h) (pow2 (tabEbase t + (j / 8 : Nat) - 23)).negate
  decide (fpOrder right (v32 (segEnd t side j)) = 0) && dirOk up c1 && dirOk up (slope h) &&
  (j != 0 || dirOk up (slope (pow2 (tabEbase t)).negate)) &&
  stepOk up (v32 (tabMag t side last).1) right

/-- Whether a two-sided table does not step the wrong way across zero (R154). -/
def chkMonoZero (t : TableImage) : Bool :=
  tabSym t != 0 || tabPrep t == 4 ||
    stepOk (tabMono t == 1) (v32 (tabMag t 1 (pow2 (-149))).1) (v32 (tabMag t 0 (.fin false 0 0)).1)

/-- The seam check of one segment of a table with MONO 00 (R155). -/
def chkFreeSeg (t : TableImage) (side j : Nat) : Bool :=
  let l := v32 (segEnd t side j)
  let d := fabsv (vadd (segRight t side j) l.negate)
  l.isFin && decide (fpOrder d (ulp32 l) ≤ 0)

/-- Check 4: every seam and window top. -/
def chkSeams (t : TableImage) : Bool :=
  (List.range (tabSides t)).all (fun side => (List.range (tabSegs t)).all fun j =>
    if tabMono t = 0 then chkFreeSeg t side j else chkMonoSeg t side j) &&
  (tabMono t == 0 || chkMonoZero t)

/-- Check 5: the joins of R156. -/
def chkJoins (t : TableImage) : Bool :=
  let eq (a b : FVal) : Bool := decide (fpOrder a b = 0)
  let lim (side : Nat) : FVal := v32 (segEnd t side (tabSegs t - 1))
  let zero (side : Nat) : FVal := v32 (tabMag t side (.fin false 0 0)).1
  match tabPrep t with
  | 1 => eq (v32 (tabCoef t 120 0)) ((v32 (tabCoef t 248 0)).scale 1)
  | 2 => eq (lim 0) (pow2 0)
  | 3 => eq (zero 0) (pow2 0) && eq (lim 0) (pow2 (-1))
  | 4 => eq (lim 0) (zero 1) && eq (lim 1) ((zero 0).scale (-1))
  | _ => true

/-- The load check of R153. -/
def tabCheck (t : TableImage) : Bool := chkHeader t && chkPrep t && chkFinite t && chkSeams t && chkJoins t

/-! ## The instructions -/

/-- Records a slot in the saved state of a cast (R158). -/
def State.noteTable (s : State) (k slot : Nat) (x : TableSlot) : State :=
  match s.task? k with
  | some t => s.setTask k { t with tables := SMap.put slot x t.tables }
  | none => s

/-- SFE: VD ← the function of slot VC applied to VA, at ET 000 or 001 (R71, R151, R157). It sets no flag. -/
def execSfe (t : Tid) (f : VOp) (s : State) : Result :=
  s.issue t f.pred f.pneg (vOk f { vd := true, va := true, vc := true }) true (etFmt f.et).isSome fun x k =>
    match SMap.find? f.vc.toNat (s.core t.core.val).tables with
    | none => s.raise t x .table 0
    | some slot =>
      if slot.part ≠ k.part then s.raise t x .table 0
      else
        let m := if f.et = 0 then Fmt.fp32 else Fmt.bf16
        let w := etWidth f.et
        let g := x.gov f.pred f.pneg
        let rs := (List.range (etCount f.et)).map fun i =>
          if egov g w i then some (sfElem slot.image m (velem w (x.vr f.va) i)) else none
        let y := vapply x f fun i => ((sfElem slot.image m (velem w (x.vr f.va) i)).1, FpFlags.none)
        let c := t.core.val
        let n (q : Nat × Option Zone × Bool → Bool) : Nat := rs.countP fun r => r.any q
        let s := (s.setThread t y.step).noteTable x.task f.vc.toNat slot
        (((s.count .sfeEvals c (n fun _ => true)).count .sfBelow c (n fun r => r.2.1 == some .below)).count .sfAbove c
          (n fun r => r.2.1 == some .above)).count .sfFlushed c (n fun r => r.2.2)

/-- SFLOAD: the source is checked at issue (R153), a far one is read by LOADs (R50); the load ends at SFLOAD_COMPLETE. -/
def execSfload (t : Tid) (f : VOp) (s : State) : Result :=
  s.issue t f.pred f.pneg (vOk f { vc := true, gs := true } && f.et == 0) false true fun x k =>
    let a := x.gr f.gs
    let go : State :=
      let s := s.setThread t { x with wait := .sfload f.vc.toNat a }
      let c := s.core t.core.val
      s.setCore t.core.val { c with loads := c.loads ++ [(s.clk.cycle, t.slot.val)] }
    if a.toNat % 64 ≠ 0 then s.raise t x .address a
    else
      match s.resolve k.part a with
      | .refused => s.refuseCount.raise t x .address a
      | .far _ => if s.orderWait t a 4160 false then s.setThread t { x with wait := .held } else go.startJob (.sfload t) k.part a 4160
      | .here l =>
        if !s.mayLoad k.part l 4160 then s.raise t x .address a
        else if s.orderWait t a 4160 false then s.setThread t { x with wait := .held } else go

/-- The thread slot whose SFLOAD a core performs next: earliest issue, then lowest slot (R157). -/
def State.nextLoad (s : State) (core : Nat) : Option Nat :=
  (leastBy (fun x y => decide (x.1 < y.1) || (decide (x.1 = y.1) && decide (x.2 < y.2)))
    ((s.core core).loads.filter fun e => (SMap.find? (core * 64 + e.2) s.threads).any fun x =>
      match x.wait with | .sfload _ _ => true | _ => false)).map Prod.snd

/-- Ends an SFLOAD whose bytes have been read: load check, the slot of another partition with a live cast (R157), or the
new table (R153, R158, R165). -/
def State.tableRead (s : State) (t : Tid) (x : Thread) (k : Task) (slot : Nat) (a : W64) (bs : List Byte) : State :=
  let img : TableImage := leWord 33280 bs
  let c := s.core t.core.val
  let held := (SMap.find? slot c.tables).any fun o => o.part ≠ k.part &&
    s.tasks.any fun e => e.2.part == o.part && e.2.live && e.2.phase != .switchedOut && e.2.core == t.core.val
  if held || !tabCheck img then (s.count .tableLoadFails t.core.val).raise t x .table a
  else
    let e : TableSlot := { part := k.part, source := a, image := img }
    let s := s.setCore t.core.val { c with tables := SMap.put slot e c.tables }
    let s := (s.noteTable x.task slot e).count .tableLoads t.core.val
    s.setThread t { x with wait := .ready }.step

/-- SFLOAD_COMPLETE: `far` and `status` are what another package's memory gave when the source is far (R147). -/
def execSfloadComplete (t : Tid) (far : List Byte) (status : Byte) (s : State) : Result :=
  match s.thread? t with
  | none => .next s
  | some x =>
    match x.wait, s.task? x.task with
    | .sfload slot a, some k =>
      if s.nextLoad t.core.val ≠ some t.slot.val || !s.working then .next s
      else
        let c := s.core t.core.val
        let done := s.setCore t.core.val { c with loads := c.loads.filter fun e => e.2 ≠ t.slot.val }
        if s.isOwn (gcoord a) then
          let l := glocal a
          if s.copying l 4160 || s.replayHeld (some x.task) (s.gkey a) 4160 then .next s
          else if !s.mayLoad k.part l 4160 then .next (done.raise t x .address a)
          else
            match s.poisonAt l 4160 with
            | some p =>
              let (s', began) := done.readError k.part p [x.task]
              .next (if began then s' else s'.raise t x .data (BitVec.ofNat 64 (a.toNat - l + p)))
            | none => .next (done.tableRead t x k slot a (s.bytes l 4160))
        else
          match done.jobStatus (.sfload t) status with
          | (done, st) =>
            if failing st then .next (done.raise t x (if st = stPoison then .data else .remote st) a)
            else if far.length ≠ 4160 then .next s
            else .next (done.tableRead t x k slot a far)
    | _, _ => .next s

end Sys2Proof.Machine
end

