-- ==== Sys2Proof/Machine/Stage.lean ====
section
/-! DEFINITION. The stage manager (chapter 11): entries, steps, dispatch, completion, commit, notices and the end of a
partition reset. -/

namespace Sys2Proof.Machine

open Sys2Proof

/-! ## Entries -/

/-- Accepts a task, call or collective: it belongs to step STEP + b, b counted at its acceptance (R288). -/
def State.taskOp (s : State) (k p : Nat) (w : W512) : State :=
  let x := s.part p
  let e := SMap.find? k s.entries
  let c := ((e.map (·.queue)).getD 0)
  let home := if codeIsHost c then codeNum c % 4 else codeNum c / 2
  let t : Task := { part := p, desc := w, descAddr := e.bind (·.addr), step := x.step.toNat + s.beginsBefore p k, home := home
                    standin := s.standinQueue c }
  let s := (s.setTask k t).positions p
  match splitOf w with
  | some y => if dCollect w then (s.noteArea p y).arrivalList p y else s
  | none => s

/-- TASK_ENTRY. -/
def execTaskEntry (q : QRef) (e : W512) (s : State) : Result :=
  s.withEntry q e (fun c => decide (0x60 ≤ c ∧ c ≤ 0x64)) State.taskOp

/-- STEP_BEGIN closes one step; with a reserved bit set it completes with DENIED and closes none (R280, R287). -/
def State.stepBeginOp (s : State) (k p : Nat) (w : W512) : State :=
  if !zeroFld w 511 8 then s.finish k stDenied
  else ((s.modPart p fun x => { x with stepBegins := sortBy (fun a b => decide (a ≤ b)) (k :: x.stepBegins) }).positions p).lensDone p

/-- STEP_BEGIN. -/
def execStepBegin (q : QRef) (e : W512) (s : State) : Result := s.withEntry q e (· == 0x70) State.stepBeginOp

/-! ## Boundaries -/

/-- Whether a partition's current step, which a STEP_BEGIN closes, has work that has not committed or not run, an earlier STEP_BEGIN to run
first, or a verdict still due. -/
def State.stepOpen (s : State) (p b : Nat) : Bool :=
  let x := s.part p
  !(s.heldUpTo p b .task ++ s.heldUpTo p b .stepBegin).isEmpty ||
  (s.tasks.any fun e => e.2.part == p && decide (e.2.step ≤ x.step.toNat)) ||
    x.reports.any fun e => !e.2.judged && !e.2.failed && decide (e.2.total ≠ 0) && decide (e.2.vals.length = e.2.total)

/-- STEP_BOUNDARY: digests are published, LEN has grown, the next step begins and its STEP_BEGIN completes (R287, R318). A
boundary of the lock's partition applies the lock's step (R364). -/
def execStepBoundary (p : Fin 128) (s : State) : Result :=
  let x := s.part p.val
  match x.stepBegins with
  | [] => .next s
  | b :: bs =>
    if !s.working || x.phase != .active || s.stepOpen p.val b then .next s
    else
      let s := (s.publish p.val false).raiseLens p.val
      let s := (s.startStep p.val 1).modPart p.val fun x => { x with stepBegins := bs }
      let s := s.lockBarrier p.val
      .next ((s.finish b stOk).positions p.val)

/-- STEP_TIMEOUT: a step that has not reached its boundary in time is a job fault (R289). A STEP_TIMEOUT of 0 never times
out. -/
def execStepTimeout (p : Fin 128) (s : State) : Result :=
  if s.working && fld (s.partRec p.val) 63 32 != 0 && (s.part p.val).dispatchedAny then .next (s.jobFault p.val) else .next s

/-! ## Dispatch -/

/-- DISPATCH: a die's stage manager notes what has become ready and takes the first task that can go (R286, R291, R293). -/
def execDispatch (d : Fin 4) (s : State) : Result :=
  if !s.working then .next s
  else
    let s := s.noteAll
    match (s.readyOn d.val).findSome? fun e => s.tryDispatch e.1 e.2 with
    | some s' => .next s'
    | none => .next s

/-! ## The end of a reset -/

/-- PARTITION_RESET_COMPLETE: steps 5 and 6 of a reset (R308): the ended step is published as incomplete, the next begins,
and the partition is ACTIVE again. -/
def execPartitionResetComplete (p : Fin 128) (s : State) : Result :=
  if (s.part p.val).phase != .reset then .next s
  else
    let s := ((s.publish p.val true).startStep p.val 1).lockBarrier p.val
    let s := (s.modPart p.val fun x => { x with
      phase := if bit (s.partRec p.val) 0 then .active else .off }).count .partitionResets
    .next ((s.emcy { eec := 0xFF02, cls := 0x11, cause := 0, part := p.val }).settle)

/-! ## Completion and commit -/

/-- Whether the run of a task has ended: its cast's threads and arrays, its call or its collective. -/
def State.runEnded (s : State) (k : Nat) (t : Task) : Bool :=
  if dIsCast t.desc then
    (s.threadsOf k).isEmpty && !(s.arrays.any fun e => e.2.owner == some k)
  else if dType t.desc = 0x63 then t.handed && !((s.part t.part).call.any fun c => c.task == k)
  else t.handed && (s.part t.part).colls.all fun e => e.2.task != k || e.2.ended.isSome

/-- TASK_COMPLETE (R285): a part enters its split's arrival list, a merge takes its parts' statuses (R185), and a task of a
layer that failed leaves the layer without a verdict (R132). -/
def execTaskComplete (k : Nat) (s : State) : Result :=
  match s.task? k with
  | none => .next s
  | some t =>
    if t.phase != .running || !s.runEnded k t then .next s
    else
      let x := s.part t.part
      let merge := if dCollect t.desc then ((splitOf t.desc).map x.mergeStatus).getD stOk else stOk
      let s := if dCollect t.desc then
          let s := s.count .splitMerges t.part
          if failing merge then s.count .failedMerges t.part else s
        else s
      .next (s.taskDone k { t with phase := .complete, status := worst t.status merge })

/-- Whether a write that waits for acknowledgements is a task's, or an engine's or manager's, which may be any task's work (R46). -/
def HomeAct.worksFor (a : HomeAct) (k : Nat) : Bool :=
  match a with | .orphan j _ => j == k | .engine => true | _ => false

/-- Whether a write of an engine or manager still waits for acknowledgements. -/
def State.engineWaits (s : State) : Bool := s.fab.homeStores.any fun h => h.act == .engine

/-- Whether a completed task may commit (R333): its far and near accesses are done, what it consumes from has committed, and
no hold is in force. -/
def State.mayCommit (s : State) (k : Nat) (t : Task) : Bool :=
  t.phase == .complete && !t.replaying && !(s.fab.pend.any fun q => q.task == some k) &&
    !(s.fab.serving.any fun v => v.task == some k) && !(s.fab.homeStores.any fun h => h.act.worksFor k) && !s.awaitsCommit t &&
    !s.layerHeld t.part (dLayer t.desc)

/-- TASK_COMMIT: the task's effects on gates, digests, requests and positions (R285, R286, R316), the answer of a casting
call (R283), a verified tree (R189). -/
def execTaskCommit (k : Nat) (s : State) : Result :=
  match s.task? k with
  | none => .next s
  | some t =>
    if !s.working || !s.mayCommit k t then .next s
    else
      let s := if dType t.desc = 0x61 ∧ dMask t.desc = 2 ∧ !dCollect t.desc then
        (if failing t.status then s.dropTree k t else s.acceptTree k t) else s
      let s := if dType t.desc = 0x63 then
        s.modPart t.part fun x => { x with answered := x.answered ++ [(dLayer t.desc, t.answer)] } else s
      .next ((s.commitTask k).lensDone t.part).wakeHeld

/-- COMPLETION_NOTICE: the notice of a queue's earliest accepted entry, once it is complete and every write of an engine or manager
has been performed (R46). -/
def execCompletionNotice (q : QRef) (s : State) : Result :=
  let c := qCode q
  match if s.engineWaits then none else s.firstEntry c with
  | some (k, e) =>
    match e.done with
    | some (st, v) => .next (s.writeNotice c k e st v)
    | none => .next s
  | none => .next s

end Sys2Proof.Machine
end

