-- ==== Sys2Proof/Machine/StoreCmds.lean ====
section
/-! DEFINITION. Store control and attestation: the commands of Table 16-6, staging, owner requests (R408, R409), bank writes
(R398, R399, R410) and the report (R411). -/

namespace Sys2Proof.Machine

open Sys2Proof

/-! ## Store commands -/

/-- A write of STORE_CMD: the three bytes of ARG given, then the command's OP. -/
def State.storeWrite (s : State) (a : Acc) (op : Byte) (d : List Byte) : State := s.entryWrite a 0x2F0A 1 (d ++ [op])

/-- BEGIN. -/
def execStoreBegin (a : Acc) (d : List Byte) (s : State) : Result := .next (s.storeWrite a 1 d)

/-- IMAGE. -/
def execImage (a : Acc) (off : Nat) (d : List Byte) (s : State) : Result := .next (s.entryWrite a 0x2F09 1 d off)

/-- ACTIVATE. -/
def execActivate (a : Acc) (d : List Byte) (s : State) : Result := .next (s.storeWrite a 2 d)

/-- ABANDON. -/
def execAbandon (a : Acc) (d : List Byte) (s : State) : Result := .next (s.storeWrite a 3 d)

/-- RETRY_START. -/
def execRetryStart (a : Acc) (d : List Byte) (s : State) : Result := .next (s.storeWrite a 4 d)

/-- GHOST_NEXT. -/
def execGhostNext (a : Acc) (d : List Byte) (s : State) : Result := .next (s.storeWrite a 5 d)

/-- OWNER_REQUEST. -/
def execOwnerRequest (a : Acc) (d : List Byte) (s : State) : Result := .next (s.entryWrite a 0x2F0C 2 d)

/-- NONCE. -/
def execNonce (a : Acc) (d : List Byte) (s : State) : Result := .next (s.entryWrite a 0x2F0D 1 d)

/-! ## Bank writes -/

/-- BANK_WRITE: the oldest change due begins. The target's header is erased, and the target takes the contents of the bank in
force with the change applied (R398). The house manager makes one write at a time, and none while it restarts (R399). -/
def execBankWrite (s : State) : Result :=
  let t := s.store
  match t.jobs with
  | [] => .next s
  | j :: js =>
    if !s.house.started ∨ s.house.restarting ∨ t.writing.isSome then .next s
    else
      let b := match t.base with | some i => t.bank i | none => t.records
      let new := { s.applyJob b j with valid := false, recordsOk := false }
      .next { s with store := { t.setBank t.target new with
        jobs := js, writing := some j
        emcyNext := if j = .records then t.emcyDue else []
        emcyDue := if j = .records then [] else t.emcyDue } }

/-- The outcome of a store operation of R409. -/
def State.storeResult (s : State) (e : W32) (state : Nat) : State :=
  { s with store := { s.store with result := e, state := state, stagingType := if state = 0 then 0 else s.store.stagingType } }

/-- What follows a change, written or failed: emergencies that waited, the operation's outcome, the start of the house manager
after the ROM's write, a reset, a restart from the new bank (R399, R402, R409, R410). -/
def State.bankDone (s : State) (j : StoreJob) (e : W32) : State :=
  match j with
  | .records => s.store.emcyNext.foldl State.emcy { s with store := { s.store with emcyNext := [] } }
  | .save _ => s.storeResult e s.store.rest
  | .restore _ => s.storeResult e s.store.rest
  | .owner _ _ => s.storeResult e s.store.rest
  | .countUp => s.hmStart
  | .ghostClear => s.hmStart
  | .countZero again =>
    if !again then s
    else if e = 0 then s.packageReset
    else s.storeResult e s.store.state
  | .ghost => s.storeResult e s.store.state
  | .image =>
    if e ≠ 0 then s.storeResult e 0
    else if s.store.stagingType = 2 then s.storeResult 0 0
    else if s.house.deviceState = 2 then s.packageReset
    else { s with store := { s.store with result := 0 } }.hmRestart

/-- BANK_WRITE_COMPLETE: the target becomes the newer bank. A programming failure in a section leaves it invalid and is
recorded; with the other bank bad too, both are lost and the package halts (R398, R399). -/
def execBankWriteComplete (failed : Option (Fin 8)) (otherBad : Bool) (s : State) : Result :=
  let t := s.store
  match t.writing with
  | none => .next s
  | some j =>
    let i := t.target
    match failed with
    | none =>
      let seq : W64 := (match t.base with | some k => (t.bank k).seq | none => t.records.seq) + 1
      let new := { t.bank i with valid := true, recordsOk := true, seq := seq }
      .next ({ s with store := { t.setBank i new with writing := none } }.bankDone j 0)
    | some sec =>
      let r : FaultRec := { detail := BitVec.ofNat 64 i, unitType := 0x0B, cls := 1, cause := 0x14, detail2 := BitVec.ofNat 64 sec.val }
      let s := (({ s with store := { t with writing := none } }.count .transients).logFault r).bankDone j 0x06060000
      if otherBad then
        let t := s.store
        .next ({ s with store := t.setBank (1 - i) { t.bank (1 - i) with valid := false } }.haltNow r)
      else .next s

/-! ## Attestation (R411, Table 16-8) -/

/-- The report over its first 0xD40 bytes. -/
def State.reportBody (s : State) : List Byte :=
  let t := s.store
  let hash (b : BitVec 256) : List Byte := bytesLE 32 b.toNat
  let m2 := (List.range 16).flatMap fun e => hash (SMap.get (0, 0) t.ucode e).2
  [0x4B, 0x4B, 0x37, 0x41, 1, 0, 0, 0] ++ bytesLE 8 Config.serial.toNat ++ bytesLE 8 t.bootSeq.toNat ++
    bytesLE 8 s.clk.ticks ++ ((List.range 32).map fun i => t.nonce.getD i 0) ++
    hash Config.romHash ++ hash t.hmHash ++ hash (Config.sha3 m2) ++ hash (Config.sha3 (t.owners.flatMap hash)) ++
    [BitVec.ofNat 8 s.house.deviceState, BitVec.ofNat 8 s.house.ghostReason, BitVec.ofNat 8 t.boot, 0, 0, 0, 0, 0] ++
    bytesLE 8 (s.ctrN .commitGen) ++ List.replicate 48 0 ++
    (List.range 1184).map Config.kemEk ++ (List.range 1952).map Config.identityPk

/-- REPORT_SIGNED. -/
def execReportSigned (s : State) : Result :=
  if s.store.attest ≠ 1 then .next s
  else
    let b := s.reportBody
    let sig := (List.range 3309).map fun i => (Config.mldsaSign b).getD i 0
    .next { s with store := { s.store with attest := 2, report := b ++ sig } }

end Sys2Proof.Machine
end

