-- ==== Sys2Proof/Machine/Thermal.lean ====
section
/-! DEFINITION. Temperatures (R366) and the coolant stop (R367). The write that resumes a stopped package is in the
dictionary (R368). -/

namespace Sys2Proof.Machine

open Sys2Proof

/-! ## Temperatures (R366) -/

/-- A thermal trip: the package halts, and THERMTRIP# goes low in the same cycle (R366, R434). The temperature is in
1/16 °C. A package held in reset samples nothing. -/
def State.trip (s : State) (sensor : Nat) (t16 : Int) : State :=
  if !s.house.started then s else
  let s := { s with pins := { s.pins with thermTrip := true } }
  s.haltNow { detail := BitVec.ofNat 64 sensor, cause := 0x11, detail2 := BitVec.ofInt 64 t16 }

/-- TEMP_SAMPLE: the 72 die sensors in quarter degrees. 105.0 °C anywhere lowers the die permit by one step; a sensor at
115.0 °C or more twice in a row trips the package. -/
def execTempSample (ts : List Int) (s : State) : Result :=
  let hot := (List.range ts.length).filter fun i => decide (460 ≤ ts.getD i 0)
  let twice := hot.find? fun i => s.therm.hot.contains i
  let s := { s with therm := { s.therm with die := ts, hot := hot } }
  let s := if ts.any fun t => decide (420 ≤ t) then
    { s with dim := { s.dim with diePermit := s.dim.diePermit - 1 } }.repermit else s
  match twice with
  | some i => .next (s.trip i (4 * ts.getD i 0))
  | none => .next s

/-- THERMAL_PERMIT_RISE: the die permit rises one step while every sensor reads below 102.0 °C. -/
def execThermalPermitRise (s : State) : Result :=
  if s.dim.diePermit < 23 ∧ (s.therm.die.all fun t => decide (t < 408)) = true then
    .next { s with dim := { s.dim with diePermit := s.dim.diePermit + 1 } }.repermit
  else .next s

/-- HBM_TEMP_READ: the eight stacks in 1/16 °C: refresh doubles between 85 and 95 °C, 95 °C anywhere lowers the HBM permit,
105 °C trips the package. -/
def execHbmTempRead (ts : List Int) (s : State) : Result :=
  let is (f : Int → Bool) : List Nat := (List.range ts.length).filter fun i => f (ts.getD i 0)
  let s := { s with therm := { s.therm with hbm := ts, refresh2x := is fun t => decide (85 * 16 ≤ t ∧ t ≤ 95 * 16) } }
  let s := if ts.any fun t => decide (95 * 16 ≤ t) then
    { s with dim := { s.dim with hbmPermit := s.dim.hbmPermit - 1 } }.repermit else s
  match is fun t => decide (105 * 16 ≤ t) with
  | i :: _ => .next (s.trip i (ts.getD i 0))
  | [] => .next s

/-- HBM_PERMIT_RISE: the HBM permit rises one step while every stack is below 92 °C. -/
def execHbmPermitRise (s : State) : Result :=
  if s.dim.hbmPermit < 23 ∧ (s.therm.hbm.all fun t => decide (t < 92 * 16)) = true then
    .next { s with dim := { s.dim with hbmPermit := s.dim.hbmPermit + 1 } }.repermit
  else .next s

/-! ## Coolant stop (R367, Table 14-6) -/

/-- COOLANT_HOLD, µs. -/
def State.coolantHold (s : State) : Nat := s.cfgNum 0x2200 7 0 2

/-- COOLANT_OK_FALL: the filter runs. The signal is watched from the start onwards (R433). -/
def execCoolantOkFall (s : State) : Result :=
  let st := if s.therm.coolantState = 0 ∧ s.house.started then 1 else s.therm.coolantState
  .next { s with therm := { s.therm with coolantOk := false, returning := false, coolantState := st } }.settle

/-- COOLANT_STOP: the low has outlasted its filter, and the package stops. A low that returns while the package waits to be
resumed leaves it stopped. -/
def execCoolantStop (s : State) : Result :=
  if s.therm.coolantOk then .next s
  else if s.therm.coolantState = 1 then
    let s := { s with therm := { s.therm with coolantState := 2, stopTick := s.clk.ticks } }.count .coolantStops
    let s := s.logFault { detail := BitVec.ofNat 64 s.coolantHold, cls := 5, cause := 0x12, detail2 := 0 }
    .next ((s.blackoutFor 8 true).bindReasons)
  else if s.therm.coolantState = 3 then .next { s with therm := { s.therm with coolantState := 2 } }
  else .next s

/-- COOLANT_OK_RISE: a low shorter than the filter changes nothing; a stopped package's return is filtered. -/
def execCoolantOkRise (s : State) : Result :=
  let st := if s.therm.coolantState = 1 then 0 else s.therm.coolantState
  .next { s with therm := { s.therm with coolantOk := true, returning := s.therm.coolantState == 2, coolantState := st } }.settle

/-- COOLANT_RETURNED: the return has outlasted its filter. -/
def execCoolantReturned (s : State) : Result :=
  if s.therm.coolantState = 2 ∧ s.therm.returning then
    .next { s with therm := { s.therm with coolantState := 3, returning := false } }
  else .next s

/-- COOLANT_HOLD_EXPIRY: a stop not resumed in time is device-fatal; HALT is sent (R330, R367). -/
def execCoolantHoldExpiry (s : State) : Result :=
  if s.therm.coolantState = 2 ∨ s.therm.coolantState = 3 then
    let d := BitVec.ofNat 64 s.coolantHold
    let s := { s with therm := { s.therm with coolantState := 4 } }
    .next ((s.haltNow { detail := d, cause := 0x12, detail2 := 1 }).bindReasons)
  else .next s

end Sys2Proof.Machine
end

