-- ==== Sys2Proof/Machine/Dispatch.lean ====
section
/-! DEFINITION. The dispatch: one arm per command of the table, each one call of its meaning. -/

namespace Sys2Proof.Machine

open Sys2Proof

/-- The effect of a command on everything but the queue of waiting commands. -/
def exec (i : Instr) (s : State) : Host.Outcome State Fault Refusal :=
  match i with
  | .nop t f => Sys2Proof.Machine.execNop t f s
  | .add t f => Sys2Proof.Machine.execAdd t f s
  | .sub t f => Sys2Proof.Machine.execSub t f s
  | .mul t f => Sys2Proof.Machine.execMul t f s
  | .mulhu t f => Sys2Proof.Machine.execMulhu t f s
  | .mulhs t f => Sys2Proof.Machine.execMulhs t f s
  | .divu t f => Sys2Proof.Machine.execDivu t f s
  | .divs t f => Sys2Proof.Machine.execDivs t f s
  | .remu t f => Sys2Proof.Machine.execRemu t f s
  | .rems t f => Sys2Proof.Machine.execRems t f s
  | .and t f => Sys2Proof.Machine.execAnd t f s
  | .or t f => Sys2Proof.Machine.execOr t f s
  | .xor t f => Sys2Proof.Machine.execXor t f s
  | .shl t f => Sys2Proof.Machine.execShl t f s
  | .shr t f => Sys2Proof.Machine.execShr t f s
  | .sra t f => Sys2Proof.Machine.execSra t f s
  | .mins t f => Sys2Proof.Machine.execMins t f s
  | .maxs t f => Sys2Proof.Machine.execMaxs t f s
  | .popc t f => Sys2Proof.Machine.execPopc t f s
  | .clz t f => Sys2Proof.Machine.execClz t f s
  | .cmp t f => Sys2Proof.Machine.execCmp t f s
  | .sel t f => Sys2Proof.Machine.execSel t f s
  | .addi t f => Sys2Proof.Machine.execAddi t f s
  | .andi t f => Sys2Proof.Machine.execAndi t f s
  | .ori t f => Sys2Proof.Machine.execOri t f s
  | .xori t f => Sys2Proof.Machine.execXori t f s
  | .shli t f => Sys2Proof.Machine.execShli t f s
  | .shri t f => Sys2Proof.Machine.execShri t f s
  | .movhi t f => Sys2Proof.Machine.execMovhi t f s
  | .fadd t f => Sys2Proof.Machine.execFadd t f s
  | .fmul t f => Sys2Proof.Machine.execFmul t f s
  | .ffma t f => Sys2Proof.Machine.execFfma t f s
  | .fcvtsf t f => Sys2Proof.Machine.execFcvtsf t f s
  | .fcvtfs t f => Sys2Proof.Machine.execFcvtfs t f s
  | .rds t f => Sys2Proof.Machine.execRds t f s
  | .wrs t f => Sys2Proof.Machine.execWrs t f s
  | .ld t f => Sys2Proof.Machine.execLd t f s
  | .st t f => Sys2Proof.Machine.execSt t f s
  | .ldv t f => Sys2Proof.Machine.execLdv t f s
  | .stv t f => Sys2Proof.Machine.execStv t f s
  | .ldai t f => Sys2Proof.Machine.execLdai t f s
  | .atadd t f => Sys2Proof.Machine.execAtadd t f s
  | .atfadd t f => Sys2Proof.Machine.execAtfadd t f s
  | .cas t f => Sys2Proof.Machine.execCas t f s
  | .fpadd32 t f => Sys2Proof.Machine.execFpadd32 t f s
  | .vadd t f => Sys2Proof.Machine.execVadd t f s
  | .vsub t f => Sys2Proof.Machine.execVsub t f s
  | .vmul t f => Sys2Proof.Machine.execVmul t f s
  | .vfma t f => Sys2Proof.Machine.execVfma t f s
  | .vmax t f => Sys2Proof.Machine.execVmax t f s
  | .vmin t f => Sys2Proof.Machine.execVmin t f s
  | .vand t f => Sys2Proof.Machine.execVand t f s
  | .vor t f => Sys2Proof.Machine.execVor t f s
  | .vxor t f => Sys2Proof.Machine.execVxor t f s
  | .vshl t f => Sys2Proof.Machine.execVshl t f s
  | .vshr t f => Sys2Proof.Machine.execVshr t f s
  | .vcmp t f => Sys2Proof.Machine.execVcmp t f s
  | .vsel t f => Sys2Proof.Machine.execVsel t f s
  | .vcvt t f => Sys2Proof.Machine.execVcvt t f s
  | .vbcast t f => Sys2Proof.Machine.execVbcast t f s
  | .vext t f => Sys2Proof.Machine.execVext t f s
  | .vins t f => Sys2Proof.Machine.execVins t f s
  | .vperm t f => Sys2Proof.Machine.execVperm t f s
  | .vredsum t f => Sys2Proof.Machine.execVredsum t f s
  | .vredmax t f => Sys2Proof.Machine.execVredmax t f s
  | .vredmin t f => Sys2Proof.Machine.execVredmin t f s
  | .sfe t f => Sys2Proof.Machine.execSfe t f s
  | .sfload t f => Sys2Proof.Machine.execSfload t f s
  | .sfloadComplete t far status => Sys2Proof.Machine.execSfloadComplete t far status s
  | .acmd t f => Sys2Proof.Machine.execAcmd t f s
  | .await t f => Sys2Proof.Machine.execAwait t f s
  | .astat t f => Sys2Proof.Machine.execAstat t f s
  | .flyhint t f => Sys2Proof.Machine.execFlyhint t f s
  | .fence t f => Sys2Proof.Machine.execFence t f s
  | .fenceComplete t => Sys2Proof.Machine.execFenceComplete t s
  | .releaseIssue t => Sys2Proof.Machine.execReleaseIssue t s
  | .ffence t f => Sys2Proof.Machine.execFfence t f s
  | .inv t f => Sys2Proof.Machine.execInv t f s
  | .bar t f => Sys2Proof.Machine.execBar t f s
  | .waitv t f => Sys2Proof.Machine.execWaitv t f s
  | .waitvTimeout t => Sys2Proof.Machine.execWaitvTimeout t s
  | .br t f => Sys2Proof.Machine.execBr t f s
  | .call t f => Sys2Proof.Machine.execCall t f s
  | .jr t f => Sys2Proof.Machine.execJr t f s
  | .endThread t f => Sys2Proof.Machine.execEndThread t f s
  | .eret t f => Sys2Proof.Machine.execEret t f s
  | .erets t f => Sys2Proof.Machine.execErets t f s
  | .brk t f => Sys2Proof.Machine.execBrk t f s
  | .yield t f => Sys2Proof.Machine.execYield t f s
  | .load a => Sys2Proof.Machine.execLoad a s
  | .stream a => Sys2Proof.Machine.execStream a s
  | .release a => Sys2Proof.Machine.execRelease a s
  | .arrayCommandComplete a => Sys2Proof.Machine.execArrayCommandComplete a s
  | .taskEntry q e => Sys2Proof.Machine.execTaskEntry q e s
  | .stepBegin q e => Sys2Proof.Machine.execStepBegin q e s
  | .stepBoundary p => Sys2Proof.Machine.execStepBoundary p s
  | .stepTimeout p => Sys2Proof.Machine.execStepTimeout p s
  | .dispatch d => Sys2Proof.Machine.execDispatch d s
  | .partitionResetComplete p => Sys2Proof.Machine.execPartitionResetComplete p s
  | .taskComplete k => Sys2Proof.Machine.execTaskComplete k s
  | .taskCommit k => Sys2Proof.Machine.execTaskCommit k s
  | .completionNotice q => Sys2Proof.Machine.execCompletionNotice q s
  | .kvAppend u => Sys2Proof.Machine.execKvAppend u s
  | .normVerdict p l grad => Sys2Proof.Machine.execNormVerdict p l grad s
  | .encoreReservation p l => Sys2Proof.Machine.execEncoreReservation p l s
  | .reqOpen q e => Sys2Proof.Machine.execReqOpen q e s
  | .reqTokens q e => Sys2Proof.Machine.execReqTokens q e s
  | .reqPause q e => Sys2Proof.Machine.execReqPause q e s
  | .reqResume q e => Sys2Proof.Machine.execReqResume q e s
  | .reqClose q e => Sys2Proof.Machine.execReqClose q e s
  | .callMonitorTick => Sys2Proof.Machine.execCallMonitorTick s
  | .budgetRefill => Sys2Proof.Machine.execBudgetRefill s
  | .switchOut k => Sys2Proof.Machine.execSwitchOut k s
  | .castResume k => Sys2Proof.Machine.execCastResume k s
  | .checkFailure c => Sys2Proof.Machine.execCheckFailure c s
  | .replayComplete p => Sys2Proof.Machine.execReplayComplete p s
  | .sitePermanent x => Sys2Proof.Machine.execSitePermanent x s
  | .laneCopyComplete tierD region lane bad => Sys2Proof.Machine.execLaneCopyComplete tierD region lane bad s
  | .dieLinkFlitError l => Sys2Proof.Machine.execDieLinkFlitError l s
  | .dieLinkRetryLimit l retries => Sys2Proof.Machine.execDieLinkRetryLimit l retries s
  | .pool q e => Sys2Proof.Machine.execPool q e s
  | .ctxAlloc q e => Sys2Proof.Machine.execCtxAlloc q e s
  | .ctxRelease q e => Sys2Proof.Machine.execCtxRelease q e s
  | .ctxReleaseComplete ix => Sys2Proof.Machine.execCtxReleaseComplete ix s
  | .publish q e => Sys2Proof.Machine.execPublish q e s
  | .map q e => Sys2Proof.Machine.execMap q e s
  | .unpublish q e => Sys2Proof.Machine.execUnpublish q e s
  | .ctxQuery q e => Sys2Proof.Machine.execCtxQuery q e s
  | .castingCall k => Sys2Proof.Machine.execCastingCall k s
  | .scoresSegment r g => Sys2Proof.Machine.execScoresSegment r g s
  | .offersSegment r g => Sys2Proof.Machine.execOffersSegment r g s
  | .responsesSegment r g => Sys2Proof.Machine.execResponsesSegment r g s
  | .noticesSegment r g => Sys2Proof.Machine.execNoticesSegment r g s
  | .countsSegment r g => Sys2Proof.Machine.execCountsSegment r g s
  | .dispatchSegment r g => Sys2Proof.Machine.execDispatchSegment r g s
  | .returnSegment r g => Sys2Proof.Machine.execReturnSegment r g s
  | .failSegment r g => Sys2Proof.Machine.execFailSegment r g s
  | .slotListFinal p j => Sys2Proof.Machine.execSlotListFinal p j s
  | .castTimeout p => Sys2Proof.Machine.execCastTimeout p s
  | .alloc q e => Sys2Proof.Machine.execAlloc q e s
  | .free q e => Sys2Proof.Machine.execFree q e s
  | .objRegister q e => Sys2Proof.Machine.execObjRegister q e s
  | .objRetire q e => Sys2Proof.Machine.execObjRetire q e s
  | .fill q e => Sys2Proof.Machine.execFill q e s
  | .fillComplete k b => Sys2Proof.Machine.execFillComplete k b s
  | .keyLoad q e => Sys2Proof.Machine.execKeyLoad q e s
  | .keyDrop q e => Sys2Proof.Machine.execKeyDrop q e s
  | .cueLoad q e => Sys2Proof.Machine.execCueLoad q e s
  | .cueSelect q e => Sys2Proof.Machine.execCueSelect q e s
  | .cueSelectComplete p => Sys2Proof.Machine.execCueSelectComplete p s
  | .cueUnload q e => Sys2Proof.Machine.execCueUnload q e s
  | .cueEntryStart p ix => Sys2Proof.Machine.execCueEntryStart p ix s
  | .cueEntryPlaced p ix b => Sys2Proof.Machine.execCueEntryPlaced p ix b s
  | .flit n h check => Sys2Proof.Machine.execFlit n h check s
  | .retrain n => Sys2Proof.Machine.execRetrain n s
  | .retrainComplete n far => Sys2Proof.Machine.execRetrainComplete n far s
  | .retrainTimeout n => Sys2Proof.Machine.execRetrainTimeout n s
  | .lightDetected n halves => Sys2Proof.Machine.execLightDetected n halves s
  | .lightLost n => Sys2Proof.Machine.execLightLost n s
  | .trainingComplete n far => Sys2Proof.Machine.execTrainingComplete n far s
  | .trainingTimeout n => Sys2Proof.Machine.execTrainingTimeout n s
  | .trainingRetry n => Sys2Proof.Machine.execTrainingRetry n s
  | .loadRequest r => Sys2Proof.Machine.execLoadRequest r s
  | .storeRequest r => Sys2Proof.Machine.execStoreRequest r s
  | .ataddRequest r => Sys2Proof.Machine.execAtaddRequest r s
  | .atfaddRequest r => Sys2Proof.Machine.execAtfaddRequest r s
  | .casRequest r => Sys2Proof.Machine.execCasRequest r s
  | .fpadd32Request r => Sys2Proof.Machine.execFpadd32Request r s
  | .inval r => Sys2Proof.Machine.execInval r s
  | .invalidateComplete src seq => Sys2Proof.Machine.execInvalidateComplete src seq s
  | .fenceRequest r => Sys2Proof.Machine.execFenceRequest r s
  | .freqCue r => Sys2Proof.Machine.execFreqCue r s
  | .routeUpdate r => Sys2Proof.Machine.execRouteUpdate r s
  | .assume r => Sys2Proof.Machine.execAssume r s
  | .halt r => Sys2Proof.Machine.execHalt r s
  | .coll r g => Sys2Proof.Machine.execColl r g s
  | .unknownOperation r op => Sys2Proof.Machine.execUnknownOperation r op s
  | .response r => Sys2Proof.Machine.execResponse r s
  | .e2eResend dst seq => Sys2Proof.Machine.execE2eResend dst seq s
  | .coherenceInvalidate die line => Sys2Proof.Machine.execCoherenceInvalidate die line s
  | .coherenceAck line => Sys2Proof.Machine.execCoherenceAck line s
  | .portDownTimeout c => Sys2Proof.Machine.execPortDownTimeout c s
  | .switchInComplete c => Sys2Proof.Machine.execSwitchInComplete c s
  | .collective k => Sys2Proof.Machine.execCollective k s
  | .collTimeout p => Sys2Proof.Machine.execCollTimeout p s
  | .fohLatencyMeasure n ns => Sys2Proof.Machine.execFohLatencyMeasure n ns s
  | .powerEstimate pFix pDyn shares => Sys2Proof.Machine.execPowerEstimate pFix pDyn shares s
  | .gainUpdate estimated measured => Sys2Proof.Machine.execGainUpdate estimated measured s
  | .hopComplete => Sys2Proof.Machine.execHopComplete s
  | .voltageConfirm => Sys2Proof.Machine.execVoltageConfirm s
  | .voltageTimeout rail => Sys2Proof.Machine.execVoltageTimeout rail s
  | .voltageRetry => Sys2Proof.Machine.execVoltageRetry s
  | .droopStretch c => Sys2Proof.Machine.execDroopStretch c s
  | .droopRecovery c => Sys2Proof.Machine.execDroopRecovery c s
  | .droopRateCheck => Sys2Proof.Machine.execDroopRateCheck s
  | .droopPermitRestore => Sys2Proof.Machine.execDroopPermitRestore s
  | .lockForce => Sys2Proof.Machine.execLockForce s
  | .tempSample ts => Sys2Proof.Machine.execTempSample ts s
  | .thermalPermitRise => Sys2Proof.Machine.execThermalPermitRise s
  | .hbmTempRead ts => Sys2Proof.Machine.execHbmTempRead ts s
  | .hbmPermitRise => Sys2Proof.Machine.execHbmPermitRise s
  | .coolantOkFall => Sys2Proof.Machine.execCoolantOkFall s
  | .coolantStop => Sys2Proof.Machine.execCoolantStop s
  | .coolantOkRise => Sys2Proof.Machine.execCoolantOkRise s
  | .coolantReturned => Sys2Proof.Machine.execCoolantReturned s
  | .coolantHoldExpiry => Sys2Proof.Machine.execCoolantHoldExpiry s
  | .coolantReenable a d => Sys2Proof.Machine.execCoolantReenable a d s
  | .cap a d => Sys2Proof.Machine.execCap a d s
  | .stepMax a d => Sys2Proof.Machine.execStepMax a d s
  | .currentLimit a d => Sys2Proof.Machine.execCurrentLimit a d s
  | .read m c => Sys2Proof.Machine.execRead m c s
  | .write m c => Sys2Proof.Machine.execWrite m c s
  | .readWings m c => Sys2Proof.Machine.execReadWings m c s
  | .mailboxRelease m c => Sys2Proof.Machine.execMailboxRelease m c s
  | .mailboxClaimTimeout m => Sys2Proof.Machine.execMailboxClaimTimeout m s
  | .dictionaryWrite a x d => Sys2Proof.Machine.execDictionaryWrite a x d s
  | .curtain a d => Sys2Proof.Machine.execCurtain a d s
  | .discard a d => Sys2Proof.Machine.execDiscard a d s
  | .layerCounters a p d => Sys2Proof.Machine.execLayerCounters a p d s
  | .partReset a p d => Sys2Proof.Machine.execPartReset a p d s
  | .errorCount a d => Sys2Proof.Machine.execErrorCount a d s
  | .store a sub d => Sys2Proof.Machine.execStore a sub d s
  | .restore a sub d => Sys2Proof.Machine.execRestore a sub d s
  | .flyUcodeGo a d => Sys2Proof.Machine.execFlyUcodeGo a d s
  | .flyUcodeEngineLoaded e version => Sys2Proof.Machine.execFlyUcodeEngineLoaded e version s
  | .portRetrain a n d => Sys2Proof.Machine.execPortRetrain a n d s
  | .usdoInitiate write x d segmented => Sys2Proof.Machine.execUsdoInitiate write x d segmented s
  | .usdoSegment d last => Sys2Proof.Machine.execUsdoSegment d last s
  | .usdoTimeout => Sys2Proof.Machine.execUsdoTimeout s
  | .nmtStart => Sys2Proof.Machine.execNmtStart s
  | .nmtStop => Sys2Proof.Machine.execNmtStop s
  | .nmtPreOperational => Sys2Proof.Machine.execNmtPreOperational s
  | .nmtResetCommunication => Sys2Proof.Machine.execNmtResetCommunication s
  | .nmtResetNode => Sys2Proof.Machine.execNmtResetNode s
  | .heartbeat => Sys2Proof.Machine.execHeartbeat s
  | .tpdoEvent n => Sys2Proof.Machine.execTpdoEvent n s
  | .emcyInhibit => Sys2Proof.Machine.execEmcyInhibit s
  | .busOff => Sys2Proof.Machine.execBusOff s
  | .packageStart u => Sys2Proof.Machine.execPackageStart u s
  | .showReady u => Sys2Proof.Machine.execShowReady u s
  | .startTimeout => Sys2Proof.Machine.execStartTimeout s
  | .watchdogExpiry => Sys2Proof.Machine.execWatchdogExpiry s
  | .hmRestartComplete => Sys2Proof.Machine.execHmRestartComplete s
  | .storeBegin a d => Sys2Proof.Machine.execStoreBegin a d s
  | .image a off d => Sys2Proof.Machine.execImage a off d s
  | .activate a d => Sys2Proof.Machine.execActivate a d s
  | .abandon a d => Sys2Proof.Machine.execAbandon a d s
  | .retryStart a d => Sys2Proof.Machine.execRetryStart a d s
  | .ghostNext a d => Sys2Proof.Machine.execGhostNext a d s
  | .ownerRequest a d => Sys2Proof.Machine.execOwnerRequest a d s
  | .bankWrite => Sys2Proof.Machine.execBankWrite s
  | .bankWriteComplete failed otherBad => Sys2Proof.Machine.execBankWriteComplete failed otherBad s
  | .nonce a d => Sys2Proof.Machine.execNonce a d s
  | .reportSigned => Sys2Proof.Machine.execReportSigned s
  | .sqTail q v => Sys2Proof.Machine.execSqTail q v s
  | .cqHead q v => Sys2Proof.Machine.execCqHead q v s
  | .qreset q v => Sys2Proof.Machine.execQreset q v s
  | .queueResetComplete q => Sys2Proof.Machine.execQueueResetComplete q s
  | .queueRingWrite q r v => Sys2Proof.Machine.execQueueRingWrite q r v s
  | .enableSet q v => Sys2Proof.Machine.execEnableSet q v s
  | .enableClear q v => Sys2Proof.Machine.execEnableClear q v s
  | .perst => Sys2Proof.Machine.execPerst s
  | .flr f => Sys2Proof.Machine.execFlr f s
  | .bar4Read f off n => Sys2Proof.Machine.execBar4Read f off n s
  | .bar4Write f off d => Sys2Proof.Machine.execBar4Write f off d s
  | .bar4FaultStatusRead f => Sys2Proof.Machine.execBar4FaultStatusRead f s
  | .interruptTimer p n => Sys2Proof.Machine.execInterruptTimer p n s
  | .msixUnmask f v => Sys2Proof.Machine.execMsixUnmask f v s
  | .atsInvalidate f => Sys2Proof.Machine.execAtsInvalidate f s
  | .mgmtRst => Sys2Proof.Machine.execMgmtRst s
  | .vauxLoss => Sys2Proof.Machine.execVauxLoss s
  | .railFault rail mv => Sys2Proof.Machine.execRailFault rail mv s
  | .refclkLoss => Sys2Proof.Machine.execRefclkLoss s
  | .refclkReturn => Sys2Proof.Machine.execRefclkReturn s
  | .laserOkChange q high => Sys2Proof.Machine.execLaserOkChange q high s
  | .unknownEntryClass q e => Sys2Proof.Machine.execUnknownEntryClass q e s
  | .aperture f v => Sys2Proof.Machine.execAperture f v s
  | .numvfs n => Sys2Proof.Machine.execNumvfs n s
  | .promptBookParityError die => Sys2Proof.Machine.execPromptBookParityError die s
  | .lockUp engine n => Sys2Proof.Machine.execLockUp engine n s
  | .busOffWindowExpiry => Sys2Proof.Machine.execBusOffWindowExpiry s
  | .switchOutComplete k => Sys2Proof.Machine.execSwitchOutComplete k s
  | .ringAccessError p n cause => Sys2Proof.Machine.execRingAccessError p n cause s

end Sys2Proof.Machine
end

