-- ==== Sys2Proof/Machine/Tick.lean ====
section
/-! DEFINITION. One CLK_A cycle of an idle block: the clocks (R3, R350, R351), what accrues by the cycle (R87, R107, R233,
R238, R275, R278, R292, R331, R332, R359, R418) or by the reference tick (R369), and work that has become ready (R286, R342). -/

namespace Sys2Proof.Machine

open Sys2Proof

/-! ## Clocks -/

/-- One cycle passes: 1 / f of a microsecond, and a reference tick for each 10 ns. -/
def Clock.pass (c : Clock) (mhz : Nat) : Clock :=
  let p := c.part + 100
  if p < mhz then { c with cycle := c.cycle + 1, part := p }
  else { cycle := c.cycle + 1, ticks := c.ticks + 1, part := p - mhz }

/-! ## What accrues by the cycle -/

/-- ENGINE_TIME and VCLOCK of the thread slots that casts occupy (R292). -/
def State.slotTime (s : State) : State :=
  s.tasks.foldl (fun s (e : Nat × Task) =>
    if e.2.live && e.2.phase != .switchedOut then s.engineTime e.2.part e.2.slots.length
    else s) s

/-- The array a thread waits for because another cast has claimed it (R87). -/
def State.ownerStall (s : State) (x : Thread) : Option Nat :=
  match x.wait with
  | .acmd k => if (s.array k).owner.any (· != x.task) then some k else none
  | _ => none

/-- OWNER_WAIT. -/
def State.ownerWaits (s : State) : State :=
  s.threads.foldl (fun s (e : Nat × Thread) => match s.ownerStall e.2 with | some k => s.count .ownerWait k | none => s) s

/-- Whether blackout gates this cycle (R359). -/
def State.gatedCycle (s : State) : Bool := s.dim.blackout && s.clk.cycle % 4 != 0

/-- Whether the lead of a command accepted behind another has not passed: 32 cycles of a LOAD, 8 of a STREAM (R106). -/
def ArrCmd.leadShort (c : ArrCmd) (now : Nat) : Bool :=
  let n := match cmdType c.word with | 1 => 32 | 2 => 8 | _ => 0
  match c.lead with
  | some b => decide (now < b + n)
  | none => false

/-- A row or plane cycle of a command's run passes. -/
def ArrayUnit.passCycle (a : ArrayUnit) : ArrayUnit :=
  match a.queue with
  | c :: cs => { a with queue := { c with left := c.left - 1 } :: cs }
  | [] => a

/-- Whether the front STREAM of an array waits for a tile (R107, R234). -/
def State.tileWait (s : State) (k : Nat) (c : ArrCmd) : State × Bool :=
  match s.task? c.task with
  | some t => if cmdType c.word = 2 then s.lateTile k c t else (s, false)
  | none => (s, false)

/-- One cycle of an array that holds commands: a wait of R107, counted by its kind, or a row or plane cycle of the run in
progress. -/
def State.arrayCycle (s : State) (k : Nat) : State :=
  match (s.array k).queue with
  | [] => s
  | c :: _ =>
    if c.leadShort s.clk.cycle then s.count .leadWait k
    else
      match (if c.ran then (s, false) else s.tileWait k c) with
      | (s, true) => s.count .lateTile k
      | (s, false) =>
        if c.ran && c.left == 0 then s
        else if s.gatedCycle then s.count .gated k
        else if c.ran then s.setArray k (s.array k).passCycle else s

/-- GATED, LEAD_WAIT and LATE_TILE of the arrays (R107). -/
def State.arrayWaits (s : State) : State := s.arrays.foldl (fun s (e : Nat × ArrayUnit) => s.arrayCycle e.1) s

/-- Threads and segments that wait for a free record of the fabric-operation log (R332). -/
def State.logWaits (s : State) : State :=
  if s.logUsed < logSize then s
  else s.count .logFullWaits 0 ((s.threads.countP fun (e : Nat × Thread) => decide (e.2.wait = .log)) + s.fab.sendq.countP s.logBlocks)

/-- Whether a ready task waits only for a full prompt-book ring (R331). -/
def State.bookWait (s : State) (t : Task) : Bool :=
  if dIsCast t.desc then (s.placeOn t).isNone && (coreOrder t.home).any fun c => s.coreFits t c
  else (bookFree (s.bookTaken none t.home)).isNone

/-- BOOK_FULL_WAITS. -/
def State.bookWaits (s : State) : State :=
  if (List.range 4).any fun d => (s.readyOn d).any fun e => s.bookWait e.2 then s.count .bookFullWaits else s

/-- Whether a queue's next notice waits on a full completion ring (R418). -/
def State.ringWait (s : State) (c : Nat) (x : Queue) : Bool :=
  x.full && match s.firstEntry c with
    | some (k, e) => e.done.isSome && decide (x.discardBelow ≤ k)
    | none => false

/-- CQ_FULL_WAITS. -/
def State.ringWaits (s : State) : State :=
  s.queues.foldl (fun s (e : Nat × Queue) =>
    if !s.ringWait e.1 e.2 then s
    else if codeIsHost e.1 then s.count .fnCqFullWaits (codePart e.1 + 1) else s.count .cqFullWaits e.1) s

/-- Entries of a partition that wait for an earlier position, and encore reservations that wait (R233, R238). -/
def State.destWaiting (s : State) (p : Nat) : Nat :=
  let x := s.part p
  (match s.selSheet p with
    | none => 0
    | some sh => sh.entries.zipIdx.countP fun e =>
        SMap.get .idle x.entryPhase e.2 == .idle && x.startable sh e.1.pos && x.destWaits sh e.1) +
  x.encores.countP fun (e : Nat × Encore) => !e.2.placed

/-- DEST_WAIT. -/
def State.destWaits (s : State) : State :=
  s.parts.foldl (fun s (e : Nat × Part) => s.count .destWait e.1 (s.destWaiting e.1)) s

/-- Whether a port that is UP holds a flit for want of a link credit (R244). -/
def Port.lacksCredit (x : Port) : Bool :=
  x.phase == .up && decide (x.unacked.length < flitWindow) && x.txQueue.any fun f => x.credit f.1 == 0

/-- Ports that the next partials of merges wait to leave on, for want of a merge credit (R275). -/
def State.mergeHeld (s : State) : List Nat :=
  s.parts.flatMap fun (e : Nat × Part) =>
    (e.2.colls.filter fun c => c.2.ended.isNone && !c.2.toSend.isEmpty && decide (mergeCredits ≤ s.collOut e.1 c.1)).filterMap fun c =>
      match s.firstHop (some e.1) (cRoot c.2.desc) (s.peer (cRoot c.2.desc)).nextUnordered with
      | .port n => some n
      | .unreachable _ _ => none

/-- CREDIT_WAIT: each port whose sender waits for a link or a merge credit counts the cycle once (R278). -/
def State.creditWaits (s : State) : State :=
  let held := s.mergeHeld
  (List.range 24).foldl (fun s n => if (s.port n).lacksCredit || held.contains n then s.count .creditWait n else s) s

/-- Collisions in the tile stores: the writes that reached a line by two or three inputs since the last cycle stand in the order own
network, Z0, Z1, and the line counts once at its core (R20). The commands between two cycles of the model fall in one cycle (DESIGN CHOICE, log 89). -/
def State.tileCycle (s : State) : State :=
  let s := s.tileWrites.foldl (fun s (e : Nat × List (Nat × Nat × List Byte)) =>
    if (e.2.map Prod.fst).eraseDups.length < 2 then s
    else
      let ordered := ([0, 1, 2] : List Nat).flatMap fun i => e.2.filter fun w => w.1 == i
      ({ s with mem := ordered.foldl (fun m (w : Nat × Nat × List Byte) => memPut m w.2.1 w.2.2) s.mem }).count .tsCollisions ((e.1 * 64 - baseTile) / 0x400000)) s
  { s with tileWrites := [] }

/-- Each reason that binds accrues a reference tick (R369). -/
def State.reasonTicks (s : State) : State :=
  let more (r : Reason) : Reason := if r.binds then { r with ticks := r.ticks + 1 } else r
  { s with dim := { s.dim with reasons := SMap.mapVals (fun _ (r : Reason) => more r) s.dim.reasons } }

/-! ## The cycle -/

/-- What a cycle brings to a package that works. -/
def State.workCycle (s : State) : State :=
  (s.slotTime.ownerWaits.arrayWaits.logWaits.bookWaits.ringWaits.destWaits.creditWaits).noteAll

/-- One CLK_A cycle. Without the reference nothing passes. -/
def State.tick (s : State) : State :=
  if !s.pins.refclk then s
  else
    let t := { s with clk := s.clk.pass s.mhz }
    let t := if t.clk.ticks = s.clk.ticks then t else t.reasonTicks
    (if t.working then t.workCycle else t).tileCycle.releaseHeld

end Sys2Proof.Machine
end

