-- ==== Sys2Proof/WellFormed.lean ====
section
/-! DEFINITION. Well-formed commands: data within what their carriers can bring. The types of the operands hold the rest. -/

namespace Sys2Proof

/-- Bytes one access over a path carries: a mailbox's DATA area, or a USDO window of at most 64 KiB (R383, Table 15-11). -/
def Acc.carries (a : Acc) (d : List Byte) : Bool := decide (d.length ≤ match a with | .can => 65536 | .mbx _ => 61440)

/-- Uncorrectable lines of what arrives lie within it. -/
def Arrival.wf (b : Arrival) : Bool := b.bad.all fun i => decide (64 * i < b.bytes.length)

/-- The symbols corrected are counted for each of the 8 lanes (R243). -/
def FlitCheck.wf : FlitCheck → Bool
  | .corrected symbols => symbols.length == 8
  | _ => true

/-- A request as it arrives: at most 4 KiB of payload, no segment, and not yet checked. -/
def FabReq.wf (r : FabReq) : Bool := decide (r.body.length ≤ 4096) && r.seg == .none && r.checked == none

/-- The request that carries a segment holds nothing else. -/
def FabReq.carriesSeg (r : FabReq) : Bool := r.wf && r.body.isEmpty

/-- A command the block's surroundings can bring: a request or response carries at most 4 KiB (Table 10-7), a table 4,160 bytes
(R147), a flit 304 (R243), a sample 72 sensors or 8 stacks (R366), a PCIe access what Table 17-1 allows, a store command its three bytes of ARG
(R409), a start at most 16 modules of 96 GiB (R14). -/
def Instr.wf : Instr → Bool
  | .nop _ _ => true
  | .add _ _ => true
  | .sub _ _ => true
  | .mul _ _ => true
  | .mulhu _ _ => true
  | .mulhs _ _ => true
  | .divu _ _ => true
  | .divs _ _ => true
  | .remu _ _ => true
  | .rems _ _ => true
  | .and _ _ => true
  | .or _ _ => true
  | .xor _ _ => true
  | .shl _ _ => true
  | .shr _ _ => true
  | .sra _ _ => true
  | .mins _ _ => true
  | .maxs _ _ => true
  | .popc _ _ => true
  | .clz _ _ => true
  | .cmp _ _ => true
  | .sel _ _ => true
  | .addi _ _ => true
  | .andi _ _ => true
  | .ori _ _ => true
  | .xori _ _ => true
  | .shli _ _ => true
  | .shri _ _ => true
  | .movhi _ _ => true
  | .fadd _ _ => true
  | .fmul _ _ => true
  | .ffma _ _ => true
  | .fcvtsf _ _ => true
  | .fcvtfs _ _ => true
  | .rds _ _ => true
  | .wrs _ _ => true
  | .ld _ _ => true
  | .st _ _ => true
  | .ldv _ _ => true
  | .stv _ _ => true
  | .ldai _ _ => true
  | .atadd _ _ => true
  | .atfadd _ _ => true
  | .cas _ _ => true
  | .fpadd32 _ _ => true
  | .vadd _ _ => true
  | .vsub _ _ => true
  | .vmul _ _ => true
  | .vfma _ _ => true
  | .vmax _ _ => true
  | .vmin _ _ => true
  | .vand _ _ => true
  | .vor _ _ => true
  | .vxor _ _ => true
  | .vshl _ _ => true
  | .vshr _ _ => true
  | .vcmp _ _ => true
  | .vsel _ _ => true
  | .vcvt _ _ => true
  | .vbcast _ _ => true
  | .vext _ _ => true
  | .vins _ _ => true
  | .vperm _ _ => true
  | .vredsum _ _ => true
  | .vredmax _ _ => true
  | .vredmin _ _ => true
  | .sfe _ _ => true
  | .sfload _ _ => true
  | .sfloadComplete _ far _ => decide (far.length ≤ 4160)
  | .acmd _ _ => true
  | .await _ _ => true
  | .astat _ _ => true
  | .flyhint _ _ => true
  | .fence _ _ => true
  | .fenceComplete _ => true
  | .releaseIssue _ => true
  | .ffence _ _ => true
  | .inv _ _ => true
  | .bar _ _ => true
  | .waitv _ _ => true
  | .waitvTimeout _ => true
  | .br _ _ => true
  | .call _ _ => true
  | .jr _ _ => true
  | .endThread _ _ => true
  | .eret _ _ => true
  | .erets _ _ => true
  | .brk _ _ => true
  | .yield _ _ => true
  | .load _ => true
  | .stream _ => true
  | .release _ => true
  | .arrayCommandComplete _ => true
  | .taskEntry _ _ => true
  | .stepBegin _ _ => true
  | .stepBoundary _ => true
  | .stepTimeout _ => true
  | .dispatch _ => true
  | .partitionResetComplete _ => true
  | .taskComplete _ => true
  | .taskCommit _ => true
  | .completionNotice _ => true
  | .kvAppend u => u.keys.length == u.vals.length
  | .normVerdict _ _ _ => true
  | .encoreReservation _ _ => true
  | .reqOpen _ _ => true
  | .reqTokens _ _ => true
  | .reqPause _ _ => true
  | .reqResume _ _ => true
  | .reqClose _ _ => true
  | .callMonitorTick => true
  | .budgetRefill => true
  | .switchOut _ => true
  | .castResume _ => true
  | .checkFailure _ => true
  | .replayComplete _ => true
  | .sitePermanent _ => true
  | .laneCopyComplete tierD region lane _ => if tierD then decide (region < 768 ∧ lane < 32) else decide (region < 384 ∧ lane < 512)
  | .dieLinkFlitError _ => true
  | .dieLinkRetryLimit _ _ => true
  | .pool _ _ => true
  | .ctxAlloc _ _ => true
  | .ctxRelease _ _ => true
  | .ctxReleaseComplete _ => true
  | .publish _ _ => true
  | .map _ _ => true
  | .unpublish _ _ => true
  | .ctxQuery _ _ => true
  | .castingCall _ => true
  | .scoresSegment r g => r.carriesSeg && g.hdr.extractLsb' 243 3 == 0
  | .offersSegment r g => r.carriesSeg && g.hdr.extractLsb' 243 3 == 1
  | .responsesSegment r g => r.carriesSeg && g.hdr.extractLsb' 243 3 == 2
  | .noticesSegment r g => r.carriesSeg && g.hdr.extractLsb' 243 3 == 3
  | .countsSegment r g => r.carriesSeg && g.hdr.extractLsb' 243 3 == 4
  | .dispatchSegment r g => r.carriesSeg && g.hdr.extractLsb' 243 3 == 5
  | .returnSegment r g => r.carriesSeg && g.hdr.extractLsb' 243 3 == 6
  | .failSegment r g => r.carriesSeg && g.hdr.extractLsb' 243 3 == 7
  | .slotListFinal _ _ => true
  | .castTimeout _ => true
  | .alloc _ _ => true
  | .free _ _ => true
  | .objRegister _ _ => true
  | .objRetire _ _ => true
  | .fill _ _ => true
  | .fillComplete _ b => b.wf
  | .keyLoad _ _ => true
  | .keyDrop _ _ => true
  | .cueLoad _ _ => true
  | .cueSelect _ _ => true
  | .cueSelectComplete _ => true
  | .cueUnload _ _ => true
  | .cueEntryStart _ _ => true
  | .cueEntryPlaced _ _ b => b.wf
  | .flit _ h check => decide (h.payload.length = 304) && check.wf
  | .retrain _ => true
  | .retrainComplete _ far => decide (far.port < 24)
  | .retrainTimeout _ => true
  | .lightDetected _ _ => true
  | .lightLost _ => true
  | .trainingComplete _ far => decide (far.port < 24)
  | .trainingTimeout _ => true
  | .trainingRetry _ => true
  | .loadRequest r => r.wf
  | .storeRequest r => r.wf
  | .ataddRequest r => r.wf
  | .atfaddRequest r => r.wf
  | .casRequest r => r.wf
  | .fpadd32Request r => r.wf
  | .inval r => r.wf
  | .invalidateComplete _ _ => true
  | .fenceRequest r => r.wf
  | .freqCue r => r.wf
  | .routeUpdate r => r.wf
  | .assume r => r.wf
  | .halt r => r.wf
  | .coll r _ => r.carriesSeg
  | .unknownOperation r _ => r.wf
  | .response r => decide (r.body.length ≤ 4096)
  | .e2eResend _ _ => true
  | .coherenceInvalidate _ _ => true
  | .coherenceAck _ => true
  | .portDownTimeout _ => true
  | .switchInComplete _ => true
  | .collective _ => true
  | .collTimeout _ => true
  | .fohLatencyMeasure _ _ => true
  | .powerEstimate _ _ shares => shares.length == 4
  | .gainUpdate _ _ => true
  | .hopComplete => true
  | .voltageConfirm => true
  | .voltageTimeout _ => true
  | .voltageRetry => true
  | .droopStretch _ => true
  | .droopRecovery _ => true
  | .droopRateCheck => true
  | .droopPermitRestore => true
  | .lockForce => true
  | .tempSample ts => ts.length == 72
  | .thermalPermitRise => true
  | .hbmTempRead ts => ts.length == 8
  | .hbmPermitRise => true
  | .coolantOkFall => true
  | .coolantStop => true
  | .coolantOkRise => true
  | .coolantReturned => true
  | .coolantHoldExpiry => true
  | .coolantReenable a d => a.carries d
  | .cap a d => a.carries d
  | .stepMax a d => a.carries d
  | .currentLimit a d => a.carries d
  | .read _ c => decide (c.data.length ≤ 61440)
  | .write _ c => decide (c.data.length ≤ 61440)
  | .readWings _ c => decide (c.data.length ≤ 61440)
  | .mailboxRelease _ c => decide (c.data.length ≤ 61440)
  | .mailboxClaimTimeout _ => true
  | .dictionaryWrite a x d => a.carries d && decide (x.offset < 2 ^ 32)
  | .curtain a d => a.carries d
  | .discard a d => a.carries d
  | .layerCounters a _ d => a.carries d
  | .partReset a _ d => a.carries d
  | .errorCount a d => a.carries d
  | .store a _ d => a.carries d
  | .restore a _ d => a.carries d
  | .flyUcodeGo a d => a.carries d
  | .flyUcodeEngineLoaded _ _ => true
  | .portRetrain a _ d => a.carries d
  | .usdoInitiate _ x d _ => decide (x.offset = 0 ∧ d.length ≤ 65536)
  | .usdoSegment d _ => decide (d.length ≤ 65536)
  | .usdoTimeout => true
  | .nmtStart => true
  | .nmtStop => true
  | .nmtPreOperational => true
  | .nmtResetCommunication => true
  | .nmtResetNode => true
  | .heartbeat => true
  | .tpdoEvent _ => true
  | .emcyInhibit => true
  | .busOff => true
  | .packageStart u => decide (u.modules.length ≤ 16) && u.modules.all fun m => decide (m ≤ 96)
  | .showReady _ => true
  | .startTimeout => true
  | .watchdogExpiry => true
  | .hmRestartComplete => true
  | .storeBegin a d => a.carries d && d.length == 3
  | .image a off d => a.carries d && decide (off < 2 ^ 32)
  | .activate a d => a.carries d && d.length == 3
  | .abandon a d => a.carries d && d.length == 3
  | .retryStart a d => a.carries d && d.length == 3
  | .ghostNext a d => a.carries d && d.length == 3
  | .ownerRequest a d => a.carries d
  | .bankWrite => true
  | .bankWriteComplete _ _ => true
  | .nonce a d => a.carries d
  | .reportSigned => true
  | .sqTail _ _ => true
  | .cqHead _ _ => true
  | .qreset _ _ => true
  | .queueResetComplete _ => true
  | .queueRingWrite _ _ _ => true
  | .enableSet _ _ => true
  | .enableClear _ _ => true
  | .perst => true
  | .flr _ => true
  | .bar4Read _ _ n => decide (1 ≤ n ∧ n ≤ 4096)
  | .bar4Write _ _ d => decide (1 ≤ d.length ∧ d.length ≤ 512)
  | .bar4FaultStatusRead _ => true
  | .interruptTimer _ _ => true
  | .msixUnmask f v => decide (f.val ≠ 0 ∨ v.val < 2)
  | .atsInvalidate _ => true
  | .mgmtRst => true
  | .vauxLoss => true
  | .railFault _ _ => true
  | .refclkLoss => true
  | .refclkReturn => true
  | .laserOkChange _ _ => true
  | .unknownEntryClass _ _ => true
  | .aperture _ _ => true
  | .numvfs _ => true
  | .promptBookParityError _ => true
  | .lockUp _ _ => true
  | .busOffWindowExpiry => true
  | .switchOutComplete _ => true
  | .ringAccessError _ _ _ => true

end Sys2Proof
end

