-- ==== Sys2Proof/Safety.lean ====
section
/-! DEFINITION. What claims call safe: memory in its one canonical form, commands in the queue well formed, and runs that no
fault or refusal ends. -/

namespace Sys2Proof.Machine

open Sys2Proof

/-- Memory in its canonical form: addresses strictly rising, and no byte listed that equals what an unlisted byte reads as. -/
def Memory.wf (m : SMap Byte) : Bool := SMap.wf 0#8 m

/-- What every step keeps: memory is canonical, and every waiting command is well formed. -/
def State.Inv (s : State) : Prop := Memory.wf s.mem = true ∧ ∀ c ∈ s.pending, c.wf = true

/-- A state from which the next step goes on. -/
def State.Goes (s : State) : Prop := ∃ t, step s = .next t

/-- A run of n steps that no fault and no refusal ends. -/
def State.SafeRun (s : State) (n : Nat) : Prop := ∃ t, Host.Core.run Sys2Proof.core n s = .next t

/-- A queue of commands, run to its end from a state: the state reached, when no step stops. -/
def State.play (s : State) (cs : List Instr) : Host.Outcome State Fault Refusal :=
  Host.Core.run Sys2Proof.core cs.length { s with pending := cs }

end Sys2Proof.Machine
end

