-- ==== Sys2Proof/Certificates/Slice0/Obligations.lean ====
section
/-! DEFINITION. The statements for the provers: what the block does by the rules of spec/, family by family. Each docstring
names the rules. Shared conditions are named once, before the statements that use them. -/

open Sys2Proof Sys2Proof.Machine

/-! ## The machine -/

/-- A step takes the command at the front of the queue and runs it with the queue's rest. -/
def Obligations.StepRunsTheFrontCommand : Prop :=
  ∀ (s : State) (c : Instr) (rest : List Instr), step { s with pending := c :: rest } = exec c { s with pending := rest }

/-- Nothing that has arrived is held, and nothing waits to be sent. -/
abbrev Sys2Proof.Machine.Quiet (s : State) : Prop :=
  s.fab.held = [] ∧ s.fab.jobs = [] ∧ s.fab.sendq = [] ∧ s.fab.cohWait = []

/-- On an empty queue a step is one CLK_A cycle (log entry 2). While the package does not work, nothing is held, waits to be sent or is being read from afar, and no tile store was written in the cycle, a cycle moves the
clocks and nothing else but the ticks of throttle reasons; without the reference nothing passes at all. R3: a reference tick passes with every f cycles' worth of 10 ns. -/
def Obligations.IdleStep : Prop :=
  ∀ s : State, s.pending = [] →
    (s.pins.refclk = false → step s = .next s) ∧
    (s.pins.refclk = true → s.working = false → Quiet s → s.tileWrites = [] → ∃ s', step s = .next s' ∧ s'.clk.cycle = s.clk.cycle + 1 ∧
      s'.mem = s.mem ∧ s'.od = s.od ∧ s'.tasks = s.tasks ∧ s'.counters = s.counters ∧ s'.pending = [] ∧
      s'.clk.part + s'.clk.ticks * s.mhz = s.clk.part + s.clk.ticks * s.mhz + 100 ∧
      (s.clk.part < s.mhz → 100 ≤ s.mhz → s'.clk.part < s.mhz))

/-- What holds right after reset: the invariant; nothing waits; the package is not show-ready and carries no traffic, requests no light; every
partition is OFF, every port DARK, every queue at its defaults. -/
def Obligations.ResetState : Prop :=
  State.reset.Inv ∧ State.reset.pending = [] ∧ State.reset.house.deviceState = 0 ∧ State.reset.fabricUp = false ∧
    State.reset.pins.laserReq = 0 ∧ State.reset.pins.pkgReady = false ∧ (∀ p, (State.reset.part p).phase = .off) ∧
    (∀ n, (State.reset.port n).phase = .dark) ∧ ∀ q, State.reset.queue q = {}

/-- Every step keeps the invariant: memory stays in its canonical form and the commands that wait stay well formed, for every command of the table
and for the cycle of an idle block. -/
def Obligations.StepKeepsInvariant : Prop :=
  ∀ s s' : State, s.Inv → step s = .next s' → s'.Inv

/-- No command stops the block: whatever the state, a step answers a next state. Errors are statuses, records, exceptions of a thread, resets and halts in
the state. -/
def Obligations.StepsAlwaysGoOn : Prop := ∀ s : State, ∃ s', step s = .next s'

/-! ## Threads: scalar instructions and exceptions -/

/-- Thread t of s is x, of task k; it may issue now and its fetch is in order (R59, R80, R83). -/
abbrev Sys2Proof.Machine.Issues (s : State) (t : Tid) (x : Thread) (k : Task) : Prop :=
  s.thread? t = some x ∧ s.mayIssue x = true ∧ s.task? x.task = some k ∧ s.fetchExc x k = none

/-- Format S: the fields an opcode does not use are zero and the governing bit holds (R61, R62). -/
abbrev Sys2Proof.Machine.OnS (x : Thread) (f : SOp) (u : SUse) (atomic : Bool := false) : Prop :=
  sOk f u atomic = true ∧ (x.gov f.pred f.pneg).getLsbD 0 = true

/-- Format I: the reserved field is zero and the governing bit holds. -/
abbrev Sys2Proof.Machine.OnI (x : Thread) (f : IOp) : Prop := f.rsv = 0 ∧ (x.gov f.pred f.pneg).getLsbD 0 = true

/-- What the two-operand integer instructions of Table 03-6 put in GD, from GA and GB, in whole numbers. -/
def Sys2Proof.Machine.binaryTable : List ((Tid → SOp → Instr) × (W64 → W64 → W64)) :=
  [(.add, fun a b => BitVec.ofNat 64 (a.toNat + b.toNat)),
   (.sub, fun a b => BitVec.ofInt 64 (a.toNat - b.toNat)),
   (.mul, fun a b => BitVec.ofNat 64 (a.toNat * b.toNat)),
   (.mulhu, fun a b => BitVec.ofNat 64 (a.toNat * b.toNat / 2 ^ 64)),
   (.mulhs, fun a b => BitVec.ofInt 64 (a.toInt * b.toInt / 2 ^ 64)),
   (.divu, fun a b => if b = 0 then BitVec.allOnes 64 else BitVec.ofNat 64 (a.toNat / b.toNat)),
   (.divs, fun a b => if b = 0 then BitVec.allOnes 64 else BitVec.ofInt 64 (a.toInt.tdiv b.toInt)),
   (.remu, fun a b => if b = 0 then a else BitVec.ofNat 64 (a.toNat % b.toNat)),
   (.rems, fun a b => if b = 0 then a else BitVec.ofInt 64 (a.toInt.tmod b.toInt)),
   (.and, fun a b => a &&& b), (.or, fun a b => a ||| b), (.xor, fun a b => a ^^^ b),
   (.shl, fun a b => BitVec.ofNat 64 (a.toNat * 2 ^ (b.toNat % 64))),
   (.shr, fun a b => BitVec.ofNat 64 (a.toNat / 2 ^ (b.toNat % 64))),
   (.sra, fun a b => BitVec.ofInt 64 (a.toInt / 2 ^ (b.toNat % 64))),
   (.mins, fun a b => BitVec.ofInt 64 (min a.toInt b.toInt)),
   (.maxs, fun a b => BitVec.ofInt 64 (max a.toInt b.toInt))]

/-- What the immediate instructions of Table 03-6 put in GD, from GA and the sign-extended IMM. -/
def Sys2Proof.Machine.immTable : List ((Tid → IOp → Instr) × (W64 → W64 → W64)) :=
  [(.addi, fun a b => BitVec.ofNat 64 (a.toNat + b.toNat)), (.andi, fun a b => a &&& b), (.ori, fun a b => a ||| b),
   (.xori, fun a b => a ^^^ b), (.shli, fun a b => BitVec.ofNat 64 (a.toNat * 2 ^ (b.toNat % 64))),
   (.shri, fun a b => BitVec.ofNat 64 (a.toNat / 2 ^ (b.toNat % 64))),
   (.movhi, fun a b => BitVec.ofNat 64 (b.toNat % 2 ^ 32 * 2 ^ 32 + a.toNat % 2 ^ 32))]

/-- The instructions of format S, with the fields each uses and whether it is an atomic. -/
def Sys2Proof.Machine.scalarTable : List ((Tid → SOp → Instr) × SUse × Bool) :=
  (binaryTable.map fun e => (e.1, { gd := true, ga := true, gb := true }, false)) ++
  [(.nop, { gd := false }, false), (.popc, { gd := true, ga := true }, false), (.clz, { gd := true, ga := true }, false),
   (.fadd, { gd := true, ga := true, gb := true }, false), (.fmul, { gd := true, ga := true, gb := true }, false),
   (.ffma, { gd := true, ga := true, gb := true, gc := true }, false), (.fcvtsf, { gd := true, ga := true }, false),
   (.fcvtfs, { gd := true, ga := true }, false),
   (.ldai, { gd := true, ga := true, gb := true, gc := true }, false), (.atadd, { ga := true, gb := true }, true),
   (.atfadd, { gd := true, ga := true, gb := true }, true), (.cas, { gd := true, ga := true, gb := true, gc := true }, true),
   (.flyhint, { ga := true, gb := true }, false), (.fence, { gd := true }, false), (.ffence, { gd := true, ga := true }, false),
   (.inv, { ga := true, gb := true, gc := true }, false), (.bar, { gd := false }, false)]

/-- What an integer instruction leaves as it was: all of the block but the thread, and all of the thread but GD and the PC. -/
def Sys2Proof.Machine.IntFrame (s s' : State) (t : Tid) (x : Thread) (gd : BitVec 6) : Prop :=
  { s' with threads := s.threads } = s ∧ (∀ a, s'.byte a = s.byte a) ∧ (∀ u, u ≠ t → s'.thread? u = s.thread? u) ∧
  ∃ x', s'.thread? t = some x' ∧ x'.pc = x.pc + 8 ∧ (∀ j, j ≠ gd → x'.gr j = x.gr j) ∧ x'.gr 0 = 0 ∧ x'.v = x.v ∧ x'.p = x.p ∧
    x'.fpFlags = x.fpFlags ∧ x'.excCode = x.excCode ∧ x'.excPc = x.excPc ∧ x'.excAddr = x.excAddr ∧
    x'.excStatus = x.excStatus ∧ x'.farAddr = x.farAddr ∧ x'.wait = x.wait

/-- R64: no integer instruction raises an exception: whatever its operands, each answers the state in which GD (p[GD] for CMP) is written and the PC has
moved on. The divisions by zero, and of −2⁶³ by −1, give the values of the rule. -/
def Obligations.IntegerNeverRaises : Prop :=
  ∀ (s : State) (t : Tid) (x : Thread) (k : Task), Issues s t x k →
    (∀ e ∈ binaryTable, ∀ f : SOp, OnS x f { gd := true, ga := true, gb := true } →
      ∃ v, exec (e.1 t f) s = .next (s.setThread t (x.setG f.gd v).step)) ∧
    (∀ e ∈ immTable, ∀ f : IOp, OnI x f → ∃ v, exec (e.1 t f) s = .next (s.setThread t (x.setG f.gd v).step)) ∧
    (∀ f : SOp, OnS x f { gd := true, ga := true } → ∃ v w, exec (.popc t f) s = .next (s.setThread t (x.setG f.gd v).step) ∧
      exec (.clz t f) s = .next (s.setThread t (x.setG f.gd w).step)) ∧
    (∀ f : SOp, OnS x f { gd := true, ga := true, gb := true, gc := true } →
      (fld f.gc 5 3 = 0 → ∃ v, exec (.sel t f) s = .next (s.setThread t (x.setG f.gd v).step)) ∧
      (fld f.gd 5 3 = 0 → f.gc.toNat ≤ 5 → ∃ m, exec (.cmp t f) s = .next (s.setThread t (x.setP (f.gd.setWidth 3) m).step))) ∧
    ∀ f : SOp, OnS x f { gd := true, ga := true, gb := true } →
      (x.gr f.gb = 0 →
        exec (.divu t f) s = .next (s.setThread t (x.setG f.gd 0xFFFFFFFFFFFFFFFF#64).step) ∧
        exec (.divs t f) s = .next (s.setThread t (x.setG f.gd (BitVec.ofInt 64 (-1))).step) ∧
        exec (.remu t f) s = .next (s.setThread t (x.setG f.gd (x.gr f.ga)).step) ∧
        exec (.rems t f) s = .next (s.setThread t (x.setG f.gd (x.gr f.ga)).step)) ∧
      (x.gr f.ga = BitVec.ofInt 64 (-2 ^ 63) → x.gr f.gb = BitVec.ofInt 64 (-1) →
        exec (.divs t f) s = .next (s.setThread t (x.setG f.gd (BitVec.ofInt 64 (-2 ^ 63))).step) ∧
        exec (.rems t f) s = .next (s.setThread t (x.setG f.gd 0).step))

/-- Table 03-6, two operands: GD takes the result, the PC moves on, and nothing else of the state changes. A write to g0 is
discarded (R55).
Table 03-6, one operand, the condition codes, SEL and NOP: POPC counts the set bits; CLZ is the count c with GA below
2^(64 − c) and not below 2^(63 − c), 64 for 0; CMP at codes 0x0 to 0x5 puts the integer condition in all bits of p[GD].
Table 03-6, immediates: IMM is sign-extended to 64 bits; MOVHI puts IMM above the low half of GA.
R65 and Table 03-6: the scalar floating-point instructions act on bits [31:0], round once, zero bits [63:32] of GD and
only ever set FP_FLAGS; CMP at codes 0x6 to 0x8 compares as FP32, FCVTSF and FCVTFS convert. -/
def Obligations.ScalarResults : Prop :=
  (∀ e ∈ binaryTable, ∀ (s : State) (t : Tid) (x : Thread) (k : Task) (f : SOp), Issues s t x k →
     OnS x f { gd := true, ga := true, gb := true } →
     exec (e.1 t f) s = .next (s.setThread t ((x.setG f.gd (e.2 (x.gr f.ga) (x.gr f.gb))).step))) ∧
  (∀ (s : State) (t : Tid) (x : Thread) (k : Task) (f : SOp), Issues s t x k →
     (OnS x f { gd := false } → exec (.nop t f) s = .next (s.setThread t x.step)) ∧
     (OnS x f { gd := true, ga := true } →
       exec (.popc t f) s = .next (s.setThread t
         (x.setG f.gd (BitVec.ofNat 64 ((List.range 64).countP fun i => (x.gr f.ga).getLsbD i))).step) ∧
       ∃ c, exec (.clz t f) s = .next (s.setThread t (x.setG f.gd (BitVec.ofNat 64 c)).step) ∧
         (x.gr f.ga = 0 ∧ c = 64 ∨ c < 64 ∧ 2 ^ (63 - c) ≤ (x.gr f.ga).toNat ∧ (x.gr f.ga).toNat < 2 ^ (64 - c))) ∧
     (OnS x f { gd := true, ga := true, gb := true, gc := true } →
       (fld f.gc 5 3 = 0 → exec (.sel t f) s = .next (s.setThread t
         (x.setG f.gd (if (x.pr (f.gc.setWidth 3)).getLsbD 0 then x.gr f.ga else x.gr f.gb)).step)) ∧
       (fld f.gd 5 3 = 0 → f.gc.toNat ≤ 5 → exec (.cmp t f) s = .next (s.setThread t
         (x.setP (f.gd.setWidth 3) (if (match f.gc.toNat with
             | 0 => decide ((x.gr f.ga).toNat = (x.gr f.gb).toNat) | 1 => decide ((x.gr f.ga).toNat ≠ (x.gr f.gb).toNat)
             | 2 => decide ((x.gr f.ga).toInt < (x.gr f.gb).toInt) | 3 => decide ((x.gr f.gb).toInt ≤ (x.gr f.ga).toInt)
             | 4 => decide ((x.gr f.ga).toNat < (x.gr f.gb).toNat) | _ => decide ((x.gr f.gb).toNat ≤ (x.gr f.ga).toNat))
           then BitVec.allOnes 128 else 0)).step)))) ∧
  (∀ e ∈ immTable, ∀ (s : State) (t : Tid) (x : Thread) (k : Task) (f : IOp), Issues s t x k → OnI x f →
     exec (e.1 t f) s =
       .next (s.setThread t ((x.setG f.gd (e.2 (x.gr f.ga) (BitVec.ofInt 64 f.imm.toInt))).step))) ∧
  (∀ (s : State) (t : Tid) (x : Thread) (k : Task) (f : SOp), Issues s t x k →
     let a := (x.gr f.ga).toNat % 2 ^ 32; let b := (x.gr f.gb).toNat % 2 ^ 32; let c := (x.gr f.gc).toNat % 2 ^ 32
     let put (r : Nat × FpFlags) : State := s.setThread t ((x.setG f.gd (BitVec.ofNat 64 (r.1 % 2 ^ 32))).orFlags r.2).step
     (OnS x f { gd := true, ga := true, gb := true } →
       exec (.fadd t f) s = .next (put (fpAdd .fp32 a b)) ∧ exec (.fmul t f) s = .next (put (fpMul .fp32 a b))) ∧
     (OnS x f { gd := true, ga := true, gb := true, gc := true } → exec (.ffma t f) s = .next (put (fpFma .fp32 a b c))) ∧
     (OnS x f { gd := true, ga := true } →
       exec (.fcvtsf t f) s = .next (put (fpOfInt .fp32 (x.gr f.ga).toInt)) ∧
       ∃ z fl, fpToSInt .fp32 64 a = (z, fl) ∧
         exec (.fcvtfs t f) s = .next (s.setThread t ((x.setG f.gd (BitVec.ofInt 64 z)).orFlags fl).step)) ∧
     (OnS x f { gd := true, ga := true, gb := true, gc := true } → fld f.gd 5 3 = 0 → f.gc.toNat ∈ [6, 7, 8] →
       ∃ fl, exec (.cmp t f) s = .next (s.setThread t ((x.setP (f.gd.setWidth 3) (if (match f.gc.toNat with
             | 6 => fpLt .fp32 a b | 7 => fpLe .fp32 a b | _ => fpEq .fp32 a b)
           then BitVec.allOnes 128 else 0)).orFlags fl).step)))

/-- R55 and the frame of the integer instructions: besides the issuing thread nothing changes, memory included; in the thread
only GD and the PC change, g0 still reads zero, and no FP_FLAGS bit and no exception register changes. -/
def Obligations.IntegerFrame : Prop :=
  ∀ (s s' : State) (t : Tid) (x : Thread) (k : Task), Issues s t x k → SMap.sorted x.g = true →
    (∀ e ∈ binaryTable, ∀ f : SOp, OnS x f { gd := true, ga := true, gb := true } → exec (e.1 t f) s = .next s' →
      IntFrame s s' t x f.gd) ∧
    (∀ e ∈ immTable, ∀ f : IOp, OnI x f → exec (e.1 t f) s = .next s' → IntFrame s s' t x f.gd) ∧
    (∀ f : SOp, OnS x f { gd := true, ga := true } → exec (.popc t f) s = .next s' → IntFrame s s' t x f.gd) ∧
    (∀ f : SOp, OnS x f { gd := true, ga := true } → exec (.clz t f) s = .next s' → IntFrame s s' t x f.gd)

/-- R58, Table 03-2: RDS reads each listed register; WRS writes FP_FLAGS bits [4:0] and no other register; any other number, and
a WRS to a read-only one, raises EXC_ILLEGAL. -/
def Obligations.SpecialRegisters : Prop :=
  ∀ (s : State) (t : Tid) (x : Thread) (k : Task) (f : IOp), Issues s t x k → OnI x f →
    (f.ga = 0 →
      (∀ e ∈ [(0x00, BitVec.ofNat 64 x.tid), (0x01, BitVec.ofNat 64 (fld k.desc 197 192 + 1)),
          (0x02, BitVec.ofNat 64 t.core.val), (0x03, BitVec.ofNat 64 t.slot.val), (0x04, BitVec.ofNat 64 k.part),
          (0x06, BitVec.ofNat 64 s.clk.cycle), (0x07, (s.part k.part).step), (0x08, BitVec.ofNat 64 k.tsBase),
          (0x09, BitVec.ofNat 64 k.tsSize), (0x0A, if (s.part k.part).scripted then 1 else 0), (0x10, x.excCode),
          (0x11, x.excPc), (0x12, x.excAddr), (0x13, x.excStatus), (0x14, x.farAddr), (0x15, x.fpFlags)],
        f.imm.toNat = e.1 → exec (.rds t f) s = .next (s.setThread t (x.setG f.gd e.2).step)) ∧
      (∀ c, s.fab.coord = some c → f.imm.toNat = 0x05 →
        exec (.rds t f) s = .next (s.setThread t (x.setG f.gd (c.setWidth 64)).step)) ∧
      ((0x0B ≤ f.imm.toNat ∧ f.imm.toNat ≤ 0x0F ∨ 0x16 ≤ f.imm.toNat) →
        exec (.rds t f) s = .next (s.raise t x .illegal 0))) ∧
    (f.gd = 0 →
      (f.imm.toNat = 0x15 → exec (.wrs t f) s =
        .next (s.setThread t ({ x with fpFlags := BitVec.ofNat 64 ((x.gr f.ga).toNat % 2 ^ 5) }).step)) ∧
      (f.imm.toNat ≠ 0x15 → exec (.wrs t f) s = .next (s.raise t x .illegal 0)))

/-- R61, R62: a reserved field that is not zero raises EXC_ILLEGAL whatever the predicate; with every field in order and
the governing bit false the instruction does nothing but move the PC.
R59, R63: a misaligned PC raises EXC_ILLEGAL, a PC outside the code range EXC_ADDRESS, before anything of the instruction is
looked at; a word at the PC whose OPC no table lists raises EXC_ILLEGAL (log entry 16 says what else of the word is looked at). -/
def Obligations.IssueChecks : Prop :=
  (∀ e ∈ scalarTable, ∀ (s : State) (t : Tid) (x : Thread) (k : Task) (f : SOp), Issues s t x k →
     (f.rsv ≠ 0 → exec (e.1 t f) s = .next (s.raise t x .illegal 0)) ∧
     (sOk f e.2.1 e.2.2 = true → (x.gov f.pred f.pneg).getLsbD 0 = false →
       exec (e.1 t f) s = .next (s.setThread t x.step))) ∧
  (∀ e ∈ scalarTable, ∀ (s : State) (t : Tid) (x : Thread) (k : Task) (f : SOp), s.thread? t = some x →
     s.mayIssue x = true → s.task? x.task = some k →
     (x.pc.toNat % 8 ≠ 0 → exec (e.1 t f) s = .next (s.raise t x .illegal 0)) ∧
     (x.pc.toNat % 8 = 0 → (x.pc.toNat < fld k.desc 511 448 ∨ fld k.desc 511 448 + fld k.desc 255 232 * 64 < x.pc.toNat + 8) →
       exec (e.1 t f) s = .next (s.raise t x .address 0)) ∧
     (x.pc.toNat % 8 = 0 → fld k.desc 511 448 ≤ x.pc.toNat → x.pc.toNat + 8 ≤ fld k.desc 511 448 + fld k.desc 255 232 * 64 →
       s.populated x.pc.toNat 8 = true → s.poisoned x.pc.toNat 8 = false →
       (∀ o ∈ opcList, (s.byte (x.pc.toNat + 7)).toNat ≠ o) → exec (e.1 t f) s = .next (s.raise t x .illegal 0)))

/-- R81, Table 03-12: with a handler, an exception of a thread outside it sets the four exception registers, moves the PC to the
handler and changes no g, v or p register and nothing else of the block; inside the handler, or without one, a job-fault class
resets the partition and any other ends the cast with its status. BRK takes EXC_BREAK so. -/
def Obligations.ExceptionTaken : Prop :=
  (∀ (s : State) (t : Tid) (x : Thread) (k : Task) (e : Exc) (a : W64), s.task? x.task = some k →
    (∀ h, x.inHandler = false → dHandler k.desc = some h → s.raise t x e a = s.setThread t { x with
      excCode := e.code, excPc := x.pc, excAddr := a, excStatus := e.status.setWidth 64, wait := .ready,
      pc := BitVec.ofNat 64 h, inHandler := true }) ∧
    ((x.inHandler = true ∨ dHandler k.desc = none) → ∃ y, y.excCode = e.code ∧ y.excPc = x.pc ∧ y.excAddr = a ∧
      y.excStatus = e.status.setWidth 64 ∧ y.g = x.g ∧ y.v = x.v ∧ y.p = x.p ∧
      s.raise t x e a = if e.isJobFault then (s.setThread t y).jobFault k.part else (s.setThread t y).endCast x.task e.status true)) ∧
  (∀ (s : State) (t : Tid) (x : Thread) (k : Task) (f : BOp), Issues s t x k → bOk f false false false = true →
    (x.gov f.pred f.pneg).getLsbD 0 = true → exec (.brk t f) s = .next (s.raise t x .brk 0)) ∧
  [Exc.illegal, .address, .script, .array, .table, .remote 0x11, .data, .brk].map (fun e => (e.code.toNat, e.status.toNat)) =
    [(1, 0), (2, 0x15), (3, 0x16), (4, 0), (5, 0), (6, 0x11), (7, 0x10), (8, 0)]

/-! ## Threads: memory and atomics -/

/-- A local address range a thread of task k may load now: reached and populated (R26, R31), free of uncorrectable errors, with
no wait of R41, R220, R267 or R336, and no control window. -/
abbrev Sys2Proof.Machine.LoadsNow (s : State) (t : Tid) (x : Thread) (k : Task) (a : W64) (n : Nat) : Prop :=
  s.isOwn (gcoord a) = true ∧ s.mayLoad k.part (glocal a) n = true ∧ s.orderWait t a n false = false ∧
  s.homeHeld (some x.task) (glocal a) n = false ∧ windowOf (glocal a) ≠ .control ∧ s.poisonAt (glocal a) n = none

/-- A local address range a thread of task k may store to now: reached, populated and not guarded (R26, R31, R52), declared or
allotted (R25), held by no tray peer (R267), with no wait, and no control window. -/
abbrev Sys2Proof.Machine.StoresNow (s : State) (t : Tid) (x : Thread) (k : Task) (a : W64) (n : Nat) : Prop :=
  s.isOwn (gcoord a) = true ∧ s.mayStore k.part (glocal a) n = true ∧ s.taskWrites k a n = true ∧
  s.orderWait t a n true = false ∧ s.homeHeld (some x.task) (glocal a) n = false ∧ windowOf (glocal a) ≠ .control ∧
  (∀ l ∈ s.fab.directory, overlap (l.1 * 64) 64 (glocal a) n = false)

/-- What a near store of thread x leaves as it was, and that the thread goes on: every register keeps its value. -/
def Sys2Proof.Machine.StoreFrame (s s' : State) (t : Tid) (x : Thread) : Prop :=
  s'.thread? t = some { x.step with wait := .ready } ∧ (∀ u, u ≠ t → s'.thread? u = s.thread? u) ∧
  s'.arrays = s.arrays ∧ s'.fab = s.fab ∧ s'.lines = s.lines ∧ s'.od = s.od ∧ s'.counters = s.counters ∧
  s'.queues = s.queues ∧ s'.pending = s.pending ∧ s'.outbox = s.outbox

/-- Table 03-8: a near LD of 1, 2, 4 or 8 bytes reads memory little-endian and zero-extends; a near LDV reads the 4-byte elements
whose predicate bit holds and keeps the others. Nothing else of the block changes.
Table 03-8 and its frame: a near ST puts the low bytes of GD at the address, a near STV the bytes of the elements whose
predicate bit holds; every other byte of memory, every register and every other thread is unchanged. A release first waits
until the thread has nothing outstanding (R42). -/
def Obligations.NearAccesses : Prop :=
  (∀ (s : State) (t : Tid) (x : Thread) (k : Task) (f : MOp), Issues s t x k → f.rsv = 0 → f.ord.toNat ≤ 1 → f.rlx = false →
     let a := x.gr f.ga + BitVec.ofInt 64 f.off.toInt
     (f.sz.toNat ≤ 3 → (x.gov f.pred f.pneg).getLsbD 0 = true → a.toNat % 2 ^ f.sz.toNat = 0 →
       LoadsNow s t x k a (2 ^ f.sz.toNat) →
       exec (.ld t f) s = .next (s.setThread t
         (x.setG f.gd (BitVec.ofNat 64 (leNat (s.bytes (glocal a) (2 ^ f.sz.toNat))))).step)) ∧
     (f.sz = 4 → f.gd.getLsbD 0 = false → a.toNat % 64 = 0 → LoadsNow s t x k a 512 →
       ∃ w : VReg, exec (.ldv t f) s = .next (s.setThread t (x.setV (f.gd.extractLsb' 1 5) w).step) ∧
         ∀ i < 512, BitVec.ofNat 8 (w.toNat >>> (8 * i)) =
           if (x.gov f.pred f.pneg).getLsbD (i / 4) then s.byte (glocal a + i)
           else BitVec.ofNat 8 ((x.vr (f.gd.extractLsb' 1 5)).toNat >>> (8 * i)))) ∧
  (∀ (s : State) (t : Tid) (x : Thread) (k : Task) (f : MOp), Issues s t x k → Memory.wf s.mem = true → f.rsv = 0 →
     f.ord.toNat ≤ 1 → (f.rlx = true → f.ord = 0) → (f.ord = 1 → s.releaseReady t k (x.gr f.ga + f.off.signExtend 64) true = true) →
     let a := x.gr f.ga + f.off.signExtend 64
     (f.sz.toNat ≤ 3 → (x.gov f.pred f.pneg).getLsbD 0 = true → a.toNat % 2 ^ f.sz.toNat = 0 →
       StoresNow s t x k a (2 ^ f.sz.toNat) →
       ∃ s', exec (.st t f) s = .next s' ∧ StoreFrame s s' t x ∧
         (∀ i < 2 ^ f.sz.toNat, s'.byte (glocal a + i) = BitVec.ofNat 8 ((x.gr f.gd).toNat >>> (8 * i))) ∧
         ∀ b, b < glocal a ∨ glocal a + 2 ^ f.sz.toNat ≤ b → s'.byte b = s.byte b) ∧
     (f.sz = 4 → f.gd.getLsbD 0 = false → a.toNat % 64 = 0 → StoresNow s t x k a 512 →
       ∃ s', exec (.stv t f) s = .next s' ∧ StoreFrame s s' t x ∧
         (∀ i < 512, s'.byte (glocal a + i) = if (x.gov f.pred f.pneg).getLsbD (i / 4)
           then BitVec.ofNat 8 ((x.vr (f.gd.extractLsb' 1 5)).toNat >>> (8 * i)) else s.byte (glocal a + i)) ∧
         ∀ b, b < glocal a ∨ glocal a + 512 ≤ b → s'.byte b = s.byte b))

/-- R33, R26, R31, R52, R25, R68: a load or store that is misaligned, of a range the partition does not reach, and a store to a range
that is guarded or not declared, raises EXC_ADDRESS with the address and performs nothing. -/
def Obligations.AddressRefusals : Prop :=
  ∀ (s : State) (t : Tid) (x : Thread) (k : Task) (f : MOp), Issues s t x k → f.rsv = 0 → f.ord.toNat ≤ 1 → f.rlx = false →
    f.sz.toNat ≤ 3 → (x.gov f.pred f.pneg).getLsbD 0 = true →
    let a := x.gr f.ga + f.off.signExtend 64
    let n := 2 ^ f.sz.toNat
    (a.toNat % n ≠ 0 → exec (.ld t f) s = .next (s.raise t x .address a) ∧ exec (.st t f) s = .next (s.raise t x .address a)) ∧
    (a.toNat % n = 0 → s.isOwn (gcoord a) = true →
      (s.populated (glocal a) n = false ∨ s.reaches k.part (glocal a) n = false →
        exec (.ld t f) s = .next (s.raise t x .address a) ∧ exec (.st t f) s = .next (s.raise t x .address a)) ∧
      (s.guarded (glocal a) n = true ∧ s.mayRewrite k (glocal a) n = false ∨ s.taskWrites k a n = false →
        exec (.st t f) s = .next (s.raise t x .address a)) ∧
      (s.guarded (glocal a) n = true → k.replaying = false → k.encore = false → splitOf k.desc = none →
        exec (.st t f) s = .next (s.raise t x .address a)))

/-- R66 and R39: what LDAI drops. Of the die's far lines, those that share a byte with [GB, GB + GC) rounded outwards to lines; every
one for GC of all ones; none for GC of 0, when the instruction is LD of 8 bytes with ORD 01. No near line and no line of
another die goes.
A near load-acquire with an invalidate: LDAI with its 8 bytes at hand drops its range, loads and goes on (R39, R66). -/
def Obligations.AcquireWithInvalidate : Prop :=
  ((∀ (s : State) (t : Tid) (x : Thread) (f : SOp), s.thread? t = some x → x.gr f.gc = 0 →
     sOk f { gd := true, ga := true, gb := true, gc := true } = true →
     exec (.ldai t f) s = exec (.ld t { pred := f.pred, pneg := f.pneg, gd := f.gd, ga := f.ga, sz := 3, ord := 1 }) s) ∧
   ∀ (s : State) (die line : Nat) (b n : W64) (w : W512), SMap.sorted s.lines = true → line < 2 ^ 58 →
     s.cached? die line = some w →
     (∀ d' ≠ die, (s.acquireDrop die b n).cached? d' line = s.cached? d' line) ∧
     (s.lineFar line = false → (s.acquireDrop die b n).cached? die line = some w) ∧
     (s.lineFar line = true →
       (n = 0 → (s.acquireDrop die b n).cached? die line = some w) ∧
       (n = 0xFFFFFFFFFFFFFFFF#64 → (s.acquireDrop die b n).cached? die line = none) ∧
       (0 < n.toNat → n ≠ 0xFFFFFFFFFFFFFFFF#64 → (s.acquireDrop die b n).cached? die line =
         if b.toNat / 64 ≤ line ∧ line * 64 < b.toNat + n.toNat then none else some w))) ∧
  (∀ (s : State) (t : Tid) (x : Thread) (k : Task) (f : SOp), Issues s t x k →
     OnS x f { gd := true, ga := true, gb := true, gc := true } → (x.gr f.ga).toNat % 8 = 0 → LoadsNow s t x k (x.gr f.ga) 8 →
     exec (.ldai t f) s = .next ((s.acquireDrop (t.core.val / 64) (x.gr f.gb) (x.gr f.gc)).setThread t
       (x.setG f.gd (BitVec.ofNat 64 (leNat (s.bytes (glocal (x.gr f.ga)) 8)))).step))

/-- What each atomic stores from the old value, at 4 or 8 bytes (Table 03-8, R67): ATADD and ATFADD the wrapping sum, CAS the value of
GC where the old value is GB, FPADD32 the FP32 sum. -/
def Sys2Proof.Machine.atomTable : List ((Tid → SOp → Instr) × AtomOp × SUse × (Nat → W64 → W64 → W64 → Nat)) :=
  [(.atadd, .atadd, { ga := true, gb := true }, fun n o b _ => (o.toNat + b.toNat) % 2 ^ (8 * n)),
   (.atfadd, .atfadd, { gd := true, ga := true, gb := true }, fun n o b _ => (o.toNat + b.toNat) % 2 ^ (8 * n)),
   (.cas, .cas, { gd := true, ga := true, gb := true, gc := true },
     fun n o b c => if o.toNat = b.toNat % 2 ^ (8 * n) then c.toNat % 2 ^ (8 * n) else o.toNat),
   (.fpadd32, .fpadd, { gd := true, ga := true, gb := true }, fun _ o b _ => (f32Add (o.setWidth 32) (b.setWidth 32)).toNat)]

/-- R67, Table 03-8: a near atomic reads the old value, stores the new one in the same step, and, but for ATADD, puts the old value,
zero-extended, in GD. Every other byte of memory and every other register is unchanged. The atomic takes a record of the
fabric-operation log (R332).
R53, R80, R82: under SCRIPTED, FPADD32 raises EXC_SCRIPT whatever its address and performs nothing. -/
def Obligations.Atomics : Prop :=
  (∀ e ∈ atomTable, ∀ (s : State) (t : Tid) (x : Thread) (k : Task) (f : SOp), Issues s t x k → Memory.wf s.mem = true →
     OnS x f e.2.2.1 true → (e.2.1 = .fpadd → f.w = false ∧ (s.part k.part).scripted = false) →
     k.atomRec x.tid = none → s.logUsed < 1048576 → (2 ≤ f.ord.toNat → s.releaseReady t k (x.gr f.ga) false = true) →
     let a := x.gr f.ga
     let n := if f.w then 8 else 4
     let old : W64 := BitVec.ofNat 64 (leNat (s.bytes (glocal a) n))
     a.toNat % n = 0 → s.isOwn (gcoord a) = true → s.mayStore k.part (glocal a) n = true → s.orderWait t a n true = false →
     s.homeHeld (some x.task) (glocal a) n = false → windowOf (glocal a) ≠ .control → s.poisonAt (glocal a) n = none →
     (∀ l ∈ s.fab.directory, overlap (l.1 * 64) 64 (glocal a) n = false) →
     ∃ s' x', exec (e.1 t f) s = .next s' ∧ s'.thread? t = some x' ∧ x'.pc = x.pc + 8 ∧
       leNat (s'.bytes (glocal a) n) = e.2.2.2 n old (x.gr f.gb) (x.gr f.gc) ∧
       (∀ b, b < glocal a ∨ glocal a + n ≤ b → s'.byte b = s.byte b) ∧
       x' = { (if e.2.1 = .atadd then x else x.setG f.gd old).step with wait := .ready } ∧
       (∀ u, u ≠ t → s'.thread? u = s.thread? u) ∧ s'.logUsed = s.logUsed + 1) ∧
  (∀ (s : State) (t : Tid) (x : Thread) (k : Task) (f : SOp), Issues s t x k →
     OnS x f { gd := true, ga := true, gb := true } true → f.w = false → (s.part k.part).scripted = true →
     exec (.fpadd32 t f) s = .next (s.raise t x .script (x.gr f.ga)))

/-! ## Threads: vectors and special functions -/

/-- Format V at a plain ET: unused fields zero, the element type one of FP32, BF16, INT32, INT16, INT8 (R61, Table 03-1). -/
abbrev Sys2Proof.Machine.OnV (f : VOp) (u : VUse) : Prop := vOk f u = true ∧ f.et.toNat ≤ 4

/-- What an elementwise vector instruction leaves of its thread: every other vector register, the general and predicate
registers and the exception record; flags already set stay set. -/
def Sys2Proof.Machine.VecFrame (x x' : Thread) (vd : BitVec 5) : Prop :=
  x'.pc = x.pc + 8 ∧ x'.g = x.g ∧ x'.p = x.p ∧ (∀ j, j ≠ vd → x'.vr j = x.vr j) ∧ x'.fpFlags &&& x.fpFlags = x.fpFlags ∧
  x'.excCode = x.excCode ∧ x'.excPc = x.excPc ∧ x'.excAddr = x.excAddr ∧ x'.excStatus = x.excStatus ∧ x'.farAddr = x.farAddr ∧
  x'.wait = x.wait

/-- An arithmetic element: the FP operation at FP32 and BF16, the wrapping signed operation at the integer types. -/
def Sys2Proof.Machine.arithElem (et : BitVec 3) (fop : Fmt → Nat → Nat → Nat) (iop : Int → Int → Int) (a b : Nat) : Nat :=
  if et = 0 then fop .fp32 a b % 2 ^ 32 else if et = 1 then fop .bf16 a b % 2 ^ 16
  else (BitVec.ofInt (etWidth et) (iop (BitVec.ofNat (etWidth et) a).toInt (BitVec.ofNat (etWidth et) b).toInt)).toNat

/-- Two-operand elementwise instructions (Table 03-9): whether every plain ET or the integer types alone are legal, and the
element result. -/
def Sys2Proof.Machine.vecTable : List ((Tid → VOp → Instr) × Bool × (BitVec 3 → Nat → Nat → Nat)) :=
  [(.vadd, true, fun et => arithElem et (fun m a b => (fpAdd m a b).1) (· + ·)),
   (.vsub, true, fun et => arithElem et (fun m a b => (fpSub m a b).1) (· - ·)),
   (.vmul, true, fun et => arithElem et (fun m a b => (fpMul m a b).1) (· * ·)),
   (.vmax, true, fun et => arithElem et fpMax max), (.vmin, true, fun et => arithElem et fpMin min),
   (.vand, false, fun _ a b => a &&& b), (.vor, false, fun _ a b => a ||| b), (.vxor, false, fun _ a b => a ^^^ b),
   (.vshl, false, fun et a b => a * 2 ^ (b % etWidth et) % 2 ^ etWidth et),
   (.vshr, false, fun et a b =>
     (BitVec.ofInt (etWidth et) ((BitVec.ofNat (etWidth et) a).toInt / 2 ^ (b % etWidth et))).toNat)]

/-- Table 03-9, R57, R62: each governed element of VD is the operation of the elements of VA and VB, each other one keeps its old
value; a bitwise or shift operation at FP32 or BF16 is illegal. -/
def Obligations.VectorElementwise : Prop :=
  ∀ e ∈ vecTable, ∀ (s : State) (t : Tid) (x : Thread) (k : Task) (f : VOp), Issues s t x k → SMap.sorted x.v = true →
    OnV f { vd := true, va := true, vb := true } →
    let w := etWidth f.et
    ((e.2.1 = true ∨ 2 ≤ f.et.toNat) → ∃ x', exec (e.1 t f) s = .next (s.setThread t x') ∧ VecFrame x x' f.vd ∧
      ∀ i < 4096 / w, velem w (x'.vr f.vd) i =
        if (x.gov f.pred f.pneg).getLsbD (i * w / 32) then e.2.2 f.et (velem w (x.vr f.va) i) (velem w (x.vr f.vb) i)
        else velem w (x.vr f.vd) i) ∧
    (e.2.1 = false → f.et.toNat ≤ 1 → exec (e.1 t f) s = .next (s.raise t x .illegal 0))

/-- Table 03-9: VFMA rounds once (integers wrap), VSEL chooses by p[PD], VBCAST and VINS write low bits of g[GS], VPERM picks the
element of VA that the VB element names mod n; ungoverned elements stay. -/
def Obligations.VectorMoves : Prop :=
  ∀ (s : State) (t : Tid) (x : Thread) (k : Task) (f : VOp), Issues s t x k → SMap.sorted x.v = true → f.et.toNat ≤ 4 →
    let w := etWidth f.et
    let a := fun i => velem w (x.vr f.va) i; let b := fun i => velem w (x.vr f.vb) i; let c := fun i => velem w (x.vr f.vc) i
    let writes (i : Instr) (r : Nat → Nat) : Prop := ∃ x', exec i s = .next (s.setThread t x') ∧ VecFrame x x' f.vd ∧
      ∀ n < 4096 / w, velem w (x'.vr f.vd) n =
        if (x.gov f.pred f.pneg).getLsbD (n * w / 32) then r n else velem w (x.vr f.vd) n
    (vOk f { vd := true, va := true, vb := true, vc := true } = true → writes (.vfma t f) fun n =>
      if f.et = 0 then (fpFma .fp32 (a n) (b n) (c n)).1 % 2 ^ 32 else if f.et = 1 then (fpFma .bf16 (a n) (b n) (c n)).1 % 2 ^ 16
      else (a n * b n + c n) % 2 ^ w) ∧
    (vOk f { vd := true, va := true, vb := true, pd := true } = true → writes (.vsel t f) fun n =>
      if (x.pr f.pd).getLsbD (n * w / 32) then a n else b n) ∧
    (vOk f { vd := true, gs := true } = true → writes (.vbcast t f) fun _ => (x.gr f.gs).toNat % 2 ^ w) ∧
    (vOk f { vd := true, gs := true, lane := true } = true → f.lane.toNat < 4096 / w → writes (.vins t f) fun n =>
      if n = f.lane.toNat then (x.gr f.gs).toNat % 2 ^ w else velem w (x.vr f.vd) n) ∧
    (vOk f { vd := true, va := true, vb := true } = true → writes (.vperm t f) fun n => a (b n % (4096 / w)))

/-- One node of the summing tree of R70: at level l, element j is the rounded sum of elements 2j and 2j + 1 of the level below. -/
def Sys2Proof.Machine.treeSum (m : Fmt) (xs : Nat → Nat) : Nat → Nat → Nat
  | 0, j => xs j
  | l + 1, j => (fpAdd m (treeSum m xs l (2 * j)) (treeSum m xs l (2 * j + 1))).1

/-- R70, R62: VREDSUM is the pairwise tree of 7 levels at FP32 and 8 at BF16, with −0.0 for ungoverned elements; at an integer type
it wraps; VREDMAX and VREDMIN at an integer type are the signed extremes with the type's least and greatest value for ungoverned
elements. Only g[GS], the PC and FP_FLAGS change.
Table 03-9, R57, R69: VCMP writes one bit per group, set only when the condition holds for all its elements, and keeps the bit
of an ungoverned group; VEXT sign-extends one element; VCVT converts n elements, n of the wider type, and a narrowing one zeroes
the rest of VD. -/
def Obligations.VectorReductionsAndConversions : Prop :=
  (∀ (s : State) (t : Tid) (x : Thread) (k : Task) (f : VOp), Issues s t x k → OnV f { va := true, gs := true } →
     let w := etWidth f.et
     let g := x.gov f.pred f.pneg
     let v := fun i => velem w (x.vr f.va) i
     let z := fun i => (BitVec.ofNat w (v i)).toInt
     let idx := List.range (4096 / w)
     (f.et = 0 → ∃ fl, exec (.vredsum t f) s = .next (s.setThread t ((x.setG f.gs (BitVec.ofNat 64
       (treeSum .fp32 (fun i => if g.getLsbD i then v i else 0x80000000) 7 0))).orFlags fl).step)) ∧
     (f.et = 1 → ∃ fl, exec (.vredsum t f) s = .next (s.setThread t ((x.setG f.gs (BitVec.ofNat 64
       (treeSum .bf16 (fun i => if g.getLsbD (i / 2) then v i else 0x8000) 8 0))).orFlags fl).step)) ∧
     (2 ≤ f.et.toNat →
       exec (.vredsum t f) s = .next (s.setThread t (x.setG f.gs (sext64 w (BitVec.ofInt w
         (idx.map fun i => if g.getLsbD (i * w / 32) then z i else 0).sum).toNat)).step) ∧
       ∃ hi lo : Int, exec (.vredmax t f) s = .next (s.setThread t (x.setG f.gs (BitVec.ofInt 64 hi)).step) ∧
         exec (.vredmin t f) s = .next (s.setThread t (x.setG f.gs (BitVec.ofInt 64 lo)).step) ∧
         (∀ i ∈ idx, g.getLsbD (i * w / 32) = true → lo ≤ z i ∧ z i ≤ hi) ∧
         (hi = -2 ^ (w - 1) ∨ ∃ i ∈ idx, g.getLsbD (i * w / 32) = true ∧ hi = z i) ∧
         (lo = 2 ^ (w - 1) - 1 ∨ ∃ i ∈ idx, g.getLsbD (i * w / 32) = true ∧ lo = z i))) ∧
  (∀ (s : State) (t : Tid) (x : Thread) (k : Task) (f : VOp), Issues s t x k →
     let w := etWidth f.et
     let g := x.gov f.pred f.pneg
     (vOk f { va := true, vb := true, vc := true, pd := true } = true → 2 ≤ f.et.toNat → f.et.toNat ≤ 4 → f.vc.toNat ≤ 5 →
       ∃ p : Pred, exec (.vcmp t f) s = .next (s.setThread t (x.setP f.pd p).step) ∧
         ∀ j < 128, p.getLsbD j = if g.getLsbD j
           then (List.range (32 / w)).all fun i =>
             intCond w f.vc.toNat (velem w (x.vr f.va) (j * (32 / w) + i)) (velem w (x.vr f.vb) (j * (32 / w) + i))
           else (x.pr f.pd).getLsbD j) ∧
     (vOk f { va := true, gs := true, lane := true } = true → f.et.toNat ≤ 4 →
       (f.lane.toNat < 4096 / w → g.getLsbD (f.lane.toNat * w / 32) = true → exec (.vext t f) s = .next (s.setThread t
         (x.setG f.gs (BitVec.ofInt 64 (BitVec.ofNat w (velem w (x.vr f.va) f.lane.toNat)).toInt)).step)) ∧
       (4096 / w ≤ f.lane.toNat → exec (.vext t f) s = .next (s.raise t x .illegal 0))) ∧
     (vOk f { vd := true, va := true, vb := true } = true → f.et ≠ 7 → f.vb.toNat < 7 → SMap.sorted x.v = true →
       let d : BitVec 3 := BitVec.ofNat 3 f.vb.toNat
       let wm := max w (etWidth d)
       ∃ x', exec (.vcvt t f) s = .next (s.setThread t x') ∧ VecFrame x x' f.vd ∧
         ∀ i < 4096 / etWidth d, velem (etWidth d) (x'.vr f.vd) i =
           if 4096 / wm ≤ i then 0
           else if g.getLsbD (i * wm / 32) then (etConvert f.et d (velem w (x.vr f.va) i)).1 % 2 ^ etWidth d
           else velem (etWidth d) (x.vr f.vd) i))

/-- R71, R157, R158: an SFE whose slot holds no table of its partition raises EXC_TABLE; with one it writes the function of each
governed element, keeps the others, counts the evaluations, notes the table for the cast, and sets no flag.
R153, R157: SFLOAD checks its source and waits; its completion reads 4,160 bytes and, when they pass the load check and the slot
is free of another partition's live casts, fills the slot and lets the thread go on; a table that fails the check raises EXC_TABLE and
leaves the slot as it was. -/
def Obligations.SpecialFunctions : Prop :=
  (∀ (s : State) (t : Tid) (x : Thread) (k : Task) (f : VOp), Issues s t x k →
     vOk f { vd := true, va := true, vc := true } = true → f.et.toNat ≤ 1 → SMap.sorted x.v = true →
     let w := etWidth f.et
     let m := if f.et = 0 then Fmt.fp32 else Fmt.bf16
     let tab := SMap.find? f.vc.toNat (s.core t.core.val).tables
     ((∀ e, tab = some e → e.part ≠ k.part) → exec (.sfe t f) s = .next (s.raise t x .table 0)) ∧
     ∀ e, tab = some e → e.part = k.part → ∃ s' x', exec (.sfe t f) s = .next s' ∧ s'.thread? t = some x' ∧ VecFrame x x' f.vd ∧
       x'.fpFlags = x.fpFlags ∧ s'.mem = s.mem ∧
       (∀ i < 4096 / w, velem w (x'.vr f.vd) i = if (x.gov f.pred f.pneg).getLsbD (i * w / 32)
         then (sfElem e.image m (velem w (x.vr f.va) i)).1 % 2 ^ w else velem w (x.vr f.vd) i) ∧
       (∀ k', s'.task? x.task = some k' → SMap.find? f.vc.toNat k'.tables = some e)) ∧
  ((∀ (s : State) (t : Tid) (x : Thread) (k : Task) (f : VOp), Issues s t x k → vOk f { vc := true, gs := true } = true → f.et = 0 →
     (x.gov f.pred f.pneg).getLsbD 0 = true → s.isOwn (gcoord (x.gr f.gs)) = true →
     let a := x.gr f.gs
     (a.toNat % 64 = 0 → s.mayLoad k.part (glocal a) 4160 = true → s.orderWait t a 4160 false = false → ∃ s', exec (.sfload t f) s = .next s' ∧
       s'.thread? t = some { x with wait := .sfload f.vc.toNat a } ∧
       (s'.core t.core.val).loads = (s.core t.core.val).loads ++ [(s.clk.cycle, t.slot.val)]) ∧
     (a.toNat % 64 ≠ 0 ∨ s.mayLoad k.part (glocal a) 4160 = false → exec (.sfload t f) s = .next (s.raise t x .address a))) ∧
   ∀ (s : State) (t : Tid) (x : Thread) (k : Task) (slot : Nat) (a : W64) (bs : List Byte) (st : Byte),
     s.thread? t = some x → x.wait = .sfload slot a → s.task? x.task = some k → s.working = true →
     s.nextLoad t.core.val = some t.slot.val → s.isOwn (gcoord a) = true → s.copying (glocal a) 4160 = false →
     s.replayHeld (some x.task) (s.gkey a) 4160 = false → s.mayLoad k.part (glocal a) 4160 = true →
     s.poisonAt (glocal a) 4160 = none → (∀ o, SMap.find? slot (s.core t.core.val).tables = some o → o.part = k.part) →
     let img : BitVec 33280 := BitVec.ofNat 33280 (leNat (s.bytes (glocal a) 4160))
     ∃ s', exec (.sfloadComplete t bs st) s = .next s' ∧
       (tabCheck img = true → s'.thread? t = some { x with wait := .ready, pc := x.pc + 8 } ∧
         SMap.find? slot (s'.core t.core.val).tables = some { part := k.part, source := a, image := img }) ∧
       (tabCheck img = false → dHandler k.desc ≠ none → x.inHandler = false →
         (s'.core t.core.val).tables = (s.core t.core.val).tables ∧
         ∃ y, s'.thread? t = some y ∧ y.excCode = 5 ∧ y.excAddr = a))

/-! ## Matrix arrays -/

/-- R88 to R93, R106, R87: the front LOAD forms the stationary block its bytes give and counts 256 row cycles outside a rehearsal; the front STREAM, with
no tile late and no error pending, runs to its end and writes nothing outside its output extent; the front RELEASE runs. -/
def Obligations.ArrayRuns : Prop :=
  ∀ (s : State) (a : ArrRef) (c : ArrCmd) (cs : List ArrCmd) (k : Task), s.working = true →
    (s.array (arrKey a)).queue = c :: cs → c.ran = false → s.task? c.task = some k →
    s.poison = [] → Memory.wf s.mem = true → SMap.sorted s.counters = true →
    let mode := recRehearsal (s.layerRec k.part (dLayer k.desc))
    (cmdType c.word = 1 → s.loadHeld c.task c.word = false →
      ∃ s', exec (.load a) s = .next s' ∧ s'.mem = s.mem ∧
        (s'.array (arrKey a)).block = some (s.feed c.word (mode == 2)).1 ∧
        (s'.array (arrKey a)).queue = { c with ran := true, status := 0x00, left := 256 } :: cs ∧
        (mode = 0 → s'.ctr .rowCycles (arrKey a) = s.ctr .rowCycles (arrKey a) + 256)) ∧
    (∀ b, cmdType c.word = 2 → c.encore = false → (s.array (arrKey a)).block = some b → b.cols = c.cols →
      (s.core a.core.val).unready = [] → ∃ s' st n, exec (.stream a) s = .next s' ∧
        (s'.array (arrKey a)).queue = { c with ran := true, status := st, left := n } :: cs ∧
        (∀ m, m < fld c.word 191 128 ∨ (streamOutExt c.word c.cols).1 + (streamOutExt c.word c.cols).2 ≤ m →
          s'.byte m = s.byte m) ∧
        s'.threads = s.threads) ∧
    (cmdType c.word = 3 → ∃ s', exec (.release a) s = .next s' ∧ s'.mem = s.mem ∧ s'.threads = s.threads ∧
      (s'.array (arrKey a)).queue = { c with ran := true, status := 0x00, left := 0 } :: cs)

/-- R72, R73, R87, R104: an ACMD whose command word is aligned, in the cast's range and readable is queued once its checks pass and the
array is free or the cast's own with a place left; it waits at a full or foreign array; it raises EXC_ADDRESS for a bad address and
EXC_ARRAY for a command that fails its checks, and then queues nothing. ASTAT reads the count.
R73: AWAIT returns 0x00 when the cast has had no command of that TAG accepted on the array, the status of the latest one when it
has completed, and else waits for it.
R73, R87, R104: the completion of a run command takes it off the queue, from which on the lead of a LOAD that waited for its output counts, and gives its status in GD to each thread that awaits it; a
RELEASE with no command behind it leaves the array free and without a block. -/
def Obligations.ArrayCommands : Prop :=
  (∀ (s : State) (t : Tid) (x : Thread) (k : Task) (f : AOp), Issues s t x k → (x.gov f.pred f.pneg).getLsbD 0 = true →
     let n := t.core.val * 2 + (if f.arr then 1 else 0)
     let u := s.array n
     let a := (x.gr f.ga).toNat
     (f.rsv = 0 → f.gd = 0 →
       ((a % 64 ≠ 0 ∨ a < k.tsBase ∨ k.tsBase + k.tsSize < a + 64 ∨ 2 ^ 52 ≤ a) →
         exec (.acmd t f) s = .next (s.raise t x .address (x.gr f.ga))) ∧
       (a % 64 = 0 → k.tsBase ≤ a → a + 64 ≤ k.tsBase + k.tsSize → a < 2 ^ 52 →
         s.orderWait t (BitVec.ofNat 64 (0xFFF * 2 ^ 52 + a)) 64 false = false →
         ((u.owner.any (· != x.task) = true ∨ 8 ≤ u.queue.length) →
           exec (.acmd t f) s = .next (s.setThread t { x with wait := .acmd n })) ∧
         (u.owner.any (· != x.task) = false → u.queue.length < 8 → s.replayHeld (some x.task) (lkey a) 64 = false →
           s.poisoned a 64 = false →
           (s.cmdOk k n (s.word512 a) = false → exec (.acmd t f) s = .next (s.raise t x .array 0)) ∧
           (s.cmdOk k n (s.word512 a) = true → ∃ s' c, exec (.acmd t f) s = .next s' ∧ s'.thread? t = some x.step ∧
             (s'.array n).queue = u.queue ++ [c] ∧ c.word = s.word512 a ∧ c.tag = f.tag.toNat ∧ c.task = x.task ∧
             c.seq = u.nextSeq ∧ c.ran = false ∧ (s'.array n).owner = some x.task ∧ s'.mem = s.mem ∧
             ∀ m, m ≠ n → s'.array m = s.array m)))) ∧
     (f.rsv = 0 → f.ga = 0 → f.tag = 0 →
       exec (.astat t f) s = .next (s.setThread t (x.setG f.gd (BitVec.ofNat 64 u.queue.length)).step))) ∧
  (∀ (s : State) (t : Tid) (x : Thread) (k : Task) (f : AOp), Issues s t x k → (x.gov f.pred f.pneg).getLsbD 0 = true →
     f.rsv = 0 → f.ga = 0 →
     let key := (if f.arr then 256 else 0) + f.tag.toNat
     (SMap.find? key k.arrSeq = none → exec (.await t f) s = .next (s.setThread t (x.setG f.gd 0).step)) ∧
     (∀ n st, SMap.find? key k.arrSeq = some n → SMap.find? key k.arrDone = some st →
       exec (.await t f) s = .next (s.setThread t (x.setG f.gd (BitVec.ofNat 64 st.toNat)).step)) ∧
     (∀ n, SMap.find? key k.arrSeq = some n → SMap.find? key k.arrDone = none →
       exec (.await t f) s = .next (s.setThread t
         { x with wait := .await (t.core.val * 2 + (if f.arr then 1 else 0)) n f.gd.toNat }))) ∧
  (∀ (s : State) (a : ArrRef) (c : ArrCmd) (cs : List ArrCmd), (s.array (arrKey a)).queue = c :: cs → c.ran = true →
     ∃ s', exec (.arrayCommandComplete a) s = .next s' ∧
       (s'.array (arrKey a)).queue = cs.map (fun d => if cmdType c.word = 2 ∧ cmdType d.word = 1 ∧
         overlap (loadSrcExt d.word).1 (loadSrcExt d.word).2 (streamOutExt c.word c.cols).1 (streamOutExt c.word c.cols).2 = true then
           { d with lead := some s.clk.cycle } else d) ∧ s'.mem = s.mem ∧
       (cmdType c.word = 3 → cs = [] → (s'.array (arrKey a)).owner = none ∧ (s'.array (arrKey a)).block = none) ∧
       ∀ t x gd, s.thread? t = some x → x.wait = .await (arrKey a) c.seq gd → gd < 64 → SMap.sorted s.threads = true →
         ∃ x', s'.thread? t = some x' ∧ x'.wait = .ready ∧ x'.pc = x.pc + 8 ∧
           (gd ≠ 0 → SMap.sorted x.g = true → x'.gr (BitVec.ofNat 6 gd) = BitVec.ofNat 64 c.status.toNat))

/-- R98: with 1 to 8 planes of which at least one is consumed, a consumed weight is at most 2^(P − 1) ≤ 128 and κ at most 2^6; with
elements of at most 2,040 and block sums of at most 65,280, a block's sum is at most 12,533,760 < 2^24 and eight of them at most
100,270,080 < 2^27, within the 32-bit accumulators. -/
def Obligations.AccumulationBounded : Prop :=
  (∀ (x : TileCol) (pcap i : Nat), 1 ≤ x.c → x.c ≤ x.p → x.p ≤ 8 →
    |x.weight pcap i| ≤ 2 ^ (x.p - 1) ∧ (2 : Int) ^ (x.p - 1) ≤ 128 ∧ 0 ≤ x.kappa pcap ∧ x.kappa pcap ≤ 2 ^ 6) ∧
  ∀ (b : Block) (ws : List Int) (kappa : Int) (t : Nat), (∀ w ∈ ws, |w| ≤ 128) → 0 ≤ kappa → kappa ≤ 2 ^ 6 →
    (∀ i, |SMap.get 0 b.q i| ≤ 2040) → (∀ i, |SMap.get 0 b.sums i| ≤ 65280) →
    (∀ j, |b.sum ws kappa j t| ≤ 12533760) ∧ (12533760 : Int) < 2 ^ 24 ∧
    |((List.range 8).map fun j => b.sum ws kappa j t).sum| ≤ 100270080 ∧ (100270080 : Int) < 2 ^ 27 ∧ (2 : Int) ^ 27 < 2 ^ 31

/-- R97: with every plane consumed, the weight of row i is the two's-complement number whose bit b is bit i of plane b, and no
truncation correction is made; with c of P planes consumed it is that number less its low P − c bits, with half a unit of the
lowest consumed plane as κ. Planes are listed from the top. -/
def Obligations.PlaneWeights : Prop :=
  ∀ (x : TileCol) (i : Nat), 1 ≤ x.c → x.c ≤ x.p → x.planes.length = x.c →
    x.weight 0 i = (List.range x.c).foldl (fun v n =>
      v + (if (x.planes.getD n 0).testBit i then (if n = 0 then -(2 : Int) ^ (x.p - 1) else 2 ^ (x.p - 1 - n)) else 0)) 0 ∧
    x.kappa 0 = (if x.c = x.p then 0 else 2 ^ (x.p - x.c - 1))

/-! ## Threads: control flow, fences and waits -/

/-- R59, R81, R83, Table 03-11: BR and CALL go to PC + 8 × DISP, CALL leaves PC + 8 in GD; JR goes to the register with an own coordinate
cleared; ERET and ERETS leave the handler for EXC_PC and EXC_PC + 8 and are illegal outside one; YIELD skips the next cycle. Nothing
but the thread changes.
R24, R75, R78, R131: END ends its thread; thread 0 leaves its norm report. While another thread of the cast lives the cast goes on; with the last one the cast's slots
are freed and the task's status takes in, under R9, every failed-store status that no FENCE collected. Memory is unchanged. -/
def Obligations.ControlAndEnd : Prop :=
  (∀ (s : State) (t : Tid) (x : Thread) (k : Task) (f : BOp), Issues s t x k → (x.gov f.pred f.pneg).getLsbD 0 = true → f.rsv = 0 →
     let dest := BitVec.ofInt 64 (x.pc.toNat + 8 * f.disp.toInt)
     (f.gd = 0 → f.ga = 0 → exec (.br t f) s = .next (s.setThread t { x with pc := dest })) ∧
     (f.ga = 0 → exec (.call t f) s = .next (s.setThread t { (x.setG f.gd (x.pc + 8)) with pc := dest })) ∧
     (f.gd = 0 → f.disp = 0 →
       ((fld (x.gr f.ga) 63 52 = 0 ∨ s.isOwn (gcoord (x.gr f.ga)) = true) → exec (.jr t f) s =
         .next (s.setThread t { x with pc := BitVec.ofNat 64 ((x.gr f.ga).toNat % 2 ^ 52) })) ∧
       (fld (x.gr f.ga) 63 52 ≠ 0 → s.isOwn (gcoord (x.gr f.ga)) = false →
         exec (.jr t f) s = .next (s.setThread t { x with pc := x.gr f.ga }))) ∧
     (f.gd = 0 → f.ga = 0 → f.disp = 0 →
       (x.inHandler = true →
         exec (.eret t f) s = .next (s.setThread t { x with pc := x.excPc, inHandler := false }) ∧
         exec (.erets t f) s = .next (s.setThread t { x with pc := x.excPc + 8, inHandler := false })) ∧
       (x.inHandler = false →
         exec (.eret t f) s = .next (s.raise t x .illegal 0) ∧ exec (.erets t f) s = .next (s.raise t x .illegal 0)) ∧
       ∃ y, exec (.yield t f) s = .next (s.setThread t y) ∧ y.pc = x.pc + 8 ∧ s.clk.cycle + 1 < y.yieldUntil ∧ y.g = x.g)) ∧
  (∀ (s : State) (t : Tid) (x : Thread) (k : Task) (f : BOp), Issues s t x k → (x.gov f.pred f.pneg).getLsbD 0 = true →
     bOk f false false false = true → SMap.sorted s.threads = true →
     let r := if x.tid = 0 then s.report k (BitVec.ofNat 32 (x.gr 2).toNat) else s
     ((∃ u y, u ≠ t ∧ s.thread? u = some y ∧ y.task = x.task ∧ y.ended = false ∧ y.wait ≠ .bar) →
       exec (.endThread t f) s = .next (r.setThread t { x with ended := true })) ∧
     ((∀ e ∈ s.threads, e.2.task = x.task → e.1 = tidKey t ∨ e.2.ended = true) → ∃ s', exec (.endThread t f) s = .next s' ∧
       s'.mem = s.mem ∧ (∀ e ∈ s'.threads, e.2.task ≠ x.task) ∧
       ∃ k', s'.task? x.task = some k' ∧ k'.status = worst k.status (s.uncollected x.task)))

/-- R44, R45, R78: a FENCE that has nothing to wait for, and the completion of one that waits, put the failed-store status in GD, clear the
record and go on; a FENCE with an outstanding access, an invalidate of its own being served, or an uncommitted task it depends on,
waits.
R42: a release store whose thread still has an access outstanding waits without storing; once nothing is outstanding its
RELEASE_ISSUE stores the bytes and the thread goes on, every other byte unchanged.
Table 03-11, R28, R49: an FFENCE of this package sends nothing and gives 0x00; of another package of the job block, with no other route to it still in use, it sends one
OC2 request and waits for the answer; of a refused coordinate it raises EXC_ADDRESS. An INV of this package is
served at once, only ever drops lines, and the thread goes on. Neither touches memory. -/
def Obligations.FencesAndReleases : Prop :=
  ((∀ (s : State) (t : Tid) (x : Thread) (k : Task) (f : SOp), Issues s t x k → OnS x f { gd := true } →
     (s.outstanding t = [] → s.servesOwn t = false → s.awaitsCommit k = false → exec (.fence t f) s = .next (s.setThread t
       { (x.setG f.gd (BitVec.ofNat 64 x.failStatus.toNat)).step with failStatus := 0, farAddr := 0, wait := .ready })) ∧
     ((s.outstanding t ≠ [] ∨ s.servesOwn t = true ∨ s.awaitsCommit k = true) →
       exec (.fence t f) s = .next (s.setThread t { x with wait := .fence f.gd.toNat }))) ∧
   ∀ (s : State) (t : Tid) (x : Thread) (k : Task) (gd : Nat), s.thread? t = some x → x.wait = .fence gd →
     s.task? x.task = some k → s.working = true →
     (s.outstanding t = [] → s.servesOwn t = false → s.awaitsCommit k = false → exec (.fenceComplete t) s = .next (s.setThread t
       { (x.setG (BitVec.ofNat 6 gd) (BitVec.ofNat 64 x.failStatus.toNat)).step with
         failStatus := 0, farAddr := 0, wait := .ready })) ∧
     (s.outstanding t ≠ [] → exec (.fenceComplete t) s = .next s)) ∧
  (∀ (s : State) (t : Tid) (x : Thread) (k : Task) (a : W64) (d : List Byte), s.thread? t = some x →
     x.wait = .release (.store [(a, d)]) → s.task? x.task = some k → s.working = true → Memory.wf s.mem = true → d ≠ [] →
     (s.outstanding t ≠ [] → s.isOwn (gcoord a) = true → exec (.releaseIssue t) s = .next s) ∧
     (s.outstanding t = [] → s.servesOwn t = false → s.awaitsCommit k = false → a.toNat + d.length < 2 ^ 64 →
       StoresNow s t x k a d.length →
       ∃ s', exec (.releaseIssue t) s = .next s' ∧ StoreFrame s s' t x ∧ (∀ i < d.length, s'.byte (glocal a + i) = d.getD i 0) ∧
         ∀ b, b < glocal a ∨ glocal a + d.length ≤ b → s'.byte b = s.byte b)) ∧
  (∀ (s : State) (t : Tid) (x : Thread) (k : Task) (f : SOp), Issues s t x k →
     (OnS x f { gd := true, ga := true } →
       let c : BitVec 12 := BitVec.ofNat 12 (x.gr f.ga).toNat
       (s.isOwn c = true → s.servesOwn t = false → exec (.ffence t f) s = .next (s.setThread t (x.setG f.gd 0).step)) ∧
       (s.resolve k.part (BitVec.ofNat 64 (c.toNat * 2 ^ 52)) = .refused → ∃ s', exec (.ffence t f) s =
         .next (s'.raise t x .address (x.gr f.ga)) ∧ s' = s.count .fctxRefusals) ∧
       (∀ n, s.resolve k.part (BitVec.ofNat 64 (c.toNat * 2 ^ 52)) = .far c → routeState (s.route c) ≠ 1 →
         s.fab.pend.length < 65536 → s.firstHop (some k.part) c = .port n →
         (∀ q ∈ s.fab.pend, q.req.dst = c → q.moved = false ∧ q.req.port.val = n % 24) → ∃ s' q, exec (.ffence t f) s = .next s' ∧
           s'.fab.pend = s.fab.pend ++ [q] ∧ q.op = 9 ∧ q.req.dst = c ∧ q.req.cls = 2 ∧ q.kind = .fence t f.gd ∧
           s'.outbox = s.outbox ++ [.request 9 q.req] ∧ s'.thread? t = some { x with wait := .far c q.req.seq } ∧ s'.mem = s.mem)) ∧
     (OnS x f { ga := true, gb := true, gc := true } → s.fab.coord = some (BitVec.ofNat 12 (x.gr f.gc).toNat) →
       x.gr f.gc ≠ BitVec.allOnes 64 → s.resolve k.part (x.gr f.ga) ≠ .refused →
       (∀ q ∈ s.outstanding t, q.writes = false) → SMap.sorted s.lines = true →
       ∃ s', exec (.inv t f) s = .next s' ∧ s'.thread? t = some x.step ∧ s'.mem = s.mem ∧
         s'.fab.serving.length = s.fab.serving.length + 1 ∧ s'.servesOwn t = true ∧
         ∀ e ∈ s'.lines, e ∈ s.lines))

/-- R75: a BAR waits while another live thread of the cast has not reached one; when every other live thread waits at a BAR all of
them go on together. Memory is unchanged.
R76: a WAITV of a near flag that matches, or with GC = 0, ends at once: GD holds the value, p7 all ones on a match and all zeros
otherwise; with no match it waits, and WAITV_TIMEOUT then gives the last value read and p7 of all zeros.
R74: FLYHINT changes nothing but the PC and, where the hint has no effect, the partition's count of dropped hints: a range of
another package or outside the partition's tier allocations is counted. -/
def Obligations.BarriersWaitsAndHints : Prop :=
  (∀ (s : State) (t : Tid) (x : Thread) (k : Task) (f : SOp), Issues s t x k → OnS x f { gd := false } →
     ((∃ u y, u ≠ t ∧ s.thread? u = some y ∧ y.task = x.task ∧ y.ended = false ∧ y.wait ≠ .bar) →
       SMap.sorted s.threads = true → exec (.bar t f) s = .next (s.setThread t { x with wait := .bar })) ∧
     ((∀ u y, u ≠ t → s.thread? u = some y → y.task = x.task → y.ended = true ∨ y.wait = .bar) →
       SMap.sorted s.threads = true → (∀ e ∈ s.threads, e.1 < 16384) → ∃ s', exec (.bar t f) s = .next s' ∧ s'.mem = s.mem ∧
       s'.thread? t = some { x with wait := .ready, pc := x.pc + 8 } ∧
       ∀ u y, u ≠ t → s.thread? u = some y → y.task = x.task → y.wait = .bar → y.ended = false →
         s'.thread? u = some { y with wait := .ready, pc := y.pc + 8 })) ∧
  ((∀ (s : State) (t : Tid) (x : Thread) (k : Task) (f : SOp), Issues s t x k →
     OnS x f { gd := true, ga := true, gb := true, gc := true } → (x.gr f.ga).toNat % 8 = 0 → LoadsNow s t x k (x.gr f.ga) 8 →
     let v := BitVec.ofNat 64 (leNat (s.bytes (glocal (x.gr f.ga)) 8))
     (v = x.gr f.gb ∨ x.gr f.gc = 0 → ∃ s', exec (.waitv t f) s = .next s' ∧ s'.thread? t =
         some { (((x.setG f.gd v).setP 7 (if v = x.gr f.gb then BitVec.allOnes 128 else 0)).step) with wait := .ready } ∧
         s'.mem = s.mem) ∧
     (v ≠ x.gr f.gb → x.gr f.gc ≠ 0 → ∃ s', exec (.waitv t f) s = .next s' ∧ s'.mem = s.mem ∧ s'.thread? t =
       some { x with wait := .waitv f.gd.toNat (x.gr f.ga) (x.gr f.gb) v true false })) ∧
   ∀ (s : State) (t : Tid) (x : Thread) (gd : Nat) (a e v : W64) (once : Bool), s.thread? t = some x →
     x.wait = .waitv gd a e v true once → s.working = true → s.polling t = false →
     exec (.waitvTimeout t) s = .next (s.setThread t
       { (((x.setG (BitVec.ofNat 6 gd) v).setP 7 0).step) with wait := .ready })) ∧
  (∀ (s : State) (t : Tid) (x : Thread) (k : Task) (f : SOp), Issues s t x k → OnS x f { ga := true, gb := true } →
     ∃ s', exec (.flyhint t f) s = .next s' ∧ (s' = s.setThread t x.step ∨ s' = (s.setThread t x.step).count .droppedHints k.part) ∧
       (x.gr f.gb ≠ 0 → (s.isOwn (gcoord (x.gr f.ga)) = false ∨ s.inAllocs k.part (glocal (x.gr f.ga)) (x.gr f.gb).toNat = false) →
         s' = (s.setThread t x.step).count .droppedHints k.part))

/-! ## Queues -/

/-- Queue q reads w now as its next entry, under acceptance number k, leaving s1; its partition is ACTIVE and nothing makes the
entry wait (R280, R281, R288). -/
abbrev Sys2Proof.Machine.Takes (s : State) (q : QRef) (e : W512) (s1 : State) (k : Nat) (w : W512) : Prop :=
  s.heldOf (qCode q) (qPart q) = none ∧ s.mayAccept (qCode q) = true ∧ (s.part (qPart q)).phase = .active ∧
  ∃ x, s.accept (qCode q) (qPart q) e = (s1, some (k, x)) ∧ x.word = w ∧ s.entryWaits k x = false

/-- The entry of number k is complete with a status and a result. -/
abbrev Sys2Proof.Machine.Done (s : State) (k : Nat) (st : Byte) (v : W64) : Prop :=
  ∃ x, SMap.find? k s.entries = some x ∧ x.done = some (st, v)

/-- The commands that read a queue's next entry, with the classes of Table 11-1 each stands for. -/
def Sys2Proof.Machine.entryTable : List ((QRef → W512 → Instr) × List Nat) :=
  [(.taskEntry, [0x60, 0x61, 0x62, 0x63, 0x64]), (.stepBegin, [0x70]), (.reqOpen, [0x71]), (.reqTokens, [0x72]),
   (.reqPause, [0x73]), (.reqResume, [0x74]), (.reqClose, [0x75]), (.pool, [0x41]), (.ctxAlloc, [0x42]), (.ctxRelease, [0x43]),
   (.publish, [0x44]), (.map, [0x45]), (.unpublish, [0x46]), (.ctxQuery, [0x47]), (.alloc, [0x20]), (.free, [0x21]),
   (.objRegister, [0x22]), (.objRetire, [0x23]), (.fill, [0x24]), (.keyLoad, [0x25]), (.keyDrop, [0x26]), (.cueLoad, [0x27]),
   (.cueSelect, [0x28]), (.cueUnload, [0x29])]

/-- R280, R281, R288, R307: reading an entry moves SQ_HEAD by one round the ring, gives the entry the next acceptance number and
its place in the queue, and takes its word from the host or from a local ring; a queue that is not running, or has no entry ready,
reads none; an OFF partition's entry completes with DENIED; one of a partition in RESET is accepted and held.
R280, R281: an entry of a class that Table 11-1 does not list, read by a running queue of an ACTIVE partition, completes with
DENIED. R287, R288: a task entry becomes a task of step STEP plus the STEP_BEGINs accepted before it whose boundaries have not fallen, held ones included; a STEP_BEGIN with its
reserved bits zero waits for its boundary, the boundaries falling in acceptance order, with one set it completes with DENIED. -/
def Obligations.Entries : Prop :=
  (∀ e ∈ entryTable, ∀ (s s1 : State) (q : QRef) (w0 : W512) (k : Nat) (x : Entry), s.heldOf (qCode q) (qPart q) = none →
     (s.mayAccept (qCode q) = false → exec (e.1 q w0) s = .next s) ∧
     (s.mayAccept (qCode q) = true → s.accept (qCode q) (qPart q) w0 = (s1, some (k, x)) →
       (k = s.nextNo ∧ s1.nextNo = s.nextNo + 1 ∧ x.queue = qCode q ∧ x.part = qPart q ∧ x.submit = (s.queue (qCode q)).submit ∧
         x.word = (if s.qLocal (qCode q) then s.word512 (s.entryAddr (qCode q)) else w0) ∧
         (s1.queue (qCode q)).sqHead = ((s.queue (qCode q)).sqHead + 1) % (s.queue (qCode q)).sqEntries.toNat ∧
         SMap.find? k s1.entries = some x ∧ s1.mem = s.mem) ∧
       (fld x.word 7 0 ∈ e.2 → (s.part (qPart q)).phase = .off →
         ∃ s', exec (e.1 q w0) s = .next s' ∧ Done s' k 0x15 0 ∧ s'.tasks = s.tasks ∧ s'.requests = s.requests ∧
           s'.allocs = s.allocs ∧ s'.ctxs = s.ctxs ∧ s'.mem = s.mem) ∧
       (fld x.word 7 0 ∈ e.2 → (s.part (qPart q)).phase = .reset →
         ∃ s', exec (e.1 q w0) s = .next s' ∧ SMap.find? k s'.entries = some x ∧ x.done = none ∧
           (s'.part (qPart q)).held = (s.part (qPart q)).held ++ [k] ∧ s'.tasks = s.tasks ∧ s'.requests = s.requests ∧
           s'.mem = s.mem))) ∧
  (∀ (s s1 : State) (q : QRef) (e w : W512) (k : Nat), Takes s q e s1 k w →
     (entryKind (fld w 7 0) = .unknown → ∃ s', exec (.unknownEntryClass q e) s = .next s' ∧ Done s' k 0x15 0 ∧ s'.mem = s.mem) ∧
     (0x60 ≤ fld w 7 0 → fld w 7 0 ≤ 0x64 → ∃ s' t, exec (.taskEntry q e) s = .next s' ∧ s'.task? k = some t ∧ t.desc = w ∧
       t.part = qPart q ∧ t.step = (s.part (qPart q)).step.toNat + ((s.part (qPart q)).stepBegins.countP fun j => decide (j < k)) +
         ((s.part (qPart q)).held.filterMap fun j => (SMap.find? j s1.entries).filter fun y =>
           decide (j < k) && y.kind == .stepBegin).countP (fun y => decide (fld y.word 511 8 = 0)) ∧
       t.phase = .waiting ∧ t.dispatched = false ∧ t.status = 0 ∧ (splitOf w = none ∨ dCollect w = false → s'.mem = s.mem) ∧ ∀ j, j ≠ k → s'.task? j = s.task? j) ∧
     (fld w 7 0 = 0x70 → ∃ s', exec (.stepBegin q e) s = .next s' ∧ s'.tasks = s.tasks ∧ s'.mem = s.mem ∧
       (fld w 511 8 = 0 → ((s'.part (qPart q)).stepBegins).Perm (k :: (s.part (qPart q)).stepBegins) ∧
         ((s'.part (qPart q)).stepBegins).Pairwise (· ≤ ·)) ∧
       (fld w 511 8 ≠ 0 → Done s' k 0x15 0 ∧ (s'.part (qPart q)).stepBegins = (s.part (qPart q)).stepBegins)))

/-- R46, R418: the notice of a queue's first accepted entry, once the entry is complete and the ring has room, is the 16 bytes of Table
17-4 at CQ_TAIL; the tail moves on, PHASE inverts at the wrap and the entry leaves. With the ring full, the entry not complete, or
a write of an engine or manager not yet performed, nothing happens. -/
def Obligations.NoticeWritten : Prop :=
  ∀ (s : State) (q : QRef) (k : Nat) (x : Entry), s.firstEntry (qCode q) = some (k, x) →
    let c := qCode q
    let r := s.queue c
    (x.done = none ∨ (∃ h ∈ s.fab.homeStores, h.act = .engine) → exec (.completionNotice q) s = .next s) ∧
    ∀ st v, x.done = some (st, v) → r.discardBelow ≤ k → (∀ h ∈ s.fab.homeStores, h.act ≠ .engine) →
      ((r.cqTail + 1) % r.cqEntries.toNat = r.cqHead → exec (.completionNotice q) s = .next s) ∧
      ((r.cqTail + 1) % r.cqEntries.toNat ≠ r.cqHead → c < 0x8000 → s.inAllocs (codePart c) (r.cqBase.toNat + 16 * r.cqTail) 16 = true →
        s.guarded (r.cqBase.toNat + 16 * r.cqTail) 16 = false → SMap.sorted s.entries = true → Memory.wf s.mem = true → r.status ≠ 3 →
        ∃ s', exec (.completionNotice q) s = .next s' ∧ SMap.find? k s'.entries = none ∧
          s'.bytes (r.cqBase.toNat + 16 * r.cqTail) 16 = bytesLE 1 (if r.phase then 1 else 0) ++ [st] ++ bytesLE 2 c ++
            bytesLE 4 x.submit ++ bytesLE 8 v.toNat ∧
          (∀ a, a < r.cqBase.toNat + 16 * r.cqTail ∨ r.cqBase.toNat + 16 * r.cqTail + 16 ≤ a → s'.byte a = s.byte a) ∧
          (s'.queue c).cqTail = (r.cqTail + 1) % r.cqEntries.toNat ∧
          (s'.queue c).phase = (if (r.cqTail + 1) % r.cqEntries.toNat = 0 then !r.phase else r.phase)) ∧
      ((r.cqTail + 1) % r.cqEntries.toNat ≠ r.cqHead → 0x8000 ≤ c → bit r.ringCfg 1 = false →
        ∃ s', exec (.completionNotice q) s = .next s' ∧ s'.mem = s.mem ∧
          Out.hostWrite (BitVec.ofNat 64 (r.cqBase.toNat + 16 * r.cqTail)) (bytesLE 1 (if r.phase then 1 else 0) ++ [st] ++
            bytesLE 2 c ++ bytesLE 4 x.submit ++ bytesLE 8 v.toNat) ∈ s'.outbox)

/-- R281, R416, R417: doorbells. A tail within the ring that claims no more entries than it has room for is taken; one outside it is
ignored and counted; the same for CQ_HEAD and the entries written. A write of 1 to QRESET is kept until the reset completes, which
returns every register to its default.
R416, R419, R281: ring registers take a write only while ENABLE is 0; ENABLE set on a disabled, empty queue starts it at position 0
with PHASE 1 when its rings pass the check and puts it in error with CAUSE 1 when not; ENABLE cleared disables it, or drains it
while it holds notices; a failed ring access puts it in error; a completed reset returns every register to its default. -/
def Obligations.QueuesAndDoorbells : Prop :=
  (∀ (s : State) (p : Fin 128) (n : Fin 8) (v : W64),
     let q := QRef.dev p n
     let c := p.val * 128 + n.val
     let x := s.queue c
     s.queueUp q = true → s.qStatus c = 1 → s.standinQueue c = false →
     (x.sqEntries.toNat ≤ v.toNat → exec (.sqTail q v) s = .next (s.count .doorbellErrors c)) ∧
     (v.toNat < x.sqEntries.toNat →
       (x.sqTail + x.sqEntries.toNat - x.sqHead) % x.sqEntries.toNat + (v.toNat + x.sqEntries.toNat - x.sqTail) % x.sqEntries.toNat <
         x.sqEntries.toNat →
       x.sqBase.toNat % 4096 = 0 → s.ringOk p.val x.sqBase (64 * x.sqEntries.toNat) = true →
       s.ringOk p.val x.cqBase (16 * x.cqEntries.toNat) = true →
       exec (.sqTail q v) s = .next (s.setQueue c { x with sqTail := v.toNat })) ∧
     (x.cqEntries.toNat ≤ v.toNat → exec (.cqHead q v) s = .next (s.count .doorbellErrors c)) ∧
     (v.toNat < x.cqEntries.toNat →
       (v.toNat + x.cqEntries.toNat - x.cqHead) % x.cqEntries.toNat ≤ (x.cqTail + x.cqEntries.toNat - x.cqHead) % x.cqEntries.toNat →
       exec (.cqHead q v) s = .next (s.setQueue c { x with cqHead := v.toNat })) ∧
     (exec (.qreset q v) s = .next (if v = 1 then s.setQueue c { x with resetWanted := true } else s))) ∧
  (∀ (s : State) (p : Fin 128) (n : Fin 32) (v : W64),
     let q := QRef.host p n
     let c := 0x8000 + p.val * 128 + n.val
     let x := s.queue c
     s.queueUp q = true →
     (bit x.ringCfg 0 = true → ∀ r ∈ [RingReg.sqBase, .sqEntries, .cqBase, .cqEntries], exec (.queueRingWrite q r v) s = .next s) ∧
     (bit x.ringCfg 0 = false → exec (.queueRingWrite q .sqBase v) s = .next (s.setQueue c { x with sqBase := v }) ∧
       exec (.queueRingWrite q .cqBase v) s = .next (s.setQueue c { x with cqBase := v })) ∧
     (bit x.ringCfg 0 = false → x.status = 0 → s.qHolds c = false → bit v 1 = false →
       (x.sqBase.toNat % 4096 = 0 → x.cqBase.toNat % 4096 = 0 → ∃ y, exec (.enableSet q v) s = .next (s.setQueue c y) ∧
         y.status = 1 ∧ y.cause = 0 ∧ y.sqHead = 0 ∧ y.sqTail = 0 ∧ y.cqHead = 0 ∧ y.cqTail = 0 ∧ y.phase = true ∧
         bit y.ringCfg 0 = true ∧ y.sqBase = x.sqBase ∧ y.cqBase = x.cqBase) ∧
       (x.sqBase.toNat % 4096 ≠ 0 → ∃ y, exec (.enableSet q v) s = .next (s.setQueue c y) ∧ y.status = 2 ∧ y.cause = 1 ∧
         bit y.ringCfg 0 = false)) ∧
     (bit x.ringCfg 0 = true → x.status = 1 → ∃ y, exec (.enableClear q v) s = .next (s.setQueue c y) ∧
       y.status = (if s.qHolds c then 3 else 0) ∧ bit y.ringCfg 0 = false ∧ y.sqHead = x.sqHead ∧ y.cqTail = x.cqTail) ∧
     (bit x.ringCfg 1 = false → x.status = 1 → ∀ cause, exec (.ringAccessError p n cause) s = .next ((s.setQueue c { x with
       status := 2, discardBelow := s.nextNo,
       cause := match cause with | .translation => 2 | .readError => 3 | .writeError => 4 }).send (.aer (p.val + 1) (.ring cause)))) ∧
     (x.resetWanted = true → s.qBusy c = false → (s.part p.val).phase ≠ .reset → ∃ s', exec (.queueResetComplete q) s = .next s' ∧
       s'.queue c = { discardBelow := s.nextNo } ∧ s'.mem = s.mem ∧ s'.tasks = s.tasks))

/-! ## Stage manager and requests -/

/-- R24, R55 to R57, R290: the dispatch of a ready cast starts its threads in the slots chosen: PC at CODE, g1 the argument word and
every other register zero; the task runs on its core from then on. -/
def Obligations.DispatchStartsCast : Prop :=
  ∀ (s : State) (d : Fin 4) (k : Nat) (t : Task) (rest : List (Nat × Task)) (rs : List Range) (c : Nat), s.working = true →
    let s1 := s.noteAll
    s1.readyOn d.val = (k, t) :: rest → (s1.part t.part).selectRunning = false → (s1.part t.part).dispatchFrom ≤ s1.clk.cycle →
    s1.replayWaits k t = false → s1.checkTask t = some rs → s1.readsHeld k t rs = false → dIsCast t.desc = true →
    s1.placeOn (s1.declare k t rs) = some c → s1.refetch (s1.declare k t rs) c = [] →
    ∃ s' t', exec (.dispatch d) s = .next s' ∧ s'.task? k = some t' ∧ t'.phase = .running ∧ t'.dispatched = true ∧ t'.core = c ∧
      t'.slots = (s1.freeSlots c).take (fld t.desc 197 192 + 1) ∧
      ∀ n sl, t'.slots[n]? = some sl → ∃ x, SMap.find? (c * 64 + sl) s'.threads = some x ∧ x.task = k ∧ x.tid = n ∧
        x.pc = BitVec.ofNat 64 (fld t.desc 511 448) ∧ (∀ i : BitVec 6, x.gr i = if i = 1 then dArg t.desc else 0) ∧
        (∀ i, x.vr i = 0) ∧ (∀ i, i ≠ 0 → x.pr i = 0) ∧ x.fpFlags = 0 ∧ x.excCode = 0

/-- R285, R333: a task whose run has ended becomes complete; a complete task with nothing outstanding that consumes from no
uncommitted task commits: it leaves the prompt book and its entry completes with the R9 choice of its statuses. -/
def Obligations.TaskEnds : Prop :=
  ∀ (s : State) (k : Nat) (t : Task), s.task? k = some t →
    (t.phase = .running → dType t.desc = 0x60 → s.runEnded k t = true → ∃ s' t', exec (.taskComplete k) s = .next s' ∧
      s'.task? k = some t' ∧ t'.phase = .complete ∧ s'.mem = s.mem) ∧
    (t.phase ≠ .running → exec (.taskComplete k) s = .next s) ∧
    (∀ e, s.working = true → s.mayCommit k t = true → SMap.sorted s.tasks = true → dType t.desc = 0x60 → dReq t.desc = none →
      SMap.find? k s.entries = some e → e.done = none → ∃ s', exec (.taskCommit k) s = .next s' ∧ s'.task? k = none ∧
      Done s' k (worst t.status (worst t.gateStatus (if t.replays ≠ 0 then 0x01 else 0x00))) 0 ∧ s'.mem = s.mem ∧
      (∀ g, dSignal t.desc = some g → (SMap.get {} (s'.part t.part).gates g).count =
        min 0xFFFFFFFF ((SMap.get {} (s.part t.part).gates g).count + 1))) ∧
    (s.mayCommit k t = false → exec (.taskCommit k) s = .next s)

/-- R287: a boundary falls once the step's work has committed: STEP moves on (by one where the determinism record presets nothing),
every gate returns to zero, and the STEP_BEGIN that closed the step completes with OK. With work open nothing happens. R289, R307,
R308: a step timeout resets an ACTIVE partition whose step has begun, and the reset completes into the phase of its record. -/
def Obligations.StepsAndResets : Prop :=
  ∀ (s : State) (p : Fin 128), let x := s.part p.val
    (∀ b bs e, x.stepBegins = b :: bs → s.working = true → x.phase = .active → s.stepOpen p.val b = false →
      SMap.find? b s.entries = some e → e.done = none → b ∉ x.selecting → bit (s.detRec p.val) 0 = false → ∃ s', exec (.stepBoundary p) s = .next s' ∧
      (s'.part p.val).step = x.step + 1 ∧ (s'.part p.val).stepBegins = bs ∧ (s'.part p.val).gates = [] ∧ Done s' b 0 0) ∧
    ((∀ b ∈ x.stepBegins.head?, s.stepOpen p.val b = true) → exec (.stepBoundary p) s = .next s) ∧
    (s.working = true → fld (s.partRec p.val) 63 32 ≠ 0 → x.dispatchedAny = true → x.phase = .active →
      ∃ s', exec (.stepTimeout p) s = .next s' ∧ (s'.part p.val).phase = .reset ∧ (∀ e ∈ s'.tasks, e.2.part ≠ p.val) ∧
        (∀ e ∈ s'.entries, e.2.part = p.val → e.2.done ≠ none) ∧ ∀ e ∈ s'.requests, SMap.sorted s.requests = true → e.2.part ≠ p.val) ∧
    (fld (s.partRec p.val) 63 32 = 0 → exec (.stepTimeout p) s = .next s) ∧
    (x.phase = .reset → ∃ s', exec (.partitionResetComplete p) s = .next s' ∧
      (s'.part p.val).phase = if bit (s.partRec p.val) 0 then .active else .off) ∧
    (x.phase ≠ .reset → exec (.partitionResetComplete p) s = .next s)

/-- R294 to R302: REQ_OPEN that passes its checks opens its slot at the present tick with the entry's values; one of a customer whose
bucket is empty completes with BUDGET; REQ_TOKENS adds its count; REQ_PAUSE and REQ_RESUME set and clear the pause of a BACKGROUND
request; REQ_CLOSE writes the record of Table 11-6 at RESULT and frees the slot; an entry that names no open slot of its partition
completes with DENIED. A bucket is refilled by RATE up to DEPTH. -/
def Obligations.RequestEntries : Prop :=
  (∀ (s s1 : State) (q : QRef) (e w : W512) (k : Nat), Takes s q e s1 k w →
    let slot := fld w 255 244
    (fld w 7 0 = 0x71 → s1.reqOpenCheck (qPart q) w = none → ∃ s' r, exec (.reqOpen q e) s = .next s' ∧
      SMap.find? slot s'.requests = some r ∧ r.part = qPart q ∧ r.ctx.toNat = fld w 511 448 ∧ r.result.toNat = fld w 447 384 ∧
      r.budgetUs = fld w 383 352 ∧ r.customer = fld w 243 232 ∧ r.cls = fld w 231 230 ∧ r.tokens = 0 ∧ r.opened = s.clk.ticks ∧
      Done s' k 0 0) ∧
    (fld w 7 0 = 0x71 → ∀ st, s1.reqOpenCheck (qPart q) w = some st → ∃ s', exec (.reqOpen q e) s = .next s' ∧ Done s' k st 0 ∧
      s'.requests = s.requests) ∧
    (∀ r, SMap.find? slot s1.requests = some r → r.part = qPart q →
      (fld w 7 0 = 0x72 → fld w 511 256 = 0 → fld w 243 240 = 0 → fld w 223 8 = 0 → fld w 239 224 ≠ 0 →
        ∃ s' r', exec (.reqTokens q e) s = .next s' ∧ SMap.find? slot s'.requests = some r' ∧ r'.tokens = r.tokens + fld w 239 224 ∧
          Done s' k 0 0 ∧ s'.mem = s.mem) ∧
      (fld w 511 256 = 0 → fld w 243 8 = 0 →
        (fld w 7 0 = 0x73 → r.cls = 1 → ∃ s', exec (.reqPause q e) s = .next s' ∧ Done s' k 0 0 ∧
          SMap.find? slot s'.requests = some { r with paused := true }) ∧
        (fld w 7 0 = 0x73 → r.cls ≠ 1 → ∃ s', exec (.reqPause q e) s = .next s' ∧ Done s' k 0x15 0 ∧ s'.requests = s.requests) ∧
        (fld w 7 0 = 0x74 → ∃ s', exec (.reqResume q e) s = .next s' ∧ Done s' k 0 0 ∧
          SMap.find? slot s'.requests = some { r with paused := false }) ∧
        (fld w 7 0 = 0x75 → SMap.sorted s.requests = true → Memory.wf s.mem = true → ∃ s', exec (.reqClose q e) s = .next s' ∧
          Done s' k 0 0 ∧ SMap.find? slot s'.requests = none ∧
          s'.byte r.result.toNat = worst (worst r.status 0) (if r.sawEncore then 0x03 else 0) ∧
          ∀ a, a < r.result.toNat ∨ r.result.toNat + 32 ≤ a → s'.byte a = s.byte a))) ∧
    (SMap.find? slot s1.requests = none → ∀ i ∈ [(Instr.reqTokens q e, 0x72), (.reqPause q e, 0x73), (.reqResume q e, 0x74),
        (.reqClose q e, 0x75)], fld w 7 0 = i.2 → ∃ s', exec i.1 s = .next s' ∧ Done s' k 0x15 0 ∧ s'.requests = s.requests)) ∧
  ∀ (s : State) (c : Nat), c < 4096 → SMap.sorted s.customers = true → ∃ s', exec .budgetRefill s = .next s' ∧
    (s.cfgNum 0x4000 1 (32 * c + 24) 4 ≠ 0 → (s'.customer c).level =
      min ((s.customer c).level + s.cfgNum 0x4000 1 (32 * c + 28) 4) (s.cfgNum 0x4000 1 (32 * c + 24) 4 * 1000000)) ∧
    (s.cfgNum 0x4000 1 (32 * c + 24) 4 = 0 → s'.customer c = s.customer c) ∧ s'.mem = s.mem

/-- R299, R300: with no DEADLINE request open the monitor changes nothing. One that has passed its budget is counted once; one that is not
predicted to, or has switched already, is left alone; one that is predicted to miss switches to its stand-in where the record, the
prediction and the room in the queue allow it, and is counted late where they do not. R304, R305, R84: a victim whose state fits the save area is
switched out: its threads leave the core and are kept with the task, and of memory only the save area may change; when that completes it is switched out, and a resume puts
every saved thread back and lets it run. -/
def Obligations.MonitorAndPreemption : Prop :=
  (∀ s : State, s.working = false ∨ (∀ e ∈ s.requests, e.2.cls ≠ 2) → exec .callMonitorTick s = .next s) ∧
  (∀ (s : State) (slot : Nat) (r : Request), s.working = true → s.requests = [(slot, r)] → r.cls = 2 →
    let el := s.clk.ticks - r.opened
    let late := decide (100 * r.budgetUs < el) && !r.missCounted
    let r1 : Request := { r with missCounted := r.missCounted || late }
    let d := s.standinRec r.part r.standin
    let P := el + ceilDiv (10 * (r.estTotal - r.cEst) * 2000) s.mhz
    let PS := el + ceilDiv (10 * fld d 52 37 * 2000) s.mhz
    let q := s.queue (r.part * 128 + fld d 55 53)
    let can := bit d 0 = true ∧ PS < P ∧ q.sqBase ≠ 0 ∧
      fld d 63 56 ≤ q.sqEntries.toNat - 1 - (q.sqTail + q.sqEntries.toNat - q.sqHead) % q.sqEntries.toNat
    (r.switched = true ∨ P ≤ 100 * r.budgetUs → ∃ s', exec .callMonitorTick s = .next s' ∧ SMap.find? slot s'.requests = some r1 ∧
      s'.tasks = s.tasks ∧ s'.mem = s.mem ∧
      (SMap.sorted s.counters = true → s'.ctr .deadlineMisses = s.ctr .deadlineMisses + (if late then 1 else 0))) ∧
    (r.switched = false → 100 * r.budgetUs < P → can → s.isScripted r.part = false → ∃ s' r', exec .callMonitorTick s = .next s' ∧
      SMap.find? slot s'.requests = some r' ∧ r'.state = 3 ∧ r'.switched = true ∧ r'.estTotal = fld d 52 37 ∧ r'.cEst = 0) ∧
    (r.switched = false → 100 * r.budgetUs < P → ¬ can ∨ s.isScripted r.part = true → r.lateCounted = false → ∃ s',
      exec .callMonitorTick s = .next s' ∧ SMap.find? slot s'.requests = some { r1 with lateCounted := true } ∧ s'.tasks = s.tasks ∧
      s'.mem = s.mem ∧ (SMap.sorted s.counters = true → s'.ctr .lateNoSwitch r.part = s.ctr .lateNoSwitch r.part + 1)) ∧
    (r.switched = false → 100 * r.budgetUs < P → ¬ can ∨ s.isScripted r.part = true → r.lateCounted = true → ∃ s',
      exec .callMonitorTick s = .next s' ∧ SMap.find? slot s'.requests = some r1 ∧ s'.tasks = s.tasks ∧ s'.mem = s.mem)) ∧
  ∀ (s : State) (k : Nat) (t : Task), s.task? k = some t → s.working = true →
    ((s.tasks.any fun e => s.wantsSwitch e.2 && s.victimOf e.2 == some k) = true → s.saveBytes k t ≤ s.saveFree t.part →
      ∃ s' t', exec (.switchOut k) s = .next s' ∧ s'.task? k = some t' ∧ t'.phase = .switchingOut ∧
        (∀ e ∈ s'.threads, e.2.task ≠ k) ∧ t'.saved = s.threadsOf k ∧
        (Memory.wf s.mem = true → ∀ a, a < fld (s.partRec t.part) 255 192 ∨
          fld (s.partRec t.part) 255 192 + fld (s.partRec t.part) 191 160 * 0x200000 ≤ a → s'.byte a = s.byte a)) ∧
    (t.phase = .switchingOut → exec (.switchOutComplete k) s =
      .next (s.setTask k { t with phase := .switchedOut, readyAt := some s.clk.cycle })) ∧
    (t.phase ≠ .switchingOut → exec (.switchOutComplete k) s = .next s) ∧
    (s.mayResume k t = true → SMap.sorted t.saved = true → s.poison = [] → ∃ s' t', exec (.castResume k) s = .next s' ∧ s'.task? k = some t' ∧
      t'.phase = .running ∧ ∀ e ∈ t.saved, SMap.find? e.1 s'.threads = some e.2)

/-- R132 to R135, R138, R238: a verdict that is due is formed once: the layer's reports are judged; under a logging action, or with no
flag, nothing else than the accounts of the norm watch changes. A reservation whose ranges nothing holds and whose extensions can be read is placed and sends
every cast task of the layer back to run as an encore. -/
def Obligations.NormVerdicts : Prop :=
  ∀ (s : State) (p : Fin 128) (l : Fin 1024) (g : Bool), let x := s.part p.val
    let r := SMap.get {} x.reports (reportKey l.val g)
    (s.working = true → x.phase = .active → r.due = true → recAction (s.layerRec p.val l.val) g = 1 → x.encores = [] →
      ∃ s', exec (.normVerdict p l g) s = .next s' ∧ (SMap.get {} (s'.part p.val).reports (reportKey l.val g)).judged = true ∧
        s'.mem = s.mem ∧ s'.tasks = s.tasks ∧ s'.threads = s.threads) ∧
    (r.due = false → exec (.normVerdict p l g) s = .next s) ∧
    (∀ e, SMap.find? l.val x.encores = some e → s.working = true → x.phase = .active → e.placed = false →
      s.kindHeld p.val l.val false = false → s.kindHeld p.val l.val true = false → e.ranges.any (s.rangeHeld p.val l.val) = false →
      (s.layerCasts p.val l.val).any (fun c => c.2.phase != .complete || c.2.replaying) = false → SMap.sorted s.tasks = true →
      s.mergeWaits p.val l.val = none → ∃ s', exec (.encoreReservation p l) s = .next s' ∧
        (∀ c ∈ s.layerCasts p.val l.val, ∃ t, s'.task? c.1 = some t ∧ t.phase = .waiting ∧ t.encore = true) ∧
        ∃ e', SMap.find? l.val (s'.part p.val).encores = some e' ∧ e'.placed = true)

/-! ## Faults, replay and halt -/

/-- The fault log's next record is r, at the present tick, and the index has moved on round the ring of 4,096 (R348). -/
abbrev Sys2Proof.Machine.Logged (s s' : State) (r : FaultRec) : Prop :=
  SMap.find? s.faults.next s'.faults.log = some (s.clk.ticks, r) ∧ s'.faults.next = (s.faults.next + 1) % 4096

/-- R17, R325, R330, R341: a device-fatal fault halts the package at once: a class 4 record with its cause, DEVICE_STATE 3, every port
that is not retired dark, every laser request low, PKG_READY low, and HALT sent on every UP port. From then on no thread of any core
does anything. A corrected link flit is only counted. -/
def Obligations.Halts : Prop :=
  (∀ (s : State), s.house.started = true → s.house.deviceState ≠ 3 →
    ∀ i ∈ [Instr.dieLinkRetryLimit 3 5, .promptBookParityError 1, .lockUp false 2, .lockUp true 9],
    ∃ s' r, exec i s = .next s' ∧ Logged s s' r ∧ r.cls = 4 ∧ s'.house.deviceState = 3 ∧ s'.house.haltCause = r.cause ∧
      s'.pins.laserReq = 0 ∧ s'.pins.pkgReady = false ∧ (∀ e ∈ s'.fab.ports, e.2.phase = .dark ∨ e.2.phase = .retired) ∧
      (∀ e ∈ s.fab.ports, e.2.phase = .up → ∃ q, Out.request 0x0D q ∈ s'.outbox ∧ q.dst = e.2.farCoord) ∧ s'.mem = s.mem) ∧
  (∀ (s : State) (l : Fin 9) (n : Nat), s.house.started = true → s.house.deviceState ≠ 3 → ∃ s', exec (.dieLinkRetryLimit l n) s = .next s' ∧
    s'.house.haltCause = 0x03) ∧
  (∀ (s : State) (die : Fin 4), s.house.started = true → s.house.deviceState ≠ 3 → ∃ s', exec (.promptBookParityError die) s = .next s' ∧
    s'.house.haltCause = 0x02) ∧
  (∀ (s : State) (t : Tid) (f : SOp), s.house.deviceState = 3 → ∀ e ∈ scalarTable, exec (e.1 t f) s = .next s) ∧
  ∀ (s : State) (l : Fin 9), s.house.started = true → s.house.deviceState ≠ 3 →
    exec (.dieLinkFlitError l) s = .next (s.count .corrected)

/-- R17, R325, R330, R348: on a package that has started and is not halted, each of these commands completes, with every operand. A
retried link flit adds one to the corrected faults and changes nothing else. A link past its retry limit, a prompt-book parity error
and a lock-up of a stage manager or of a fly engine each halt the package with a class 4 record of their unit: DEVICE_STATE becomes 3,
memory stands. -/
def Obligations.DeviceFatalFaults : Prop :=
  ∀ (s : State), s.house.started = true → s.house.deviceState ≠ 3 →
    (∀ l : Fin 9, exec (.dieLinkFlitError l) s = .next (s.count .corrected)) ∧
    (∀ (l : Fin 9) (n : Nat), ∃ s' r, exec (.dieLinkRetryLimit l n) s = .next s' ∧ Logged s s' r ∧ r.cls = 4 ∧ r.cause = 0x03 ∧
      r.unitType = 7 ∧ r.unit = l.val ∧ r.detail2 = BitVec.ofNat 64 n ∧ s'.house.deviceState = 3 ∧ s'.house.haltCause = 0x03 ∧
      s'.mem = s.mem ∧ s'.tasks = s.tasks ∧ s'.threads = s.threads) ∧
    (∀ die : Fin 4, ∃ s' r, exec (.promptBookParityError die) s = .next s' ∧ Logged s s' r ∧ r.cls = 4 ∧ r.cause = 0x02 ∧
      r.unitType = 9 ∧ r.unit = die.val ∧ s'.house.deviceState = 3 ∧ s'.house.haltCause = 0x02 ∧ s'.mem = s.mem ∧ s'.tasks = s.tasks) ∧
    (∀ (engine : Bool) (n : Fin 16), (engine = false → n.val < 4) → ∃ s' r, exec (.lockUp engine n) s = .next s' ∧ Logged s s' r ∧
      r.cls = 4 ∧ r.unitType = (if engine then 8 else 9) ∧ r.unit = n.val ∧ s'.house.deviceState = 3 ∧ s'.mem = s.mem ∧
      s'.tasks = s.tasks) ∧
    ∀ n : Fin 16, 4 ≤ n.val → exec (.lockUp false n) s = .next s

/-- R334, R336, R337, R348: a residue failure in a dispatched cast is a class 1 record at its core and starts a replay: every member of
the replay set stops, is marked and waits to run again; where a member cannot run again the ACTIVE partition is reset instead. When
every member has run, the members may commit with OK_REPLAYED counted in their status. Memory is unchanged by the strike.
R326, R327, R328, R220: a site with 17 transients within 10 s is retired and one with fewer is not; a retired core is listed; a lane
copied to its new home is mapped there, leaves the list of copies, and its uncorrectable lines are poisoned. -/
def Obligations.ReplaysAndRetirement : Prop :=
  ((∀ (s : State) (k : Nat) (t : Task) (pc : W64), s.working = true → s.task? k = some t →
     (t.phase = .running ∨ t.phase = .complete) → dIsCast t.desc = true → t.core < 256 →
     let set := s.replaySet t.part [k]
     (set.Nodup → (∀ m ∈ set, ∃ u, s.task? m = some u ∧ s.noReplay u = false) → ∃ s', exec (.checkFailure (.residue k pc)) s = .next s' ∧
       s'.mem = s.mem ∧ (∃ r, Logged s s' r ∧ r.cls = 1 ∧ r.cause = 0x02 ∧ r.unitType = 3 ∧ r.unit = t.core ∧ r.part = t.part ∧
         r.detail2 = pc) ∧
       ∀ m ∈ set, ∃ u u', s.task? m = some u ∧ s'.task? m = some u' ∧ u'.phase = .waiting ∧ u'.replaying = true ∧ u'.rerun = true ∧
         u'.replays = u.replays + 1 ∧ ∀ e ∈ s'.threads, e.2.task ≠ m) ∧
     (4 ≤ t.replays → (s.part t.part).phase = .active → ∃ s', exec (.checkFailure (.residue k pc)) s = .next s' ∧
       (s'.part t.part).phase = .reset)) ∧
   ∀ (s : State) (p : Fin 128), let set := (s.part p.val).replay
     (set ≠ [] → set.Nodup → (∀ k ∈ set, ∃ t, s.task? k = some t ∧ t.phase = .complete) → s.fab.held = [] →
       s.fab.sendq = [] → ∃ s', exec (.replayComplete p) s = .next s' ∧ (s'.part p.val).replay = [] ∧
         ∀ k ∈ set, ∃ t t', s.task? k = some t ∧ s'.task? k = some t' ∧ t'.replaying = false ∧ t'.status = worst t.status 0x01) ∧
     (set = [] → exec (.replayComplete p) s = .next s)) ∧
  ((∀ (s : State) (x : Site), (s.recent x < 17 ∨ s.isRetired x = true) → exec (.sitePermanent x) s = .next s) ∧
   (∀ (s : State) (c : Fin 256), s.house.deviceState = 1 → 17 ≤ s.recent (.core c) → s.isRetired (.core c) = false →
     ∃ s', exec (.sitePermanent (.core c)) s = .next s' ∧ c.val ∈ s'.faults.retiredCores) ∧
   ∀ (s : State) (c : LaneCopy) (lane : Nat) (bad : List Nat), s.house.deviceState = 1 → c.tierD = false → c.lane = lane →
     s.faults.copies = [c] → s.fab.held = [] → s.fab.sendq = [] → (∀ i ∈ bad, i < 65536) →
     ∃ s', exec (.laneCopyComplete false c.region lane bad) s = .next s' ∧ s'.faults.copies = [] ∧ s'.mem = s.mem ∧
       SMap.find? (512 * c.region + lane) s'.faults.lanesH = some (c.chan, c.slot) ∧
       ∀ i ∈ bad, s'.poisoned (s.laneLine false c.region lane i) 64 = true)

/-! ## Memory tiers, objects, keys and cue sheets -/

/-- The fly operations on tables of the package: command, class byte, and the bits of the operand words that must be zero. -/
def Sys2Proof.Machine.flyTable : List ((QRef → W512 → Instr) × Nat × Nat × Nat) :=
  [(.alloc, 0x20, 383, 256), (.free, 0x21, 447, 256), (.objRegister, 0x22, 447, 256), (.objRetire, 0x23, 447, 256),
   (.fill, 0x24, 380, 360), (.keyLoad, 0x25, 383, 256), (.keyDrop, 0x26, 447, 256), (.cueLoad, 0x27, 383, 256),
   (.cueSelect, 0x28, 447, 256), (.cueUnload, 0x29, 447, 256)]

/-- R222 to R225, R227, R230, R231: a fly operation with a reserved bit set completes with DENIED and changes nothing else.
R222: ALLOC of a free, aligned, populated range within the quota records the allocation, outside the rules it completes with DENIED,
over the quota with QUOTA; FREE of an unused allocation of the partition removes it.
R224, R227: OBJ_REGISTER of a descriptor that passes its checks, within the quota, registers it under its OBJECT_ID; OBJ_RETIRE of
an object of the partition that no loaded sheet names removes it; KEY_LOAD of a record whose tag verifies puts its key in the slot, of
one that does not completes with DENIED and counts it; KEY_DROP of a slot no registered object uses removes the key.
R229: a FILL that passes its checks is kept running; one that fails completes with the check's status. The completion of a FILL of
an object that is not sealed, from memory of this package without poison and while no replay or lane copy holds an end, copies its LEN
bytes to the object's part at OFF, ends it with OK, and leaves every other byte; into a range that is not populated, or that refuses
stores, it completes with DENIED and changes no byte; one with no FILL running does nothing. -/
def Obligations.Tiers : Prop :=
  (∀ (s s1 : State) (q : QRef) (e w : W512) (k : Nat), Takes s q e s1 k w →
     (∀ f ∈ flyTable, fld w 7 0 = f.2.1 → (fld w 255 8 ≠ 0 ∨ fld w f.2.2.1 f.2.2.2 ≠ 0) → ∃ s', exec (f.1 q e) s = .next s' ∧
       Done s' k 0x15 0 ∧ s'.mem = s.mem ∧ s'.allocs = s.allocs ∧ s'.objects = s.objects ∧ s'.keys = s.keys ∧ s'.fills = s.fills ∧
       s'.parts = s.parts) ∧
     (fld w 255 8 = 0 →
       let a := fld w 511 448
       let n := fld w 447 384
       let d := decide (baseD ≤ a)
       let fits := a % 0x200000 = 0 ∧ n % 0x200000 = 0 ∧ n ≠ 0 ∧ inTiers a = true ∧ s.populated a n = true ∧ regionH ≤ a ∧
         a + n ≤ s.reservedTop d ∧ ∀ x ∈ s.allocs, overlap x.1 x.2.size a n = false
       let quota := if d then s.usedD (qPart q) + n ≤ s.quotaD (qPart q) else s.usedH (qPart q) + n ≤ s.quotaH (qPart q)
       (fld w 7 0 = 0x20 → fld w 383 256 = 0 →
         (fits → quota → ∃ s', exec (.alloc q e) s = .next s' ∧ Done s' k 0 0 ∧ s'.mem = s.mem ∧
           SMap.find? a s'.allocs = some { size := n, part := qPart q } ∧
           ∀ b, b ≠ a → SMap.find? b s'.allocs = SMap.find? b s.allocs) ∧
         (fits → ¬ quota → ∃ s', exec (.alloc q e) s = .next s' ∧ Done s' k stQuota 0 ∧ s'.allocs = s.allocs ∧
           (SMap.sorted s.counters = true → s'.ctr .quotaRefusals (qPart q) = s.ctr .quotaRefusals (qPart q) + 1)) ∧
         (¬ fits → ∃ s', exec (.alloc q e) s = .next s' ∧ Done s' k 0x15 0 ∧ s'.allocs = s.allocs)) ∧
       (fld w 7 0 = 0x21 → fld w 447 256 = 0 →
         (∀ x, SMap.find? a s.allocs = some x → x.part = qPart q → s.rangeUsed a x.size = false → SMap.sorted s.allocs = true →
           ∃ s', exec (.free q e) s = .next s' ∧ Done s' k 0 0 ∧ SMap.find? a s'.allocs = none ∧ s'.mem = s.mem ∧
             ∀ b, b ≠ a → SMap.find? b s'.allocs = SMap.find? b s.allocs) ∧
         ((∀ x, SMap.find? a s.allocs = some x → x.part ≠ qPart q ∨ s.rangeUsed a x.size = true) →
           ∃ s', exec (.free q e) s = .next s' ∧ Done s' k 0x15 0 ∧ s'.allocs = s.allocs)))) ∧
  (∀ (s s1 : State) (q : QRef) (e w : W512) (k : Nat), Takes s q e s1 k w → fld w 255 8 = 0 →
     let p := qPart q
     let a := fld w 511 448
     let b := fld w 447 384
     (fld w 7 0 = 0x22 → fld w 447 256 = 0 → a < 2 ^ 52 → s.inAllocs p a 64 = true → s.poisoned a 64 = false →
       let o := s.word512 a
       (s.objectOk p o = true → s.objectsOf p < fld (s.quotaRec p) 191 160 → ∃ s', exec (.objRegister q e) s = .next s' ∧
         Done s' k 0 0 ∧ SMap.find? (objId o) s'.objects = some { desc := o, part := p } ∧ s'.mem = s.mem ∧
         ∀ i, i ≠ objId o → SMap.find? i s'.objects = SMap.find? i s.objects) ∧
       (s.objectOk p o = true → fld (s.quotaRec p) 191 160 ≤ s.objectsOf p → ∃ s', exec (.objRegister q e) s = .next s' ∧
         Done s' k stQuota 0 ∧ s'.objects = s.objects) ∧
       (s.objectOk p o = false → ∃ s', exec (.objRegister q e) s = .next s' ∧ Done s' k 0x15 0 ∧ s'.objects = s.objects)) ∧
     (fld w 7 0 = 0x23 → fld w 447 256 = 0 → ∀ o, SMap.find? a s.objects = some o →
       (o.part = p → s.objNamed a = false → SMap.sorted s.objects = true → ∃ s', exec (.objRetire q e) s = .next s' ∧ Done s' k 0 0 ∧
         SMap.find? a s'.objects = none ∧ s'.mem = s.mem) ∧
       ((o.part ≠ p ∨ s.objNamed a = true) → ∃ s', exec (.objRetire q e) s = .next s' ∧ Done s' k 0x15 0 ∧
         s'.objects = s.objects)) ∧
     (fld w 7 0 = 0x25 → fld w 383 256 = 0 → a < 256 → (∀ x, SMap.find? a s.keys = some x → x.part = p) → s.keyUsed a = false →
       b < 2 ^ 52 → s.inAllocs p b 1200 = true → s.keys.countP (fun x => x.2.part == p) < fld (s.quotaRec p) 159 144 →
       s.poisoned b 1200 = false → (∀ i < 56, s.byte (b + i) = 0) →
       ∃ s', exec (.keyLoad q e) s = .next s' ∧ s'.mem = s.mem ∧
         (∀ key, unwrapKey (s.bytes b 1200) = some key → Done s' k 0 0 ∧ ∃ x, SMap.find? a s'.keys = some x ∧ x.part = p ∧
           x.key = key ∧ x.keyId.toNat = numAt (s.bytes b 1200) 56 8) ∧
         (unwrapKey (s.bytes b 1200) = none → Done s' k 0x15 0 ∧ s'.keys = s.keys ∧
           (SMap.sorted s.counters = true → s'.ctr .keyRejects p = s.ctr .keyRejects p + 1))) ∧
     (fld w 7 0 = 0x26 → fld w 447 256 = 0 → ∀ x, SMap.find? a s.keys = some x →
       (x.part = p → s.keyUsed a = false → SMap.sorted s.keys = true → ∃ s', exec (.keyDrop q e) s = .next s' ∧ Done s' k 0 0 ∧
         SMap.find? a s'.keys = none ∧ s'.mem = s.mem) ∧
       ((x.part ≠ p ∨ s.keyUsed a = true) → ∃ s', exec (.keyDrop q e) s = .next s' ∧ Done s' k 0x15 0 ∧ s'.keys = s.keys))) ∧
  ((∀ (s s1 : State) (q : QRef) (e w : W512) (k : Nat), Takes s q e s1 k w → fld w 255 8 = 0 → fld w 380 360 = 0 →
     fld w 7 0 = 0x24 →
     (failing (s1.fillCheck (qPart q) w) = false → ∃ s' x, exec (.fill q e) s = .next s' ∧ SMap.find? k s'.fills = some x ∧ x.word = w ∧
       x.part = qPart q ∧ s'.mem = s.mem) ∧
     (failing (s1.fillCheck (qPart q) w) = true → ∃ s', exec (.fill q e) s = .next s' ∧ Done s' k (s1.fillCheck (qPart q) w) 0 ∧
       s'.fills = s.fills ∧ s'.mem = s.mem)) ∧
   ∀ (s : State) (k : Nat) (b : Arrival),
     (SMap.find? k s.fills = none → exec (.fillComplete k b) s = .next s) ∧
     ∀ e x o a, SMap.find? k s.fills = some e → s.working = true → SMap.find? (fld e.word 511 448) s.objects = some o →
       objSealed o.desc = false → s.fillHere e.part e.word = some a → SMap.sorted s.fills = true → Memory.wf s.mem = true →
       (∀ l ∈ s.poison, overlap (l.1 * 64) 64 a (fld e.word 319 256) = false) → SMap.find? k s.entries = some x → x.done = none →
       let dst := (objBase o.desc (bit e.word 383)).toNat + fld e.word 359 320
       let n := fld e.word 319 256
       (s.homeHeld none dst n = true → ∃ s', exec (.fillComplete k b) s = .next s' ∧ s'.fills = s.fills ∧ s'.mem = s.mem) ∧
       (s.homeHeld none dst n = false → n ≠ 0 → (s.populated dst n = false ∨ s.guarded dst n = true) →
         ∃ s', exec (.fillComplete k b) s = .next s' ∧ Done s' k 0x15 0 ∧ SMap.find? k s'.fills = none ∧ s'.mem = s.mem) ∧
       (s.homeHeld none dst n = false → s.homeHeld none a n = false → (n ≠ 0 → s.populated dst n = true) →
         (n ≠ 0 → s.guarded dst n = false) → (n ≠ 0 → s.populated a n = true) →
         ∃ s', exec (.fillComplete k b) s = .next s' ∧ Done s' k 0 0 ∧ SMap.find? k s'.fills = none ∧
         (∀ i, i < n → s'.byte (dst + i) = s.byte (a + i)) ∧ ∀ j, j < dst ∨ dst + n ≤ j → s'.byte j = s.byte j))

/-- R230, R231: CUE_LOAD of a sheet that passes its checks fills the slot; of one that does not completes with DENIED and counts it.
CUE_SELECT of a loaded slot, in a step that has begun, stays pending; CUE_UNLOAD of a slot neither selected nor pending empties it. When
the selection that took effect is complete, the CUE_SELECTs it covers complete with OK.
R232 to R235: an engine takes an entry of the selected sheet that may start, and no other; a started entry of an object whose bytes
are read whole, and whose tiles all pass, has its bytes at DEST of its core and its units ready and not poisoned. -/
def Obligations.CueSheets : Prop :=
  ((∀ (s s1 : State) (q : QRef) (e w : W512) (k : Nat), Takes s q e s1 k w → fld w 255 8 = 0 →
     let p := qPart q
     let slot := fld w 511 448
     let b := fld w 447 384
     (fld w 7 0 = 0x27 → fld w 383 256 = 0 → slot < 8 → (s.part p).selected ≠ some slot → b < 2 ^ 52 →
       (∀ sh, s1.readSheet p b = some sh → (∀ r ∈ sheetExts sh, s.poisoned r.1 r.2 = false) → ∃ s', exec (.cueLoad q e) s = .next s' ∧
         Done s' k 0 0 ∧ SMap.find? slot (s'.part p).sheets = some sh ∧ s'.mem = s.mem) ∧
       (s1.readSheet p b = none → ∃ s', exec (.cueLoad q e) s = .next s' ∧ Done s' k 0x15 0 ∧ s'.parts = s.parts ∧
         (SMap.sorted s.counters = true → s'.ctr .cueRefused p = s.ctr .cueRefused p + 1))) ∧
     (fld w 7 0 = 0x28 → fld w 447 256 = 0 → slot < 8 → (SMap.find? slot (s.part p).sheets).isSome → (s.part p).dispatchedAny = true →
       ∃ s', exec (.cueSelect q e) s = .next s' ∧ (s'.part p).pendingSel = some slot ∧
         (s'.part p).selecting = (s.part p).selecting ++ [k] ∧ (s'.part p).selected = (s.part p).selected ∧ s'.mem = s.mem) ∧
     (fld w 7 0 = 0x29 → fld w 447 256 = 0 → slot < 8 →
       ((s.part p).selected ≠ some slot → (s.part p).pendingSel ≠ some slot → SMap.sorted (s.part p).sheets = true →
         ∃ s', exec (.cueUnload q e) s = .next s' ∧ Done s' k 0 0 ∧ SMap.find? slot (s'.part p).sheets = none ∧ s'.mem = s.mem) ∧
       (((s.part p).selected = some slot ∨ (s.part p).pendingSel = some slot) → ∃ s', exec (.cueUnload q e) s = .next s' ∧
         Done s' k 0x15 0 ∧ s'.parts = s.parts))) ∧
   ∀ (s : State) (p : Fin 128), let x := s.part p.val
     (x.selectRunning = true → ∃ s', exec (.cueSelectComplete p) s = .next s' ∧ (s'.part p.val).selectRunning = false ∧ s'.mem = s.mem ∧
       ∀ k ∈ x.selecting, k < x.selectLimit → ∀ e, SMap.find? k s.entries = some e → e.done = none → Done s' k 0 0) ∧
     (x.selectRunning = false → exec (.cueSelectComplete p) s = .next s)) ∧
  (∀ (s : State) (p : Fin 128) (i : Nat),
     (s.working = true → s.entryStarts p.val i = true → ∃ s' g, exec (.cueEntryStart p i) s = .next s' ∧
       SMap.find? i (s'.part p.val).entryPhase = some (.started g) ∧ g < 16 ∧ s'.mem = s.mem) ∧
     (s.entryStarts p.val i = false → exec (.cueEntryStart p i) s = .next s) ∧
     ∀ (b : Arrival) (sh : Sheet) (e : CueEntry) (o : Object) (g : Nat) (s1 : State) (f : Fetched) (ts : List (Nat × Nat)),
       s.working = true → s.selSheet p.val = some sh → sh.entries[i]? = some e →
       SMap.find? i (s.part p.val).entryPhase = some (.started g) → SMap.find? (ceObject e.word) s.objects = some o →
       s.fetch (.cue p.val i) p.val g o.desc false (ceSrc e.word) (128 * ceUnits e.word) b = (s1, some f) → failing f.status = false → f.lost = [] →
       walkTiles f.bytes [] (ceTiles e.word) 0 = some ts → (∀ t ∈ ts, tileOk ((f.bytes.drop t.1).take 768) = true) →
       Memory.wf s.mem = true → e.pos ∉ (s.part p.val).committedPos →
       let dst := tileBase (ceCore e.word) + 128 * ceDest e.word
       ∃ s', exec (.cueEntryPlaced p i b) s = .next s' ∧ SMap.find? i (s'.part p.val).entryPhase = some .placed ∧
         (∀ (j : Nat) (y : Byte), f.bytes[j]? = some y → s'.byte (dst + j) = y) ∧
         (∀ j, j < dst ∨ dst + f.bytes.length ≤ j → s'.byte j = s.byte j) ∧
         ∀ u, ceDest e.word ≤ u → u < ceDest e.word + ceUnits e.word →
           u ∉ (s'.core (ceCore e.word)).unready ∧ u ∉ (s'.core (ceCore e.word)).poisonUnits)

/-! ## Contexts, pools and pages -/

/-- R172 to R177, R180, R222: POOL over memory of the partition sets the pool; CTX_ALLOC takes the lowest FREE descriptor for the
partition with LEN zero, the tenure in GEN and its page table cleared, and answers its reference; a reference that fails its checks gives the
check's status; CTX_RELEASE waits until no uncommitted task names the context, then the descriptor is FREE and the entry complete;
CTX_QUERY writes the 64-byte descriptor.
R178, R179: PUBLISH of a whole number of pages under a new handle registers the prefix and answers its length; of a handle that
stands, the length registered; MAP of a handle that is not published answers 0 and counts a miss, and of a prefix that fits an empty
context sets LEN and answers the length; UNPUBLISH removes the handle.
R169, R175, R188: an append whose reference fails its checks only answers; one past the context's pages answers QUOTA and writes
nothing; one that leaves a gap does nothing; the next row of a page that is open writes the scale codes of its value blocks at the page
base, raises the group's count by one and answers OK, and a row appended before in this step is written again at its place, with no
count raised. -/
def Obligations.Contexts : Prop :=
  ((∀ (s s1 : State) (q : QRef) (e w : W512) (k : Nat), Takes s q e s1 k w → let p := qPart q
     (fld w 7 0 = 0x41 → (∀ x, s.pool? p (fld w 511 448) = some x → x.counts = []) → fld w 447 384 < 2 ^ 52 →
       s.inAllocs p (fld w 447 384) (fld w 383 320) = true → ∃ s' x, exec (.pool q e) s = .next s' ∧ Done s' k 0 0 ∧ s'.mem = s.mem ∧
         s'.pool? p (fld w 511 448) = some x ∧ x.base = fld w 447 384 ∧ x.size = fld w 383 320 ∧ x.dblk = fld w 319 304 / 32 ∧
         x.pmax = fld w 303 300 ∧ x.train = bit w 299 ∧ x.counts = []) ∧
     (fld w 7 0 = 0x41 → s.inAllocs p (fld w 447 384) (fld w 383 320) = false → ∃ s', exec (.pool q e) s = .next s' ∧
       Done s' k 0x15 0 ∧ s'.parts = s.parts) ∧
     (let a := fld w 511 448
      let img := s.word512 a
      let t := ctxTableExt img
      fld w 7 0 = 0x42 → a < 2 ^ 52 → s.permits p a 64 = true → s.poisoned a 64 = false → t.1 < 2 ^ 52 →
       s.inAllocs p t.1 t.2 = true → Memory.wf s.mem = true → p < 128 →
       let free := SMap.lowestFree 2097152 (SMap.keep (fun _ d => ctxState d != 0) s.ctxs)
       (∀ i, free = some i → (ctxTrain img = true → ∀ x, s.pool? p (ctxPool img) = some x → x.train = true) →
         s.usedH p + 64 ≤ s.quotaH p → ∃ s' d, exec (.ctxAlloc q e) s = .next s' ∧ Done s' k 0 (s.ctxRef i d) ∧
           SMap.find? i s'.ctxs = some d ∧ ctxState d = 1 ∧ ctxPart d = p ∧ ctxLen d = 0 ∧ ctxGen d / 2 ^ 27 = s.fab.tenure % 16 ∧
           ctxTableExt d = t ∧ ctxPool d = ctxPool img ∧ (∀ j, j ≠ i → SMap.find? j s'.ctxs = SMap.find? j s.ctxs) ∧
           (∀ m, t.1 ≤ m → m < t.1 + t.2 → s'.byte m = 0) ∧ ∀ m, m < t.1 ∨ t.1 + t.2 ≤ m → s'.byte m = s.byte m) ∧
       ((free = none ∨ s.quotaH p < s.usedH p + 64) → ∃ s', exec (.ctxAlloc q e) s = .next s' ∧ Done s' k stQuota 0 ∧
         s'.ctxs = s.ctxs ∧ s'.mem = s.mem)) ∧
     (∀ st, s.refCheck p (wordA w) = .error st → ∀ f ∈ [(Instr.ctxRelease q e, 0x43), (.publish q e, 0x44), (.map q e, 0x45),
       (.ctxQuery q e, 0x47)], fld w 7 0 = f.2 → ∃ s', exec f.1 s = .next s' ∧ Done s' k st 0 ∧ s'.ctxs = s.ctxs ∧ s'.mem = s.mem ∧
         s'.parts = s.parts) ∧
     ∀ i d, s.refCheck p (wordA w) = .ok (i, d) →
       (fld w 7 0 = 0x43 → ∃ s' x, exec (.ctxRelease q e) s = .next s' ∧ SMap.find? i s'.ctxExtra = some x ∧ x.releasing = some k ∧
         s'.ctxs = s.ctxs ∧ s'.mem = s.mem) ∧
       (fld w 7 0 = 0x47 → Memory.wf s.mem = true → let a := fld w 447 384
         (a < 2 ^ 52 → s.mayStore p a 64 = true → ∃ s', exec (.ctxQuery q e) s = .next s' ∧ Done s' k 0 0 ∧
           (∀ j, j < 64 → s'.byte (a + j) = BitVec.ofNat 8 (d.toNat / 256 ^ j)) ∧
           ∀ m, m < a ∨ a + 64 ≤ m → s'.byte m = s.byte m) ∧
         (s.mayStore p a 64 = false → ∃ s', exec (.ctxQuery q e) s = .next s' ∧ Done s' k 0x15 0 ∧ s'.mem = s.mem))) ∧
   ∀ (s : State) (i : Fin 2097152) (k : Nat) (d : W512) (e : Entry), (SMap.get {} s.ctxExtra i.val).releasing = some k →
     SMap.find? i.val s.ctxs = some d →
     (s.ctxNamed i.val d = true → exec (.ctxReleaseComplete i) s = .next s) ∧
     (s.ctxNamed i.val d = false → SMap.find? k s.entries = some e → e.done = none → SMap.sorted s.ctxExtra = true →
       ∃ s' d', exec (.ctxReleaseComplete i) s = .next s' ∧ SMap.find? i.val s'.ctxs = some d' ∧ ctxState d' = 0 ∧ Done s' k 0 0 ∧
         SMap.find? i.val s'.ctxExtra = none ∧ s'.mem = s.mem)) ∧
  (∀ (s s1 : State) (q : QRef) (e w : W512) (k : Nat), Takes s q e s1 k w → let p := qPart q
     let h := fld w 447 384
     (∀ i d, s.refCheck p (wordA w) = .ok (i, d) →
       (fld w 7 0 = 0x44 →
         (∀ x, SMap.find? h (s.part p).handles = some x → ∃ s', exec (.publish q e) s = .next s' ∧
           Done s' k 0 (BitVec.ofNat 64 x.len) ∧ s'.parts = s.parts ∧ s'.mem = s.mem) ∧
         (let len := min (fld w 383 320) (ctxLen d)
          SMap.find? h (s.part p).handles = none → h ≠ 0 → len ≠ 0 → len % 256 = 0 → (s.part p).handles.length < 65536 →
           s.usedH p + 8 * ((ctxHeads d).length * (len / 256)) ≤ s.quotaH p → ∃ s' x, exec (.publish q e) s = .next s' ∧
             Done s' k 0 (BitVec.ofNat 64 len) ∧ SMap.find? h (s'.part p).handles = some x ∧ x.len = len ∧ x.snaps = [] ∧
             s'.ctxs = s.ctxs)) ∧
       (fld w 7 0 = 0x45 →
         (SMap.find? h (s.part p).handles = none → ∃ s', exec (.map q e) s = .next s' ∧ Done s' k 0 0 ∧ s'.ctxs = s.ctxs ∧
           s'.mem = s.mem ∧ (SMap.sorted s.counters = true → s'.ctr .handleMisses p = s.ctr .handleMisses p + 1)) ∧
         (∀ x, SMap.find? h (s.part p).handles = some x → x.fits d = true →
           x.snaps = [] → x.len < 2 ^ 32 → ∃ s' d',
             exec (.map q e) s = .next s' ∧ Done s' k 0 (BitVec.ofNat 64 x.len) ∧ SMap.find? i s'.ctxs = some d' ∧
             ctxLen d' = x.len ∧ fld d' 511 448 = h ∧ ctxState d' = ctxState d ∧ ctxGen d' = ctxGen d))) ∧
     (fld w 7 0 = 0x46 → SMap.sorted (s.part p).handles = true → ∃ s', exec (.unpublish q e) s = .next s' ∧ Done s' k 0 0 ∧
       SMap.find? (fld w 511 448) (s'.part p).handles = none ∧ s'.ctxs = s.ctxs ∧ s'.mem = s.mem)) ∧
  (∀ (s : State) (u : KvWrite), s.working = true → (s.part u.p.val).phase = .active → let p := u.p.val
     (∀ st, s.refCheck p u.ref = .error st → exec (.kvAppend u) s = .next (s.send (.kvDone u.ref st))) ∧
     ∀ i d, s.refCheck p u.ref = .ok (i, d) → ctxState d = 1 → kvFits u d = true → u.node = none →
       let g := groupKey u.layer u.group
       let a := SMap.get 0 (SMap.get {} s.ctxExtra i).appended g
       let pos := ctxLen d + u.row
       (a < u.row → exec (.kvAppend u) s = .next s) ∧
       (u.row ≤ a → ctxPages d * 256 ≤ pos → exec (.kvAppend u) s = .next (s.send (.kvDone u.ref stQuota))) ∧
       (u.row ≤ a → pos < ctxPages d * 256 → (u.row = a → pos % 256 ≠ 0 ∧ pos % 256 ≠ 255) → ctxTrain d = false →
         Memory.wf s.mem = true →
         let base := entryPage (s.pageEntry d u.layer u.group (pos / 256))
         let vb := (encodeBlocks (.int (s.pagePrec p (ctxPool d) base) 0) (recStatic (s.layerRec p u.layer)) u.vals).1
         ∃ s', exec (.kvAppend u) s = .next s' ∧ SMap.get 0 (SMap.get {} s'.ctxExtra i).appended g = max a (u.row + 1) ∧
           s'.outbox.getLast? = some (.kvDone u.ref 0) ∧ s'.threads = s.threads ∧ s'.ctxs = s.ctxs ∧
           ∀ n b, vb[n]? = some b → s'.byte (base + pos % 256 * ctxBlocks d + n) = BitVec.ofNat 8 b.code))

/-! ## Casting calls and collectives -/

/-- A request comes on a port that is UP, to this package's coordinate, next in its order or in none, with nothing held. -/
abbrev Sys2Proof.Machine.Fresh (s : State) (r : FabReq) : Prop :=
  r.checked = none ∧ s.fabricUp = true ∧ (s.port r.port.val).phase = .up ∧ s.fab.coord = some r.dst ∧ s.coolantHeld = false ∧ s.fab.held = [] ∧
  s.fab.homeStores = [] ∧ (s.peer r.src).early = [] ∧
  if r.seq.msb then r.seq.toNat % 2 ^ 31 ∉ (s.peer r.src).seen else r.seq.toNat % 2 ^ 31 = (s.peer r.src).expect % 2 ^ 31

/-- A segment comes as the COLL request of another package's partition, with nothing waiting to be sent. -/
abbrev Sys2Proof.Machine.SegFresh (s : State) (r : FabReq) : Prop :=
  Fresh s r ∧ r.jobId ≠ 0 ∧ s.isOwn r.src = false ∧ s.fab.sendq = []

/-- A package can be reached from a partition: R28 admits it, it is not lost, and a port leads to it. -/
abbrev Sys2Proof.Machine.Reaches (s : State) (p : Nat) (m : BitVec 12) : Prop :=
  s.coordRefused p m = false ∧ routeState (s.route m) ≠ 1 ∧ (s.firstHop (some p) m matches .port _) = true

/-- The segments of a casting call (Table 08-4). -/
def Sys2Proof.Machine.segTable : List (FabReq → Segment → Instr) :=
  [.scoresSegment, .offersSegment, .responsesSegment, .noticesSegment, .countsSegment, .dispatchSegment, .returnSegment, .failSegment]

/-- R198, R206, R207, R208, R263: a segment comes as a COLL request. With the fabric down it has no effect; one whose JOB_ID or sender fails
the receiver's checks is refused, counted; for a partition that is not ACTIVE it changes nothing but its acknowledgement (the model's
choice, log 95). A duplicate is counted, acknowledged and dropped; one that neither a running call nor a posted all-to-all can use is held
unanswered; one of the running call that its map's coordinate did not send is refused; else it is kept with the call, and a FAIL ends the
call with its status, the next bias buffer a copy of the present one. -/
def Obligations.SegmentsArrive : Prop :=
  ∀ f ∈ segTable, ∀ (s : State) (r : FabReq) (g : Segment),
    (s.fabricUp = false ∨ (s.port r.port.val).phase ≠ .up → exec (f r g) s = .next s) ∧
    (SegFresh s r →
      let answered (s' : State) (st : Byte) : Prop := s'.outbox = s.outbox ++ [.response r.src r.seq 0x10 st []]
      (s.contextCheck 0x10 r = none → ∃ s', exec (f r g) s = .next s' ∧ answered s' 0x15 ∧ s'.parts = s.parts ∧ s'.mem = s.mem ∧
        (SMap.sorted s.counters = true → s'.ctr .fctxRefusals = s.ctr .fctxRefusals + 1)) ∧
      ∀ p, s.contextCheck 0x10 r = some p →
        let x := s.part p
        let h := g.hdr
        let phase := fld h 245 243
        (x.phase ≠ .active → ∃ s', exec (f r g) s = .next s' ∧ answered s' 0 ∧ s'.parts = s.parts ∧ s'.mem = s.mem) ∧
        (x.phase = .active → segKey h ∈ x.heardSegs → ∃ s', exec (f r g) s = .next s' ∧ answered s' 0 ∧ s'.parts = s.parts ∧
          s'.mem = s.mem ∧ (SMap.sorted s.counters = true → s'.ctr .dupSegments p = s.ctr .dupSegments p + 1)) ∧
        (x.phase = .active → segKey h ∉ x.heardSegs →
          (if phase = 5 ∨ phase = 6 then ∀ e ∈ x.colls, e.2.rowPhase = none else ∀ c, x.call = some c → c.owns h = false) → ∃ s',
            exec (f r g) s = .next s' ∧ s'.outbox = s.outbox ∧ s'.mem = s.mem ∧ s'.part p = { x with
              heardSegs := segKey h :: x.heardSegs
              heldSegs := x.heldSegs ++ [{ r with checked := some (some p), seg := .cast g }] }) ∧
        ∀ c, x.phase = .active → segKey h ∉ x.heardSegs → x.call = some c → c.owns h = true → phase ≠ 5 → phase ≠ 6 →
          let fits := fld h 238 231 < c.group ∧ s.rankCoord c (fld h 238 231) = r.src
          (¬ fits → ∃ s', exec (f r g) s = .next s' ∧ answered s' 0x15 ∧ s'.parts = s.parts ∧ s'.mem = s.mem) ∧
          (fits → 2 ≤ phase → phase ≠ 7 → c.waits = .counts → ({ c with segs := c.segs ++ [g] } : CastCall).phaseSegs 4 0 = none → ∃ s',
            exec (f r g) s = .next s' ∧ (s'.part p).call = some { c with segs := c.segs ++ [g] } ∧ answered s' 0 ∧ s'.mem = s.mem) ∧
          (fits → phase = 7 → BitVec.ofNat 8 (fld h 222 215) ≠ stReset → Memory.wf s.mem = true → ∃ s', exec (f r g) s = .next s' ∧
            (s'.part p).call = none ∧
            (∀ t, s.task? c.task = some t → ∃ t', s'.task? c.task = some t' ∧
              t'.status = worst t.status (BitVec.ofNat 8 (fld h 222 215))) ∧
            ∀ i, i < 4 * c.experts → s'.byte (c.bias (c.step + 1) + i) = s.byte (c.bias c.step + i)))

/-- R194, R197, R198, R200, R202, R209, R210: a dispatched call whose fields fail is a job fault; one of expert choice that stands sends each
other rank, where it can be reached, the scores of its experts and waits for theirs; the final list of an owned slot, once the call is
settled, is written at its place; the last one ends the call and answers its empty slots; at the time limit the call ends with
DENIED.
R205: the next bias of an expert falls by the rate where its offers
times E exceed the total, rises where they fall short, stands where they are equal, and is cut to the limit,
its sign kept, where its size passes it. -/
def Obligations.CastingAndBias : Prop :=
  ((∀ (s : State) (k : Nat) (t : Task), s.task? k = some t → s.working = true → dType t.desc = 0x63 → t.phase = .running →
     t.handed = false → (s.part t.part).call = none → (∀ e ∈ s.tasks, e.1 < k → e.2.part = t.part → dType e.2.desc = 0x63 →
       e.2.phase = .running → e.2.handed = true) → s.inAllocs t.part (dAux t.desc) 64 = true → (s.part t.part).heldSegs = [] →
     let p := t.part
     let w := s.word512 (dAux t.desc)
     let c : CastCall := { task := k, word := w, cfg := BitVec.ofNat 256 (s.cfgNum 0x270E (p + 1) (32 * fld w 71 62) 32)
                           step := (s.part p).step.toNat, mapCrc := 0, biasCrc := 0, cfgCrc := 0, startTick := s.clk.ticks }
     (s.callFieldsOk c = false → (s.part p).phase = .active → SMap.sorted s.tasks = true → ∃ s', exec (.castingCall k) s = .next s' ∧
       (s'.part p).phase = .reset ∧ s'.task? k = none) ∧
     (s.callFieldsOk c = true → c.mode = 1 → s.inAllocs p (c.bias 0) (2 * castSstr c.experts) = true →
       (∀ e ∈ c.reads ++ c.writes, s.extOk p e = true) → (∀ e ∈ c.writes, s.guarded e.1 e.2 = false) →
       (∀ e ∈ (dAux t.desc, 64) :: c.reads, s.poisonAt e.1 e.2 = none) → s.fab.pend = [] → s.fab.sendq = [] →
       (∀ r < c.group, r ≠ c.rank → Reaches s p (s.rankCoord c r)) →
       (c.group = 1 → ∃ s' t', exec (.castingCall k) s = .next s' ∧ s'.task? k = some t' ∧ t'.handed = true ∧ t'.status = t.status ∧
         s'.outbox = s.outbox) ∧
       (1 < c.group → ∃ s' c', exec (.castingCall k) s = .next s' ∧
         (s'.part p).call = some c' ∧ c'.waits = .scores ∧ c'.task = k ∧ c'.word = w ∧ s'.mem = s.mem ∧
         c'.mapCrc = crc64 (s.bytes c.map (512 + 16 * c.experts)) ∧ c'.cfgCrc = crc64 (bytesLE 32 c.cfg.toNat) ∧
         s'.outbox.length = s.outbox.length + (c.group - 1) ∧
         ∀ r, r < c.group → r ≠ c.rank → ∃ q, Out.request 0x10 q ∈ s'.outbox ∧ q.dst = s.rankCoord c r ∧ q.seg = .cast
           { hdr := c'.header 0 0 r 0 ((s.owned c r).length * c.tokens)
             body := (s.owned c r).flatMap fun x => (List.range c.tokens).flatMap fun l => bytesLE 4 (s.score c l x.2).toNat }))) ∧
   ∀ (s : State) (p : Fin 128), s.working = true →
     ((s.part p.val).call = none → (∀ j, exec (.slotListFinal p j) s = .next s) ∧ exec (.castTimeout p) s = .next s) ∧
     ∀ c, (s.part p.val).call = some c →
       (s.cfgNum 0x270F 0 0 4 = 0 → exec (.castTimeout p) s = .next s) ∧
       (s.cfgNum 0x270F 0 0 4 ≠ 0 → ∃ s', exec (.castTimeout p) s = .next s' ∧ (s'.part p.val).call = none ∧
         ∀ t, s.task? c.task = some t → ∃ t', s'.task? c.task = some t' ∧ t'.status = worst t.status 0x15) ∧
       ∀ (j : Fin 64) (e : Nat), (s.owned c c.rank).find? (fun x => x.1 == j.val) = some (j.val, e) → c.selected = true →
         j.val ∉ c.finalSlots →
         (c.waits ≠ .lists → ∃ s' c', exec (.slotListFinal p j) s = .next s' ∧ (s'.part p.val).call = some c' ∧
           c'.finalSlots = j.val :: c.finalSlots ∧ (c.takenOf j.val = [] → (c.layer, j.val, e) ∈ (s'.part p.val).emptySlots)) ∧
         (c.waits ≠ .lists → c.takenOf j.val ≠ [] → Memory.wf s.mem = true → ∃ s', exec (.slotListFinal p j) s = .next s' ∧
           (∀ (i : Nat) (b : Byte), (c.listBytes j.val)[i]? = some b → s'.byte (c.out + j.val * castOsz c.cap + i) = b) ∧
           ∀ m, m < c.out + j.val * castOsz c.cap ∨ c.out + j.val * castOsz c.cap + (c.listBytes j.val).length ≤ m →
             s'.byte m = s.byte m) ∧
         (∀ t, c.waits = .lists → s.owned c c.rank = [(j.val, e)] → s.task? c.task = some t → dType t.desc = 0x63 → t.phase = .running →
           (c.out + j.val * castOsz c.cap + (c.listBytes j.val).length ≤ c.map ∨
             c.map + 512 + 16 * c.experts ≤ c.out + j.val * castOsz c.cap) → Memory.wf s.mem = true →
           ∃ s' t', exec (.slotListFinal p j) s = .next s' ∧ (s'.part p.val).call = none ∧ s'.task? c.task = some t' ∧
             t'.answer = some (if c.takenOf j.val = [] then [(j.val, e)] else []))) ∧
  (∀ (c : CastCall) (b : W32) (offered total : Nat),
     let rate : W32 := BitVec.ofNat 32 (fld c.cfg 223 192)
     let limit : W32 := BitVec.ofNat 32 (fld c.cfg 191 160)
     let moved := if total < c.experts * offered then f32Sub b rate else if c.experts * offered < total then f32Add b rate else b
     let within := f32Lt limit (moved &&& 0x7FFFFFFF#32) = false
     (within → c.nextBias b offered total = (moved, false)) ∧
     (¬ within → (c.nextBias b offered total).2 = true ∧ (limit.toNat < 2 ^ 31 →
       ((c.nextBias b offered total).1 &&& 0x7FFFFFFF#32) = limit ∧
       (c.nextBias b offered total).1.getLsbD 31 = moved.getLsbD 31)))

/-- R270, R274, R277: a dispatched collective with a bad descriptor is a job fault; an ALL_GATHER that stands sends its COUNT bytes at SRC
to every other participant, where they can be reached, and waits for theirs. A segment comes as a COLL request (R263): before its posting it
is held; after the end it is discarded; one of no participant is refused; one of a failure status ends the collective; the last one of an
ALL_GATHER ends it with its bytes in place. At the time limit one whose participants are not all known to have posted ends with
DENIED. -/
def Obligations.CollectiveRuns : Prop :=
  (∀ (s : State) (k : Nat) (t : Task), s.task? k = some t → s.working = true → dType t.desc = 0x64 → t.phase = .running →
    t.handed = false → s.inAllocs t.part (dAux t.desc) 64 = true → (s.part t.part).heldSegs = [] → let p := t.part
    let d := s.word512 (dAux t.desc)
    let ms := s.collMembers p d
    (collFieldsOk d = false → (s.part p).phase = .active → SMap.sorted s.tasks = true → ∃ s', exec (.collective k) s = .next s' ∧ (s'.part p).phase = .reset ∧
      s'.task? k = none) ∧
    (∀ i, collFieldsOk d = true → cKind d = 3 → bit d 229 = false → ms.findIdx? (fun m => s.isOwn m) = some i → 1 < ms.length →
      s.extOk p (cSrc d, cCount d) = true → s.extOk p (cDst d, ms.length * cCount d) = true →
      s.guarded (cDst d) (ms.length * cCount d) = false → s.poisonAt (dAux t.desc) 64 = none →
      s.poisonAt (cSrc d) (cCount d) = none → (s.part p).earlySegs = [] → s.fab.pend = [] → s.fab.sendq = [] →
      (∀ (j : Nat) (m : BitVec 12), j ≠ i → ms[j]? = some m → s.isOwn m = false ∧ Reaches s p m) →
      ∃ s' c, exec (.collective k) s = .next s' ∧ s'.mem = s.mem ∧ s'.coll? p (cId d).toNat = some c ∧ c.ended = none ∧
        c.index = i ∧ c.n = ms.length ∧ c.segs.length = 1 ∧ s'.outbox.length = s.outbox.length + (ms.length - 1) ∧
        ∀ (j : Nat) (m : BitVec 12), j ≠ i → ms[j]? = some m → ∃ q, Out.request 0x10 q ∈ s'.outbox ∧ q.dst = m ∧ q.seg =
          .coll { collId := cId d, sender := i, stage := 0, pos := i, status := 0, body := s.bytes (cSrc d) (cCount d) })) ∧
  (∀ (s : State) (r : FabReq) (g : CollSegment), s.fabricUp = false ∨ (s.port r.port.val).phase ≠ .up → exec (.coll r g) s = .next s) ∧
  (∀ (s : State) (r : FabReq) (g : CollSegment), SegFresh s r → ∀ p, s.contextCheck 0x10 r = some p → (s.part p).phase = .active →
    let x := s.part p
    let id := g.collId.toNat
    let answered (s' : State) (st : Byte) : Prop := s'.outbox = s.outbox ++ [.response r.src r.seq 0x10 st []]
    (s.coll? p id = none → g.collId ∈ x.doneColls → ∃ s', exec (.coll r g) s = .next s' ∧ answered s' 0 ∧ s'.parts = s.parts ∧
      s'.mem = s.mem ∧ (SMap.sorted s.counters = true → s'.ctr .dupRequests = s.ctr .dupRequests + 1)) ∧
    (s.coll? p id = none → g.collId ∉ x.doneColls → ∃ s', exec (.coll r g) s = .next s' ∧ s'.outbox = s.outbox ∧ s'.mem = s.mem ∧
      s'.part p = { x with earlySegs := x.earlySegs ++ [{ r with checked := some (some p), seg := .coll g }] }) ∧
    ∀ c, s.coll? p id = some c → cId c.desc = g.collId →
      let fits := g.sender < c.n ∧ (s.collMembers p c.desc)[g.sender]? = some r.src
      (¬ fits → ∃ s', exec (.coll r g) s = .next s' ∧ answered s' 0x15 ∧ s'.parts = s.parts ∧ s'.mem = s.mem) ∧
      (fits → c.ended = none → failing g.status = true → ∃ s' c', exec (.coll r g) s = .next s' ∧ s'.coll? p id = some c' ∧
        c'.ended = some g.status ∧ answered s' 0 ∧ s'.mem = s.mem ∧
        ∀ t, s.task? c.task = some t → ∃ t', s'.task? c.task = some t' ∧ t'.status = worst t.status g.status) ∧
      (fits → failing g.status = false → r.src ∈ c.resent → c.segs.any (fun x => x.stage == g.stage && x.pos == g.pos &&
        x.sender == g.sender) = true → ∃ s', exec (.coll r g) s = .next s' ∧ answered s' 0 ∧ s'.parts = s.parts ∧ s'.mem = s.mem ∧
          (SMap.sorted s.counters = true → s'.ctr .dupRequests = s.ctr .dupRequests + 1)) ∧
      (fits → c.ended = none → failing g.status = false → cKind c.desc = 3 → c.wait = [] → (∀ y ∈ c.segs, y.sender ≠ g.sender) →
        c.segs.length + 1 = c.n → Memory.wf s.mem = true → ∃ s' c', exec (.coll r g) s = .next s' ∧
          s'.coll? p id = some c' ∧ c'.ended = some 0 ∧ g.collId ∈ (s'.part p).doneColls ∧ answered s' 0 ∧
          ∀ (i : Nat) (b : Byte), i < cCount c.desc → g.body[i]? = some b →
            s'.byte (cDst c.desc + (g.sender * cCount c.desc + i)) = b)) ∧
  ∀ (s : State) (p : Fin 128), let x := s.part p.val
    (s.working = true → ((∀ e ∈ x.colls, e.2.ended ≠ none ∨ s.allPosted p.val e.2 = true) ∨ s.cfgNum 0x2403 0 0 4 = 0) → exec (.collTimeout p) s = .next s) ∧
    (∀ id c, x.colls = [(id, c)] → c.ended = none → s.allPosted p.val c = false → s.working = true → s.cfgNum 0x2403 0 0 4 ≠ 0 → ∃ s' c',
      exec (.collTimeout p) s = .next s' ∧ s'.coll? p.val id = some c' ∧ c'.ended = some 0x15 ∧ s'.mem = s.mem ∧
      ∀ t, s.task? c.task = some t → ∃ t', s'.task? c.task = some t' ∧ t'.status = worst t.status 0x15)

/-! ## Ports, requests and responses -/

/-- R244 to R248, R268, Table 10-2: an UP port takes the flit it expects, on a channel there is and with the CRC of its bits, its
sequence and credits moving on, sends its unacknowledged flits again where the flit asks for them, and answers any other with NAK,
counting codewords corrected and beyond correction; it retrains on request. The end of a training or retraining whose identity passes
takes the port UP on the common halves, else to HELD, and with no half in common it is retired. A training that times out waits for its
retry; a retraining that does trains afresh, its identity sent. Light starts the training of a dark port; its loss makes the port
dark. -/
def Obligations.PortStates : Prop :=
  ∀ (s : State) (n : Fin 24), let x := s.port n.val
    (∀ (f : Flit) (ok : FlitCheck), let h := f.hdr
      let good := ok ≠ .uncorrectable ∧ fld h 102 100 < 4 ∧ fld h 127 116 = x.rxSeq ∧
        fld h 31 0 = (crc32 (bytesLE 12 (h.toNat / 2 ^ 32) ++ f.payload)).toNat
      let step (c : CtrName) (k : Bool) (s' : State) : Prop := s'.ctr c n.val = s.ctr c n.val + (if k then 1 else 0)
      (x.phase ≠ .up → exec (.flit n f ok) s = .next s) ∧
      (x.phase = .up → SMap.sorted s.counters = true → (¬ good ∨ bit h 103 = false) → ∃ s', exec (.flit n f ok) s = .next s' ∧
        step .cwCorrected (ok matches .corrected _) s' ∧ step .cwUncorrected (ok matches .uncorrectable) s') ∧
      (x.phase = .up → ¬ good → ∃ s', exec (.flit n f ok) s = .next s' ∧ s'.outbox = s.outbox ++ [.nak n.val x.rxSeq] ∧ s'.mem = s.mem ∧
        let y := s'.port n.val
        y.phase = .up ∧ y.rxSeq = x.rxSeq ∧ y.creditReq = x.creditReq ∧ y.creditRsp = x.creditRsp ∧ y.creditCc = x.creditCc) ∧
      (x.phase = .up → good → bit h 103 = false → ∃ s', exec (.flit n f ok) s = .next s' ∧ s'.outbox = s.outbox ∧ s'.mem = s.mem ∧
        let y := s'.port n.val
        y.phase = .up ∧ y.rxSeq = (x.rxSeq + 1) % 4096 ∧ y.acked = fld h 115 104 ∧
        (x.txQueue = [] → y.creditReq = min 64 (x.creditReq + fld h 99 92) ∧ y.creditRsp = min 64 (x.creditRsp + fld h 91 84) ∧
          y.creditCc = min 64 (x.creditCc + fld h 83 76))) ∧
      (x.phase = .up → good → bit h 103 = true → x.nakRun = 0 → SMap.sorted s.counters = true → ∃ s', exec (.flit n f ok) s = .next s' ∧
        (s'.port n.val).phase = .up ∧
        s'.ctr .flitRetries n.val = s.ctr .flitRetries n.val + BitVec.ofNat 64 (x.takeAck (fld h 115 104)).unacked.length)) ∧
    (x.phase = .up → ∃ s', exec (.retrain n) s = .next s' ∧ (s'.port n.val).phase = .retrain) ∧
    (x.phase ≠ .up → exec (.retrain n) s = .next s) ∧
    (∀ (far : Identity) (i : Instr), (i = .retrainComplete n far ∧ x.phase = .retrain ∨
        i = .trainingComplete n far ∧ x.phase = .training ∧ x.retryDue = false) →
      (x.working &&& far.halves ≠ 0 → ∃ s', exec i s = .next s' ∧ (s'.port n.val).phase = (if s.identityOk n.val far then .up else .held) ∧
        (s'.port n.val).lanes = (if x.working &&& far.halves = 3 then 8 else 4) ∧ (s'.port n.val).farSerial = far.serial ∧
        (s'.port n.val).farPort = far.port ∧ (s'.port n.val).farCoord = far.coord ∧ (s'.port n.val).ns = far.ns ∧ s'.mem = s.mem) ∧
      (x.working &&& far.halves = 0 → ∃ s', exec i s = .next s' ∧ (s'.port n.val).phase = .retired)) ∧
    (∀ far, x.phase ≠ .retrain → exec (.retrainComplete n far) s = .next s) ∧
    (∀ far, x.phase ≠ .training ∨ x.retryDue = true → exec (.trainingComplete n far) s = .next s) ∧
    (x.phase = .retrain → ∃ s', exec (.retrainTimeout n) s = .next s' ∧ (s'.port n.val).phase = .training ∧
      s'.outbox.getLast? = some (.identity n.val (s.identity n.val)) ∧ s'.mem = s.mem) ∧
    (x.phase = .training → x.retryDue = false → ∃ s', exec (.trainingTimeout n) s = .next s' ∧ (s'.port n.val).phase = .training ∧
      (s'.port n.val).retryDue = true ∧ s'.mem = s.mem) ∧
    (x.phase = .training → x.retryDue = true → ∃ s', exec (.trainingRetry n) s = .next s' ∧
      (s'.port n.val).phase = .training ∧ (s'.port n.val).retryDue = false ∧
      s'.outbox = s.outbox ++ [.identity n.val (s.identity n.val)]) ∧
    (∀ halves, s.opticsOn = true → x.phase = .dark → s.pins.laserOk.getLsbD (n.val / 4) = true → halves &&& x.working ≠ 0 →
      s.expect n.val ≠ 0 → x.wasHeld = false → ∃ s', exec (.lightDetected n halves) s = .next s' ∧
        (s'.port n.val).phase = .training ∧ (s'.port n.val).light = halves ∧ (s'.port n.val).rxSeq = 0 ∧
        s'.outbox = s.outbox ++ [.identity n.val (s.identity n.val)] ∧ s'.mem = s.mem) ∧
    (x.phase ≠ .retired → ∃ s', exec (.lightLost n) s = .next s' ∧ (s'.port n.val).phase = .dark ∧ (s'.port n.val).light = 0 ∧
      (s'.port n.val).wasHeld = (x.phase == .held || (x.phase == .dark && x.wasHeld))) ∧
    (x.phase = .retired → exec (.lightLost n) s = .next s) ∧
    ∀ ns, (22 ≤ n.val → x.phase = .up → exec (.fohLatencyMeasure n ns) s = .next (s.setPort n.val { x with ns := ns })) ∧
      (n.val < 22 ∨ x.phase ≠ .up → exec (.fohLatencyMeasure n ns) s = .next s)

/-- An atomic of a source is new to the log: its slot is empty and its tag above every committed one. -/
abbrev Sys2Proof.Machine.NewTag (s : State) (r : FabReq) : Prop :=
  SMap.find? (r.tag.toNat % 4096) (s.peer r.src).atoms = none ∧ (s.peer r.src).latestCtag < r.tag.toNat ∧ r.ctag.toNat < r.tag.toNat

/-- The requests of Table 10-7 and their OPs. -/
def Sys2Proof.Machine.reqTable : List ((FabReq → Instr) × Nat) :=
  [(.loadRequest, 1), (.storeRequest, 2), (.ataddRequest, 3), (.atfaddRequest, 4), (.casRequest, 5), (.fpadd32Request, 6),
   (.inval, 8), (.fenceRequest, 9), (.freqCue, 0x0A), (.routeUpdate, 0x0B), (.assume, 0x0C), (.halt, 0x0D)]

/-- What an atomic request of an OP stores from the old value and its operands (Table 03-8). -/
def Sys2Proof.Machine.reqNew (op n old b c : Nat) : Nat :=
  if op = 5 then (if old = b then c else old)
  else if op = 6 then (f32Add (BitVec.ofNat 32 old) (BitVec.ofNat 32 b)).toNat
  else (old + b) % 256 ^ n

/-- R252, R261, R263, R265: while the fabric is down, or on a port that is not UP, a request has no effect. One for another package goes on
along its route, with TARGET_LOST as its answer where that coordinate is lost. A request of a job that fails a receiver's check is
refused with DENIED and counted; one that passes, on memory that nothing holds, is performed and answered: a LOAD with
its bytes, a STORE by writing its bytes and none else, an atomic by storing its new value and answering the old one; an atomic whose tag is
in the log is answered from the log and not performed again; a FENCE is answered at once. -/
def Obligations.AccessRequests : Prop :=
  (∀ e ∈ reqTable, ∀ (s : State) (r : FabReq), s.fabricUp = false ∨ (s.port r.port.val).phase ≠ .up → exec (e.1 r) s = .next s) ∧
  (∀ e ∈ reqTable, ∀ (s : State) (r : FabReq), s.fabricUp = true → (s.port r.port.val).phase = .up → s.fab.coord.isSome = true →
    s.fab.coord ≠ some r.dst → routeValid (s.route r.dst) = true →
    (routeState (s.route r.dst) = 1 → ∃ s', exec (e.1 r) s = .next s' ∧ s'.mem = s.mem ∧
      s'.outbox = s.outbox ++ [.response r.src r.seq e.2 stLost []]) ∧
    ∀ n, routeState (s.route r.dst) ≠ 1 → s.firstHop (s.jobPart r.jobId) r.dst = .port n → ∃ s', exec (e.1 r) s = .next s' ∧
      s'.mem = s.mem ∧ s'.outbox = s.outbox ++ [.request e.2 { r with port := Fin.ofNat 24 n }]) ∧
  ∀ (s : State) (r : FabReq), Fresh s r → r.jobId ≠ 0 → Memory.wf s.mem = true → let l := r.addr.toNat
    (∀ e ∈ reqTable, e.2 < 0x0A → (3 ≤ e.2 → e.2 ≤ 6 → NewTag s r) → s.reqCheck e.2 r = none → ∃ s', exec (e.1 r) s = .next s' ∧
      s'.outbox = s.outbox ++ [.response r.src r.seq e.2 0x15 []] ∧ s'.mem = s.mem ∧
      (SMap.sorted s.counters = true → s'.ctr .fctxRefusals = s.ctr .fctxRefusals + 1)) ∧
    (∀ p, s.reqCheck 9 r = some p → ∃ s', exec (.fenceRequest r) s = .next s' ∧
      s'.outbox = s.outbox ++ [.response r.src r.seq 9 0 []] ∧ s'.mem = s.mem) ∧
    (windowOf l ≠ .control →
      (∀ p, s.reqCheck 1 r = some p → s.homeHeld none l (reqLen r) = false → s.poisonAt l (reqLen r) = none →
        ∃ s', exec (.loadRequest r) s = .next s' ∧ s'.mem = s.mem ∧
          s'.outbox = s.outbox ++ [.response r.src r.seq 1 0 (s.bytes l (reqLen r))]) ∧
      (∀ p, s.reqCheck 2 r = some p → s.homeHeld none l (reqLen r) = false → s.copies l r.body.length (s.dieBit r) = [] →
        ∃ s', exec (.storeRequest r) s = .next s' ∧ s'.outbox = s.outbox ++ [.response r.src r.seq 2 0 []] ∧
          (∀ (i : Nat) (b : Byte), r.body[i]? = some b → s'.byte (l + i) = b) ∧
          ∀ m, m < l ∨ l + r.body.length ≤ m → s'.byte m = s.byte m) ∧
      (∀ e ∈ reqTable, 3 ≤ e.2 → e.2 ≤ 6 → NewTag s r → ∀ p, s.reqCheck e.2 r = some p → (e.2 = 6 → s.isScripted p = false) →
        let n := reqSize e.2 r
        s.homeHeld none l n = false → s.poisonAt l n = none → s.copies l n (s.dieBit r) = [] → ∃ s', exec (e.1 r) s = .next s' ∧
          s'.outbox = s.outbox ++ [.response r.src r.seq e.2 0 (if e.2 = 3 then [] else s.bytes l n)] ∧
          s'.num l n = reqNew e.2 n (s.num l n) (leNat (r.body.take n)) (leNat (r.body.drop n)) ∧
          ∀ m, m < l ∨ l + n ≤ m → s'.byte m = s.byte m)) ∧
    ∀ e ∈ reqTable, 3 ≤ e.2 → e.2 ≤ 6 → ∀ v st, SMap.find? (r.tag.toNat % 4096) (s.peer r.src).atoms = some (r.tag.toNat, v, st) →
      ∃ s', exec (e.1 r) s = .next s' ∧ s'.mem = s.mem ∧ s'.outbox = s.outbox ++
        [.response r.src r.seq e.2 st (if e.2 = 3 ∨ failing st = true then [] else bytesLE (reqSize e.2 r) v.toNat)]

/-- R38: an INVAL that passes its checks drops lines, is served, and is answered only by INVALIDATE_COMPLETE, which waits for fills in
flight of its lines. R260: an OP outside Table 10-7 is answered with DENIED. R267: a die that is asked to drops its copy and
acknowledges; a store that waited for the last acknowledgement is performed and answered. -/
def Obligations.CoherenceMessages : Prop :=
  (∀ (s : State) (r : FabReq) (p : Nat), Fresh s r → r.jobId ≠ 0 → s.reqCheck 8 r = some p → ∃ s' v, exec (.inval r) s = .next s' ∧
    s'.fab.serving = s.fab.serving ++ [v] ∧ v.src = r.src ∧ v.seq = r.seq ∧ v.own = none ∧ s'.outbox = s.outbox ∧ s'.mem = s.mem ∧
    ∀ e ∈ s'.lines, e ∈ s.lines) ∧
  (∀ (s : State) (src : BitVec 12) (seq : W32),
    (s.fab.serving.find? (fun v => v.src == src && v.seq == seq) = none → exec (.invalidateComplete src seq) s = .next s) ∧
    ∀ v, s.fab.serving.find? (fun v => v.src == src && v.seq == seq) = some v →
      (s.fab.pend.any (fun q => q.passed && q.req.dst == v.home && q.meetsLines v.lo v.n) = true →
        exec (.invalidateComplete src seq) s = .next s) ∧
      (s.fab.pend.any (fun q => q.passed && q.req.dst == v.home && q.meetsLines v.lo v.n) = false → v.own = none → ∃ s',
        exec (.invalidateComplete src seq) s = .next s' ∧ s'.outbox = s.outbox ++ [.response src seq 8 0 []] ∧
        s'.fab.serving = s.fab.serving.erase v ∧ s'.mem = s.mem)) ∧
  (∀ (s : State) (r : FabReq) (op : Byte), (knownOp op.toNat = true → exec (.unknownOperation r op) s = .next s) ∧
    (Fresh s r → knownOp op.toNat = false → ∃ s', exec (.unknownOperation r op) s = .next s' ∧ s'.mem = s.mem ∧
      s'.outbox.getLast? = some (.response r.src r.seq op.toNat 0x15 []))) ∧
  (∀ (s : State) (die : Fin 4) (line : W64), s.fabricUp = true → line.toNat < 2 ^ 58 → SMap.sorted s.lines = true →
    ∃ s', exec (.coherenceInvalidate die line) s = .next s' ∧ s'.cached? die.val line.toNat = none ∧ s'.mem = s.mem ∧
      s'.outbox = s.outbox ++ [.coherence die.val line.toNat true] ∧
      ∀ d l, l < 2 ^ 58 → ¬ (d = die.val ∧ l = line.toNat) → s'.cached? d l = s.cached? d l) ∧
  ∀ (s : State) (line : W64), s.fabricUp = true →
    (s.fab.homeStores = [] → exec (.coherenceAck line) s = .next s.releaseHeld) ∧
    ∀ (m : Nat) (r : FabReq), s.fab.held = [] → s.fab.jobs = [] → s.fab.sendq = [] → s.fab.homeStores = [{ waits := [(line.toNat, m)], act := .request 2 r }] →
      windowOf r.addr.toNat ≠ .control → Memory.wf s.mem = true → ∃ s', exec (.coherenceAck line) s = .next s' ∧ s'.fab.homeStores = [] ∧
        s'.outbox = s.outbox ++ [.response r.src r.seq 2 0 []] ∧
        (∀ (i : Nat) (b : Byte), r.body[i]? = some b → s'.byte (r.addr.toNat + i) = b) ∧
        ∀ a, a < r.addr.toNat ∨ r.addr.toNat + r.body.length ≤ a → s'.byte a = s.byte a

/-- R257, R260, R341, R342, R364: the house managers' messages. A FREQ_CUE with a JOB_ID or of a wrong length is refused; one of another lock
is counted and ignored, else the sender's entry takes its step; a ROUTE_UPDATE from a listed coordinate sets the entry it names; a HALT
from one is acknowledged; an ASSUME gives an understudy that holds no coordinate the one it names, with its tenure, and is
acknowledged again where it holds it. -/
def Obligations.ControlMessages : Prop :=
  (∀ (s : State) (r : FabReq), Fresh s r → let w (i : Nat) := leNat ((r.body.drop i).take 8)
    (∀ e ∈ reqTable, 0x0A ≤ e.2 → (r.jobId ≠ 0 ∨ reqLen r ≠ (if e.2 = 0x0A ∨ e.2 = 0x0D then 8 else 16)) → ∃ s', exec (e.1 r) s = .next s' ∧
      s'.outbox = s.outbox ++ [.response r.src r.seq e.2 0x15 []] ∧ s'.mem = s.mem ∧ s'.fab.routes = s.fab.routes ∧ s'.dim = s.dim) ∧
    (r.jobId = 0 → reqLen r = 8 → r.body.length = 8 →
      (let v : W64 := BitVec.ofNat 64 (w 0)
       let out := fld v 63 48 = 0 ∨ fld v 63 48 ≠ s.lockId ∨ 23 < fld v 47 43 ∨ lockBox s.lockRec r.src = false
       (out → ∃ s', exec (.freqCue r) s = .next s' ∧ s'.dim = s.dim ∧ s'.outbox = s.outbox ++ [.response r.src r.seq 0x0A 0 []] ∧
        (SMap.sorted s.counters = true → s'.ctr .cuesIgnored = s.ctr .cuesIgnored + 1)) ∧
       (¬ out → r.src ≠ r.dst → SMap.sorted s.dim.requests = true → ∃ s', exec (.freqCue r) s = .next s' ∧
        SMap.get 23 s'.dim.requests r.src.toNat = fld v 47 43 ∧ s'.outbox.getLast? = some (.response r.src r.seq 0x0A 0 []))) ∧
      (routeValid (s.route r.src) = true → ∃ s', exec (.halt r) s = .next s' ∧
        s'.outbox.getLast? = some (.response r.src r.seq 0x0D 0 []))) ∧
    (r.jobId = 0 → reqLen r = 16 → r.body.length = 16 →
      (routeValid (s.route r.src) = true → ∃ s', exec (.routeUpdate r) s = .next s' ∧
        s'.route (BitVec.ofNat 12 (w 0)) = BitVec.ofNat 64 (w 8) ∧ s'.outbox.getLast? = some (.response r.src r.seq 0x0B 0 [])) ∧
      (routeValid (s.route r.src) = false → ∃ s', exec (.routeUpdate r) s = .next s' ∧ s'.fab.routes = s.fab.routes ∧
        s'.outbox = s.outbox ++ [.response r.src r.seq 0x0B 0x15 []]) ∧
      ∃ s', exec (.assume r) s = .next s' ∧ s'.mem = s.mem ∧ s'.fab.coord = s.fab.coord ∧ s'.outbox = s.outbox ++ [.response r.src r.seq 0x0C
        (if s.role ≠ 0 ∧ s.fab.coord = some (BitVec.ofNat 12 (w 0)) ∧ s.fab.tenure = w 8 % 16 then 0 else 0x15) []])) ∧
  ∀ (s : State) (r : FabReq), s.fabricUp = true → (s.port r.port.val).phase = .up → s.coolantHeld = false → s.fab.held = [] →
    s.fab.homeStores = [] → s.assumeOk r = true → reqLen r = 16 → r.body.length = 16 → ∃ s', exec (.assume r) s = .next s' ∧
      s'.fab.coord = some (BitVec.ofNat 12 (leNat (r.body.take 8))) ∧ s'.fab.tenure = leNat (r.body.drop 8) % 16 ∧
      s'.outbox.getLast? = some (.response r.src r.seq 0x0C 0 []) ∧
      ((∀ p < 128, bit (s.partRec p) 0 = false) → s'.fab.directory = [] ∧ s'.fab.peers = [] ∧ s'.mem = s.mem ∧
        s'.outbox = s.outbox ++ [.response r.src r.seq 0x0C 0 []])

/-- R36, R44, R78, R262: a response to no outstanding request has no effect; the bytes of a load reach the register and the thread goes
on; the failure of a posted store is kept by its thread. A request unanswered for 100 µs is sent again, and after 8 resends
its destination is reported to the house manager and a store of it is outstanding no more. R257, R341: a package that can be reached, or whose switch-in this package does not run, is not declared
lost; one that is, with no understudy's port UP, gets the entry of a lost coordinate; with one, the understudy is sent an ASSUME. A switch-in
all have acknowledged is complete. -/
def Obligations.ResponsesAndLoss : Prop :=
  (∀ (s : State) (r : FabResp), s.fabricUp = true → (s.port r.port.val).phase = .up → s.coolantHeld = false → s.fab.held = [] →
    s.fab.jobs = [] → s.fab.sendq = [] → r.dest = none → r.nak = false → let found := s.fab.pend.find? fun q => q.req.dst == r.dst && q.req.seq == r.seq
    (found = none → exec (.response r) s = .next s) ∧
    (∀ q t gd n off x, found = some q → q.kind = .load t gd n off → q.op = 1 → failing r.status = false → knownStatus r.status = true →
      s.awaiting t q = some x → ∃ s', exec (.response r) s = .next s' ∧ s'.mem = s.mem ∧ (∀ p ∈ s'.fab.pend, p.same q = false) ∧
        s'.thread? t = some { (x.setG gd (leWord 64 ((r.body.drop off).take n))).step with wait := .ready }) ∧
    (∀ q t x, found = some q → q.kind = .store t → q.op = 2 → q.req.cls ≠ 0 → failing r.status = true → knownStatus r.status = true →
      s.thread? t = some x → q.task = some x.task → ∃ s' x', exec (.response r) s = .next s' ∧ s'.mem = s.mem ∧
        (∀ p ∈ s'.fab.pend, p.same q = false) ∧ s'.thread? t = some x' ∧ x'.failStatus = worst x.failStatus r.status)) ∧
  (∀ (s : State) (dst : BitVec 12) (seq : W32), s.fabricUp = true →
    let found := s.fab.pend.find? fun q => q.req.dst == dst && q.req.seq == seq
    (found = none → exec (.e2eResend dst seq) s = .next s) ∧
    ∀ q, found = some q →
      (q.resends < 8 → ∃ s', exec (.e2eResend dst seq) s = .next s' ∧ s'.mem = s.mem ∧ s'.outbox = s.outbox ++ [.request q.op q.req] ∧
        s'.fab.pend.length = s.fab.pend.length ∧
        s'.fab.pend.find? (fun y => y.req.dst == dst && y.req.seq == seq) = some { q with resends := q.resends + 1 }) ∧
      (8 ≤ q.resends → q.op ≠ 0x0C → ∃ s', exec (.e2eResend dst seq) s = .next s' ∧ dst ∈ s'.fab.reported) ∧
      (∀ t, 8 ≤ q.resends → q.kind = .store t → q.op = 2 → q.req.cls ≠ 0 → s.fab.held = [] → s.fab.jobs = [] → s.fab.sendq = [] → ∃ s',
        exec (.e2eResend dst seq) s = .next s' ∧ s'.mem = s.mem ∧ ∀ p ∈ s'.fab.pend, p.same q = false)) ∧
  (∀ (s : State) (c : BitVec 12),
    ((s.fabricUp = false ∨ s.runsSwitch c = false ∨ s.fab.ports.any (fun e => e.2.phase == .up && decide (e.1 < 18) &&
      e.2.farCoord == routePhys (s.route c)) = true) → exec (.portDownTimeout c) s = .next s) ∧
    (s.fabricUp = true → s.coolantHeld = false → s.runsSwitch c = true → s.fab.switchIns.any (·.coord == c) = false →
      s.fab.ports.any (fun e => e.2.phase == .up && decide (e.1 < 18) && e.2.farCoord == routePhys (s.route c)) = false →
      ((s.port 18).phase ≠ .up → (s.port 19).phase ≠ .up → ∃ s', exec (.portDownTimeout c) s = .next s' ∧
        routeState (s'.route c) = 1 ∧ routeTenure (s'.route c) = routeTenure (s.route c)) ∧
      (s.axisLen s.spareAxis ≠ 1 → (s.port 18).phase = .up → ∃ s' r, exec (.portDownTimeout c) s = .next s' ∧ s'.outbox.getLast? = some (.request 0x0C r) ∧
        r.dst = c ∧ r.port = 18 ∧ leNat (r.body.drop 8) = (routeTenure (s.route c) + 1) % 16 ∧
        s'.fab.switchIns = s.fab.switchIns ++ [{ coord := c, tenure := (routeTenure (s.route c) + 1) % 16, usport := 0 }]))) ∧
  ∀ (s : State) (c : BitVec 12),
    (s.fab.switchIns.find? (fun x => x.coord == c) = none → exec (.switchInComplete c) s = .next s) ∧
    ∀ x, s.fab.switchIns.find? (fun x => x.coord == c) = some x →
      let mine (op : Nat) (r : FabReq) := decide (op = 0x0B ∨ op = 0x0C) && decide (leNat (r.body.take 8) = c.toNat)
      let waits := s.fab.pend.any (fun q => mine q.op q.req) || s.fab.sendq.any fun q => mine q.op q.req
      ((waits = true ∨ routeState (s.route c) ≠ 2) → exec (.switchInComplete c) s = .next s) ∧
      (waits = false → routeState (s.route c) = 2 → ∃ s', exec (.switchInComplete c) s = .next s' ∧ s'.mem = s.mem ∧
        (∀ y ∈ s'.fab.switchIns, y.coord ≠ c) ∧ (SMap.sorted s.counters = true → s'.ctr .switchIns = s.ctr .switchIns + 1))

/-! ## Dimmer and temperatures -/

/-- R355 to R358, R430: an estimate sets the powers, gained, and the permit to the lowest of the permits; the gain is measured over
estimated within 0.8 to 1.25; a lowering hop puts the frequency in force and then commands the voltage on both interfaces; a raise
hops once its voltage is confirmed; a voltage that is not confirmed is retried, and the third failure in a row holds the permit at the
step in force.
R360, R361, R364: a droop doubles one core's period and counts, its end restores it; a rate check clears the counts and lowers the
droop permit where a core was over the rate, and the permit rises again by one while none is; after 200 µs the lower J of the
lock applies. -/
def Obligations.DimmerAndLock : Prop :=
  (∀ s : State,
     (∀ pFix pDyn shares, ∃ s', exec (.powerEstimate pFix pDyn shares) s = .next s' ∧ s'.dim.pFix = pFix ∧
       s'.dim.pDyn = pDyn * s.dim.gainNum / s.dim.gainDen ∧ s'.dim.permit = s'.localPermit ∧ s'.mem = s.mem ∧ s'.threads = s.threads) ∧
     (∀ e m, 0 < e → ∃ s', exec (.gainUpdate e m) s = .next s' ∧ s'.dim.measured = m ∧
       (m * 5 < e * 4 → s'.dim.gainNum = 4 ∧ s'.dim.gainDen = 5 ∧ s'.dim.flags = s.dim.flags ||| 0x80) ∧
       (e * 5 < m * 4 → s'.dim.gainNum = 5 ∧ s'.dim.gainDen = 4 ∧ s'.dim.flags = s.dim.flags ||| 0x80) ∧
       (e * 4 ≤ m * 5 → m * 4 ≤ e * 5 → s'.dim.gainNum = m ∧ s'.dim.gainDen = e ∧ s'.dim.flags = s.dim.flags)) ∧
     (∀ n, s.dim.move = .lowerHop n → ∃ s', exec .hopComplete s = .next s' ∧ s'.dim.freqStep = n ∧ s'.dim.move = .lowerVolt n ∧
       s.outbox ++ [.avs 0 (stepMv n), .avs 1 (max (stepMv n) 700)] <+: s'.outbox ∧ s'.mem = s.mem) ∧
     (∀ n, s.dim.move = .raiseHop n → ∃ s', exec .hopComplete s = .next s' ∧ s'.dim.freqStep = n ∧ s'.mem = s.mem) ∧
     (∀ n, s.dim.move = .raiseVolt n → exec .voltageConfirm s =
       .next { s with dim := { s.dim with voltMv := stepMv n, fails := 0, move := .raiseHop n } }) ∧
     (∀ n, s.dim.move = .lowerVolt n → ∃ s', exec .voltageConfirm s = .next s' ∧ s'.dim.voltMv = stepMv n ∧ s'.dim.fails = 0 ∧
       s'.dim.freqStep = s.dim.freqStep) ∧
     (∀ n rail, (s.dim.move = .raiseVolt n ∨ s.dim.move = .lowerVolt n) →
       (s.dim.fails < 2 → ∃ s', exec (.voltageTimeout rail) s = .next s' ∧ s'.dim.fails = s.dim.fails + 1 ∧ s'.dim.move = .retry n ∧
         s'.dim.freqStep = s.dim.freqStep ∧ s'.dim.voltHold = s.dim.voltHold) ∧
       (2 ≤ s.dim.fails → ∃ s', exec (.voltageTimeout rail) s = .next s' ∧ s'.dim.freqStep = s.dim.freqStep ∧
         s'.dim.voltHold = some (min s.dim.freqStep (s.dim.voltHold.getD 23)) ∧ s'.dim.permit ≤ s.dim.freqStep)) ∧
     (∀ n, s.dim.move = .retry n → ∃ s', exec .voltageRetry s = .next s' ∧
       s'.dim.move = (if s.dim.freqStep < n then .raiseVolt n else .lowerVolt n) ∧
       s'.outbox = s.outbox ++ [.avs 0 (stepMv n), .avs 1 (max (stepMv n) 700)]) ∧
     ((∀ n, s.dim.move ≠ .retry n) → exec .voltageRetry s = .next s) ∧
     ((∀ n, s.dim.move ≠ .lowerHop n ∧ s.dim.move ≠ .raiseHop n) → exec .hopComplete s = .next s) ∧
     ((∀ n, s.dim.move ≠ .raiseVolt n ∧ s.dim.move ≠ .lowerVolt n) → exec .voltageConfirm s = .next s ∧
       ∀ rail, exec (.voltageTimeout rail) s = .next s)) ∧
  (∀ s : State,
     (∀ c : Fin 256, exec (.droopStretch c) s =
         .next (s.setCore c.val { s.core c.val with stretched := true, stretches := (s.core c.val).stretches + 1 }) ∧
       exec (.droopRecovery c) s = .next (s.setCore c.val { s.core c.val with stretched := false })) ∧
     (∃ s', exec .droopRateCheck s = .next s' ∧ (∀ k, (s'.core k).stretches = 0) ∧ s'.mem = s.mem ∧
       ((∃ e ∈ s.cores, 1000 < e.2.stretches) → s'.dim.droopPermit = s.dim.droopPermit - 1 ∧ s'.dim.permit ≤ s.dim.droopPermit - 1) ∧
       ((∀ e ∈ s.cores, e.2.stretches ≤ 1000) → s'.dim = s.dim)) ∧
     (((∃ e ∈ s.cores, 1000 < e.2.stretches) ∨ 23 ≤ s.dim.droopPermit) → exec .droopPermitRestore s = .next s) ∧
     ((∀ e ∈ s.cores, e.2.stretches ≤ 1000) → s.dim.droopPermit < 23 → ∃ s', exec .droopPermitRestore s = .next s' ∧
       s'.dim.droopPermit = s.dim.droopPermit + 1 ∧ s'.dim.permit = s'.localPermit ∧ s'.mem = s.mem) ∧
     (s.lockId = 0 → exec .lockForce s = .next s) ∧
     (s.lockId ≠ 0 → ∃ s', exec .lockForce s = .next s' ∧ s'.dim.jobApplied = min s.dim.jobApplied s.dim.jobStep ∧ s'.mem = s.mem))

/-- R366: a sample is taken; 105 °C on a die sensor, or 95 °C in a stack, lowers that permit by one step; the permits rise again by
one below 102 °C and 92 °C; 115 °C twice in a row, or 105 °C in a stack, halts a package that has started and pulls THERMTRIP# low.
R367, R368, Table 14-6: COOLANT_OK falls into the filter, a low that outlasts it stops the package, its return is filtered and waits to be
resumed, and a stop not resumed in time halts the package. -/
def Obligations.TemperaturesAndCoolant : Prop :=
  (∀ s : State,
     (∀ ts : List Int, ∃ s', exec (.tempSample ts) s = .next s' ∧ s'.therm.die = ts ∧ s'.mem = s.mem ∧
       s'.dim.diePermit = (if ∃ t ∈ ts, 420 ≤ t then s.dim.diePermit - 1 else s.dim.diePermit) ∧
       (∀ (i : Nat) (t : Int), ts[i]? = some t → 460 ≤ t → i ∈ s'.therm.hot ∧ (i ∈ s.therm.hot → s.house.started = true →
         s'.house.deviceState = 3 ∧ s'.pins.thermTrip = true))) ∧
     (∀ ts : List Int, ∃ s', exec (.hbmTempRead ts) s = .next s' ∧ s'.therm.hbm = ts ∧ s'.mem = s.mem ∧
       s'.dim.hbmPermit = (if ∃ t ∈ ts, 1520 ≤ t then s.dim.hbmPermit - 1 else s.dim.hbmPermit) ∧
       (∀ (i : Nat) (t : Int), ts[i]? = some t → (i ∈ s'.therm.refresh2x ↔ 1360 ≤ t ∧ t ≤ 1520)) ∧
       ((∃ t ∈ ts, 1680 ≤ t) → s.house.started = true → s'.house.deviceState = 3 ∧ s'.pins.thermTrip = true)) ∧
     (s.dim.diePermit < 23 → (∀ t ∈ s.therm.die, t < 408) → ∃ s', exec .thermalPermitRise s = .next s' ∧
       s'.dim.diePermit = s.dim.diePermit + 1 ∧ s'.dim.permit = s'.localPermit) ∧
     ((23 ≤ s.dim.diePermit ∨ ∃ t ∈ s.therm.die, 408 ≤ t) → exec .thermalPermitRise s = .next s) ∧
     (s.dim.hbmPermit < 23 → (∀ t ∈ s.therm.hbm, t < 1472) → ∃ s', exec .hbmPermitRise s = .next s' ∧
       s'.dim.hbmPermit = s.dim.hbmPermit + 1 ∧ s'.dim.permit = s'.localPermit) ∧
     ((23 ≤ s.dim.hbmPermit ∨ ∃ t ∈ s.therm.hbm, 1472 ≤ t) → exec .hbmPermitRise s = .next s)) ∧
  (∀ s : State, let c := s.therm.coolantState
     (∃ s', exec .coolantOkFall s = .next s' ∧ s'.therm.coolantOk = false ∧ s'.mem = s.mem ∧
       s'.therm.coolantState = (if c = 0 ∧ s.house.started then 1 else c)) ∧
     (∃ s', exec .coolantOkRise s = .next s' ∧ s'.therm.coolantOk = true ∧ s'.mem = s.mem ∧
       s'.therm.coolantState = (if c = 1 then 0 else c) ∧ s'.therm.returning = (c == 2)) ∧
     (s.therm.coolantOk = true → exec .coolantStop s = .next s) ∧
     (s.therm.coolantOk = false → c = 1 → ∃ s', exec .coolantStop s = .next s' ∧ s'.therm.coolantState = 2 ∧ s'.working = false ∧
       s'.therm.stopTick = s.clk.ticks ∧ 8 ∈ s'.dim.blackoutFor ∧ s'.dim.blackout = true ∧ s'.mem = s.mem) ∧
     (c = 2 → s.therm.returning = true → exec .coolantReturned s =
       .next { s with therm := { s.therm with coolantState := 3, returning := false } }) ∧
     ((c ≠ 2 ∨ s.therm.returning = false) → exec .coolantReturned s = .next s) ∧
     ((c = 2 ∨ c = 3) → s.house.deviceState ≠ 3 → ∃ s', exec .coolantHoldExpiry s = .next s' ∧ s'.therm.coolantState = 4 ∧
       s'.house.deviceState = 3 ∧ s'.house.haltCause = 0x12 ∧ s'.mem = s.mem) ∧
     (c ≠ 2 → c ≠ 3 → exec .coolantHoldExpiry s = .next s))

/-! ## Mailboxes, the dictionary and the CAN FD node -/

/-- A mailbox that a command has been written into and that GO has started. -/
def Sys2Proof.Machine.started (s : State) (m : Nat) (c : MbxCmd) : State :=
  s.setMailbox m { s.mailbox m with
    target := c.target, length := c.length, data := memPut (s.mailbox m).data 0 (c.data.take mbxData), seq := c.seq, state := 1 }

/-- R382 to R384: a command on a mailbox that runs one is counted and ignored; with nobody to serve it, it is accepted and waits. READ
and READ_WINGS that succeed put their bytes in DATA, WRITE performs its write with the mailbox's scope, RELEASE ends the claim; each ends with STATE 2, its
SEQ, its count and its abort code. A claim times out.
R371 to R374, R381: writes over the CAN FD node have full scope, over a PCIe mailbox its partition's. A write whose checks fail is refused with
its abort code and counted, and no setting changes; one to an entry outside a partition's scope is refused. -/
def Obligations.DictionaryAccess : Prop :=
  (∀ (s : State) (m : Fin 256) (c : MbxCmd), let x := s.mailbox m.val
     let s0 := started s m.val c
     (x.state = 1 → exec (.read m c) s = .next (s.count .mbxIgnored) ∧ exec (.readWings m c) s = .next (s.count .mbxIgnored) ∧
       exec (.mailboxRelease m c) s = .next (s.count .mbxIgnored) ∧ ∃ s', exec (.write m c) s = .next s' ∧
         (Quiet s → s' = (s.count .mbxIgnored).wakeHeld)) ∧
     exec (.mailboxClaimTimeout m) s = .next (s.setMailbox m.val { x with claim := none }) ∧
     (x.state ≠ 1 → s.dictServes = false → exec (.read m c) s = .next { s0 with house := { s0.house with
       ready := s0.house.ready ++ [Ready.mbx m.val (c.rsv.toNat * 256 + 1)] } }) ∧
     (x.state ≠ 1 → s.dictServes = true → c.rsv = 0 → fld c.target 7 0 = 0 →
       (s.mbxServed m.val = false → ∃ s', exec (.read m c) s = .next s' ∧ (s'.mailbox m.val).state = 2 ∧
         (s'.mailbox m.val).abort = 0x08000022) ∧
       (s.mbxServed m.val = true →
         (∃ s', exec (.mailboxRelease m c) s = .next s' ∧ (s'.mailbox m.val).state = 2 ∧ (s'.mailbox m.val).claim = none ∧
           (s'.mailbox m.val).abort = 0 ∧ s'.mem = s.mem ∧ s'.od = s.od) ∧
         (61440 < c.length.toNat → ∃ s', exec (.write m c) s = .next s' ∧ (Quiet s → (s'.mailbox m.val).state = 2 ∧
           (s'.mailbox m.val).abort = 0x06070010 ∧ s'.od = s.od)) ∧
         (c.length.toNat ≤ 61440 → let n := c.length.toNat
           (∀ i ∈ [(Instr.read m c, false), (.readWings m c, true)], ∀ d size, Memory.wf x.data = true →
             s0.readCheck (mbxScope m.val) (mbxTarget c.target) (some (if n = 0 then 61440 else n)) i.2 = .ok (d, size) →
             ∃ s', exec i.1 s = .next s' ∧ (s'.mailbox m.val).state = 2 ∧ (s'.mailbox m.val).abort = 0 ∧
               (s'.mailbox m.val).seq = c.seq ∧ (s'.mailbox m.val).count = BitVec.ofNat 32 d.length ∧ s'.mem = s.mem ∧ s'.od = s.od ∧
               ∀ (j : Nat) (b : Byte), d[j]? = some b → SMap.get 0 (s'.mailbox m.val).data j = b) ∧
           (∀ t ab, s0.dictWrite (mbxScope m.val) (mbxTarget c.target) ((List.range n).map fun i => SMap.get 0 (s0.mailbox m.val).data i) =
               (t, ab) → Quiet t → ∃ s', exec (.write m c) s = .next s' ∧ (s'.mailbox m.val).state = 2 ∧ s'.od = t.od ∧
             s'.mem = t.mem ∧ (s'.mailbox m.val).abort = ab))))) ∧
  ((∀ (s : State) (scope : Option Nat) (x : OdAddr) (d : List Byte) (e : W32), s.writeCheck scope x d = .error e →
     (s.dictWrite scope x d).2 = e ∧ (s.dictWrite scope x d).1.od = s.od ∧ (s.dictWrite scope x d).1.wings = s.wings ∧
     (s.dictWrite scope x d).1.mem = s.mem ∧ (SMap.sorted s.counters = true →
       (s.dictWrite scope x d).1.ctr .aborts = s.ctr .aborts + 1)) ∧
   (∀ (s : State) (p : Nat) (x : OdAddr) (d : List Byte) (r : OdRow), s.indexServed x.index.toNat = true →
     odRow? x.index.toNat x.sub.toNat = some r → (entryPart x.index.toNat x.sub.toNat).any (· != p) = true →
     s.writeCheck (some p) x d = .error 0x06010000) ∧
   ∀ (s : State) (x : OdAddr) (d : List Byte), s.canServes = true → Quiet s →
     (s.dictServes = false → exec (.dictionaryWrite .can x d) s = .next
       { s with house := { s.house with ready := s.house.ready ++ [Ready.usdo true x d false] } }.wakeHeld) ∧
     ∀ t ab, s.dictServes = true → s.dictWrite none x d = (t, ab) → Quiet t → ∃ s', exec (.dictionaryWrite .can x d) s = .next s' ∧
       s'.od = t.od ∧ s'.mem = t.mem ∧ s'.outbox = t.outbox ++ [.can 3 (if ab = 0 then [0] else 1 :: bytesLE 4 ab.toNat)])

/-- The CAN FD node serves, the house manager is there, the package is show-ready, no access is held and nothing waits to be sent. -/
abbrev Sys2Proof.Machine.OnCan (s : State) : Prop :=
  s.canServes = true ∧ s.dictServes = true ∧ s.store.romRecovery = false ∧ s.house.deviceState = 1 ∧ Quiet s

/-- The answer of the CAN FD node to a write, last in the outbox: done, or an abort code. -/
abbrev Sys2Proof.Machine.CanSaid (s : State) (ab : W32) : Prop :=
  s.outbox.getLast? = some (.can 3 (if ab = 0 then [0] else 1 :: bytesLE 4 ab.toNat))

/-- R121, R307, R345, R346, R358, R368, R370, R378, R387: what a write of each live entry does, over the CAN FD node of a package that is show-ready; a value outside
its range is refused and sets nothing. -/
def Obligations.LiveEntries : Prop :=
  ∀ s : State, OnCan s → SMap.sorted s.od = true →
    (∀ v, v < 65536 →
      (400 ≤ v → v ≤ 2600 → ∃ s', exec (.cap .can (bytesLE 2 v)) s = .next s' ∧ s'.capW = v ∧ CanSaid s' 0) ∧
      (2600 < v → ∃ s', exec (.cap .can (bytesLE 2 v)) s = .next s' ∧ s'.od = s.od ∧ s'.dim = s.dim ∧ CanSaid s' 0x06090031) ∧
      (v < 400 → ∃ s', exec (.cap .can (bytesLE 2 v)) s = .next s' ∧ s'.od = s.od ∧ s'.dim = s.dim ∧ CanSaid s' 0x06090032) ∧
      (v ≤ 23 → ∃ s', exec (.stepMax .can (bytesLE 1 v)) s = .next s' ∧ s'.stepMax = v ∧ s'.dim.permit ≤ v ∧ CanSaid s' 0) ∧
      (100 ≤ v → v ≤ 520 → ∃ s', exec (.currentLimit .can (bytesLE 2 v)) s = .next s' ∧ s'.currentLimit = v ∧
        s'.dim.permit = s'.localPermit ∧ CanSaid s' 0)) ∧
    (s.therm.coolantState ≠ 3 → ∃ s', exec (.coolantReenable .can [1]) s = .next s' ∧ s'.therm = s.therm ∧ CanSaid s' 0x08000022) ∧
    (s.therm.coolantState = 3 → s.therm.coolantOk = true → ∃ s', exec (.coolantReenable .can [1]) s = .next s' ∧
      s'.therm.coolantState = 0 ∧ s'.working = true ∧ 8 ∉ s'.dim.blackoutFor ∧ CanSaid s' 0) ∧
    (∀ v, v < 128 ∨ v = 0x100 ∨ v = 0x1FF →
      (∀ t, s.curtain v = .ok t → Quiet t → ∃ s', exec (.curtain .can (bytesLE 2 v)) s = .next s' ∧ s'.od = t.od ∧
        s'.wings = t.wings ∧ CanSaid s' 0) ∧
      (∀ t, s.curtain v = .error t → ∃ s', exec (.curtain .can (bytesLE 2 v)) s = .next s' ∧ s'.od = s.od ∧ s'.wings = s.wings ∧
        s'.house.curtainFault = t.house.curtainFault ∧ CanSaid s' 0x06090030) ∧
      ∃ s', exec (.discard .can (bytesLE 2 v)) s = .next s' ∧ s'.heldEntries v = [] ∧ s'.od = s.od ∧ CanSaid s' 0) ∧
    (∀ p : Fin 128,
      (∃ s', exec (.layerCounters .can p (bytesLE 4 0xFFFFFFFF)) s = .next s' ∧ (s'.part p.val).sticky = [] ∧ CanSaid s' 0) ∧
      (∀ l, l < 1024 → SMap.sorted (s.part p.val).sticky = true → ∃ s', exec (.layerCounters .can p (bytesLE 4 l)) s = .next s' ∧
        SMap.find? l (s'.part p.val).sticky = none ∧ CanSaid s' 0) ∧
      ((s.part p.val).phase = .active → ∃ s', exec (.partReset .can p [1]) s = .next s' ∧ (s'.part p.val).phase = .reset ∧
        ∀ e ∈ s'.tasks, e.2.part ≠ p.val)) ∧
    (∃ s', exec (.errorCount .can [0]) s = .next s' ∧ s'.can.history = [] ∧ CanSaid s' 0) ∧
    (∀ sub : Fin 256, 1 ≤ sub.val → sub.val ≤ 3 → s.store.state = 0 ∨ s.store.state = 1 →
      (∃ s', exec (.store .can sub (bytesLE 4 0x65766173)) s = .next s' ∧ s'.store.state = 3 ∧
        s'.store.jobs = s.store.jobs ++ [.save sub.val] ∧ CanSaid s' 0) ∧
      (∃ s', exec (.restore .can sub (bytesLE 4 0x64616F6C)) s = .next s' ∧ s'.store.state = 3 ∧
        s'.store.jobs = s.store.jobs ++ [.restore sub.val] ∧ CanSaid s' 0) ∧
      (∀ v, v < 2 ^ 32 → v ≠ 0x65766173 → ∃ s', exec (.store .can sub (bytesLE 4 v)) s = .next s' ∧ s'.store = s.store ∧
        CanSaid s' 0x08000020)) ∧
    (∀ mask img, mask < 65536 → s.store.ucodeMask = 0 → s.ucodeAt = some img →
      ∃ s', exec (.flyUcodeGo .can (bytesLE 2 mask)) s = .next s' ∧ CanSaid s' 0 ∧
        (imageOk s.store.owners 2 img = true → s'.store.ucodeMask = mask ∧ s'.store.ucodeImage = img) ∧
        (imageOk s.store.owners 2 img = false → s'.store.ucodeMask = 0 ∧ s'.store.ucode = s.store.ucode)) ∧
    ∀ n : Fin 24, (s.port n.val).phase = .up → s.lastPort n.val = false → ∃ s', exec (.portRetrain .can n [1]) s = .next s' ∧
      (s'.port n.val).phase = .retrain

/-- R345: an engine of the mask that reads no entry takes the image's version and leaves the mask; nothing happens for any other.
R385: a USDO write answers done or its abort code; a segmented one keeps its bytes until the last, and a segment with no transfer is no
valid specifier; a transfer that idles is aborted.
R388 to R392: each NMT command a node hears sets its state, resetting communication takes the persisted entries of the communication
profile back, resetting the node restarts the house manager; a heartbeat carries the state's code; a TPDO leaves in the operational state; a bus-off
is counted and stands for 10 s. -/
def Obligations.CanNode : Prop :=
  ((∀ (s : State) (e : Fin 16) (v : W32),
     (s.updating = some e.val → s.engineReads e.val = false → v = imageVersion s.store.ucodeImage → ∃ s',
       exec (.flyUcodeEngineLoaded e v) s = .next s' ∧ s'.store.ucodeMask = s.store.ucodeMask - 2 ^ e.val ∧
       SMap.find? e.val s'.store.ucode = some (v, imageHash s.store.ucodeImage) ∧ s'.mem = s.mem) ∧
     ((s.updating ≠ some e.val ∨ s.engineReads e.val = true ∨ v ≠ imageVersion s.store.ucodeImage) →
       exec (.flyUcodeEngineLoaded e v) s = .next s)) ∧
   ∀ s : State,
     (s.canServes = false → (∀ w x d g, exec (.usdoInitiate w x d g) s = .next s) ∧ ∀ d l, exec (.usdoSegment d l) s = .next s) ∧
     (s.canServes = true → (∀ x d, ∃ s', exec (.usdoInitiate true x d true) s = .next s' ∧ s'.od = s.od ∧ CanSaid s' 0 ∧
       ∃ u, s'.can.usdo = some u ∧ u.write = true ∧ u.addr = x ∧ u.data = d) ∧
       (s.can.usdo = none → ∀ d l, ∃ s', exec (.usdoSegment d l) s = .next s' ∧ s'.od = s.od ∧ CanSaid s' 0x05040001) ∧
       (∀ u d, s.can.usdo = some u → u.write = true → ∃ s', exec (.usdoSegment d false) s = .next s' ∧ s'.od = s.od ∧
         s'.can.usdo = some { u with data := u.data ++ d }) ∧
       (∀ u d l, s.can.usdo = some u → u.write = false → ∃ s', exec (.usdoSegment d l) s = .next s' ∧ s'.can.usdo = none ∧
         s'.outbox = s.outbox ++ [.can 3 (0 :: u.data)])) ∧
     (s.can.usdo = none → exec .usdoTimeout s = .next s) ∧
     (∀ u, s.can.usdo = some u → ∃ s', exec .usdoTimeout s = .next s' ∧ s'.can.usdo = none ∧ CanSaid s' 0x05040000)) ∧
  (∀ s : State,
     (s.nmtHears = false → (∀ i ∈ [Instr.nmtStart, .nmtStop, .nmtPreOperational, .nmtResetCommunication, .nmtResetNode, .heartbeat],
         exec i s = .next s) ∧ ∀ n, exec (.tpdoEvent n) s = .next s) ∧
     (s.nmtHears = true →
       (∃ s', exec .nmtStart s = .next s' ∧ s'.can.nmt = .operational ∧ s'.od = s.od ∧ s'.mem = s.mem) ∧
       (∃ s', exec .nmtStop s = .next s' ∧ s'.can.nmt = .stopped ∧ s'.can.usdo = none ∧ s'.od = s.od ∧ s'.mem = s.mem) ∧
       (∃ s', exec .nmtPreOperational s = .next s' ∧ s'.can.nmt = .preOperational ∧ s'.od = s.od ∧ s'.mem = s.mem) ∧
       (∃ s', exec .nmtResetCommunication s = .next s' ∧ s'.can.nmt = .preOperational ∧ s'.mem = s.mem ∧
         s'.od = takeEntries (fun e => decide (e.1 < 0x2000)) (s.store.records.load s.house.nodeId.toNat) s.od) ∧
       (∃ s', exec .nmtResetNode s = .next s' ∧ s'.house.restarting = true ∧ s'.can.bootDue = true ∧ s'.mem = s.mem) ∧
       (s.hmServes = true → s.cfgNum 0x1017 0 0 2 ≠ 0 → exec .heartbeat s = .next (s.send (.can 0
         [match s.can.nmt with | .stopped => 0x04 | .operational => 0x05 | .preOperational => 0x7F]))) ∧
       (s.cfgNum 0x1017 0 0 2 = 0 → exec .heartbeat s = .next s) ∧
       (∀ n : Fin 4, s.hmServes = true → s.can.nmt = .operational → s.cfgByte (0x1800 + n.val) 1 3 < 0x80 →
         s.cfgNum (0x1800 + n.val) 5 0 2 ≠ 0 → exec (.tpdoEvent n) s =
           .next (s.send (.can 2 (BitVec.ofNat 8 (n.val + 1) :: s.tpdoBytes n.val)))) ∧
       (∀ n : Fin 4, s.can.nmt ≠ .operational → exec (.tpdoEvent n) s = .next s)) ∧
     (s.emcyFree = false → s.can.inhibited = false → exec .emcyInhibit s = .next s) ∧
     (∀ e es, s.can.queue = e :: es → s.can.inhibited = true → s.hmServes = true → s.house.nodeId ≠ 0 → s.can.nmt ≠ .stopped →
       s.cfgNum 0x1015 0 0 2 ≠ 0 → ∃ s', exec .emcyInhibit s = .next s' ∧ s'.can.queue = es ∧ s'.can.inhibited = true ∧
         s'.outbox = s.outbox ++ [.can 1 (emcyBytes e s.errorReg)]) ∧
     (s.house.started = true → s.house.nodeId ≠ 0 → ∃ s', exec .busOff s = .next s' ∧ s'.can.busOffRecent = true ∧ s'.mem = s.mem ∧
       s'.can.errorReg.getLsbD 4 = true) ∧
     ∃ s', exec .busOffWindowExpiry s = .next s' ∧ s'.can.busOffRecent = false ∧ s'.mem = s.mem)

/-! ## The store, starts and restarts -/

/-- The CAN FD node serves under a house manager and nothing is held or waits to be sent; the package may be show-ready or in ghost-light mode. -/
abbrev Sys2Proof.Machine.OnNode (s : State) : Prop :=
  s.canServes = true ∧ s.dictServes = true ∧ s.store.romRecovery = false ∧ Quiet s

/-- R397: which of two banks is newer and which is current. -/
def Obligations.CurrentBank : Prop :=
  (∀ a b : W64, newer a b = true ↔ 1 ≤ (a.toNat + 2 ^ 64 - b.toNat) % 2 ^ 64 ∧ (a.toNat + 2 ^ 64 - b.toNat) % 2 ^ 64 ≤ 2 ^ 63 - 1) ∧
  (∀ a b : W64, newer a b = false → newer b a = false → a = b ∨ (a.toNat + 2 ^ 63) % 2 ^ 64 = b.toNat) ∧
  ∀ t : Store,
    (t.bank0.valid = true → t.bank1.valid = true →
      (newer t.bank0.seq t.bank1.seq = true → t.current = some 0) ∧ (newer t.bank1.seq t.bank0.seq = true → t.current = some 1) ∧
      (newer t.bank0.seq t.bank1.seq = false → newer t.bank1.seq t.bank0.seq = false → t.current = some 0)) ∧
    (t.bank0.valid = true → t.bank1.valid = false → t.current = some 0) ∧
    (t.bank0.valid = false → t.bank1.valid = true → t.current = some 1)

/-- R409 to R411, Table 16-6: BEGIN opens a staging area, IMAGE fills it, ACTIVATE tests the image and queues its bank write or refuses it,
ABANDON closes the area, RETRY_START and GHOST_NEXT queue their bank writes; each is refused in a state that does not take it. An owner
request that passes queues its write. A nonce asks for a report, which is signed over the nonce it took.
R397 to R399: a bank write invalidates its target and leaves the bank in force; once complete, the target is valid, its SEQ one more, and it is the
newer bank. A write that fails leaves the banks as they are and ends its operation with 0x0606_0000; with the other bank bad too the package halts.
Nothing begins while another write runs or the house manager restarts. -/
def Obligations.StoreAndAttestation : Prop :=
  ((∀ s : State, OnNode s → let z := bytesLE 3 0
     (∀ arg, arg < 2 ^ 24 → let d := bytesLE 3 arg
       (s.store.state = 0 → arg = 1 ∨ arg = 2 → ∃ s', exec (.storeBegin .can d) s = .next s' ∧
         s'.store = { s.store with state := 1, stagingType := arg, staging := [] } ∧ CanSaid s' 0) ∧
       (s.store.state = 0 → arg ≠ 1 → arg ≠ 2 → ∃ s', exec (.storeBegin .can d) s = .next s' ∧ s'.store = s.store ∧ CanSaid s' 0x06090030) ∧
       (s.store.state ≠ 0 → ∃ s', exec (.storeBegin .can d) s = .next s' ∧ s'.store = s.store ∧ CanSaid s' 0x08000022)) ∧
     (s.store.state = 1 →
       (∃ s', exec (.activate .can z) s = .next s' ∧ CanSaid s' 0 ∧ s'.store =
         if imageOk s.store.owners s.store.stagingType s.store.staged then { s.store with state := 2, jobs := s.store.jobs ++ [.image] }
         else { s.store with state := 0, stagingType := 0, result := 0x08000020 }) ∧
       (∃ s', exec (.abandon .can z) s = .next s' ∧ CanSaid s' 0 ∧
         s'.store = { s.store with state := 0, stagingType := 0, staging := [] }) ∧
       (∀ off (d : List Byte), off + d.length ≤ 16777216 → Memory.wf s.store.staging = true → ∃ s', exec (.image .can off d) s = .next s' ∧
         CanSaid s' 0 ∧ (∀ (i : Nat) (b : Byte), d[i]? = some b → SMap.get 0 s'.store.staging (off + i) = b) ∧
         ∀ a, a < off ∨ off + d.length ≤ a → SMap.get 0 s'.store.staging a = SMap.get 0 s.store.staging a)) ∧
     (s.store.state ≠ 1 → (∀ i ∈ [Instr.activate .can z, .abandon .can z, .image .can 0 [0]], ∃ s', exec i s = .next s' ∧
       s'.store = s.store ∧ CanSaid s' 0x08000022)) ∧
     (s.store.state = 0 → ∃ s', exec (.ghostNext .can z) s = .next s' ∧ CanSaid s' 0 ∧
       s'.store = { s.store with jobs := s.store.jobs ++ [.ghost] }) ∧
     (s.house.deviceState = 2 → s.house.ghostReason = 1 ∨ s.house.ghostReason = 5 ∨ s.house.ghostReason = 6 → ∃ s',
       exec (.retryStart .can z) s = .next s' ∧ CanSaid s' 0 ∧ s'.store = { s.store with jobs := s.store.jobs ++ [.countZero true] }) ∧
     (s.house.deviceState = 1 → ∃ s', exec (.retryStart .can z) s = .next s' ∧ s'.store = s.store ∧ CanSaid s' 0x08000022) ∧
     (∀ d : List Byte, d.length = 5325 →
       (2 ≤ s.store.state → ∃ s', exec (.ownerRequest .can d) s = .next s' ∧ s'.store = s.store ∧ CanSaid s' 0x08000022) ∧
       (s.store.state ≤ 1 → ∃ s', exec (.ownerRequest .can d) s = .next s' ∧ match ownerRequest s.store d with
         | .ok (slot, hash) => CanSaid s' 0 ∧ s'.store = { s.store with state := 4, jobs := s.store.jobs ++ [.owner slot hash] }
         | .error e => CanSaid s' e ∧ s'.store = s.store)) ∧
     (∀ d : List Byte, d.length = 32 → s.house.ghostReason ≠ 4 → ∃ s', exec (.nonce .can d) s = .next s' ∧ CanSaid s' 0 ∧
       s'.store = { s.store with nonce := d, attest := 1 })) ∧
   ∀ s : State,
     (s.store.attest ≠ 1 → exec .reportSigned s = .next s) ∧
     (s.store.attest = 1 → s.store.nonce.length = 32 → ∃ s', exec .reportSigned s = .next s' ∧ s'.store.attest = 2 ∧
       s'.store.report.length = 6701 ∧ (s'.store.report.drop 0x20).take 32 = s.store.nonce ∧ s'.mem = s.mem)) ∧
  (∀ s : State, let t := s.store
     ((t.jobs = [] ∨ s.house.started = false ∨ s.house.restarting = true ∨ t.writing.isSome = true) → exec .bankWrite s = .next s) ∧
     (t.writing = none → ∀ f b, exec (.bankWriteComplete f b) s = .next s) ∧
     (∀ j js, t.jobs = j :: js → s.house.started = true → s.house.restarting = false → t.writing = none → ∃ s', exec .bankWrite s = .next s' ∧
       s'.store.writing = some j ∧ s'.store.jobs = js ∧ (s'.store.bank t.target).valid = false ∧
       s'.store.bank (1 - t.target) = t.bank (1 - t.target) ∧ s'.mem = s.mem ∧ s'.od = s.od ∧
       (∀ i, t.base = some i → s'.store.base = some i ∧ i = 1 - t.target)) ∧
     ∀ sub, t.writing = some (.save sub) →
       (∃ s', exec (.bankWriteComplete none false) s = .next s' ∧ s'.store.writing = none ∧ s'.store.result = 0 ∧
         s'.store.state = t.rest ∧ s'.store.bank (1 - t.target) = t.bank (1 - t.target) ∧ s'.mem = s.mem ∧
         ∀ i, t.base = some i → s'.store.current = some t.target ∧ (s'.store.bank t.target).seq = (t.bank i).seq + 1) ∧
       ∀ sec : Fin 8, ∃ s', exec (.bankWriteComplete (some sec) false) s = .next s' ∧ s'.store.writing = none ∧ s'.store.result = 0x06060000 ∧
         s'.store.bank0 = t.bank0 ∧ s'.store.bank1 = t.bank1 ∧ s'.mem = s.mem ∧
         (s.house.deviceState ≠ 3 → ∃ s', exec (.bankWriteComplete (some sec) true) s = .next s' ∧ s'.house.deviceState = 3 ∧
           s'.house.haltCause = 0x14))

/-- R402 to R405, R427: the ROM's decision at a package start: no image that passes leads to ROM recovery in ghost-light mode, three failed starts to
ghost-light mode, and else the failed-start count is to be written and the package starts with the bank's settings. Show-ready waits while coolant is
stopped; a start that has none left of its cores is ghost light.
R344, R404: the watchdog of a package that is not show-ready resets it, and else the house manager restarts, with a class 1 record of unit type
0x0A; a restart that ends runs the image of the bank in force, and memory, settings and tasks stand. -/
def Obligations.StartsAndRestarts : Prop :=
  ((∀ (s : State) (u : StartReport), s.house.started = true ∨ s.pins.refclk = false → exec (.packageStart u) s = .next s) ∧
   (∀ (s : State) (u : StartReport), s.house.started = false → s.pins.refclk = true → s.house.ready = [] → Quiet s →
     let t := s.store.found u
     let boots := t.order.find? fun i => (t.bank i).boots
     ∃ s', exec (.packageStart u) s = .next s' ∧ s'.house.started = true ∧ s'.house.nodeId = u.nodeId ∧
     (boots = none → s'.house.deviceState = 2 ∧ s'.house.ghostReason = (if t.order = [] then 2 else 3) ∧ s'.store.romRecovery = true ∧
       s'.pins.laserReq = 0) ∧
     ∀ i, boots = some i → s'.store.boot = i ∧ ((t.bank i).puf = true → u.pufOk = true → (t.bank i).ghostRequest = false →
       ((t.bank i).failedStarts < 3 → s'.house.deviceState = s.house.deviceState ∧ s'.store.jobs.head? = some .countUp ∧
         (SMap.find? (odKey 0x2904 1 0) ((t.bank i).load u.nodeId.toNat) = none → s'.od = (t.bank i).load u.nodeId.toNat)) ∧
       (3 ≤ (t.bank i).failedStarts → s'.house.deviceState = 2 ∧ s'.house.ghostReason = 1))) ∧
   (∀ (s : State) (u : SelfTest),
     ((s.house.running = false ∨ s.house.restarting = true ∨ s.house.deviceState ≠ 0 ∨ s.therm.coolantState = 2 ∨ s.therm.coolantState = 3) →
       exec (.showReady u) s = .next s) ∧
     (s.house.running = true → s.house.restarting = false → s.house.deviceState = 0 → s.therm.coolantState = 0 → u.failed = [] →
       s.faults.withdrawnH.contains 0 = false →
       ((∃ k, k < 256 ∧ s.faults.retiredCores.contains k = false) → ∃ s', exec (.showReady u) s = .next s' ∧ s'.house.deviceState = 1 ∧
         s'.pins.pkgReady = true ∧ s'.store.jobs = s.store.jobs ++ [.countZero false] ∧
         ((∀ p, p < 128 → bit (s.partRec p) 0 = false) → s'.mem = s.mem ∧ s'.od = s.od)) ∧
       ((∀ k, k < 256 → s.faults.retiredCores.contains k = true) → ∃ s', exec (.showReady u) s = .next s' ∧ s'.house.deviceState = 2 ∧
         s'.house.ghostReason = 5 ∧ s'.pins.pkgReady = false ∧ s'.mem = s.mem))) ∧
   ∀ s : State,
     (s.house.started = true → s.house.deviceState = 0 → exec .startTimeout s = .next s.packageReset) ∧
     ((s.house.started = false ∨ s.house.deviceState ≠ 0) → exec .startTimeout s = .next s) ∧
     s.packageReset.mem = State.reset.mem ∧ s.packageReset.house = State.reset.house ∧ s.packageReset.od = State.reset.od ∧
     s.packageReset.store.bank0 = s.store.bank0 ∧ s.packageReset.store.bank1 = s.store.bank1 ∧ s.packageReset.pending = s.pending) ∧
  (∀ s : State,
     (s.hmServes = false → exec .watchdogExpiry s = .next s) ∧
     (s.hmServes = true → s.house.deviceState = 0 ∨ s.house.deviceState = 2 → exec .watchdogExpiry s = .next s.packageReset) ∧
     (s.hmServes = true → s.house.deviceState = 1 → ∃ s', exec .watchdogExpiry s = .next s' ∧ s'.house.restarting = true ∧ s'.house.deviceState = 1 ∧
       s'.mem = s.mem ∧ s'.od = s.od ∧ s'.tasks = s.tasks ∧ ∃ r, SMap.find? s.faults.next s'.faults.log = some (s.clk.ticks, r) ∧ r.cls = 1 ∧
       r.unitType = 0x0A) ∧
     (s.house.restarting = false → exec .hmRestartComplete s = .next s) ∧
     ∀ i, s.house.restarting = true → s.store.base = some i → s.house.ready = [] → Quiet s → ∃ s', exec .hmRestartComplete s = .next s' ∧
       s'.house.running = true ∧ s'.house.restarting = false ∧ s'.mem = s.mem ∧ s'.od = s.od ∧ s'.tasks = s.tasks ∧
       let ok := imageOk s.store.owners 1 (s.store.bank i).hm = true ∨ (s.store.bank (1 - i)).valid = false
       (ok → s'.store.hmVersion = imageVersion (s.store.bank i).hm) ∧
       (¬ ok → s'.store.hmVersion = imageVersion (s.store.bank (1 - i)).hm ∧ (s'.store.bank i).valid = false))

/-! ## The host port -/

/-- R421 to R423: an aperture on a 64 GiB boundary is taken, another is ignored and counted. A BAR4 read of an aligned doubleword of this
package's memory completes with its bytes, a write stores its bytes and nothing else; a refused one completes with UR, or is dropped, with the first failure
recorded, which a read of the record returns and clears. Outside service reads complete with UR and writes are dropped. -/
def Obligations.HostMemory : Prop :=
  ∀ (s : State) (f : Fin 129),
    (s.fnExists f.val = false → (∀ v, exec (.aperture f v) s = .next s) ∧ exec (.bar4FaultStatusRead f) s = .next s ∧
      ∀ off n d, exec (.bar4Read f off n) s = .next s ∧ exec (.bar4Write f off d) s = .next s) ∧
    (s.barsUp = true → s.fnExists f.val = true →
      (∀ v : W64, v.toNat % 2 ^ 36 = 0 → exec (.aperture f v) s = .next (s.setHostFn f.val { s.hostFn f.val with aperture := v })) ∧
      (∀ v : W64, v.toNat % 2 ^ 36 ≠ 0 → exec (.aperture f v) s = .next (s.count .fnDoorbellErrors f.val)) ∧
      ∃ s', exec (.bar4FaultStatusRead f) s = .next s' ∧ (s'.hostFn f.val).faultStatus = 0 ∧ (s'.hostFn f.val).faultAddr = 0 ∧
        (s'.hostFn f.val).aperture = (s.hostFn f.val).aperture ∧
        s'.outbox = s.outbox ++ [.completion f.val true (bytesLE 8 (s.hostFn f.val).faultStatus.toNat)]) ∧
    (s.house.started = true → s.fnExists f.val = true → ∀ off,
      (s.serving = false → (∀ n, exec (.bar4Read f off n) s = .next ((s.send (.aer f.val
          (if s.house.deviceState = 3 then .internal else .unsupportedRequest))).send (.completion f.val false []))) ∧
        ∀ d, exec (.bar4Write f off d) s = .next s) ∧
      (s.serving = true → Quiet s → (∀ q ∈ s.fab.pend, q.kind ≠ .bar4Write f.val) → s.coolantHeld = false → let a := s.bar4Addr f.val off
        let l := a % 2 ^ 52
        a % 8 = 0 →
        (s.hostPlace f.val (BitVec.ofNat 64 a) = .here l → windowOf l ≠ .control → s.homeHeld none l 8 = false →
          (s.hostAllows f.val l 8 false = true → s.poisonAt l 8 = none → ∃ s', exec (.bar4Read f off 8) s = .next s' ∧ s'.mem = s.mem ∧
            s'.outbox = s.outbox ++ [.completion f.val true (s.bytes l 8)]) ∧
          (s.hostAllows f.val l 8 true = true → s.copies l 8 none = [] → Memory.wf s.mem = true → ∀ d : List Byte, d.length = 8 →
            ∃ s', exec (.bar4Write f off d) s = .next s' ∧ s'.outbox = s.outbox ∧
            (∀ (i : Nat) (b : Byte), d[i]? = some b → s'.byte (l + i) = b) ∧ ∀ m, m < l ∨ l + 8 ≤ m → s'.byte m = s.byte m)) ∧
        (s.hostPlace f.val (BitVec.ofNat 64 a) = .refused → (s.hostFn f.val).faultStatus = 0 →
          (∃ s', exec (.bar4Read f off 8) s = .next s' ∧ s'.mem = s.mem ∧ s'.outbox = s.outbox ++ [.aer f.val .unsupportedRequest, .completion f.val false []] ∧
            (s'.hostFn f.val).faultStatus = 0x15 ∧ (s'.hostFn f.val).faultAddr = BitVec.ofNat 64 a) ∧
          ∀ d : List Byte, d.length = 8 → ∃ s', exec (.bar4Write f off d) s = .next s' ∧ s'.mem = s.mem ∧ s'.outbox = s.outbox ++ [.aer f.val .unsupportedRequest] ∧
            (s'.hostFn f.val).faultStatus = 0x15 ∧ (s'.hostFn f.val).faultAddr = BitVec.ofNat 64 a)))

/-- R414, R416, R419, R420: an FLR of a VF returns its page to the defaults and resets its partition, one of the PF its page alone; PERST does so for every
function and resets no partition; VFs exist by NumVFs. A queue's message is sent when its TIME has passed, or its vector's Pending Bit is set while
masked, and unmasking sends it. -/
def Obligations.FunctionsAndInterrupts : Prop :=
  (∀ (s : State) (f : Fin 129),
    (s.fnExists f.val = false → exec (.flr f) s = .next s ∧ exec (.atsInvalidate f) s = .next s) ∧
    (f.val = 0 → ∃ s', exec (.flr f) s = .next s' ∧ s'.hostFn 0 = {} ∧ s'.parts = s.parts ∧ s'.queues = s.queues ∧ s'.mem = s.mem ∧
      ∀ g, g ≠ 0 → s'.hostFn g = s.hostFn g) ∧
    (s.fnExists f.val = true → f.val ≠ 0 → (s.part (f.val - 1)).phase = .active → ∃ s', exec (.flr f) s = .next s' ∧ s'.hostFn f.val = {} ∧
      (s'.part (f.val - 1)).phase = .reset ∧ ∀ e ∈ s'.tasks, e.2.part ≠ f.val - 1) ∧
    (s.fnExists f.val = true → s.house.started = true → exec (.atsInvalidate f) s = .next (s.send (.atsDone f.val))) ∧
    ∀ v : Fin 33, let h := s.hostFn f.val
      ((s.fnExists f.val = false ∨ vectors f.val ≤ v.val ∨ h.unmasked.contains v.val = true) → exec (.msixUnmask f v) s = .next s) ∧
      (s.fnExists f.val = true → v.val < vectors f.val → h.unmasked.contains v.val = false → ∃ s', exec (.msixUnmask f v) s = .next s' ∧
        v.val ∈ (s'.hostFn f.val).unmasked ∧ v.val ∉ (s'.hostFn f.val).pendingVec ∧
        s'.outbox = s.outbox ++ (if h.pendingVec.contains v.val then [.msix f.val v.val] else []))) ∧
  (∀ s : State, ∃ s', exec .perst s = .next s' ∧ s'.numVfs = 0 ∧ s'.parts = s.parts ∧ s'.tasks = s.tasks ∧ s'.mem = s.mem ∧ s'.od = s.od ∧
    ∀ f, f ≤ s.numVfs → s'.hostFn f = {}) ∧
  (∀ (s : State) (n : Fin 129),
    (s.house.running = false → s.store.romRecovery = false → exec (.numvfs n) s = .next s) ∧
    (s.house.running = true → ∃ s', exec (.numvfs n) s = .next s' ∧ s'.numVfs = n.val ∧ s'.parts = s.parts ∧ s'.mem = s.mem ∧
      (s.numVfs ≤ n.val → s' = { s with numVfs := n.val }) ∧ ∀ f, n.val < f → f ≤ s.numVfs → s'.hostFn f = {})) ∧
  ∀ (s : State) (p : Fin 128) (n : Fin 32), let c := 0x8000 + p.val * 128 + n.val
    let x := s.queue c
    let h := s.hostFn (p.val + 1)
    (fld x.coalesce 25 16 = 0 ∨ x.sinceMsg = 0 → exec (.interruptTimer p n) s = .next s) ∧
    (fld x.coalesce 25 16 ≠ 0 → x.sinceMsg ≠ 0 → s.fnExists (p.val + 1) = true → ∃ s', exec (.interruptTimer p n) s = .next s' ∧
      (s'.queue c).sinceMsg = 0 ∧ s'.mem = s.mem ∧
      (h.unmasked.contains n.val = true → s'.outbox = s.outbox ++ [.msix (p.val + 1) n.val]) ∧
      (h.unmasked.contains n.val = false → s'.outbox = s.outbox ∧ n.val ∈ (s'.hostFn (p.val + 1)).pendingVec))

/-! ## Lands, rails and references -/

/-- R427, R428, R434, R435: MGMT_RST# and the loss of VAUX leave the block as reset leaves it, with the banks, and release THERMTRIP#; a rail out of its
limits and the loss of the reference halt a started package with their causes; LASER_OK low darkens its four ports and leaves the
laser requests. -/
def Obligations.LandEvents : Prop :=
  ∀ s : State,
    (∀ i ∈ [Instr.mgmtRst, .vauxLoss], ∃ s', exec i s = .next s' ∧ s'.mem = State.reset.mem ∧ s'.house = State.reset.house ∧
      s'.od = State.reset.od ∧ s'.tasks = State.reset.tasks ∧ s'.pins.thermTrip = false ∧ s'.pins.refclk = s.pins.refclk ∧
      s'.pins.laserOk = s.pins.laserOk ∧ s'.pins.laserReq = 0 ∧ s'.store.bank0 = s.store.bank0 ∧ s'.store.bank1 = s.store.bank1) ∧
    (∃ s', exec .mgmtRst s = .next s' ∧ s'.pins.mgmtRst = true) ∧
    (∀ (r : Fin 18) (mv : Nat), let out := 10 * mv < 9 * s.setPoint r.val ∨ railMax r.val < mv
      ((¬ out ∨ s.house.started = false) → exec (.railFault r mv) s = .next s) ∧
      (out → s.house.started = true → s.house.deviceState ≠ 3 → ∃ s', exec (.railFault r mv) s = .next s' ∧ s'.house.deviceState = 3 ∧
        s'.house.haltCause = 0x15 ∧ s'.pins.laserReq = 0 ∧ s'.mem = s.mem ∧ ∃ w, SMap.find? s.faults.next s'.faults.log = some (s.clk.ticks, w) ∧
        w.cls = 4 ∧ w.cause = 0x15 ∧ w.detail = BitVec.ofNat 64 r.val ∧ w.detail2 = BitVec.ofNat 64 mv)) ∧
    (s.house.started = false → exec .refclkLoss s = .next { s with pins := { s.pins with refclk := false } }) ∧
    (s.house.started = true → s.house.deviceState ≠ 3 → ∃ s', exec .refclkLoss s = .next s' ∧ s'.house.deviceState = 3 ∧
      s'.house.haltCause = 0x16 ∧ s'.pins.refclk = false ∧ s'.mem = s.mem) ∧
    (s.house.ready = [] → exec .refclkReturn s = .next { s with pins := { s.pins with refclk := true } }) ∧
    ∀ q : Fin 6,
      (∃ s', exec (.laserOkChange q true) s = .next s' ∧ s'.pins.laserOk.getLsbD q.val = true ∧ s'.fab = s.fab ∧ s'.mem = s.mem) ∧
      ∃ s', exec (.laserOkChange q false) s = .next s' ∧ s'.pins.laserOk.getLsbD q.val = false ∧ s'.pins.laserReq = s.pins.laserReq ∧
        s'.mem = s.mem ∧ ∀ n, n < 24 → (s'.port n).phase =
          if n / 4 = q.val ∧ (s.port n).phase ≠ .retired then .dark else (s.port n).phase
end

