-- ==== Sys2Proof/Laws/SMap.lean ====
section
/-! SUPPORT. Laws of sparse maps: a read after a write, and the canonical form kept by every operation. -/

namespace Sys2Proof.SMap

variable {α : Type}

@[simp] theorem find?_nil (k : Nat) : find? (α := α) k [] = none := rfl

/-- What a put map holds: the new value under its key, the old ones elsewhere. -/
theorem find?_put (k j : Nat) (x : α) (m : SMap α) :
    find? j (put k x m) = if j = k then some x else find? j m := by
  induction m with
  | nil => by_cases h : j = k <;> simp [put, find?, h]
  | cons e m ih =>
    obtain ⟨i, v⟩ := e
    by_cases h1 : k = i
    · subst h1; by_cases h : j = k <;> simp [put, find?, h]
    · by_cases h2 : k < i
      · by_cases h : j = k
        · subst h; simp [put, find?, h1, h2]
        · by_cases h3 : j < k
          · have : j < i := by omega
            have h4 : j ≠ i := by omega
            simp only [put, h1, h2, if_false, if_true, find?, h, h3, h4, this]
          · simp [put, find?, h1, h2, h, h3]
      · by_cases h : j = k
        · subst h; simp [put, find?, h1, h2, ih]
        · simp [put, find?, h1, h2, ih, h]

@[simp] theorem find?_put_self (k : Nat) (x : α) (m : SMap α) : find? k (put k x m) = some x := by
  simp [find?_put]

theorem find?_put_ne {k j : Nat} (h : j ≠ k) (x : α) (m : SMap α) : find? j (put k x m) = find? j m := by
  simp [find?_put, h]

@[simp] theorem get_put_self (d : α) (k : Nat) (x : α) (m : SMap α) : get d (put k x m) k = x := by simp [get]

theorem get_put (d : α) (k j : Nat) (x : α) (m : SMap α) :
    get d (put k x m) j = if j = k then x else get d m j := by
  by_cases h : j = k <;> simp [get, find?_put, h]

/-- Keys at or above a higher bound are at or above a lower one. -/
theorem sortedFrom_mono {lo hi : Nat} (h : lo ≤ hi) : ∀ {m : SMap α}, sortedFrom hi m = true → sortedFrom lo m = true
  | [], _ => rfl
  | (j, v) :: m, hm => by
    simp only [sortedFrom, Bool.and_eq_true, decide_eq_true_eq] at hm ⊢
    exact ⟨by omega, hm.2⟩

/-- A key below every key of a sorted map is not there. -/
theorem find?_below {k lo : Nat} (h : k < lo) : ∀ {m : SMap α}, sortedFrom lo m = true → find? k m = none
  | [], _ => rfl
  | (j, v) :: m, hm => by
    simp only [sortedFrom, Bool.and_eq_true, decide_eq_true_eq] at hm
    have : k ≠ j := by omega
    have : k < j := by omega
    simp [find?, *]

/-- What a map holds once a key is deleted. -/
theorem find?_del (k j : Nat) : ∀ {lo : Nat} {m : SMap α}, sortedFrom lo m = true →
    find? j (del k m) = if j = k then none else find? j m
  | _, [], _ => by simp [del]
  | lo, (i, v) :: m, hm => by
    have hm' := hm
    simp only [sortedFrom, Bool.and_eq_true, decide_eq_true_eq] at hm
    have ih := find?_del k j hm.2
    by_cases h1 : k = i
    · subst h1
      by_cases h : j = k
      · subst h; simp [del, find?_below (Nat.lt_succ_self _) hm.2]
      · by_cases h2 : j < k
        · simp [del, find?, h, h2, find?_below (show j < k + 1 by omega) hm.2]
        · simp [del, find?, h, h2]
    · by_cases h2 : k < i
      · by_cases h : j = k
        · subst h
          have := find?_below (show j < i by omega) (m := (i, v) :: m) (by simp [sortedFrom, hm.2])
          simp [del, h1, h2, find?]
        · simp [del, h1, h2, h]
      · by_cases h : j = k
        · subst h; simp [del, find?, h1, h2, ih]
        · simp [del, find?, h1, h2, ih, h]

/-- Read after write in a map with a default. -/
theorem get_set [DecidableEq α] (d : α) (k j : Nat) (x : α) {m : SMap α} (hm : sorted m = true) :
    get d (set d m k x) j = if j = k then x else get d m j := by
  unfold set
  by_cases hx : x = d
  · rw [if_pos hx, get, find?_del k j hm]
    by_cases h : j = k
    · simp [h, hx]
    · simp [h, get]
  · simp [hx, get_put]

theorem sortedFrom_put {k : Nat} (x : α) : ∀ {lo : Nat} {m : SMap α}, lo ≤ k → sortedFrom lo m = true →
    sortedFrom lo (put k x m) = true
  | _, [], hk, _ => by simp [put, sortedFrom, hk]
  | lo, (i, v) :: m, hk, hm => by
    simp only [sortedFrom, Bool.and_eq_true, decide_eq_true_eq] at hm
    by_cases h1 : k = i
    · subst h1; simp [put, sortedFrom, hm.1, hm.2]
    · by_cases h2 : k < i
      · simp [put, sortedFrom, h1, h2, hk, hm.2]
      · have := sortedFrom_put x (show i + 1 ≤ k by omega) hm.2
        simp [put, sortedFrom, h1, h2, hm.1, this]

theorem sortedFrom_del (k : Nat) : ∀ {lo : Nat} {m : SMap α}, sortedFrom lo m = true → sortedFrom lo (del k m) = true
  | _, [], _ => rfl
  | lo, (i, v) :: m, hm => by
    have hm' := hm
    simp only [sortedFrom, Bool.and_eq_true, decide_eq_true_eq] at hm
    by_cases h1 : k = i
    · simp only [del, h1, if_true]; exact sortedFrom_mono (by omega) hm.2
    · by_cases h2 : k < i
      · simpa [del, h1, h2] using hm'
      · simp [del, sortedFrom, h1, h2, hm.1, sortedFrom_del k hm.2]

theorem sortedFrom_filter (f : Nat × α → Bool) : ∀ {lo : Nat} {m : SMap α}, sortedFrom lo m = true →
    sortedFrom lo (m.filter f) = true
  | _, [], _ => rfl
  | lo, (i, v) :: m, hm => by
    simp only [sortedFrom, Bool.and_eq_true, decide_eq_true_eq] at hm
    have ih := sortedFrom_filter f hm.2
    by_cases h : f (i, v)
    · simp [List.filter, h, sortedFrom, hm.1, ih]
    · simp only [List.filter, h]; exact sortedFrom_mono (by omega) ih

theorem mem_put {k : Nat} {x : α} {e : Nat × α} : ∀ {m : SMap α}, e ∈ put k x m → e = (k, x) ∨ e ∈ m
  | [], h => by simp [put] at h; exact .inl h
  | (i, v) :: m, h => by
    by_cases h1 : k = i
    · simp only [put, h1, if_true, List.mem_cons] at h ⊢; tauto
    · by_cases h2 : k < i
      · simp only [put, h1, h2, if_true, if_false, List.mem_cons] at h ⊢; tauto
      · simp only [put, h1, h2, if_false, List.mem_cons] at h ⊢
        rcases h with h | h
        · tauto
        · rcases mem_put h with h | h <;> tauto

theorem mem_del {k : Nat} {e : Nat × α} : ∀ {m : SMap α}, e ∈ del k m → e ∈ m
  | [], h => by simp [del] at h
  | (i, v) :: m, h => by
    by_cases h1 : k = i
    · simp only [del, h1, if_true] at h; exact List.mem_cons_of_mem _ h
    · by_cases h2 : k < i
      · simpa [del, h1, h2] using h
      · simp only [del, h1, h2, if_false, List.mem_cons] at h ⊢
        rcases h with h | h
        · exact .inl h
        · exact .inr (mem_del h)

/-- A write keeps the canonical form. -/
theorem wf_set [DecidableEq α] (d : α) (k : Nat) (x : α) {m : SMap α} (hm : wf d m = true) :
    wf d (set d m k x) = true := by
  simp only [wf, sorted, Bool.and_eq_true, List.all_eq_true, decide_eq_true_eq] at hm ⊢
  unfold set
  by_cases hx : x = d
  · simp only [hx, if_true]
    exact ⟨sortedFrom_del k hm.1, fun e he => hm.2 e (mem_del he)⟩
  · simp only [hx, if_false]
    refine ⟨sortedFrom_put x (Nat.zero_le k) hm.1, fun e he => ?_⟩
    rcases mem_put he with rfl | h
    · exact hx
    · exact hm.2 e h

/-- Leaving entries out keeps the canonical form. -/
theorem wf_keep [DecidableEq α] (d : α) (f : Nat → α → Bool) {m : SMap α} (hm : wf d m = true) :
    wf d (keep f m) = true := by
  simp only [wf, sorted, Bool.and_eq_true, List.all_eq_true, decide_eq_true_eq] at hm ⊢
  exact ⟨sortedFrom_filter _ hm.1, fun e he => hm.2 e (List.mem_of_mem_filter he)⟩

end Sys2Proof.SMap
end

