-- ==== Sys2Proof/Laws/State.lean ====
section
/-! SUPPORT. One lemma per field and named update of State: what the update leaves as it was, and what it puts. -/

namespace Sys2Proof.Machine

open Sys2Proof

variable (s : State)

/-! ## setThread -/

@[simp] theorem State.setThread_pending (t : Tid) (x : Thread) : (s.setThread t x).pending = s.pending := rfl
@[simp] theorem State.setThread_clk (t : Tid) (x : Thread) : (s.setThread t x).clk = s.clk := rfl
@[simp] theorem State.setThread_mem (t : Tid) (x : Thread) : (s.setThread t x).mem = s.mem := rfl
@[simp] theorem State.setThread_poison (t : Tid) (x : Thread) : (s.setThread t x).poison = s.poison := rfl
@[simp] theorem State.setThread_tileWrites (t : Tid) (x : Thread) : (s.setThread t x).tileWrites = s.tileWrites := rfl
@[simp] theorem State.setThread_lines (t : Tid) (x : Thread) : (s.setThread t x).lines = s.lines := rfl
@[simp] theorem State.setThread_cores (t : Tid) (x : Thread) : (s.setThread t x).cores = s.cores := rfl
@[simp] theorem State.setThread_arrays (t : Tid) (x : Thread) : (s.setThread t x).arrays = s.arrays := rfl
@[simp] theorem State.setThread_nextNo (t : Tid) (x : Thread) : (s.setThread t x).nextNo = s.nextNo := rfl
@[simp] theorem State.setThread_nextDseq (t : Tid) (x : Thread) : (s.setThread t x).nextDseq = s.nextDseq := rfl
@[simp] theorem State.setThread_entries (t : Tid) (x : Thread) : (s.setThread t x).entries = s.entries := rfl
@[simp] theorem State.setThread_tasks (t : Tid) (x : Thread) : (s.setThread t x).tasks = s.tasks := rfl
@[simp] theorem State.setThread_queues (t : Tid) (x : Thread) : (s.setThread t x).queues = s.queues := rfl
@[simp] theorem State.setThread_parts (t : Tid) (x : Thread) : (s.setThread t x).parts = s.parts := rfl
@[simp] theorem State.setThread_requests (t : Tid) (x : Thread) : (s.setThread t x).requests = s.requests := rfl
@[simp] theorem State.setThread_customers (t : Tid) (x : Thread) : (s.setThread t x).customers = s.customers := rfl
@[simp] theorem State.setThread_ctxs (t : Tid) (x : Thread) : (s.setThread t x).ctxs = s.ctxs := rfl
@[simp] theorem State.setThread_ctxExtra (t : Tid) (x : Thread) : (s.setThread t x).ctxExtra = s.ctxExtra := rfl
@[simp] theorem State.setThread_allocs (t : Tid) (x : Thread) : (s.setThread t x).allocs = s.allocs := rfl
@[simp] theorem State.setThread_objects (t : Tid) (x : Thread) : (s.setThread t x).objects = s.objects := rfl
@[simp] theorem State.setThread_keys (t : Tid) (x : Thread) : (s.setThread t x).keys = s.keys := rfl
@[simp] theorem State.setThread_fills (t : Tid) (x : Thread) : (s.setThread t x).fills = s.fills := rfl
@[simp] theorem State.setThread_fab (t : Tid) (x : Thread) : (s.setThread t x).fab = s.fab := rfl
@[simp] theorem State.setThread_dim (t : Tid) (x : Thread) : (s.setThread t x).dim = s.dim := rfl
@[simp] theorem State.setThread_therm (t : Tid) (x : Thread) : (s.setThread t x).therm = s.therm := rfl
@[simp] theorem State.setThread_faults (t : Tid) (x : Thread) : (s.setThread t x).faults = s.faults := rfl
@[simp] theorem State.setThread_od (t : Tid) (x : Thread) : (s.setThread t x).od = s.od := rfl
@[simp] theorem State.setThread_wings (t : Tid) (x : Thread) : (s.setThread t x).wings = s.wings := rfl
@[simp] theorem State.setThread_wingEntries (t : Tid) (x : Thread) : (s.setThread t x).wingEntries = s.wingEntries := rfl
@[simp] theorem State.setThread_mailboxes (t : Tid) (x : Thread) : (s.setThread t x).mailboxes = s.mailboxes := rfl
@[simp] theorem State.setThread_can (t : Tid) (x : Thread) : (s.setThread t x).can = s.can := rfl
@[simp] theorem State.setThread_store (t : Tid) (x : Thread) : (s.setThread t x).store = s.store := rfl
@[simp] theorem State.setThread_house (t : Tid) (x : Thread) : (s.setThread t x).house = s.house := rfl
@[simp] theorem State.setThread_pins (t : Tid) (x : Thread) : (s.setThread t x).pins = s.pins := rfl
@[simp] theorem State.setThread_hostFns (t : Tid) (x : Thread) : (s.setThread t x).hostFns = s.hostFns := rfl
@[simp] theorem State.setThread_numVfs (t : Tid) (x : Thread) : (s.setThread t x).numVfs = s.numVfs := rfl
@[simp] theorem State.setThread_counters (t : Tid) (x : Thread) : (s.setThread t x).counters = s.counters := rfl
@[simp] theorem State.setThread_outbox (t : Tid) (x : Thread) : (s.setThread t x).outbox = s.outbox := rfl
@[simp] theorem State.setThread_draws (t : Tid) (x : Thread) : (s.setThread t x).draws = s.draws := rfl

/-! ## setCore -/

@[simp] theorem State.setCore_pending (k : Nat) (x : Core) : (s.setCore k x).pending = s.pending := rfl
@[simp] theorem State.setCore_clk (k : Nat) (x : Core) : (s.setCore k x).clk = s.clk := rfl
@[simp] theorem State.setCore_mem (k : Nat) (x : Core) : (s.setCore k x).mem = s.mem := rfl
@[simp] theorem State.setCore_poison (k : Nat) (x : Core) : (s.setCore k x).poison = s.poison := rfl
@[simp] theorem State.setCore_tileWrites (k : Nat) (x : Core) : (s.setCore k x).tileWrites = s.tileWrites := rfl
@[simp] theorem State.setCore_lines (k : Nat) (x : Core) : (s.setCore k x).lines = s.lines := rfl
@[simp] theorem State.setCore_threads (k : Nat) (x : Core) : (s.setCore k x).threads = s.threads := rfl
@[simp] theorem State.setCore_arrays (k : Nat) (x : Core) : (s.setCore k x).arrays = s.arrays := rfl
@[simp] theorem State.setCore_nextNo (k : Nat) (x : Core) : (s.setCore k x).nextNo = s.nextNo := rfl
@[simp] theorem State.setCore_nextDseq (k : Nat) (x : Core) : (s.setCore k x).nextDseq = s.nextDseq := rfl
@[simp] theorem State.setCore_entries (k : Nat) (x : Core) : (s.setCore k x).entries = s.entries := rfl
@[simp] theorem State.setCore_tasks (k : Nat) (x : Core) : (s.setCore k x).tasks = s.tasks := rfl
@[simp] theorem State.setCore_queues (k : Nat) (x : Core) : (s.setCore k x).queues = s.queues := rfl
@[simp] theorem State.setCore_parts (k : Nat) (x : Core) : (s.setCore k x).parts = s.parts := rfl
@[simp] theorem State.setCore_requests (k : Nat) (x : Core) : (s.setCore k x).requests = s.requests := rfl
@[simp] theorem State.setCore_customers (k : Nat) (x : Core) : (s.setCore k x).customers = s.customers := rfl
@[simp] theorem State.setCore_ctxs (k : Nat) (x : Core) : (s.setCore k x).ctxs = s.ctxs := rfl
@[simp] theorem State.setCore_ctxExtra (k : Nat) (x : Core) : (s.setCore k x).ctxExtra = s.ctxExtra := rfl
@[simp] theorem State.setCore_allocs (k : Nat) (x : Core) : (s.setCore k x).allocs = s.allocs := rfl
@[simp] theorem State.setCore_objects (k : Nat) (x : Core) : (s.setCore k x).objects = s.objects := rfl
@[simp] theorem State.setCore_keys (k : Nat) (x : Core) : (s.setCore k x).keys = s.keys := rfl
@[simp] theorem State.setCore_fills (k : Nat) (x : Core) : (s.setCore k x).fills = s.fills := rfl
@[simp] theorem State.setCore_fab (k : Nat) (x : Core) : (s.setCore k x).fab = s.fab := rfl
@[simp] theorem State.setCore_dim (k : Nat) (x : Core) : (s.setCore k x).dim = s.dim := rfl
@[simp] theorem State.setCore_therm (k : Nat) (x : Core) : (s.setCore k x).therm = s.therm := rfl
@[simp] theorem State.setCore_faults (k : Nat) (x : Core) : (s.setCore k x).faults = s.faults := rfl
@[simp] theorem State.setCore_od (k : Nat) (x : Core) : (s.setCore k x).od = s.od := rfl
@[simp] theorem State.setCore_wings (k : Nat) (x : Core) : (s.setCore k x).wings = s.wings := rfl
@[simp] theorem State.setCore_wingEntries (k : Nat) (x : Core) : (s.setCore k x).wingEntries = s.wingEntries := rfl
@[simp] theorem State.setCore_mailboxes (k : Nat) (x : Core) : (s.setCore k x).mailboxes = s.mailboxes := rfl
@[simp] theorem State.setCore_can (k : Nat) (x : Core) : (s.setCore k x).can = s.can := rfl
@[simp] theorem State.setCore_store (k : Nat) (x : Core) : (s.setCore k x).store = s.store := rfl
@[simp] theorem State.setCore_house (k : Nat) (x : Core) : (s.setCore k x).house = s.house := rfl
@[simp] theorem State.setCore_pins (k : Nat) (x : Core) : (s.setCore k x).pins = s.pins := rfl
@[simp] theorem State.setCore_hostFns (k : Nat) (x : Core) : (s.setCore k x).hostFns = s.hostFns := rfl
@[simp] theorem State.setCore_numVfs (k : Nat) (x : Core) : (s.setCore k x).numVfs = s.numVfs := rfl
@[simp] theorem State.setCore_counters (k : Nat) (x : Core) : (s.setCore k x).counters = s.counters := rfl
@[simp] theorem State.setCore_outbox (k : Nat) (x : Core) : (s.setCore k x).outbox = s.outbox := rfl
@[simp] theorem State.setCore_draws (k : Nat) (x : Core) : (s.setCore k x).draws = s.draws := rfl

/-! ## setArray -/

@[simp] theorem State.setArray_pending (k : Nat) (x : ArrayUnit) : (s.setArray k x).pending = s.pending := rfl
@[simp] theorem State.setArray_clk (k : Nat) (x : ArrayUnit) : (s.setArray k x).clk = s.clk := rfl
@[simp] theorem State.setArray_mem (k : Nat) (x : ArrayUnit) : (s.setArray k x).mem = s.mem := rfl
@[simp] theorem State.setArray_poison (k : Nat) (x : ArrayUnit) : (s.setArray k x).poison = s.poison := rfl
@[simp] theorem State.setArray_tileWrites (k : Nat) (x : ArrayUnit) : (s.setArray k x).tileWrites = s.tileWrites := rfl
@[simp] theorem State.setArray_lines (k : Nat) (x : ArrayUnit) : (s.setArray k x).lines = s.lines := rfl
@[simp] theorem State.setArray_threads (k : Nat) (x : ArrayUnit) : (s.setArray k x).threads = s.threads := rfl
@[simp] theorem State.setArray_cores (k : Nat) (x : ArrayUnit) : (s.setArray k x).cores = s.cores := rfl
@[simp] theorem State.setArray_nextNo (k : Nat) (x : ArrayUnit) : (s.setArray k x).nextNo = s.nextNo := rfl
@[simp] theorem State.setArray_nextDseq (k : Nat) (x : ArrayUnit) : (s.setArray k x).nextDseq = s.nextDseq := rfl
@[simp] theorem State.setArray_entries (k : Nat) (x : ArrayUnit) : (s.setArray k x).entries = s.entries := rfl
@[simp] theorem State.setArray_tasks (k : Nat) (x : ArrayUnit) : (s.setArray k x).tasks = s.tasks := rfl
@[simp] theorem State.setArray_queues (k : Nat) (x : ArrayUnit) : (s.setArray k x).queues = s.queues := rfl
@[simp] theorem State.setArray_parts (k : Nat) (x : ArrayUnit) : (s.setArray k x).parts = s.parts := rfl
@[simp] theorem State.setArray_requests (k : Nat) (x : ArrayUnit) : (s.setArray k x).requests = s.requests := rfl
@[simp] theorem State.setArray_customers (k : Nat) (x : ArrayUnit) : (s.setArray k x).customers = s.customers := rfl
@[simp] theorem State.setArray_ctxs (k : Nat) (x : ArrayUnit) : (s.setArray k x).ctxs = s.ctxs := rfl
@[simp] theorem State.setArray_ctxExtra (k : Nat) (x : ArrayUnit) : (s.setArray k x).ctxExtra = s.ctxExtra := rfl
@[simp] theorem State.setArray_allocs (k : Nat) (x : ArrayUnit) : (s.setArray k x).allocs = s.allocs := rfl
@[simp] theorem State.setArray_objects (k : Nat) (x : ArrayUnit) : (s.setArray k x).objects = s.objects := rfl
@[simp] theorem State.setArray_keys (k : Nat) (x : ArrayUnit) : (s.setArray k x).keys = s.keys := rfl
@[simp] theorem State.setArray_fills (k : Nat) (x : ArrayUnit) : (s.setArray k x).fills = s.fills := rfl
@[simp] theorem State.setArray_fab (k : Nat) (x : ArrayUnit) : (s.setArray k x).fab = s.fab := rfl
@[simp] theorem State.setArray_dim (k : Nat) (x : ArrayUnit) : (s.setArray k x).dim = s.dim := rfl
@[simp] theorem State.setArray_therm (k : Nat) (x : ArrayUnit) : (s.setArray k x).therm = s.therm := rfl
@[simp] theorem State.setArray_faults (k : Nat) (x : ArrayUnit) : (s.setArray k x).faults = s.faults := rfl
@[simp] theorem State.setArray_od (k : Nat) (x : ArrayUnit) : (s.setArray k x).od = s.od := rfl
@[simp] theorem State.setArray_wings (k : Nat) (x : ArrayUnit) : (s.setArray k x).wings = s.wings := rfl
@[simp] theorem State.setArray_wingEntries (k : Nat) (x : ArrayUnit) : (s.setArray k x).wingEntries = s.wingEntries := rfl
@[simp] theorem State.setArray_mailboxes (k : Nat) (x : ArrayUnit) : (s.setArray k x).mailboxes = s.mailboxes := rfl
@[simp] theorem State.setArray_can (k : Nat) (x : ArrayUnit) : (s.setArray k x).can = s.can := rfl
@[simp] theorem State.setArray_store (k : Nat) (x : ArrayUnit) : (s.setArray k x).store = s.store := rfl
@[simp] theorem State.setArray_house (k : Nat) (x : ArrayUnit) : (s.setArray k x).house = s.house := rfl
@[simp] theorem State.setArray_pins (k : Nat) (x : ArrayUnit) : (s.setArray k x).pins = s.pins := rfl
@[simp] theorem State.setArray_hostFns (k : Nat) (x : ArrayUnit) : (s.setArray k x).hostFns = s.hostFns := rfl
@[simp] theorem State.setArray_numVfs (k : Nat) (x : ArrayUnit) : (s.setArray k x).numVfs = s.numVfs := rfl
@[simp] theorem State.setArray_counters (k : Nat) (x : ArrayUnit) : (s.setArray k x).counters = s.counters := rfl
@[simp] theorem State.setArray_outbox (k : Nat) (x : ArrayUnit) : (s.setArray k x).outbox = s.outbox := rfl
@[simp] theorem State.setArray_draws (k : Nat) (x : ArrayUnit) : (s.setArray k x).draws = s.draws := rfl

/-! ## setTask -/

@[simp] theorem State.setTask_pending (k : Nat) (x : Task) : (s.setTask k x).pending = s.pending := rfl
@[simp] theorem State.setTask_clk (k : Nat) (x : Task) : (s.setTask k x).clk = s.clk := rfl
@[simp] theorem State.setTask_mem (k : Nat) (x : Task) : (s.setTask k x).mem = s.mem := rfl
@[simp] theorem State.setTask_poison (k : Nat) (x : Task) : (s.setTask k x).poison = s.poison := rfl
@[simp] theorem State.setTask_tileWrites (k : Nat) (x : Task) : (s.setTask k x).tileWrites = s.tileWrites := rfl
@[simp] theorem State.setTask_lines (k : Nat) (x : Task) : (s.setTask k x).lines = s.lines := rfl
@[simp] theorem State.setTask_threads (k : Nat) (x : Task) : (s.setTask k x).threads = s.threads := rfl
@[simp] theorem State.setTask_cores (k : Nat) (x : Task) : (s.setTask k x).cores = s.cores := rfl
@[simp] theorem State.setTask_arrays (k : Nat) (x : Task) : (s.setTask k x).arrays = s.arrays := rfl
@[simp] theorem State.setTask_nextNo (k : Nat) (x : Task) : (s.setTask k x).nextNo = s.nextNo := rfl
@[simp] theorem State.setTask_nextDseq (k : Nat) (x : Task) : (s.setTask k x).nextDseq = s.nextDseq := rfl
@[simp] theorem State.setTask_entries (k : Nat) (x : Task) : (s.setTask k x).entries = s.entries := rfl
@[simp] theorem State.setTask_queues (k : Nat) (x : Task) : (s.setTask k x).queues = s.queues := rfl
@[simp] theorem State.setTask_parts (k : Nat) (x : Task) : (s.setTask k x).parts = s.parts := rfl
@[simp] theorem State.setTask_requests (k : Nat) (x : Task) : (s.setTask k x).requests = s.requests := rfl
@[simp] theorem State.setTask_customers (k : Nat) (x : Task) : (s.setTask k x).customers = s.customers := rfl
@[simp] theorem State.setTask_ctxs (k : Nat) (x : Task) : (s.setTask k x).ctxs = s.ctxs := rfl
@[simp] theorem State.setTask_ctxExtra (k : Nat) (x : Task) : (s.setTask k x).ctxExtra = s.ctxExtra := rfl
@[simp] theorem State.setTask_allocs (k : Nat) (x : Task) : (s.setTask k x).allocs = s.allocs := rfl
@[simp] theorem State.setTask_objects (k : Nat) (x : Task) : (s.setTask k x).objects = s.objects := rfl
@[simp] theorem State.setTask_keys (k : Nat) (x : Task) : (s.setTask k x).keys = s.keys := rfl
@[simp] theorem State.setTask_fills (k : Nat) (x : Task) : (s.setTask k x).fills = s.fills := rfl
@[simp] theorem State.setTask_fab (k : Nat) (x : Task) : (s.setTask k x).fab = s.fab := rfl
@[simp] theorem State.setTask_dim (k : Nat) (x : Task) : (s.setTask k x).dim = s.dim := rfl
@[simp] theorem State.setTask_therm (k : Nat) (x : Task) : (s.setTask k x).therm = s.therm := rfl
@[simp] theorem State.setTask_faults (k : Nat) (x : Task) : (s.setTask k x).faults = s.faults := rfl
@[simp] theorem State.setTask_od (k : Nat) (x : Task) : (s.setTask k x).od = s.od := rfl
@[simp] theorem State.setTask_wings (k : Nat) (x : Task) : (s.setTask k x).wings = s.wings := rfl
@[simp] theorem State.setTask_wingEntries (k : Nat) (x : Task) : (s.setTask k x).wingEntries = s.wingEntries := rfl
@[simp] theorem State.setTask_mailboxes (k : Nat) (x : Task) : (s.setTask k x).mailboxes = s.mailboxes := rfl
@[simp] theorem State.setTask_can (k : Nat) (x : Task) : (s.setTask k x).can = s.can := rfl
@[simp] theorem State.setTask_store (k : Nat) (x : Task) : (s.setTask k x).store = s.store := rfl
@[simp] theorem State.setTask_house (k : Nat) (x : Task) : (s.setTask k x).house = s.house := rfl
@[simp] theorem State.setTask_pins (k : Nat) (x : Task) : (s.setTask k x).pins = s.pins := rfl
@[simp] theorem State.setTask_hostFns (k : Nat) (x : Task) : (s.setTask k x).hostFns = s.hostFns := rfl
@[simp] theorem State.setTask_numVfs (k : Nat) (x : Task) : (s.setTask k x).numVfs = s.numVfs := rfl
@[simp] theorem State.setTask_counters (k : Nat) (x : Task) : (s.setTask k x).counters = s.counters := rfl
@[simp] theorem State.setTask_outbox (k : Nat) (x : Task) : (s.setTask k x).outbox = s.outbox := rfl
@[simp] theorem State.setTask_draws (k : Nat) (x : Task) : (s.setTask k x).draws = s.draws := rfl

/-! ## setPart -/

@[simp] theorem State.setPart_pending (p : Nat) (x : Part) : (s.setPart p x).pending = s.pending := rfl
@[simp] theorem State.setPart_clk (p : Nat) (x : Part) : (s.setPart p x).clk = s.clk := rfl
@[simp] theorem State.setPart_mem (p : Nat) (x : Part) : (s.setPart p x).mem = s.mem := rfl
@[simp] theorem State.setPart_poison (p : Nat) (x : Part) : (s.setPart p x).poison = s.poison := rfl
@[simp] theorem State.setPart_tileWrites (p : Nat) (x : Part) : (s.setPart p x).tileWrites = s.tileWrites := rfl
@[simp] theorem State.setPart_lines (p : Nat) (x : Part) : (s.setPart p x).lines = s.lines := rfl
@[simp] theorem State.setPart_threads (p : Nat) (x : Part) : (s.setPart p x).threads = s.threads := rfl
@[simp] theorem State.setPart_cores (p : Nat) (x : Part) : (s.setPart p x).cores = s.cores := rfl
@[simp] theorem State.setPart_arrays (p : Nat) (x : Part) : (s.setPart p x).arrays = s.arrays := rfl
@[simp] theorem State.setPart_nextNo (p : Nat) (x : Part) : (s.setPart p x).nextNo = s.nextNo := rfl
@[simp] theorem State.setPart_nextDseq (p : Nat) (x : Part) : (s.setPart p x).nextDseq = s.nextDseq := rfl
@[simp] theorem State.setPart_entries (p : Nat) (x : Part) : (s.setPart p x).entries = s.entries := rfl
@[simp] theorem State.setPart_tasks (p : Nat) (x : Part) : (s.setPart p x).tasks = s.tasks := rfl
@[simp] theorem State.setPart_queues (p : Nat) (x : Part) : (s.setPart p x).queues = s.queues := rfl
@[simp] theorem State.setPart_requests (p : Nat) (x : Part) : (s.setPart p x).requests = s.requests := rfl
@[simp] theorem State.setPart_customers (p : Nat) (x : Part) : (s.setPart p x).customers = s.customers := rfl
@[simp] theorem State.setPart_ctxs (p : Nat) (x : Part) : (s.setPart p x).ctxs = s.ctxs := rfl
@[simp] theorem State.setPart_ctxExtra (p : Nat) (x : Part) : (s.setPart p x).ctxExtra = s.ctxExtra := rfl
@[simp] theorem State.setPart_allocs (p : Nat) (x : Part) : (s.setPart p x).allocs = s.allocs := rfl
@[simp] theorem State.setPart_objects (p : Nat) (x : Part) : (s.setPart p x).objects = s.objects := rfl
@[simp] theorem State.setPart_keys (p : Nat) (x : Part) : (s.setPart p x).keys = s.keys := rfl
@[simp] theorem State.setPart_fills (p : Nat) (x : Part) : (s.setPart p x).fills = s.fills := rfl
@[simp] theorem State.setPart_fab (p : Nat) (x : Part) : (s.setPart p x).fab = s.fab := rfl
@[simp] theorem State.setPart_dim (p : Nat) (x : Part) : (s.setPart p x).dim = s.dim := rfl
@[simp] theorem State.setPart_therm (p : Nat) (x : Part) : (s.setPart p x).therm = s.therm := rfl
@[simp] theorem State.setPart_faults (p : Nat) (x : Part) : (s.setPart p x).faults = s.faults := rfl
@[simp] theorem State.setPart_od (p : Nat) (x : Part) : (s.setPart p x).od = s.od := rfl
@[simp] theorem State.setPart_wings (p : Nat) (x : Part) : (s.setPart p x).wings = s.wings := rfl
@[simp] theorem State.setPart_wingEntries (p : Nat) (x : Part) : (s.setPart p x).wingEntries = s.wingEntries := rfl
@[simp] theorem State.setPart_mailboxes (p : Nat) (x : Part) : (s.setPart p x).mailboxes = s.mailboxes := rfl
@[simp] theorem State.setPart_can (p : Nat) (x : Part) : (s.setPart p x).can = s.can := rfl
@[simp] theorem State.setPart_store (p : Nat) (x : Part) : (s.setPart p x).store = s.store := rfl
@[simp] theorem State.setPart_house (p : Nat) (x : Part) : (s.setPart p x).house = s.house := rfl
@[simp] theorem State.setPart_pins (p : Nat) (x : Part) : (s.setPart p x).pins = s.pins := rfl
@[simp] theorem State.setPart_hostFns (p : Nat) (x : Part) : (s.setPart p x).hostFns = s.hostFns := rfl
@[simp] theorem State.setPart_numVfs (p : Nat) (x : Part) : (s.setPart p x).numVfs = s.numVfs := rfl
@[simp] theorem State.setPart_counters (p : Nat) (x : Part) : (s.setPart p x).counters = s.counters := rfl
@[simp] theorem State.setPart_outbox (p : Nat) (x : Part) : (s.setPart p x).outbox = s.outbox := rfl
@[simp] theorem State.setPart_draws (p : Nat) (x : Part) : (s.setPart p x).draws = s.draws := rfl

/-! ## modPart -/

@[simp] theorem State.modPart_pending (p : Nat) (g : Part → Part) : (s.modPart p g).pending = s.pending := rfl
@[simp] theorem State.modPart_clk (p : Nat) (g : Part → Part) : (s.modPart p g).clk = s.clk := rfl
@[simp] theorem State.modPart_mem (p : Nat) (g : Part → Part) : (s.modPart p g).mem = s.mem := rfl
@[simp] theorem State.modPart_poison (p : Nat) (g : Part → Part) : (s.modPart p g).poison = s.poison := rfl
@[simp] theorem State.modPart_tileWrites (p : Nat) (g : Part → Part) : (s.modPart p g).tileWrites = s.tileWrites := rfl
@[simp] theorem State.modPart_lines (p : Nat) (g : Part → Part) : (s.modPart p g).lines = s.lines := rfl
@[simp] theorem State.modPart_threads (p : Nat) (g : Part → Part) : (s.modPart p g).threads = s.threads := rfl
@[simp] theorem State.modPart_cores (p : Nat) (g : Part → Part) : (s.modPart p g).cores = s.cores := rfl
@[simp] theorem State.modPart_arrays (p : Nat) (g : Part → Part) : (s.modPart p g).arrays = s.arrays := rfl
@[simp] theorem State.modPart_nextNo (p : Nat) (g : Part → Part) : (s.modPart p g).nextNo = s.nextNo := rfl
@[simp] theorem State.modPart_nextDseq (p : Nat) (g : Part → Part) : (s.modPart p g).nextDseq = s.nextDseq := rfl
@[simp] theorem State.modPart_entries (p : Nat) (g : Part → Part) : (s.modPart p g).entries = s.entries := rfl
@[simp] theorem State.modPart_tasks (p : Nat) (g : Part → Part) : (s.modPart p g).tasks = s.tasks := rfl
@[simp] theorem State.modPart_queues (p : Nat) (g : Part → Part) : (s.modPart p g).queues = s.queues := rfl
@[simp] theorem State.modPart_requests (p : Nat) (g : Part → Part) : (s.modPart p g).requests = s.requests := rfl
@[simp] theorem State.modPart_customers (p : Nat) (g : Part → Part) : (s.modPart p g).customers = s.customers := rfl
@[simp] theorem State.modPart_ctxs (p : Nat) (g : Part → Part) : (s.modPart p g).ctxs = s.ctxs := rfl
@[simp] theorem State.modPart_ctxExtra (p : Nat) (g : Part → Part) : (s.modPart p g).ctxExtra = s.ctxExtra := rfl
@[simp] theorem State.modPart_allocs (p : Nat) (g : Part → Part) : (s.modPart p g).allocs = s.allocs := rfl
@[simp] theorem State.modPart_objects (p : Nat) (g : Part → Part) : (s.modPart p g).objects = s.objects := rfl
@[simp] theorem State.modPart_keys (p : Nat) (g : Part → Part) : (s.modPart p g).keys = s.keys := rfl
@[simp] theorem State.modPart_fills (p : Nat) (g : Part → Part) : (s.modPart p g).fills = s.fills := rfl
@[simp] theorem State.modPart_fab (p : Nat) (g : Part → Part) : (s.modPart p g).fab = s.fab := rfl
@[simp] theorem State.modPart_dim (p : Nat) (g : Part → Part) : (s.modPart p g).dim = s.dim := rfl
@[simp] theorem State.modPart_therm (p : Nat) (g : Part → Part) : (s.modPart p g).therm = s.therm := rfl
@[simp] theorem State.modPart_faults (p : Nat) (g : Part → Part) : (s.modPart p g).faults = s.faults := rfl
@[simp] theorem State.modPart_od (p : Nat) (g : Part → Part) : (s.modPart p g).od = s.od := rfl
@[simp] theorem State.modPart_wings (p : Nat) (g : Part → Part) : (s.modPart p g).wings = s.wings := rfl
@[simp] theorem State.modPart_wingEntries (p : Nat) (g : Part → Part) : (s.modPart p g).wingEntries = s.wingEntries := rfl
@[simp] theorem State.modPart_mailboxes (p : Nat) (g : Part → Part) : (s.modPart p g).mailboxes = s.mailboxes := rfl
@[simp] theorem State.modPart_can (p : Nat) (g : Part → Part) : (s.modPart p g).can = s.can := rfl
@[simp] theorem State.modPart_store (p : Nat) (g : Part → Part) : (s.modPart p g).store = s.store := rfl
@[simp] theorem State.modPart_house (p : Nat) (g : Part → Part) : (s.modPart p g).house = s.house := rfl
@[simp] theorem State.modPart_pins (p : Nat) (g : Part → Part) : (s.modPart p g).pins = s.pins := rfl
@[simp] theorem State.modPart_hostFns (p : Nat) (g : Part → Part) : (s.modPart p g).hostFns = s.hostFns := rfl
@[simp] theorem State.modPart_numVfs (p : Nat) (g : Part → Part) : (s.modPart p g).numVfs = s.numVfs := rfl
@[simp] theorem State.modPart_counters (p : Nat) (g : Part → Part) : (s.modPart p g).counters = s.counters := rfl
@[simp] theorem State.modPart_outbox (p : Nat) (g : Part → Part) : (s.modPart p g).outbox = s.outbox := rfl
@[simp] theorem State.modPart_draws (p : Nat) (g : Part → Part) : (s.modPart p g).draws = s.draws := rfl

/-! ## setQueue -/

@[simp] theorem State.setQueue_pending (c : Nat) (x : Queue) : (s.setQueue c x).pending = s.pending := rfl
@[simp] theorem State.setQueue_clk (c : Nat) (x : Queue) : (s.setQueue c x).clk = s.clk := rfl
@[simp] theorem State.setQueue_mem (c : Nat) (x : Queue) : (s.setQueue c x).mem = s.mem := rfl
@[simp] theorem State.setQueue_poison (c : Nat) (x : Queue) : (s.setQueue c x).poison = s.poison := rfl
@[simp] theorem State.setQueue_tileWrites (c : Nat) (x : Queue) : (s.setQueue c x).tileWrites = s.tileWrites := rfl
@[simp] theorem State.setQueue_lines (c : Nat) (x : Queue) : (s.setQueue c x).lines = s.lines := rfl
@[simp] theorem State.setQueue_threads (c : Nat) (x : Queue) : (s.setQueue c x).threads = s.threads := rfl
@[simp] theorem State.setQueue_cores (c : Nat) (x : Queue) : (s.setQueue c x).cores = s.cores := rfl
@[simp] theorem State.setQueue_arrays (c : Nat) (x : Queue) : (s.setQueue c x).arrays = s.arrays := rfl
@[simp] theorem State.setQueue_nextNo (c : Nat) (x : Queue) : (s.setQueue c x).nextNo = s.nextNo := rfl
@[simp] theorem State.setQueue_nextDseq (c : Nat) (x : Queue) : (s.setQueue c x).nextDseq = s.nextDseq := rfl
@[simp] theorem State.setQueue_entries (c : Nat) (x : Queue) : (s.setQueue c x).entries = s.entries := rfl
@[simp] theorem State.setQueue_tasks (c : Nat) (x : Queue) : (s.setQueue c x).tasks = s.tasks := rfl
@[simp] theorem State.setQueue_parts (c : Nat) (x : Queue) : (s.setQueue c x).parts = s.parts := rfl
@[simp] theorem State.setQueue_requests (c : Nat) (x : Queue) : (s.setQueue c x).requests = s.requests := rfl
@[simp] theorem State.setQueue_customers (c : Nat) (x : Queue) : (s.setQueue c x).customers = s.customers := rfl
@[simp] theorem State.setQueue_ctxs (c : Nat) (x : Queue) : (s.setQueue c x).ctxs = s.ctxs := rfl
@[simp] theorem State.setQueue_ctxExtra (c : Nat) (x : Queue) : (s.setQueue c x).ctxExtra = s.ctxExtra := rfl
@[simp] theorem State.setQueue_allocs (c : Nat) (x : Queue) : (s.setQueue c x).allocs = s.allocs := rfl
@[simp] theorem State.setQueue_objects (c : Nat) (x : Queue) : (s.setQueue c x).objects = s.objects := rfl
@[simp] theorem State.setQueue_keys (c : Nat) (x : Queue) : (s.setQueue c x).keys = s.keys := rfl
@[simp] theorem State.setQueue_fills (c : Nat) (x : Queue) : (s.setQueue c x).fills = s.fills := rfl
@[simp] theorem State.setQueue_fab (c : Nat) (x : Queue) : (s.setQueue c x).fab = s.fab := rfl
@[simp] theorem State.setQueue_dim (c : Nat) (x : Queue) : (s.setQueue c x).dim = s.dim := rfl
@[simp] theorem State.setQueue_therm (c : Nat) (x : Queue) : (s.setQueue c x).therm = s.therm := rfl
@[simp] theorem State.setQueue_faults (c : Nat) (x : Queue) : (s.setQueue c x).faults = s.faults := rfl
@[simp] theorem State.setQueue_od (c : Nat) (x : Queue) : (s.setQueue c x).od = s.od := rfl
@[simp] theorem State.setQueue_wings (c : Nat) (x : Queue) : (s.setQueue c x).wings = s.wings := rfl
@[simp] theorem State.setQueue_wingEntries (c : Nat) (x : Queue) : (s.setQueue c x).wingEntries = s.wingEntries := rfl
@[simp] theorem State.setQueue_mailboxes (c : Nat) (x : Queue) : (s.setQueue c x).mailboxes = s.mailboxes := rfl
@[simp] theorem State.setQueue_can (c : Nat) (x : Queue) : (s.setQueue c x).can = s.can := rfl
@[simp] theorem State.setQueue_store (c : Nat) (x : Queue) : (s.setQueue c x).store = s.store := rfl
@[simp] theorem State.setQueue_house (c : Nat) (x : Queue) : (s.setQueue c x).house = s.house := rfl
@[simp] theorem State.setQueue_pins (c : Nat) (x : Queue) : (s.setQueue c x).pins = s.pins := rfl
@[simp] theorem State.setQueue_hostFns (c : Nat) (x : Queue) : (s.setQueue c x).hostFns = s.hostFns := rfl
@[simp] theorem State.setQueue_numVfs (c : Nat) (x : Queue) : (s.setQueue c x).numVfs = s.numVfs := rfl
@[simp] theorem State.setQueue_counters (c : Nat) (x : Queue) : (s.setQueue c x).counters = s.counters := rfl
@[simp] theorem State.setQueue_outbox (c : Nat) (x : Queue) : (s.setQueue c x).outbox = s.outbox := rfl
@[simp] theorem State.setQueue_draws (c : Nat) (x : Queue) : (s.setQueue c x).draws = s.draws := rfl

/-! ## setPort -/

@[simp] theorem State.setPort_pending (n : Nat) (x : Port) : (s.setPort n x).pending = s.pending := rfl
@[simp] theorem State.setPort_clk (n : Nat) (x : Port) : (s.setPort n x).clk = s.clk := rfl
@[simp] theorem State.setPort_mem (n : Nat) (x : Port) : (s.setPort n x).mem = s.mem := rfl
@[simp] theorem State.setPort_poison (n : Nat) (x : Port) : (s.setPort n x).poison = s.poison := rfl
@[simp] theorem State.setPort_tileWrites (n : Nat) (x : Port) : (s.setPort n x).tileWrites = s.tileWrites := rfl
@[simp] theorem State.setPort_lines (n : Nat) (x : Port) : (s.setPort n x).lines = s.lines := rfl
@[simp] theorem State.setPort_threads (n : Nat) (x : Port) : (s.setPort n x).threads = s.threads := rfl
@[simp] theorem State.setPort_cores (n : Nat) (x : Port) : (s.setPort n x).cores = s.cores := rfl
@[simp] theorem State.setPort_arrays (n : Nat) (x : Port) : (s.setPort n x).arrays = s.arrays := rfl
@[simp] theorem State.setPort_nextNo (n : Nat) (x : Port) : (s.setPort n x).nextNo = s.nextNo := rfl
@[simp] theorem State.setPort_nextDseq (n : Nat) (x : Port) : (s.setPort n x).nextDseq = s.nextDseq := rfl
@[simp] theorem State.setPort_entries (n : Nat) (x : Port) : (s.setPort n x).entries = s.entries := rfl
@[simp] theorem State.setPort_tasks (n : Nat) (x : Port) : (s.setPort n x).tasks = s.tasks := rfl
@[simp] theorem State.setPort_queues (n : Nat) (x : Port) : (s.setPort n x).queues = s.queues := rfl
@[simp] theorem State.setPort_parts (n : Nat) (x : Port) : (s.setPort n x).parts = s.parts := rfl
@[simp] theorem State.setPort_requests (n : Nat) (x : Port) : (s.setPort n x).requests = s.requests := rfl
@[simp] theorem State.setPort_customers (n : Nat) (x : Port) : (s.setPort n x).customers = s.customers := rfl
@[simp] theorem State.setPort_ctxs (n : Nat) (x : Port) : (s.setPort n x).ctxs = s.ctxs := rfl
@[simp] theorem State.setPort_ctxExtra (n : Nat) (x : Port) : (s.setPort n x).ctxExtra = s.ctxExtra := rfl
@[simp] theorem State.setPort_allocs (n : Nat) (x : Port) : (s.setPort n x).allocs = s.allocs := rfl
@[simp] theorem State.setPort_objects (n : Nat) (x : Port) : (s.setPort n x).objects = s.objects := rfl
@[simp] theorem State.setPort_keys (n : Nat) (x : Port) : (s.setPort n x).keys = s.keys := rfl
@[simp] theorem State.setPort_fills (n : Nat) (x : Port) : (s.setPort n x).fills = s.fills := rfl
@[simp] theorem State.setPort_dim (n : Nat) (x : Port) : (s.setPort n x).dim = s.dim := rfl
@[simp] theorem State.setPort_therm (n : Nat) (x : Port) : (s.setPort n x).therm = s.therm := rfl
@[simp] theorem State.setPort_faults (n : Nat) (x : Port) : (s.setPort n x).faults = s.faults := rfl
@[simp] theorem State.setPort_od (n : Nat) (x : Port) : (s.setPort n x).od = s.od := rfl
@[simp] theorem State.setPort_wings (n : Nat) (x : Port) : (s.setPort n x).wings = s.wings := rfl
@[simp] theorem State.setPort_wingEntries (n : Nat) (x : Port) : (s.setPort n x).wingEntries = s.wingEntries := rfl
@[simp] theorem State.setPort_mailboxes (n : Nat) (x : Port) : (s.setPort n x).mailboxes = s.mailboxes := rfl
@[simp] theorem State.setPort_can (n : Nat) (x : Port) : (s.setPort n x).can = s.can := rfl
@[simp] theorem State.setPort_store (n : Nat) (x : Port) : (s.setPort n x).store = s.store := rfl
@[simp] theorem State.setPort_house (n : Nat) (x : Port) : (s.setPort n x).house = s.house := rfl
@[simp] theorem State.setPort_pins (n : Nat) (x : Port) : (s.setPort n x).pins = s.pins := rfl
@[simp] theorem State.setPort_hostFns (n : Nat) (x : Port) : (s.setPort n x).hostFns = s.hostFns := rfl
@[simp] theorem State.setPort_numVfs (n : Nat) (x : Port) : (s.setPort n x).numVfs = s.numVfs := rfl
@[simp] theorem State.setPort_counters (n : Nat) (x : Port) : (s.setPort n x).counters = s.counters := rfl
@[simp] theorem State.setPort_outbox (n : Nat) (x : Port) : (s.setPort n x).outbox = s.outbox := rfl
@[simp] theorem State.setPort_draws (n : Nat) (x : Port) : (s.setPort n x).draws = s.draws := rfl

/-! ## setPeer -/

@[simp] theorem State.setPeer_pending (c : BitVec 12) (x : Peer) : (s.setPeer c x).pending = s.pending := rfl
@[simp] theorem State.setPeer_clk (c : BitVec 12) (x : Peer) : (s.setPeer c x).clk = s.clk := rfl
@[simp] theorem State.setPeer_mem (c : BitVec 12) (x : Peer) : (s.setPeer c x).mem = s.mem := rfl
@[simp] theorem State.setPeer_poison (c : BitVec 12) (x : Peer) : (s.setPeer c x).poison = s.poison := rfl
@[simp] theorem State.setPeer_tileWrites (c : BitVec 12) (x : Peer) : (s.setPeer c x).tileWrites = s.tileWrites := rfl
@[simp] theorem State.setPeer_lines (c : BitVec 12) (x : Peer) : (s.setPeer c x).lines = s.lines := rfl
@[simp] theorem State.setPeer_threads (c : BitVec 12) (x : Peer) : (s.setPeer c x).threads = s.threads := rfl
@[simp] theorem State.setPeer_cores (c : BitVec 12) (x : Peer) : (s.setPeer c x).cores = s.cores := rfl
@[simp] theorem State.setPeer_arrays (c : BitVec 12) (x : Peer) : (s.setPeer c x).arrays = s.arrays := rfl
@[simp] theorem State.setPeer_nextNo (c : BitVec 12) (x : Peer) : (s.setPeer c x).nextNo = s.nextNo := rfl
@[simp] theorem State.setPeer_nextDseq (c : BitVec 12) (x : Peer) : (s.setPeer c x).nextDseq = s.nextDseq := rfl
@[simp] theorem State.setPeer_entries (c : BitVec 12) (x : Peer) : (s.setPeer c x).entries = s.entries := rfl
@[simp] theorem State.setPeer_tasks (c : BitVec 12) (x : Peer) : (s.setPeer c x).tasks = s.tasks := rfl
@[simp] theorem State.setPeer_queues (c : BitVec 12) (x : Peer) : (s.setPeer c x).queues = s.queues := rfl
@[simp] theorem State.setPeer_parts (c : BitVec 12) (x : Peer) : (s.setPeer c x).parts = s.parts := rfl
@[simp] theorem State.setPeer_requests (c : BitVec 12) (x : Peer) : (s.setPeer c x).requests = s.requests := rfl
@[simp] theorem State.setPeer_customers (c : BitVec 12) (x : Peer) : (s.setPeer c x).customers = s.customers := rfl
@[simp] theorem State.setPeer_ctxs (c : BitVec 12) (x : Peer) : (s.setPeer c x).ctxs = s.ctxs := rfl
@[simp] theorem State.setPeer_ctxExtra (c : BitVec 12) (x : Peer) : (s.setPeer c x).ctxExtra = s.ctxExtra := rfl
@[simp] theorem State.setPeer_allocs (c : BitVec 12) (x : Peer) : (s.setPeer c x).allocs = s.allocs := rfl
@[simp] theorem State.setPeer_objects (c : BitVec 12) (x : Peer) : (s.setPeer c x).objects = s.objects := rfl
@[simp] theorem State.setPeer_keys (c : BitVec 12) (x : Peer) : (s.setPeer c x).keys = s.keys := rfl
@[simp] theorem State.setPeer_fills (c : BitVec 12) (x : Peer) : (s.setPeer c x).fills = s.fills := rfl
@[simp] theorem State.setPeer_dim (c : BitVec 12) (x : Peer) : (s.setPeer c x).dim = s.dim := rfl
@[simp] theorem State.setPeer_therm (c : BitVec 12) (x : Peer) : (s.setPeer c x).therm = s.therm := rfl
@[simp] theorem State.setPeer_faults (c : BitVec 12) (x : Peer) : (s.setPeer c x).faults = s.faults := rfl
@[simp] theorem State.setPeer_od (c : BitVec 12) (x : Peer) : (s.setPeer c x).od = s.od := rfl
@[simp] theorem State.setPeer_wings (c : BitVec 12) (x : Peer) : (s.setPeer c x).wings = s.wings := rfl
@[simp] theorem State.setPeer_wingEntries (c : BitVec 12) (x : Peer) : (s.setPeer c x).wingEntries = s.wingEntries := rfl
@[simp] theorem State.setPeer_mailboxes (c : BitVec 12) (x : Peer) : (s.setPeer c x).mailboxes = s.mailboxes := rfl
@[simp] theorem State.setPeer_can (c : BitVec 12) (x : Peer) : (s.setPeer c x).can = s.can := rfl
@[simp] theorem State.setPeer_store (c : BitVec 12) (x : Peer) : (s.setPeer c x).store = s.store := rfl
@[simp] theorem State.setPeer_house (c : BitVec 12) (x : Peer) : (s.setPeer c x).house = s.house := rfl
@[simp] theorem State.setPeer_pins (c : BitVec 12) (x : Peer) : (s.setPeer c x).pins = s.pins := rfl
@[simp] theorem State.setPeer_hostFns (c : BitVec 12) (x : Peer) : (s.setPeer c x).hostFns = s.hostFns := rfl
@[simp] theorem State.setPeer_numVfs (c : BitVec 12) (x : Peer) : (s.setPeer c x).numVfs = s.numVfs := rfl
@[simp] theorem State.setPeer_counters (c : BitVec 12) (x : Peer) : (s.setPeer c x).counters = s.counters := rfl
@[simp] theorem State.setPeer_outbox (c : BitVec 12) (x : Peer) : (s.setPeer c x).outbox = s.outbox := rfl
@[simp] theorem State.setPeer_draws (c : BitVec 12) (x : Peer) : (s.setPeer c x).draws = s.draws := rfl

/-! ## setMailbox -/

@[simp] theorem State.setMailbox_pending (m : Nat) (x : Mailbox) : (s.setMailbox m x).pending = s.pending := rfl
@[simp] theorem State.setMailbox_clk (m : Nat) (x : Mailbox) : (s.setMailbox m x).clk = s.clk := rfl
@[simp] theorem State.setMailbox_mem (m : Nat) (x : Mailbox) : (s.setMailbox m x).mem = s.mem := rfl
@[simp] theorem State.setMailbox_poison (m : Nat) (x : Mailbox) : (s.setMailbox m x).poison = s.poison := rfl
@[simp] theorem State.setMailbox_tileWrites (m : Nat) (x : Mailbox) : (s.setMailbox m x).tileWrites = s.tileWrites := rfl
@[simp] theorem State.setMailbox_lines (m : Nat) (x : Mailbox) : (s.setMailbox m x).lines = s.lines := rfl
@[simp] theorem State.setMailbox_threads (m : Nat) (x : Mailbox) : (s.setMailbox m x).threads = s.threads := rfl
@[simp] theorem State.setMailbox_cores (m : Nat) (x : Mailbox) : (s.setMailbox m x).cores = s.cores := rfl
@[simp] theorem State.setMailbox_arrays (m : Nat) (x : Mailbox) : (s.setMailbox m x).arrays = s.arrays := rfl
@[simp] theorem State.setMailbox_nextNo (m : Nat) (x : Mailbox) : (s.setMailbox m x).nextNo = s.nextNo := rfl
@[simp] theorem State.setMailbox_nextDseq (m : Nat) (x : Mailbox) : (s.setMailbox m x).nextDseq = s.nextDseq := rfl
@[simp] theorem State.setMailbox_entries (m : Nat) (x : Mailbox) : (s.setMailbox m x).entries = s.entries := rfl
@[simp] theorem State.setMailbox_tasks (m : Nat) (x : Mailbox) : (s.setMailbox m x).tasks = s.tasks := rfl
@[simp] theorem State.setMailbox_queues (m : Nat) (x : Mailbox) : (s.setMailbox m x).queues = s.queues := rfl
@[simp] theorem State.setMailbox_parts (m : Nat) (x : Mailbox) : (s.setMailbox m x).parts = s.parts := rfl
@[simp] theorem State.setMailbox_requests (m : Nat) (x : Mailbox) : (s.setMailbox m x).requests = s.requests := rfl
@[simp] theorem State.setMailbox_customers (m : Nat) (x : Mailbox) : (s.setMailbox m x).customers = s.customers := rfl
@[simp] theorem State.setMailbox_ctxs (m : Nat) (x : Mailbox) : (s.setMailbox m x).ctxs = s.ctxs := rfl
@[simp] theorem State.setMailbox_ctxExtra (m : Nat) (x : Mailbox) : (s.setMailbox m x).ctxExtra = s.ctxExtra := rfl
@[simp] theorem State.setMailbox_allocs (m : Nat) (x : Mailbox) : (s.setMailbox m x).allocs = s.allocs := rfl
@[simp] theorem State.setMailbox_objects (m : Nat) (x : Mailbox) : (s.setMailbox m x).objects = s.objects := rfl
@[simp] theorem State.setMailbox_keys (m : Nat) (x : Mailbox) : (s.setMailbox m x).keys = s.keys := rfl
@[simp] theorem State.setMailbox_fills (m : Nat) (x : Mailbox) : (s.setMailbox m x).fills = s.fills := rfl
@[simp] theorem State.setMailbox_fab (m : Nat) (x : Mailbox) : (s.setMailbox m x).fab = s.fab := rfl
@[simp] theorem State.setMailbox_dim (m : Nat) (x : Mailbox) : (s.setMailbox m x).dim = s.dim := rfl
@[simp] theorem State.setMailbox_therm (m : Nat) (x : Mailbox) : (s.setMailbox m x).therm = s.therm := rfl
@[simp] theorem State.setMailbox_faults (m : Nat) (x : Mailbox) : (s.setMailbox m x).faults = s.faults := rfl
@[simp] theorem State.setMailbox_od (m : Nat) (x : Mailbox) : (s.setMailbox m x).od = s.od := rfl
@[simp] theorem State.setMailbox_wings (m : Nat) (x : Mailbox) : (s.setMailbox m x).wings = s.wings := rfl
@[simp] theorem State.setMailbox_wingEntries (m : Nat) (x : Mailbox) : (s.setMailbox m x).wingEntries = s.wingEntries := rfl
@[simp] theorem State.setMailbox_can (m : Nat) (x : Mailbox) : (s.setMailbox m x).can = s.can := rfl
@[simp] theorem State.setMailbox_store (m : Nat) (x : Mailbox) : (s.setMailbox m x).store = s.store := rfl
@[simp] theorem State.setMailbox_house (m : Nat) (x : Mailbox) : (s.setMailbox m x).house = s.house := rfl
@[simp] theorem State.setMailbox_pins (m : Nat) (x : Mailbox) : (s.setMailbox m x).pins = s.pins := rfl
@[simp] theorem State.setMailbox_hostFns (m : Nat) (x : Mailbox) : (s.setMailbox m x).hostFns = s.hostFns := rfl
@[simp] theorem State.setMailbox_numVfs (m : Nat) (x : Mailbox) : (s.setMailbox m x).numVfs = s.numVfs := rfl
@[simp] theorem State.setMailbox_counters (m : Nat) (x : Mailbox) : (s.setMailbox m x).counters = s.counters := rfl
@[simp] theorem State.setMailbox_outbox (m : Nat) (x : Mailbox) : (s.setMailbox m x).outbox = s.outbox := rfl
@[simp] theorem State.setMailbox_draws (m : Nat) (x : Mailbox) : (s.setMailbox m x).draws = s.draws := rfl

/-! ## setHostFn -/

@[simp] theorem State.setHostFn_pending (n : Nat) (x : HostFn) : (s.setHostFn n x).pending = s.pending := rfl
@[simp] theorem State.setHostFn_clk (n : Nat) (x : HostFn) : (s.setHostFn n x).clk = s.clk := rfl
@[simp] theorem State.setHostFn_mem (n : Nat) (x : HostFn) : (s.setHostFn n x).mem = s.mem := rfl
@[simp] theorem State.setHostFn_poison (n : Nat) (x : HostFn) : (s.setHostFn n x).poison = s.poison := rfl
@[simp] theorem State.setHostFn_tileWrites (n : Nat) (x : HostFn) : (s.setHostFn n x).tileWrites = s.tileWrites := rfl
@[simp] theorem State.setHostFn_lines (n : Nat) (x : HostFn) : (s.setHostFn n x).lines = s.lines := rfl
@[simp] theorem State.setHostFn_threads (n : Nat) (x : HostFn) : (s.setHostFn n x).threads = s.threads := rfl
@[simp] theorem State.setHostFn_cores (n : Nat) (x : HostFn) : (s.setHostFn n x).cores = s.cores := rfl
@[simp] theorem State.setHostFn_arrays (n : Nat) (x : HostFn) : (s.setHostFn n x).arrays = s.arrays := rfl
@[simp] theorem State.setHostFn_nextNo (n : Nat) (x : HostFn) : (s.setHostFn n x).nextNo = s.nextNo := rfl
@[simp] theorem State.setHostFn_nextDseq (n : Nat) (x : HostFn) : (s.setHostFn n x).nextDseq = s.nextDseq := rfl
@[simp] theorem State.setHostFn_entries (n : Nat) (x : HostFn) : (s.setHostFn n x).entries = s.entries := rfl
@[simp] theorem State.setHostFn_tasks (n : Nat) (x : HostFn) : (s.setHostFn n x).tasks = s.tasks := rfl
@[simp] theorem State.setHostFn_queues (n : Nat) (x : HostFn) : (s.setHostFn n x).queues = s.queues := rfl
@[simp] theorem State.setHostFn_parts (n : Nat) (x : HostFn) : (s.setHostFn n x).parts = s.parts := rfl
@[simp] theorem State.setHostFn_requests (n : Nat) (x : HostFn) : (s.setHostFn n x).requests = s.requests := rfl
@[simp] theorem State.setHostFn_customers (n : Nat) (x : HostFn) : (s.setHostFn n x).customers = s.customers := rfl
@[simp] theorem State.setHostFn_ctxs (n : Nat) (x : HostFn) : (s.setHostFn n x).ctxs = s.ctxs := rfl
@[simp] theorem State.setHostFn_ctxExtra (n : Nat) (x : HostFn) : (s.setHostFn n x).ctxExtra = s.ctxExtra := rfl
@[simp] theorem State.setHostFn_allocs (n : Nat) (x : HostFn) : (s.setHostFn n x).allocs = s.allocs := rfl
@[simp] theorem State.setHostFn_objects (n : Nat) (x : HostFn) : (s.setHostFn n x).objects = s.objects := rfl
@[simp] theorem State.setHostFn_keys (n : Nat) (x : HostFn) : (s.setHostFn n x).keys = s.keys := rfl
@[simp] theorem State.setHostFn_fills (n : Nat) (x : HostFn) : (s.setHostFn n x).fills = s.fills := rfl
@[simp] theorem State.setHostFn_fab (n : Nat) (x : HostFn) : (s.setHostFn n x).fab = s.fab := rfl
@[simp] theorem State.setHostFn_dim (n : Nat) (x : HostFn) : (s.setHostFn n x).dim = s.dim := rfl
@[simp] theorem State.setHostFn_therm (n : Nat) (x : HostFn) : (s.setHostFn n x).therm = s.therm := rfl
@[simp] theorem State.setHostFn_faults (n : Nat) (x : HostFn) : (s.setHostFn n x).faults = s.faults := rfl
@[simp] theorem State.setHostFn_od (n : Nat) (x : HostFn) : (s.setHostFn n x).od = s.od := rfl
@[simp] theorem State.setHostFn_wings (n : Nat) (x : HostFn) : (s.setHostFn n x).wings = s.wings := rfl
@[simp] theorem State.setHostFn_wingEntries (n : Nat) (x : HostFn) : (s.setHostFn n x).wingEntries = s.wingEntries := rfl
@[simp] theorem State.setHostFn_mailboxes (n : Nat) (x : HostFn) : (s.setHostFn n x).mailboxes = s.mailboxes := rfl
@[simp] theorem State.setHostFn_can (n : Nat) (x : HostFn) : (s.setHostFn n x).can = s.can := rfl
@[simp] theorem State.setHostFn_store (n : Nat) (x : HostFn) : (s.setHostFn n x).store = s.store := rfl
@[simp] theorem State.setHostFn_house (n : Nat) (x : HostFn) : (s.setHostFn n x).house = s.house := rfl
@[simp] theorem State.setHostFn_pins (n : Nat) (x : HostFn) : (s.setHostFn n x).pins = s.pins := rfl
@[simp] theorem State.setHostFn_numVfs (n : Nat) (x : HostFn) : (s.setHostFn n x).numVfs = s.numVfs := rfl
@[simp] theorem State.setHostFn_counters (n : Nat) (x : HostFn) : (s.setHostFn n x).counters = s.counters := rfl
@[simp] theorem State.setHostFn_outbox (n : Nat) (x : HostFn) : (s.setHostFn n x).outbox = s.outbox := rfl
@[simp] theorem State.setHostFn_draws (n : Nat) (x : HostFn) : (s.setHostFn n x).draws = s.draws := rfl

/-! ## setCustomer -/

@[simp] theorem State.setCustomer_pending (c : Nat) (x : Customer) : (s.setCustomer c x).pending = s.pending := rfl
@[simp] theorem State.setCustomer_clk (c : Nat) (x : Customer) : (s.setCustomer c x).clk = s.clk := rfl
@[simp] theorem State.setCustomer_mem (c : Nat) (x : Customer) : (s.setCustomer c x).mem = s.mem := rfl
@[simp] theorem State.setCustomer_poison (c : Nat) (x : Customer) : (s.setCustomer c x).poison = s.poison := rfl
@[simp] theorem State.setCustomer_tileWrites (c : Nat) (x : Customer) : (s.setCustomer c x).tileWrites = s.tileWrites := rfl
@[simp] theorem State.setCustomer_lines (c : Nat) (x : Customer) : (s.setCustomer c x).lines = s.lines := rfl
@[simp] theorem State.setCustomer_threads (c : Nat) (x : Customer) : (s.setCustomer c x).threads = s.threads := rfl
@[simp] theorem State.setCustomer_cores (c : Nat) (x : Customer) : (s.setCustomer c x).cores = s.cores := rfl
@[simp] theorem State.setCustomer_arrays (c : Nat) (x : Customer) : (s.setCustomer c x).arrays = s.arrays := rfl
@[simp] theorem State.setCustomer_nextNo (c : Nat) (x : Customer) : (s.setCustomer c x).nextNo = s.nextNo := rfl
@[simp] theorem State.setCustomer_nextDseq (c : Nat) (x : Customer) : (s.setCustomer c x).nextDseq = s.nextDseq := rfl
@[simp] theorem State.setCustomer_entries (c : Nat) (x : Customer) : (s.setCustomer c x).entries = s.entries := rfl
@[simp] theorem State.setCustomer_tasks (c : Nat) (x : Customer) : (s.setCustomer c x).tasks = s.tasks := rfl
@[simp] theorem State.setCustomer_queues (c : Nat) (x : Customer) : (s.setCustomer c x).queues = s.queues := rfl
@[simp] theorem State.setCustomer_parts (c : Nat) (x : Customer) : (s.setCustomer c x).parts = s.parts := rfl
@[simp] theorem State.setCustomer_requests (c : Nat) (x : Customer) : (s.setCustomer c x).requests = s.requests := rfl
@[simp] theorem State.setCustomer_ctxs (c : Nat) (x : Customer) : (s.setCustomer c x).ctxs = s.ctxs := rfl
@[simp] theorem State.setCustomer_ctxExtra (c : Nat) (x : Customer) : (s.setCustomer c x).ctxExtra = s.ctxExtra := rfl
@[simp] theorem State.setCustomer_allocs (c : Nat) (x : Customer) : (s.setCustomer c x).allocs = s.allocs := rfl
@[simp] theorem State.setCustomer_objects (c : Nat) (x : Customer) : (s.setCustomer c x).objects = s.objects := rfl
@[simp] theorem State.setCustomer_keys (c : Nat) (x : Customer) : (s.setCustomer c x).keys = s.keys := rfl
@[simp] theorem State.setCustomer_fills (c : Nat) (x : Customer) : (s.setCustomer c x).fills = s.fills := rfl
@[simp] theorem State.setCustomer_fab (c : Nat) (x : Customer) : (s.setCustomer c x).fab = s.fab := rfl
@[simp] theorem State.setCustomer_dim (c : Nat) (x : Customer) : (s.setCustomer c x).dim = s.dim := rfl
@[simp] theorem State.setCustomer_therm (c : Nat) (x : Customer) : (s.setCustomer c x).therm = s.therm := rfl
@[simp] theorem State.setCustomer_faults (c : Nat) (x : Customer) : (s.setCustomer c x).faults = s.faults := rfl
@[simp] theorem State.setCustomer_od (c : Nat) (x : Customer) : (s.setCustomer c x).od = s.od := rfl
@[simp] theorem State.setCustomer_wings (c : Nat) (x : Customer) : (s.setCustomer c x).wings = s.wings := rfl
@[simp] theorem State.setCustomer_wingEntries (c : Nat) (x : Customer) : (s.setCustomer c x).wingEntries = s.wingEntries := rfl
@[simp] theorem State.setCustomer_mailboxes (c : Nat) (x : Customer) : (s.setCustomer c x).mailboxes = s.mailboxes := rfl
@[simp] theorem State.setCustomer_can (c : Nat) (x : Customer) : (s.setCustomer c x).can = s.can := rfl
@[simp] theorem State.setCustomer_store (c : Nat) (x : Customer) : (s.setCustomer c x).store = s.store := rfl
@[simp] theorem State.setCustomer_house (c : Nat) (x : Customer) : (s.setCustomer c x).house = s.house := rfl
@[simp] theorem State.setCustomer_pins (c : Nat) (x : Customer) : (s.setCustomer c x).pins = s.pins := rfl
@[simp] theorem State.setCustomer_hostFns (c : Nat) (x : Customer) : (s.setCustomer c x).hostFns = s.hostFns := rfl
@[simp] theorem State.setCustomer_numVfs (c : Nat) (x : Customer) : (s.setCustomer c x).numVfs = s.numVfs := rfl
@[simp] theorem State.setCustomer_counters (c : Nat) (x : Customer) : (s.setCustomer c x).counters = s.counters := rfl
@[simp] theorem State.setCustomer_outbox (c : Nat) (x : Customer) : (s.setCustomer c x).outbox = s.outbox := rfl
@[simp] theorem State.setCustomer_draws (c : Nat) (x : Customer) : (s.setCustomer c x).draws = s.draws := rfl

/-! ## send -/

@[simp] theorem State.send_pending (o : Out) : (s.send o).pending = s.pending := rfl
@[simp] theorem State.send_clk (o : Out) : (s.send o).clk = s.clk := rfl
@[simp] theorem State.send_mem (o : Out) : (s.send o).mem = s.mem := rfl
@[simp] theorem State.send_poison (o : Out) : (s.send o).poison = s.poison := rfl
@[simp] theorem State.send_tileWrites (o : Out) : (s.send o).tileWrites = s.tileWrites := rfl
@[simp] theorem State.send_lines (o : Out) : (s.send o).lines = s.lines := rfl
@[simp] theorem State.send_threads (o : Out) : (s.send o).threads = s.threads := rfl
@[simp] theorem State.send_cores (o : Out) : (s.send o).cores = s.cores := rfl
@[simp] theorem State.send_arrays (o : Out) : (s.send o).arrays = s.arrays := rfl
@[simp] theorem State.send_nextNo (o : Out) : (s.send o).nextNo = s.nextNo := rfl
@[simp] theorem State.send_nextDseq (o : Out) : (s.send o).nextDseq = s.nextDseq := rfl
@[simp] theorem State.send_entries (o : Out) : (s.send o).entries = s.entries := rfl
@[simp] theorem State.send_tasks (o : Out) : (s.send o).tasks = s.tasks := rfl
@[simp] theorem State.send_queues (o : Out) : (s.send o).queues = s.queues := rfl
@[simp] theorem State.send_parts (o : Out) : (s.send o).parts = s.parts := rfl
@[simp] theorem State.send_requests (o : Out) : (s.send o).requests = s.requests := rfl
@[simp] theorem State.send_customers (o : Out) : (s.send o).customers = s.customers := rfl
@[simp] theorem State.send_ctxs (o : Out) : (s.send o).ctxs = s.ctxs := rfl
@[simp] theorem State.send_ctxExtra (o : Out) : (s.send o).ctxExtra = s.ctxExtra := rfl
@[simp] theorem State.send_allocs (o : Out) : (s.send o).allocs = s.allocs := rfl
@[simp] theorem State.send_objects (o : Out) : (s.send o).objects = s.objects := rfl
@[simp] theorem State.send_keys (o : Out) : (s.send o).keys = s.keys := rfl
@[simp] theorem State.send_fills (o : Out) : (s.send o).fills = s.fills := rfl
@[simp] theorem State.send_fab (o : Out) : (s.send o).fab = s.fab := rfl
@[simp] theorem State.send_dim (o : Out) : (s.send o).dim = s.dim := rfl
@[simp] theorem State.send_therm (o : Out) : (s.send o).therm = s.therm := rfl
@[simp] theorem State.send_faults (o : Out) : (s.send o).faults = s.faults := rfl
@[simp] theorem State.send_od (o : Out) : (s.send o).od = s.od := rfl
@[simp] theorem State.send_wings (o : Out) : (s.send o).wings = s.wings := rfl
@[simp] theorem State.send_wingEntries (o : Out) : (s.send o).wingEntries = s.wingEntries := rfl
@[simp] theorem State.send_mailboxes (o : Out) : (s.send o).mailboxes = s.mailboxes := rfl
@[simp] theorem State.send_can (o : Out) : (s.send o).can = s.can := rfl
@[simp] theorem State.send_store (o : Out) : (s.send o).store = s.store := rfl
@[simp] theorem State.send_house (o : Out) : (s.send o).house = s.house := rfl
@[simp] theorem State.send_pins (o : Out) : (s.send o).pins = s.pins := rfl
@[simp] theorem State.send_hostFns (o : Out) : (s.send o).hostFns = s.hostFns := rfl
@[simp] theorem State.send_numVfs (o : Out) : (s.send o).numVfs = s.numVfs := rfl
@[simp] theorem State.send_counters (o : Out) : (s.send o).counters = s.counters := rfl
@[simp] theorem State.send_draws (o : Out) : (s.send o).draws = s.draws := rfl

/-! ## count -/

@[simp] theorem State.count_pending (c : CtrName) (u n : Nat) : (s.count c u n).pending = s.pending := rfl
@[simp] theorem State.count_clk (c : CtrName) (u n : Nat) : (s.count c u n).clk = s.clk := rfl
@[simp] theorem State.count_mem (c : CtrName) (u n : Nat) : (s.count c u n).mem = s.mem := rfl
@[simp] theorem State.count_poison (c : CtrName) (u n : Nat) : (s.count c u n).poison = s.poison := rfl
@[simp] theorem State.count_tileWrites (c : CtrName) (u n : Nat) : (s.count c u n).tileWrites = s.tileWrites := rfl
@[simp] theorem State.count_lines (c : CtrName) (u n : Nat) : (s.count c u n).lines = s.lines := rfl
@[simp] theorem State.count_threads (c : CtrName) (u n : Nat) : (s.count c u n).threads = s.threads := rfl
@[simp] theorem State.count_cores (c : CtrName) (u n : Nat) : (s.count c u n).cores = s.cores := rfl
@[simp] theorem State.count_arrays (c : CtrName) (u n : Nat) : (s.count c u n).arrays = s.arrays := rfl
@[simp] theorem State.count_nextNo (c : CtrName) (u n : Nat) : (s.count c u n).nextNo = s.nextNo := rfl
@[simp] theorem State.count_nextDseq (c : CtrName) (u n : Nat) : (s.count c u n).nextDseq = s.nextDseq := rfl
@[simp] theorem State.count_entries (c : CtrName) (u n : Nat) : (s.count c u n).entries = s.entries := rfl
@[simp] theorem State.count_tasks (c : CtrName) (u n : Nat) : (s.count c u n).tasks = s.tasks := rfl
@[simp] theorem State.count_queues (c : CtrName) (u n : Nat) : (s.count c u n).queues = s.queues := rfl
@[simp] theorem State.count_parts (c : CtrName) (u n : Nat) : (s.count c u n).parts = s.parts := rfl
@[simp] theorem State.count_requests (c : CtrName) (u n : Nat) : (s.count c u n).requests = s.requests := rfl
@[simp] theorem State.count_customers (c : CtrName) (u n : Nat) : (s.count c u n).customers = s.customers := rfl
@[simp] theorem State.count_ctxs (c : CtrName) (u n : Nat) : (s.count c u n).ctxs = s.ctxs := rfl
@[simp] theorem State.count_ctxExtra (c : CtrName) (u n : Nat) : (s.count c u n).ctxExtra = s.ctxExtra := rfl
@[simp] theorem State.count_allocs (c : CtrName) (u n : Nat) : (s.count c u n).allocs = s.allocs := rfl
@[simp] theorem State.count_objects (c : CtrName) (u n : Nat) : (s.count c u n).objects = s.objects := rfl
@[simp] theorem State.count_keys (c : CtrName) (u n : Nat) : (s.count c u n).keys = s.keys := rfl
@[simp] theorem State.count_fills (c : CtrName) (u n : Nat) : (s.count c u n).fills = s.fills := rfl
@[simp] theorem State.count_fab (c : CtrName) (u n : Nat) : (s.count c u n).fab = s.fab := rfl
@[simp] theorem State.count_dim (c : CtrName) (u n : Nat) : (s.count c u n).dim = s.dim := rfl
@[simp] theorem State.count_therm (c : CtrName) (u n : Nat) : (s.count c u n).therm = s.therm := rfl
@[simp] theorem State.count_faults (c : CtrName) (u n : Nat) : (s.count c u n).faults = s.faults := rfl
@[simp] theorem State.count_od (c : CtrName) (u n : Nat) : (s.count c u n).od = s.od := rfl
@[simp] theorem State.count_wings (c : CtrName) (u n : Nat) : (s.count c u n).wings = s.wings := rfl
@[simp] theorem State.count_wingEntries (c : CtrName) (u n : Nat) : (s.count c u n).wingEntries = s.wingEntries := rfl
@[simp] theorem State.count_mailboxes (c : CtrName) (u n : Nat) : (s.count c u n).mailboxes = s.mailboxes := rfl
@[simp] theorem State.count_can (c : CtrName) (u n : Nat) : (s.count c u n).can = s.can := rfl
@[simp] theorem State.count_store (c : CtrName) (u n : Nat) : (s.count c u n).store = s.store := rfl
@[simp] theorem State.count_house (c : CtrName) (u n : Nat) : (s.count c u n).house = s.house := rfl
@[simp] theorem State.count_pins (c : CtrName) (u n : Nat) : (s.count c u n).pins = s.pins := rfl
@[simp] theorem State.count_hostFns (c : CtrName) (u n : Nat) : (s.count c u n).hostFns = s.hostFns := rfl
@[simp] theorem State.count_numVfs (c : CtrName) (u n : Nat) : (s.count c u n).numVfs = s.numVfs := rfl
@[simp] theorem State.count_outbox (c : CtrName) (u n : Nat) : (s.count c u n).outbox = s.outbox := rfl
@[simp] theorem State.count_draws (c : CtrName) (u n : Nat) : (s.count c u n).draws = s.draws := rfl

/-! ## setCtr -/

@[simp] theorem State.setCtr_pending (c : CtrName) (u : Nat) (v : W64) : (s.setCtr c u v).pending = s.pending := rfl
@[simp] theorem State.setCtr_clk (c : CtrName) (u : Nat) (v : W64) : (s.setCtr c u v).clk = s.clk := rfl
@[simp] theorem State.setCtr_mem (c : CtrName) (u : Nat) (v : W64) : (s.setCtr c u v).mem = s.mem := rfl
@[simp] theorem State.setCtr_poison (c : CtrName) (u : Nat) (v : W64) : (s.setCtr c u v).poison = s.poison := rfl
@[simp] theorem State.setCtr_tileWrites (c : CtrName) (u : Nat) (v : W64) : (s.setCtr c u v).tileWrites = s.tileWrites := rfl
@[simp] theorem State.setCtr_lines (c : CtrName) (u : Nat) (v : W64) : (s.setCtr c u v).lines = s.lines := rfl
@[simp] theorem State.setCtr_threads (c : CtrName) (u : Nat) (v : W64) : (s.setCtr c u v).threads = s.threads := rfl
@[simp] theorem State.setCtr_cores (c : CtrName) (u : Nat) (v : W64) : (s.setCtr c u v).cores = s.cores := rfl
@[simp] theorem State.setCtr_arrays (c : CtrName) (u : Nat) (v : W64) : (s.setCtr c u v).arrays = s.arrays := rfl
@[simp] theorem State.setCtr_nextNo (c : CtrName) (u : Nat) (v : W64) : (s.setCtr c u v).nextNo = s.nextNo := rfl
@[simp] theorem State.setCtr_nextDseq (c : CtrName) (u : Nat) (v : W64) : (s.setCtr c u v).nextDseq = s.nextDseq := rfl
@[simp] theorem State.setCtr_entries (c : CtrName) (u : Nat) (v : W64) : (s.setCtr c u v).entries = s.entries := rfl
@[simp] theorem State.setCtr_tasks (c : CtrName) (u : Nat) (v : W64) : (s.setCtr c u v).tasks = s.tasks := rfl
@[simp] theorem State.setCtr_queues (c : CtrName) (u : Nat) (v : W64) : (s.setCtr c u v).queues = s.queues := rfl
@[simp] theorem State.setCtr_parts (c : CtrName) (u : Nat) (v : W64) : (s.setCtr c u v).parts = s.parts := rfl
@[simp] theorem State.setCtr_requests (c : CtrName) (u : Nat) (v : W64) : (s.setCtr c u v).requests = s.requests := rfl
@[simp] theorem State.setCtr_customers (c : CtrName) (u : Nat) (v : W64) : (s.setCtr c u v).customers = s.customers := rfl
@[simp] theorem State.setCtr_ctxs (c : CtrName) (u : Nat) (v : W64) : (s.setCtr c u v).ctxs = s.ctxs := rfl
@[simp] theorem State.setCtr_ctxExtra (c : CtrName) (u : Nat) (v : W64) : (s.setCtr c u v).ctxExtra = s.ctxExtra := rfl
@[simp] theorem State.setCtr_allocs (c : CtrName) (u : Nat) (v : W64) : (s.setCtr c u v).allocs = s.allocs := rfl
@[simp] theorem State.setCtr_objects (c : CtrName) (u : Nat) (v : W64) : (s.setCtr c u v).objects = s.objects := rfl
@[simp] theorem State.setCtr_keys (c : CtrName) (u : Nat) (v : W64) : (s.setCtr c u v).keys = s.keys := rfl
@[simp] theorem State.setCtr_fills (c : CtrName) (u : Nat) (v : W64) : (s.setCtr c u v).fills = s.fills := rfl
@[simp] theorem State.setCtr_fab (c : CtrName) (u : Nat) (v : W64) : (s.setCtr c u v).fab = s.fab := rfl
@[simp] theorem State.setCtr_dim (c : CtrName) (u : Nat) (v : W64) : (s.setCtr c u v).dim = s.dim := rfl
@[simp] theorem State.setCtr_therm (c : CtrName) (u : Nat) (v : W64) : (s.setCtr c u v).therm = s.therm := rfl
@[simp] theorem State.setCtr_faults (c : CtrName) (u : Nat) (v : W64) : (s.setCtr c u v).faults = s.faults := rfl
@[simp] theorem State.setCtr_od (c : CtrName) (u : Nat) (v : W64) : (s.setCtr c u v).od = s.od := rfl
@[simp] theorem State.setCtr_wings (c : CtrName) (u : Nat) (v : W64) : (s.setCtr c u v).wings = s.wings := rfl
@[simp] theorem State.setCtr_wingEntries (c : CtrName) (u : Nat) (v : W64) : (s.setCtr c u v).wingEntries = s.wingEntries := rfl
@[simp] theorem State.setCtr_mailboxes (c : CtrName) (u : Nat) (v : W64) : (s.setCtr c u v).mailboxes = s.mailboxes := rfl
@[simp] theorem State.setCtr_can (c : CtrName) (u : Nat) (v : W64) : (s.setCtr c u v).can = s.can := rfl
@[simp] theorem State.setCtr_store (c : CtrName) (u : Nat) (v : W64) : (s.setCtr c u v).store = s.store := rfl
@[simp] theorem State.setCtr_house (c : CtrName) (u : Nat) (v : W64) : (s.setCtr c u v).house = s.house := rfl
@[simp] theorem State.setCtr_pins (c : CtrName) (u : Nat) (v : W64) : (s.setCtr c u v).pins = s.pins := rfl
@[simp] theorem State.setCtr_hostFns (c : CtrName) (u : Nat) (v : W64) : (s.setCtr c u v).hostFns = s.hostFns := rfl
@[simp] theorem State.setCtr_numVfs (c : CtrName) (u : Nat) (v : W64) : (s.setCtr c u v).numVfs = s.numVfs := rfl
@[simp] theorem State.setCtr_outbox (c : CtrName) (u : Nat) (v : W64) : (s.setCtr c u v).outbox = s.outbox := rfl
@[simp] theorem State.setCtr_draws (c : CtrName) (u : Nat) (v : W64) : (s.setCtr c u v).draws = s.draws := rfl

/-! ## setCfgByte -/

@[simp] theorem State.setCfgByte_pending (i j o : Nat) (b : Byte) : (s.setCfgByte i j o b).pending = s.pending := rfl
@[simp] theorem State.setCfgByte_clk (i j o : Nat) (b : Byte) : (s.setCfgByte i j o b).clk = s.clk := rfl
@[simp] theorem State.setCfgByte_mem (i j o : Nat) (b : Byte) : (s.setCfgByte i j o b).mem = s.mem := rfl
@[simp] theorem State.setCfgByte_poison (i j o : Nat) (b : Byte) : (s.setCfgByte i j o b).poison = s.poison := rfl
@[simp] theorem State.setCfgByte_tileWrites (i j o : Nat) (b : Byte) : (s.setCfgByte i j o b).tileWrites = s.tileWrites := rfl
@[simp] theorem State.setCfgByte_lines (i j o : Nat) (b : Byte) : (s.setCfgByte i j o b).lines = s.lines := rfl
@[simp] theorem State.setCfgByte_threads (i j o : Nat) (b : Byte) : (s.setCfgByte i j o b).threads = s.threads := rfl
@[simp] theorem State.setCfgByte_cores (i j o : Nat) (b : Byte) : (s.setCfgByte i j o b).cores = s.cores := rfl
@[simp] theorem State.setCfgByte_arrays (i j o : Nat) (b : Byte) : (s.setCfgByte i j o b).arrays = s.arrays := rfl
@[simp] theorem State.setCfgByte_nextNo (i j o : Nat) (b : Byte) : (s.setCfgByte i j o b).nextNo = s.nextNo := rfl
@[simp] theorem State.setCfgByte_nextDseq (i j o : Nat) (b : Byte) : (s.setCfgByte i j o b).nextDseq = s.nextDseq := rfl
@[simp] theorem State.setCfgByte_entries (i j o : Nat) (b : Byte) : (s.setCfgByte i j o b).entries = s.entries := rfl
@[simp] theorem State.setCfgByte_tasks (i j o : Nat) (b : Byte) : (s.setCfgByte i j o b).tasks = s.tasks := rfl
@[simp] theorem State.setCfgByte_queues (i j o : Nat) (b : Byte) : (s.setCfgByte i j o b).queues = s.queues := rfl
@[simp] theorem State.setCfgByte_parts (i j o : Nat) (b : Byte) : (s.setCfgByte i j o b).parts = s.parts := rfl
@[simp] theorem State.setCfgByte_requests (i j o : Nat) (b : Byte) : (s.setCfgByte i j o b).requests = s.requests := rfl
@[simp] theorem State.setCfgByte_customers (i j o : Nat) (b : Byte) : (s.setCfgByte i j o b).customers = s.customers := rfl
@[simp] theorem State.setCfgByte_ctxs (i j o : Nat) (b : Byte) : (s.setCfgByte i j o b).ctxs = s.ctxs := rfl
@[simp] theorem State.setCfgByte_ctxExtra (i j o : Nat) (b : Byte) : (s.setCfgByte i j o b).ctxExtra = s.ctxExtra := rfl
@[simp] theorem State.setCfgByte_allocs (i j o : Nat) (b : Byte) : (s.setCfgByte i j o b).allocs = s.allocs := rfl
@[simp] theorem State.setCfgByte_objects (i j o : Nat) (b : Byte) : (s.setCfgByte i j o b).objects = s.objects := rfl
@[simp] theorem State.setCfgByte_keys (i j o : Nat) (b : Byte) : (s.setCfgByte i j o b).keys = s.keys := rfl
@[simp] theorem State.setCfgByte_fills (i j o : Nat) (b : Byte) : (s.setCfgByte i j o b).fills = s.fills := rfl
@[simp] theorem State.setCfgByte_fab (i j o : Nat) (b : Byte) : (s.setCfgByte i j o b).fab = s.fab := rfl
@[simp] theorem State.setCfgByte_dim (i j o : Nat) (b : Byte) : (s.setCfgByte i j o b).dim = s.dim := rfl
@[simp] theorem State.setCfgByte_therm (i j o : Nat) (b : Byte) : (s.setCfgByte i j o b).therm = s.therm := rfl
@[simp] theorem State.setCfgByte_faults (i j o : Nat) (b : Byte) : (s.setCfgByte i j o b).faults = s.faults := rfl
@[simp] theorem State.setCfgByte_wings (i j o : Nat) (b : Byte) : (s.setCfgByte i j o b).wings = s.wings := rfl
@[simp] theorem State.setCfgByte_wingEntries (i j o : Nat) (b : Byte) : (s.setCfgByte i j o b).wingEntries = s.wingEntries := rfl
@[simp] theorem State.setCfgByte_mailboxes (i j o : Nat) (b : Byte) : (s.setCfgByte i j o b).mailboxes = s.mailboxes := rfl
@[simp] theorem State.setCfgByte_can (i j o : Nat) (b : Byte) : (s.setCfgByte i j o b).can = s.can := rfl
@[simp] theorem State.setCfgByte_store (i j o : Nat) (b : Byte) : (s.setCfgByte i j o b).store = s.store := rfl
@[simp] theorem State.setCfgByte_house (i j o : Nat) (b : Byte) : (s.setCfgByte i j o b).house = s.house := rfl
@[simp] theorem State.setCfgByte_pins (i j o : Nat) (b : Byte) : (s.setCfgByte i j o b).pins = s.pins := rfl
@[simp] theorem State.setCfgByte_hostFns (i j o : Nat) (b : Byte) : (s.setCfgByte i j o b).hostFns = s.hostFns := rfl
@[simp] theorem State.setCfgByte_numVfs (i j o : Nat) (b : Byte) : (s.setCfgByte i j o b).numVfs = s.numVfs := rfl
@[simp] theorem State.setCfgByte_counters (i j o : Nat) (b : Byte) : (s.setCfgByte i j o b).counters = s.counters := rfl
@[simp] theorem State.setCfgByte_outbox (i j o : Nat) (b : Byte) : (s.setCfgByte i j o b).outbox = s.outbox := rfl
@[simp] theorem State.setCfgByte_draws (i j o : Nat) (b : Byte) : (s.setCfgByte i j o b).draws = s.draws := rfl

/-! ## writeMem -/

@[simp] theorem State.writeMem_pending (a : Nat) (bs : List Byte) : (s.writeMem a bs).pending = s.pending := rfl
@[simp] theorem State.writeMem_clk (a : Nat) (bs : List Byte) : (s.writeMem a bs).clk = s.clk := rfl
@[simp] theorem State.writeMem_lines (a : Nat) (bs : List Byte) : (s.writeMem a bs).lines = s.lines := rfl
@[simp] theorem State.writeMem_threads (a : Nat) (bs : List Byte) : (s.writeMem a bs).threads = s.threads := rfl
@[simp] theorem State.writeMem_cores (a : Nat) (bs : List Byte) : (s.writeMem a bs).cores = s.cores := rfl
@[simp] theorem State.writeMem_arrays (a : Nat) (bs : List Byte) : (s.writeMem a bs).arrays = s.arrays := rfl
@[simp] theorem State.writeMem_nextNo (a : Nat) (bs : List Byte) : (s.writeMem a bs).nextNo = s.nextNo := rfl
@[simp] theorem State.writeMem_nextDseq (a : Nat) (bs : List Byte) : (s.writeMem a bs).nextDseq = s.nextDseq := rfl
@[simp] theorem State.writeMem_entries (a : Nat) (bs : List Byte) : (s.writeMem a bs).entries = s.entries := rfl
@[simp] theorem State.writeMem_tasks (a : Nat) (bs : List Byte) : (s.writeMem a bs).tasks = s.tasks := rfl
@[simp] theorem State.writeMem_queues (a : Nat) (bs : List Byte) : (s.writeMem a bs).queues = s.queues := rfl
@[simp] theorem State.writeMem_parts (a : Nat) (bs : List Byte) : (s.writeMem a bs).parts = s.parts := rfl
@[simp] theorem State.writeMem_requests (a : Nat) (bs : List Byte) : (s.writeMem a bs).requests = s.requests := rfl
@[simp] theorem State.writeMem_customers (a : Nat) (bs : List Byte) : (s.writeMem a bs).customers = s.customers := rfl
@[simp] theorem State.writeMem_ctxs (a : Nat) (bs : List Byte) : (s.writeMem a bs).ctxs = s.ctxs := rfl
@[simp] theorem State.writeMem_ctxExtra (a : Nat) (bs : List Byte) : (s.writeMem a bs).ctxExtra = s.ctxExtra := rfl
@[simp] theorem State.writeMem_allocs (a : Nat) (bs : List Byte) : (s.writeMem a bs).allocs = s.allocs := rfl
@[simp] theorem State.writeMem_objects (a : Nat) (bs : List Byte) : (s.writeMem a bs).objects = s.objects := rfl
@[simp] theorem State.writeMem_keys (a : Nat) (bs : List Byte) : (s.writeMem a bs).keys = s.keys := rfl
@[simp] theorem State.writeMem_fills (a : Nat) (bs : List Byte) : (s.writeMem a bs).fills = s.fills := rfl
@[simp] theorem State.writeMem_fab (a : Nat) (bs : List Byte) : (s.writeMem a bs).fab = s.fab := rfl
@[simp] theorem State.writeMem_dim (a : Nat) (bs : List Byte) : (s.writeMem a bs).dim = s.dim := rfl
@[simp] theorem State.writeMem_therm (a : Nat) (bs : List Byte) : (s.writeMem a bs).therm = s.therm := rfl
@[simp] theorem State.writeMem_faults (a : Nat) (bs : List Byte) : (s.writeMem a bs).faults = s.faults := rfl
@[simp] theorem State.writeMem_od (a : Nat) (bs : List Byte) : (s.writeMem a bs).od = s.od := rfl
@[simp] theorem State.writeMem_wings (a : Nat) (bs : List Byte) : (s.writeMem a bs).wings = s.wings := rfl
@[simp] theorem State.writeMem_wingEntries (a : Nat) (bs : List Byte) : (s.writeMem a bs).wingEntries = s.wingEntries := rfl
@[simp] theorem State.writeMem_mailboxes (a : Nat) (bs : List Byte) : (s.writeMem a bs).mailboxes = s.mailboxes := rfl
@[simp] theorem State.writeMem_can (a : Nat) (bs : List Byte) : (s.writeMem a bs).can = s.can := rfl
@[simp] theorem State.writeMem_store (a : Nat) (bs : List Byte) : (s.writeMem a bs).store = s.store := rfl
@[simp] theorem State.writeMem_house (a : Nat) (bs : List Byte) : (s.writeMem a bs).house = s.house := rfl
@[simp] theorem State.writeMem_pins (a : Nat) (bs : List Byte) : (s.writeMem a bs).pins = s.pins := rfl
@[simp] theorem State.writeMem_hostFns (a : Nat) (bs : List Byte) : (s.writeMem a bs).hostFns = s.hostFns := rfl
@[simp] theorem State.writeMem_numVfs (a : Nat) (bs : List Byte) : (s.writeMem a bs).numVfs = s.numVfs := rfl
@[simp] theorem State.writeMem_counters (a : Nat) (bs : List Byte) : (s.writeMem a bs).counters = s.counters := rfl
@[simp] theorem State.writeMem_outbox (a : Nat) (bs : List Byte) : (s.writeMem a bs).outbox = s.outbox := rfl
@[simp] theorem State.writeMem_draws (a : Nat) (bs : List Byte) : (s.writeMem a bs).draws = s.draws := rfl

/-! ## addPoison -/

@[simp] theorem State.addPoison_pending (l : Nat) : (s.addPoison l).pending = s.pending := rfl
@[simp] theorem State.addPoison_clk (l : Nat) : (s.addPoison l).clk = s.clk := rfl
@[simp] theorem State.addPoison_mem (l : Nat) : (s.addPoison l).mem = s.mem := rfl
@[simp] theorem State.addPoison_tileWrites (l : Nat) : (s.addPoison l).tileWrites = s.tileWrites := rfl
@[simp] theorem State.addPoison_lines (l : Nat) : (s.addPoison l).lines = s.lines := rfl
@[simp] theorem State.addPoison_threads (l : Nat) : (s.addPoison l).threads = s.threads := rfl
@[simp] theorem State.addPoison_cores (l : Nat) : (s.addPoison l).cores = s.cores := rfl
@[simp] theorem State.addPoison_arrays (l : Nat) : (s.addPoison l).arrays = s.arrays := rfl
@[simp] theorem State.addPoison_nextNo (l : Nat) : (s.addPoison l).nextNo = s.nextNo := rfl
@[simp] theorem State.addPoison_nextDseq (l : Nat) : (s.addPoison l).nextDseq = s.nextDseq := rfl
@[simp] theorem State.addPoison_entries (l : Nat) : (s.addPoison l).entries = s.entries := rfl
@[simp] theorem State.addPoison_tasks (l : Nat) : (s.addPoison l).tasks = s.tasks := rfl
@[simp] theorem State.addPoison_queues (l : Nat) : (s.addPoison l).queues = s.queues := rfl
@[simp] theorem State.addPoison_parts (l : Nat) : (s.addPoison l).parts = s.parts := rfl
@[simp] theorem State.addPoison_requests (l : Nat) : (s.addPoison l).requests = s.requests := rfl
@[simp] theorem State.addPoison_customers (l : Nat) : (s.addPoison l).customers = s.customers := rfl
@[simp] theorem State.addPoison_ctxs (l : Nat) : (s.addPoison l).ctxs = s.ctxs := rfl
@[simp] theorem State.addPoison_ctxExtra (l : Nat) : (s.addPoison l).ctxExtra = s.ctxExtra := rfl
@[simp] theorem State.addPoison_allocs (l : Nat) : (s.addPoison l).allocs = s.allocs := rfl
@[simp] theorem State.addPoison_objects (l : Nat) : (s.addPoison l).objects = s.objects := rfl
@[simp] theorem State.addPoison_keys (l : Nat) : (s.addPoison l).keys = s.keys := rfl
@[simp] theorem State.addPoison_fills (l : Nat) : (s.addPoison l).fills = s.fills := rfl
@[simp] theorem State.addPoison_fab (l : Nat) : (s.addPoison l).fab = s.fab := rfl
@[simp] theorem State.addPoison_dim (l : Nat) : (s.addPoison l).dim = s.dim := rfl
@[simp] theorem State.addPoison_therm (l : Nat) : (s.addPoison l).therm = s.therm := rfl
@[simp] theorem State.addPoison_faults (l : Nat) : (s.addPoison l).faults = s.faults := rfl
@[simp] theorem State.addPoison_od (l : Nat) : (s.addPoison l).od = s.od := rfl
@[simp] theorem State.addPoison_wings (l : Nat) : (s.addPoison l).wings = s.wings := rfl
@[simp] theorem State.addPoison_wingEntries (l : Nat) : (s.addPoison l).wingEntries = s.wingEntries := rfl
@[simp] theorem State.addPoison_mailboxes (l : Nat) : (s.addPoison l).mailboxes = s.mailboxes := rfl
@[simp] theorem State.addPoison_can (l : Nat) : (s.addPoison l).can = s.can := rfl
@[simp] theorem State.addPoison_store (l : Nat) : (s.addPoison l).store = s.store := rfl
@[simp] theorem State.addPoison_house (l : Nat) : (s.addPoison l).house = s.house := rfl
@[simp] theorem State.addPoison_pins (l : Nat) : (s.addPoison l).pins = s.pins := rfl
@[simp] theorem State.addPoison_hostFns (l : Nat) : (s.addPoison l).hostFns = s.hostFns := rfl
@[simp] theorem State.addPoison_numVfs (l : Nat) : (s.addPoison l).numVfs = s.numVfs := rfl
@[simp] theorem State.addPoison_counters (l : Nat) : (s.addPoison l).counters = s.counters := rfl
@[simp] theorem State.addPoison_outbox (l : Nat) : (s.addPoison l).outbox = s.outbox := rfl
@[simp] theorem State.addPoison_draws (l : Nat) : (s.addPoison l).draws = s.draws := rfl

/-! ## What the updates put -/

@[simp] theorem State.setThread_threads (t : Tid) (x : Thread) :
    (s.setThread t x).threads = SMap.put (tidKey t) x s.threads := rfl
@[simp] theorem State.setCore_cores (k : Nat) (x : Core) : (s.setCore k x).cores = SMap.put k x s.cores := rfl
@[simp] theorem State.setArray_arrays (k : Nat) (x : ArrayUnit) : (s.setArray k x).arrays = SMap.put k x s.arrays := rfl
@[simp] theorem State.setTask_tasks (k : Nat) (x : Task) : (s.setTask k x).tasks = SMap.put k x s.tasks := rfl
@[simp] theorem State.setPart_parts (p : Nat) (x : Part) : (s.setPart p x).parts = SMap.put p x s.parts := rfl
@[simp] theorem State.modPart_parts (p : Nat) (g : Part → Part) :
    (s.modPart p g).parts = SMap.put p (g (s.part p)) s.parts := rfl
@[simp] theorem State.setQueue_queues (c : Nat) (x : Queue) : (s.setQueue c x).queues = SMap.put c x s.queues := rfl
@[simp] theorem State.setPort_ports (n : Nat) (x : Port) :
    (s.setPort n x).fab.ports = SMap.put n x s.fab.ports := rfl
@[simp] theorem State.setPeer_peers (c : BitVec 12) (x : Peer) :
    (s.setPeer c x).fab.peers = SMap.put c.toNat x s.fab.peers := rfl
@[simp] theorem State.setMailbox_mailboxes (m : Nat) (x : Mailbox) :
    (s.setMailbox m x).mailboxes = SMap.put m x s.mailboxes := rfl
@[simp] theorem State.setHostFn_hostFns (n : Nat) (x : HostFn) :
    (s.setHostFn n x).hostFns = SMap.put n x s.hostFns := rfl
@[simp] theorem State.setCustomer_customers (c : Nat) (x : Customer) :
    (s.setCustomer c x).customers = SMap.put c x s.customers := rfl
@[simp] theorem State.send_outbox (o : Out) : (s.send o).outbox = s.outbox ++ [o] := rfl
@[simp] theorem State.writeMem_mem (a : Nat) (bs : List Byte) : (s.writeMem a bs).mem = memPut s.mem a bs := rfl
@[simp] theorem State.writeMem_poison (a : Nat) (bs : List Byte) :
    (s.writeMem a bs).poison = unpoison s.poison a bs.length := rfl
@[simp] theorem State.writeMem_tileWrites (a : Nat) (bs : List Byte) :
    (s.writeMem a bs).tileWrites = noteTile s.tileWrites a bs inputOwn := rfl
@[simp] theorem State.addPoison_poison (l : Nat) : (s.addPoison l).poison = SMap.put l () s.poison := rfl

end Sys2Proof.Machine
end

