-- ==== Sys2Proof/Laws/Memory.lean ====
section
/-! SUPPORT. Memory: every memory operation keeps the canonical form, and a read after a write. -/

namespace Sys2Proof.Machine

open Sys2Proof

theorem Memory.wf_nil : Memory.wf [] = true := rfl

/-- Writing bytes keeps memory canonical. -/
theorem Memory.wf_memPut (bs : List Byte) : ∀ (m : SMap Byte) (a : Nat), Memory.wf m = true → Memory.wf (memPut m a bs) = true := by
  induction bs with
  | nil => intro m a h; exact h
  | cons b bs ih => intro m a h; exact ih _ _ (SMap.wf_set 0#8 a b h)

/-- A store keeps memory canonical. -/
theorem Memory.wf_writeMem (s : State) (a : Nat) (bs : List Byte) (h : Memory.wf s.mem = true) :
    Memory.wf (s.writeMem a bs).mem = true := Memory.wf_memPut bs _ _ h

/-- Stores of pieces keep memory canonical. -/
theorem Memory.wf_writeAll (ps : List (Nat × List Byte)) : ∀ (s : State), Memory.wf s.mem = true →
    Memory.wf (s.writeAll ps).mem = true := by
  induction ps with
  | nil => intro s h; exact h
  | cons p ps ih => intro s h; exact ih _ (Memory.wf_writeMem s p.1 p.2 h)

/-- Memory after reset is canonical. -/
theorem Memory.wf_reset : Memory.wf State.reset.mem = true := rfl

theorem Memory.sorted_of_wf {m : SMap Byte} (h : Memory.wf m = true) : SMap.sorted m = true := by
  simp only [Memory.wf, SMap.wf, Bool.and_eq_true] at h; exact h.1

/-- A byte read after bytes are written: one of them where the write covers it, the old byte elsewhere. -/
theorem get_memPut (bs : List Byte) : ∀ (m : SMap Byte) (a j : Nat), Memory.wf m = true →
    SMap.get 0#8 (memPut m a bs) j = if h : a ≤ j ∧ j < a + bs.length then bs[j - a]'(by omega) else SMap.get 0#8 m j := by
  induction bs with
  | nil => intro m a j _; simp [memPut]
  | cons b bs ih =>
    intro m a j hm
    simp only [memPut]
    rw [ih _ _ _ (SMap.wf_set 0#8 a b hm), SMap.get_set _ _ _ _ (Memory.sorted_of_wf hm)]
    by_cases h1 : a + 1 ≤ j ∧ j < a + 1 + bs.length
    · have h2 : a ≤ j ∧ j < a + (b :: bs).length := by simp only [List.length_cons]; omega
      have e : j - a = (j - (a + 1)) + 1 := by omega
      simp only [h1, h2, and_self, dif_pos, e, List.getElem_cons_succ]
    · by_cases h3 : j = a
      · subst h3; simp
      · have h2 : ¬ (a ≤ j ∧ j < a + (b :: bs).length) := by simp only [List.length_cons]; omega
        rw [dif_neg h1, if_neg h3, dif_neg h2]

/-- A store leaves every byte outside it as it was. -/
theorem byte_writeMem_frame (s : State) (a : Nat) (bs : List Byte) (j : Nat) (hm : Memory.wf s.mem = true)
    (hj : j < a ∨ a + bs.length ≤ j) : (s.writeMem a bs).byte j = s.byte j := by
  have h : ¬ (a ≤ j ∧ j < a + bs.length) := by omega
  simp only [State.byte, State.writeMem_mem, get_memPut bs _ _ _ hm, h, dif_neg, not_false_eq_true]

/-- A store puts its bytes. -/
theorem byte_writeMem (s : State) (a : Nat) (bs : List Byte) (i : Nat) (hm : Memory.wf s.mem = true)
    (hi : i < bs.length) : (s.writeMem a bs).byte (a + i) = bs[i] := by
  have h : a ≤ a + i ∧ a + i < a + bs.length := by omega
  simp only [State.byte, State.writeMem_mem, get_memPut bs _ _ _ hm, h, and_self, dif_pos]
  simp

end Sys2Proof.Machine
end

