-- ==== Sys2Proof/Laws/Threads.lean ====
section
/-! SUPPORT. Threads: registers after a write, what taking an exception changes, and everything an issue can do. -/

namespace Sys2Proof.Machine

open Sys2Proof

/-! ## Fields kept by the thread's own updates -/

@[simp] theorem Thread.step_pc (x : Thread) : x.step.pc = x.pc + 8 := rfl
@[simp] theorem Thread.step_g (x : Thread) : x.step.g = x.g := rfl
@[simp] theorem Thread.step_v (x : Thread) : x.step.v = x.v := rfl
@[simp] theorem Thread.step_p (x : Thread) : x.step.p = x.p := rfl
@[simp] theorem Thread.step_gr (x : Thread) (i : BitVec 6) : x.step.gr i = x.gr i := rfl
@[simp] theorem Thread.step_vr (x : Thread) (i : BitVec 5) : x.step.vr i = x.vr i := rfl
@[simp] theorem Thread.step_pr (x : Thread) (i : BitVec 3) : x.step.pr i = x.pr i := rfl
@[simp] theorem Thread.step_fpFlags (x : Thread) : x.step.fpFlags = x.fpFlags := rfl
@[simp] theorem Thread.orFlags_pc (x : Thread) (f : FpFlags) : (x.orFlags f).pc = x.pc := rfl
@[simp] theorem Thread.orFlags_gr (x : Thread) (f : FpFlags) (i : BitVec 6) : (x.orFlags f).gr i = x.gr i := rfl
@[simp] theorem Thread.setG_pc (x : Thread) (i : BitVec 6) (v : W64) : (x.setG i v).pc = x.pc := by
  unfold Thread.setG; split <;> rfl
@[simp] theorem Thread.setG_v (x : Thread) (i : BitVec 6) (v : W64) : (x.setG i v).v = x.v := by
  unfold Thread.setG; split <;> rfl
@[simp] theorem Thread.setG_p (x : Thread) (i : BitVec 6) (v : W64) : (x.setG i v).p = x.p := by
  unfold Thread.setG; split <;> rfl
@[simp] theorem Thread.setG_fpFlags (x : Thread) (i : BitVec 6) (v : W64) : (x.setG i v).fpFlags = x.fpFlags := by
  unfold Thread.setG; split <;> rfl
@[simp] theorem Thread.setG_wait (x : Thread) (i : BitVec 6) (v : W64) : (x.setG i v).wait = x.wait := by
  unfold Thread.setG; split <;> rfl
@[simp] theorem Thread.setG_task (x : Thread) (i : BitVec 6) (v : W64) : (x.setG i v).task = x.task := by
  unfold Thread.setG; split <;> rfl

theorem Thread.setG_zero (x : Thread) (v : W64) : x.setG 0 v = x := by simp [Thread.setG]

theorem gkey_ne {n : Nat} {i j : BitVec n} (h : i ≠ j) : i.toNat ≠ j.toNat := fun e => h (BitVec.eq_of_toNat_eq e)

/-- A general register after a write: the new value under its number (never under g0), the old one elsewhere. -/
theorem Thread.gr_setG (x : Thread) (i j : BitVec 6) (v : W64) (h : SMap.sorted x.g = true) :
    (x.setG i v).gr j = if j = i ∧ i ≠ 0 then v else x.gr j := by
  unfold Thread.setG
  by_cases hi : i = 0
  · simp [hi]
  · by_cases hj : j = 0
    · have : ¬(j = i ∧ i ≠ 0) := fun e => hi (e.1 ▸ hj)
      rw [if_neg this]; simp [Thread.gr, hj]
    · simp only [hi, if_false, Thread.gr, hj]
      rw [SMap.get_set _ _ _ _ h]
      by_cases e : j = i
      · subst e; rw [if_pos rfl, if_pos ⟨rfl, hi⟩]
      · simp [e, gkey_ne e]

/-- A predicate register after a write. -/
theorem Thread.pr_setP (x : Thread) (i j : BitVec 3) (v : Pred) (h : SMap.sorted x.p = true) :
    (x.setP i v).pr j = if j = i ∧ i ≠ 0 then v else x.pr j := by
  unfold Thread.setP
  by_cases hi : i = 0
  · simp [hi]
  · by_cases hj : j = 0
    · have : ¬(j = i ∧ i ≠ 0) := fun e => hi (e.1 ▸ hj)
      rw [if_neg this]; simp [Thread.pr, hj]
    · simp only [hi, if_false, Thread.pr, hj]
      rw [SMap.get_set _ _ _ _ h]
      by_cases e : j = i
      · subst e; rw [if_pos rfl, if_pos ⟨rfl, hi⟩]
      · simp [e, gkey_ne e]

/-- A vector register after a write. -/
theorem Thread.vr_setV (x : Thread) (i j : BitVec 5) (v : VReg) (h : SMap.sorted x.v = true) :
    (x.setV i v).vr j = if j = i then v else x.vr j := by
  simp only [Thread.setV, Thread.vr]
  rw [SMap.get_set _ _ _ _ h]
  by_cases e : j = i
  · simp [e]
  · simp [e, gkey_ne e]

/-! ## Issue -/

theorem State.thread?_setThread (s : State) (t : Tid) (x : Thread) : (s.setThread t x).thread? t = some x := by
  simp [State.thread?]

theorem tidKey_inj {t u : Tid} (h : tidKey t = tidKey u) : t = u := by
  obtain ⟨⟨a, ha⟩, ⟨b, hb⟩⟩ := t; obtain ⟨⟨c, hc⟩, ⟨d, hd⟩⟩ := u
  simp only [tidKey] at h
  have : a = c := by omega
  have : b = d := by omega
  subst_vars; rfl

theorem State.thread?_setThread_ne (s : State) {t u : Tid} (h : u ≠ t) (x : Thread) :
    (s.setThread t x).thread? u = s.thread? u := by
  simp only [State.thread?, State.setThread_threads]
  exact SMap.find?_put_ne (fun e => h (tidKey_inj e)) _ _

section Issue
variable {s : State} {t : Tid} {x : Thread} {k : Task} {pred : BitVec 3} {neg ok always legal : Bool}
  {run : Thread → Task → State}

/-- An instruction that issues, whose fields are in order and whose predicate holds, has its effect. -/
theorem State.issue_run (ht : s.thread? t = some x) (hm : s.mayIssue x = true) (hk : s.task? x.task = some k)
    (hf : s.fetchExc x k = none) (ho : ok = true) (hp : always = true ∨ (x.gov pred neg).getLsbD 0 = true)
    (hl : legal = true) : s.issue t pred neg ok always legal run = .next (run x k) := by
  unfold State.issue
  rcases hp with hp | hp <;> simp [ht, hm, hk, hf, ho, hp, hl]

/-- An instruction whose predicate is false is passed over (R61). -/
theorem State.issue_skip (ht : s.thread? t = some x) (hm : s.mayIssue x = true) (hk : s.task? x.task = some k)
    (hf : s.fetchExc x k = none) (ho : ok = true) (hp : (x.gov pred neg).getLsbD 0 = false) :
    s.issue t pred neg ok false legal run = .next (s.setThread t x.step) := by
  unfold State.issue
  simp only [ht, hm, hk, hf, ho, hp]
  rfl

/-- A reserved or unused field that is not zero raises EXC_ILLEGAL (R61, R62). -/
theorem State.issue_illegal (ht : s.thread? t = some x) (hm : s.mayIssue x = true) (hk : s.task? x.task = some k)
    (hf : s.fetchExc x k = none) (ho : ok = false) :
    s.issue t pred neg ok always legal run = .next (s.raise t x .illegal 0) := by
  unfold State.issue
  simp [ht, hm, hk, hf, ho]

/-- Everything an issue can do: nothing, where no thread can issue; an exception of the fetch; EXC_ILLEGAL; the next
instruction; or the instruction's effect. -/
theorem State.issue_cases {s' : State} (h : s.issue t pred neg ok always legal run = .next s') :
    s' = s ∨ ∃ x k, s.thread? t = some x ∧ s.task? x.task = some k ∧ s.mayIssue x = true ∧
      ((∃ e a, s.fetchExc x k = some (e, a) ∧
          s' = (if e = .data then s.memError (x.pc.toNat / 64 * 64) 0 stPoison k.part else s).raise t x e a) ∨
        s' = s.raise t x .illegal 0 ∨ s' = s.setThread t x.step ∨ s' = run x k) := by
  unfold State.issue at h
  split at h
  · left; injection h with h; exact h.symm
  · rename_i x hx
    split at h
    · left; injection h with h; exact h.symm
    · rename_i hm
      split at h
      · left; injection h with h; exact h.symm
      · rename_i k hk
        right
        refine ⟨x, k, hx, hk, by simpa using hm, ?_⟩
        split at h
        · rename_i e a hf
          left; injection h with h; exact ⟨e, a, hf, h.symm⟩
        · right
          split at h
          · left; injection h with h; exact h.symm
          · split at h
            · right; left; injection h with h; exact h.symm
            · split at h
              · left; injection h with h; exact h.symm
              · right; right; injection h with h; exact h.symm

/-- An issue never stops the block. -/
theorem State.issue_next : ∃ s', s.issue t pred neg ok always legal run = .next s' := by
  unfold State.issue
  repeat' split
  all_goals exact ⟨_, rfl⟩

end Issue

/-- The thread once a handler takes an exception: the record of Table 03-12, and the PC at the handler (R81). -/
def Thread.taken (x : Thread) (e : Exc) (a : W64) (h : Nat) : Thread :=
  { x with excCode := e.code, excPc := x.pc, excAddr := a, excStatus := e.status.setWidth 64, wait := .ready,
           pc := BitVec.ofNat 64 h, inHandler := true }

/-- With a handler, an exception writes its record and moves the PC; nothing else of the state changes (R81). -/
theorem State.raise_handled {s : State} {t : Tid} {x : Thread} {e : Exc} {a : W64} {h : Nat}
    (hh : s.handlerOf x = some h) : s.raise t x e a = s.setThread t (x.taken e a h) := by
  unfold State.raise
  dsimp only
  split
  · rename_i h' hh'
    have q : some h' = some h := hh'.symm.trans hh
    injection q with q; subst q; rfl
  · rename_i hn
    have q : none = some h := hn.symm.trans hh
    cases q

end Sys2Proof.Machine
end

