-- ==== Sys2Proof/Tests/Slice0.lean ====
section
/-! SUPPORT. The model's own tests: one step each on small states, ill-formed commands, and a witness for the hypotheses of
every obligation. -/

namespace Sys2Proof.Tests

open Sys2Proof Sys2Proof.Machine

set_option Elab.async false

/-! ## Well-formed commands: what cannot come is refused -/

/-- A request with n bytes of payload. -/
def tReq (n : Nat) : FabReq := { port := 0, dst := 0, src := 0, body := List.replicate n 0 }

theorem test_wf_requests_over_4096 : ([Instr.loadRequest, .storeRequest, .ataddRequest, .atfaddRequest, .casRequest, .fpadd32Request, .inval,
    .fenceRequest, .freqCue, .routeUpdate, .assume, .halt].all fun f => !(f (tReq 4097)).wf) = true := by decide +kernel
theorem test_wf_replies_over_4096 : (Instr.unknownOperation (tReq 4097) 0x20).wf = false ∧
    (Instr.response { port := 0, dst := 0, seq := 0, body := List.replicate 4097 0 }).wf = false := by decide +kernel
theorem test_wf_writes_over_64k : ([Instr.coolantReenable, .cap, .stepMax, .currentLimit, .curtain, .discard, .errorCount, .flyUcodeGo, .ownerRequest,
    .nonce].all fun f => !(f .can (List.replicate 65537 0)).wf) = true := by
  simp [-List.reduceReplicate, Instr.wf, Acc.carries]
theorem test_wf_writes_over_data : ([Instr.layerCounters (.mbx 0) 0, .partReset (.mbx 0) 0, .store (.mbx 0) 1, .restore (.mbx 0) 1,
    .portRetrain (.mbx 0) 0, .image (.mbx 0) 0, .dictionaryWrite (.mbx 0) { index := 0, sub := 0 }].all fun f => !(f (List.replicate 61441 0)).wf) = true := by
  simp [-List.reduceReplicate, Instr.wf, Acc.carries]
theorem test_wf_offsets : (Instr.dictionaryWrite .can { index := 0, sub := 0, offset := 2 ^ 32 } []).wf = false ∧
    (Instr.image .can (2 ^ 32) []).wf = false ∧ (Instr.usdoInitiate true { index := 0, sub := 0, offset := 1 } [] true).wf = false := by decide +kernel
theorem test_wf_mailbox_data : ([Instr.read 0, .write 0, .readWings 0, .mailboxRelease 0].all fun f => !(f { target := 0, length := 0, data := List.replicate 61441 0 }).wf) = true := by
  simp [-List.reduceReplicate, Instr.wf]
theorem test_wf_usdo_segment : (Instr.usdoSegment (List.replicate 65537 0) true).wf = false := by simp [-List.reduceReplicate, Instr.wf]
theorem test_wf_store_args : ([Instr.storeBegin, .activate, .abandon, .retryStart, .ghostNext].all fun f => !(f .can [0, 0]).wf) = true := by decide +kernel
theorem test_wf_samples : (Instr.tempSample (List.replicate 71 0)).wf = false ∧ (Instr.hbmTempRead (List.replicate 9 0)).wf = false := by decide +kernel
theorem test_wf_start : (Instr.packageStart { modules := List.replicate 17 16 }).wf = false ∧
    (Instr.packageStart { modules := [97] }).wf = false := by decide
theorem test_wf_lanes : (Instr.laneCopyComplete false 384 0 []).wf = false ∧ (Instr.laneCopyComplete true 0 32 []).wf = false := by decide
theorem test_wf_bar4 : (Instr.bar4Read 0 0 0).wf = false ∧ (Instr.bar4Read 0 0 4097).wf = false ∧ (Instr.bar4Write 0 0 []).wf = false ∧
    (Instr.bar4Write 0 0 (List.replicate 513 0)).wf = false ∧ (Instr.msixUnmask 0 2).wf = false := by decide +kernel

theorem test_wf_arrivals : (Instr.fillComplete 0 { bytes := List.replicate 64 0, bad := [1] }).wf = false ∧
    (Instr.cueEntryPlaced 0 0 { bytes := [0], bad := [1] }).wf = false ∧ (Instr.sfloadComplete ⟨0, 0⟩ (List.replicate 4161 0) 0).wf = false := by decide +kernel
theorem test_wf_ports : (Instr.trainingComplete 0 { serial := 0, port := 24, coord := 0, halves := 0 }).wf = false ∧
    (Instr.retrainComplete 0 { serial := 0, port := 24, coord := 0, halves := 0 }).wf = false := by decide
theorem test_wf_shares : (Instr.powerEstimate 0 0 [0, 0, 0]).wf = false := by decide

/-! ## The machine -/

/-- Whether a command answers a next state that passes. -/
def tNext (r : Result) (f : State → Bool) : Bool := match r with | .next s => f s | _ => false

theorem witness_IdleStep : State.reset.pending = [] ∧ State.reset.pins.refclk = true ∧ State.reset.working = false ∧ Quiet State.reset ∧
    State.reset.tileWrites = [] ∧
    State.reset.clk.part < State.reset.mhz ∧ 100 ≤ State.reset.mhz ∧
    ({ State.reset with pins := { refclk := false } } : State).pins.refclk = false := by decide
theorem witness_StepKeepsInvariant : ∃ s', State.reset.Inv ∧ step State.reset = .next s' := ⟨_, ⟨by decide, by simp [State.reset]⟩, rfl⟩

/-! ## Threads -/

/-- A cast's descriptor: TYPE 0x60, code of 64 units at 0x4000, no handler. -/
def tDesc : W512 := BitVec.ofNat 512 (0x4000 * 2 ^ 448 + 64 * 2 ^ 232 + 0x60)
/-- The same with a handler at CODE + 8 × 4. -/
def tDescH : W512 := BitVec.ofNat 512 (0x4000 * 2 ^ 448 + 64 * 2 ^ 232 + 4 * 2 ^ 208 + 2 ^ 130 + 0x60)
/-- The global address of offset o of this package. -/
def tA (o : Nat) : W64 := BitVec.ofNat 64 (0xFFF * 2 ^ 52 + o)
/-- Thread 0 of core 0. -/
def tT : Tid := ⟨0, 0⟩
/-- A thread at 0x4008 with a few registers: 7, −2⁶³, −1, and addresses. -/
def tX : Thread := { task := 0, tid := 0, pc := 0x4008#64
                     g := [(1, 7), (2, BitVec.ofInt 64 (-2 ^ 63)), (3, -1#64), (4, tA 0x100000), (5, 4096),
                       (6, 0x3F800000), (7, tA 0x100001), (8, tA 0x200000)] }
/-- Its task, which may write 64 KiB at 0x100000 of this package. -/
def tK : Task := { part := 0, desc := tDesc, step := 0, home := 0, phase := .running, dispatched := true
                   ranges := [{ base := tA 0x100000, size := 0x10000, out := true }] }
/-- A package that works, with that thread and task, and an allocation at 0x100000. -/
def tS (x : Thread := tX) (k : Task := tK) : State :=
  { threads := [(0, x)], tasks := [(0, k)], allocs := [(0x100000, { size := 0x10000, part := 0 })]
    mem := [(0x100000, 0x11), (0x100001, 0x22)]
    house := { deviceState := 1, started := true, running := true } }

theorem witness_Issues : Issues (tS) tT tX tK := by decide +kernel
theorem witness_OnS : OnS tX { gd := 9, ga := 1, gb := 3 } { gd := true, ga := true, gb := true } ∧
    OnS tX { gd := 9, ga := 1 } { gd := true, ga := true } ∧ OnS tX {} { gd := false } ∧
    OnS tX { gd := 9, ga := 1, gb := 3, gc := 2 } { gd := true, ga := true, gb := true, gc := true } := by decide +kernel
theorem witness_IntegerNeverRaises : Issues tS tT tX tK ∧ OnI tX { gd := 9, ga := 1, imm := 5 } ∧
    OnS tX { gd := 1, ga := 2, gb := 0 } { gd := true, ga := true, gb := true } ∧ tX.gr 0 = 0 ∧
    OnS tX { gd := 1, ga := 2, gb := 3 } { gd := true, ga := true, gb := true } ∧
    tX.gr 2 = BitVec.ofInt 64 (-2 ^ 63) ∧ tX.gr 3 = BitVec.ofInt 64 (-1) := by decide +kernel
theorem witness_ScalarResults : Issues tS tT tX tK ∧ OnI tX { gd := 9, ga := 1, imm := 0xFFFFFFFF } ∧
    OnS tX { gd := 7, ga := 1, gb := 3, gc := 8 } { gd := true, ga := true, gb := true, gc := true } ∧ fld (7 : BitVec 6) 5 3 = 0 ∧
    OnS tX { gd := 7, ga := 1, gb := 3, gc := 5 } { gd := true, ga := true, gb := true, gc := true } := by decide +kernel
theorem witness_IntegerFrame : tNext (exec (.add tT { gd := 1, ga := 1, gb := 3 }) tS) (fun _ => true) = true ∧ SMap.sorted tX.g = true := by
  decide +kernel
theorem witness_SpecialRegisters : OnI tX { gd := 1, imm := 0x15 } ∧ OnI tX { gd := 0, ga := 1, imm := 0x15 } ∧ OnI tX { gd := 0, ga := 1, imm := 0x10 } ∧
    OnI tX { gd := 1, imm := 0x0B } ∧ OnI tX { gd := 1, imm := 0x16 } ∧ Issues tS tT tX tK := by decide +kernel
/-- The same thread, its PC misaligned, before and at the end of its code. -/
def tPc (pc : W64) : Thread := { tX with pc := pc }
theorem witness_IssueChecks : Issues tS tT tX tK ∧ ({ rsv := 1 } : SOp).rsv ≠ 0 ∧
    (tX.gov 0 true).getLsbD 0 = false ∧ sOk { pneg := true, gd := 1, ga := 1 } { gd := true, ga := true } = true ∧
    ([0x4004#64, 0x3FF8#64, 0x5000#64].all fun pc => decide ((tS (tPc pc)).thread? tT = some (tPc pc) ∧
      (tS (tPc pc)).mayIssue (tPc pc) = true ∧ (tS (tPc pc)).task? 0 = some tK)) = true := by decide +kernel
theorem witness_ExceptionTaken : (tS tX { tK with desc := tDescH }).task? 0 = some { tK with desc := tDescH } ∧
    dHandler tDescH = some 0x4020 ∧ tX.inHandler = false ∧ dHandler tDesc = none ∧ bOk {} false false false = true := by decide +kernel

/-- A word with OPC 0x16, which no table lists, at the PC of the thread. -/
theorem witness_unlisted : ({ tS with mem := [(0x400F, 0x16)] } : State).byte 0x400F = 0x16 ∧ opcList.contains 0x16 = false ∧
    ({ tS with mem := [(0x400F, 0x16)] } : State).populated 0x4008 8 = true ∧
    ({ tS with mem := [(0x400F, 0x16)] } : State).poisoned 0x4008 8 = false := by decide +kernel
/-- Words of Tables 03-5 to 03-11: SUB g1, g2, g3 under !p4; ADDI g1, g2, −1; ST 4 bytes of g63 at g62 + 16, release; VFMA v1, v2, v3, v4 at
BF16; ACMD array 1, TAG 255, g9; BR −2. -/
theorem test_decode_words :
    decodeThreadWord tT 0x0290420C00000000 = some (.sub tT { pred := 4, pneg := true, gd := 1, ga := 2, gb := 3 }) ∧
    decodeThreadWord tT 0x18004200FFFFFFFF = some (.addi tT { gd := 1, ga := 2, imm := 0xFFFFFFFF }) ∧
    decodeThreadWord tT 0x310FFE4800000010 = some (.st tT { gd := 63, ga := 62, sz := 2, ord := 1, off := 16 }) ∧
    decodeThreadWord tT 0x4300886420000000 = some (.vfma tT { vd := 1, va := 2, vb := 3, vc := 4, et := 1 }) ∧
    decodeThreadWord tT 0x700009FF80000000 = some (.acmd tT { ga := 9, arr := true, tag := 255 }) ∧
    decodeThreadWord tT 0xD0000000FFFFFFFE = some (.br tT { disp := 0xFFFFFFFE }) ∧
    decodeThreadWord tT 0x1600000000000000 = none ∧ decodeThreadWord tT 0 = some (.nop tT {}) := by decide +kernel

theorem test_add_wraps : tNext (exec (.add tT { gd := 1, ga := 1, gb := 3 }) tS) (fun s => ((s.thread? tT).map (·.gr 1)) == some 6) = true := by
  decide +kernel
theorem test_sra_of_sign : tNext (exec (.sra tT { gd := 9, ga := 2, gb := 1 }) tS) (fun s =>
    ((s.thread? tT).map (·.gr 9)) == some (-2 ^ 56)) = true := by decide +kernel
theorem test_g0_discards : tNext (exec (.add tT { gd := 0, ga := 1, gb := 1 }) tS) (fun s => ((s.thread? tT).map (·.gr 0)) == some 0) = true := by
  decide +kernel

/-! ## Memory -/

theorem witness_NearAccesses : (tX.gr 4 + BitVec.ofInt 64 0) = (tA 0x100000) ∧
    LoadsNow tS tT tX tK (tA 0x100000) 8 ∧ LoadsNow tS tT tX tK (tA 0x100000) 512 ∧
    StoresNow tS tT tX tK (tA 0x100000) 512 ∧ StoresNow tS tT tX tK (tA 0x10FFFF) 1 ∧ Memory.wf tS.mem = true ∧
    tS.releaseReady tT tK (tA 0x100000) true = true := by decide +kernel
theorem witness_AddressRefusals : (tX.gr 7).toNat % 2 ≠ 0 ∧ (tX.gr 8).toNat % 8 = 0 ∧ tS.isOwn (gcoord (tX.gr 8)) = true ∧
    tS.reaches 0 (glocal (tX.gr 8)) 8 = false ∧ tS.taskWrites tK (tX.gr 8) 8 = false ∧ tS.guarded 0x4000 8 = true ∧
    tS.mayRewrite tK 0x4000 8 = false ∧ tK.replaying = false ∧ tK.encore = false ∧ splitOf tK.desc = none ∧
    tS.populated 0xC000000000 1 = false := by decide +kernel
/-- Two far lines cached on die 0. -/
def tLines : State := { tS with fab := { coord := some 0 }, lines := [(0x010 * 2 ^ 46, 5), (0x010 * 2 ^ 46 + 1, 6)] }
theorem witness_AcquireWithInvalidate : SMap.sorted tLines.lines = true ∧ (0x010 * 2 ^ 46 : Nat) < 2 ^ 58 ∧
    tLines.cached? 0 (0x010 * 2 ^ 46) = some 5 ∧ tLines.lineFar (0x010 * 2 ^ 46) = true ∧
    LoadsNow tS tT tX tK (tA 0x100000) 8 ∧ tX.gr 0 = 0 ∧
    OnS tX { gd := 1, ga := 4, gb := 5, gc := 3 } { gd := true, ga := true, gb := true, gc := true } := by decide +kernel
/-- Partition 0 in a scripted step. -/
def tScripted : State := { tS with parts := [(0, { phase := .active, scripted := true })] }
theorem witness_Atomics : tK.atomRec 0 = none ∧ tS.logUsed < 1048576 ∧ tS.mayStore 0 0x100000 8 = true ∧
    tS.orderWait tT (tA 0x100000) 8 true = false ∧ tS.homeHeld (some 0) 0x100000 8 = false ∧ tS.poisonAt 0x100000 8 = none ∧
    OnS tX { gd := 1, ga := 4, gb := 1, gc := 2, w := true } { gd := true, ga := true, gb := true, gc := true } true ∧
    Issues tScripted tT tX tK ∧ (tScripted.part 0).scripted = true ∧
    OnS tX { gd := 1, ga := 4, gb := 6 } { gd := true, ga := true, gb := true } true := by decide +kernel

theorem test_ld_little_endian : tNext (exec (.ld tT { gd := 1, ga := 4, sz := 1 }) tS) (fun s =>
    ((s.thread? tT).map (·.gr 1)) == some 0x2211#64) = true := by decide +kernel
theorem test_st_low_byte : tNext (exec (.st tT { gd := 1, ga := 4, sz := 0 }) tS) (fun s =>
    s.byte 0x100000 == 7 && s.byte 0x100001 == 0x22) = true := by decide +kernel
theorem test_misaligned_raises : tNext (exec (.ld tT { gd := 1, ga := 7, sz := 1 }) (tS tX { tK with desc := tDescH })) (fun s =>
    ((s.thread? tT).map fun x => (x.excCode, x.excPc, x.excAddr, x.pc)) == some (2, 0x4008, (tA 0x100001), 0x4020)) = true := by
  decide +kernel
theorem test_atfadd : tNext (exec (.atfadd tT { gd := 9, ga := 4, gb := 1 }) tS) (fun s =>
    ((s.thread? tT).map (·.gr 9)) == some 0x2211#64 && s.byte 0x100000 == 0x18) = true := by decide +kernel

/-! ## Vectors -/

/-- Registers with a few elements: v1 = 1, −1, 2 at INT32, v2 = 5, 7 and v3 as FP32 1.0. -/
def tV : Thread := { tX with v := [(1, BitVec.ofNat 4096 (2 * 2 ^ 64 + 0xFFFFFFFF * 2 ^ 32 + 1)), (2, BitVec.ofNat 4096 (7 * 2 ^ 32 + 5)), (3, BitVec.ofNat 4096 (0x3F800000 * 2 ^ 32 + 0x3F800000))]
                             p := [(1, 0x5#128)] }

theorem witness_VectorElementwise : Issues (tS tV) tT tV tK ∧ SMap.sorted tV.v = true ∧
    OnV { vd := 4, va := 1, vb := 2, et := 2 } { vd := true, va := true, vb := true } ∧
    OnV { vd := 4, va := 1, vb := 2, et := 0 } { vd := true, va := true, vb := true } ∧
    OnV { vd := 4, va := 1, vb := 2, et := 4, pred := 1 } { vd := true, va := true, vb := true } := by decide +kernel
theorem witness_VectorMoves : vOk { vd := 4, va := 1, vb := 2, vc := 3, et := 1 } { vd := true, va := true, vb := true, vc := true } = true ∧
    vOk { vd := 4, va := 1, vb := 2, pd := 1 } { vd := true, va := true, vb := true, pd := true } = true ∧
    vOk { vd := 4, gs := 3 } { vd := true, gs := true } = true ∧
    vOk { vd := 4, gs := 3, lane := 127 } { vd := true, gs := true, lane := true } = true ∧ (127 : Nat) < 4096 / etWidth 0 := by decide +kernel
theorem witness_VectorReductionsAndConversions : OnV { va := 1, gs := 9, et := 0 } { va := true, gs := true } ∧ OnV { va := 1, gs := 9, et := 1 } { va := true, gs := true } ∧
    OnV { va := 1, gs := 9, et := 2 } { va := true, gs := true } ∧
    vOk { va := 1, vb := 2, vc := 5, pd := 2, et := 4 } { va := true, vb := true, vc := true, pd := true } = true ∧
    vOk { va := 1, gs := 9, lane := 511, et := 4 } { va := true, gs := true, lane := true } = true ∧ (511 : Nat) < 4096 / etWidth 4 ∧
    4096 / etWidth 0 ≤ 128 ∧ vOk { vd := 4, va := 1, vb := 6, et := 0 } { vd := true, va := true, vb := true } = true := by decide +kernel
/-- A core whose table slot 1 holds a table of partition 0, at 0x100000 of an allocation long enough. -/
def tTab : State := { tS tV with cores := [(0, { tables := [(1, { part := 0, source := (tA 0x100000), image := 0 })] })] }
theorem witness_SpecialFunctions : Issues tTab tT tV tK ∧ vOk { vd := 4, va := 1, vc := 1 } { vd := true, va := true, vc := true } = true ∧
    (SMap.find? 1 (tTab.core 0).tables).map (·.part) = some tK.part ∧ SMap.find? 2 (tTab.core 0).tables = none ∧
    vOk { vc := 1, gs := 4 } { vc := true, gs := true } = true ∧ (tV.gr 4).toNat % 64 = 0 ∧ tTab.orderWait tT (tV.gr 4) 4160 false = false ∧ tTab.mayLoad 0 0x100000 4160 = true ∧
    (tV.gr 7).toNat % 64 ≠ 0 := by decide +kernel
/-- The thread while its SFLOAD waits. -/
def tLoading : Thread := { tV with wait := .sfload 1 (tA 0x100000) }
/-- Its package. -/
def tLoadS : State := { tS tLoading with cores := [(0, { loads := [(0, 0)] })] }
theorem witness_TableLoad : tLoadS.thread? tT = some tLoading ∧ tLoadS.working = true ∧ tLoadS.nextLoad 0 = some 0 ∧
    tLoadS.copying 0x100000 4160 = false ∧ tLoadS.replayHeld (some 0) (tLoadS.gkey (tA 0x100000)) 4160 = false ∧
    tLoadS.poisonAt 0x100000 4160 = none ∧ SMap.find? 1 (tLoadS.core 0).tables = none ∧ tLoadS.mayLoad 0 0x100000 4160 = true := by
  decide +kernel

theorem test_vadd_int32 : tNext (exec (.vadd tT { vd := 4, va := 1, vb := 2, et := 2 }) (tS tV)) (fun s =>
    ((s.thread? tT).map (·.vr 4)) == some (BitVec.ofNat 4096 (2 * 2 ^ 64 + 6 * 2 ^ 32 + 6))) = true := by decide +kernel
theorem test_vadd_predicated : tNext (exec (.vadd tT { vd := 2, va := 1, vb := 2, et := 2, pred := 1 }) (tS tV)) (fun s =>
    ((s.thread? tT).map (·.vr 2)) == some (BitVec.ofNat 4096 (2 * 2 ^ 64 + 7 * 2 ^ 32 + 6))) = true := by decide +kernel
theorem test_vredsum_fp32 : tNext (exec (.vredsum tT { va := 3, gs := 9, et := 0 }) (tS tV)) (fun s =>
    ((s.thread? tT).map (·.gr 9)) == some 0x40000000#64) = true := by decide +kernel

/-! ## Matrix arrays -/

/-- A LOAD of BF16 elements, 1 row of 64 bytes, from 0x31000001000. -/
def tLoadW : W512 := BitVec.ofNat 512 (0x31000001000 * 2 ^ 64 + 64 * 2 ^ 48 + 9 * 2 ^ 4 + 1)
/-- A RELEASE. -/
def tRelW : W512 := 3
/-- The task with 64 KiB of its core's tile store. -/
def tKa : Task := { tK with tsBase := 0x31000000000, tsSize := 0x10000 }
/-- A thread whose g1 names the command word and g2 a misaligned one. -/
def tXa : Thread := { tX with g := [(1, 0x31000000000), (2, 0x31000000020)] }
/-- That package with a command word in the tile store. -/
def tSa (w : W512) : State := { tS tXa tKa with mem := (SMap.keep (fun _ b => b != 0) ((bytesLE 64 w.toNat).zipIdx.map fun e => (0x31000000000 + e.2, e.1))) }
/-- The array of the thread's core with a command at the front of its queue. -/
def tSq (c : ArrCmd) (b : Option Block := none) : State :=
  { tS tXa { tKa with arrSeq := [(7, 3)] } with arrays := [(0, { owner := some 0, queue := [c], nextSeq := 4, block := b })] }

theorem witness_ArrayCommands : Issues (tSa tRelW) tT tXa tKa ∧ (tXa.gov 0 false).getLsbD 0 = true ∧ (tXa.gr 1).toNat % 64 = 0 ∧
    tKa.tsBase ≤ (tXa.gr 1).toNat ∧ (tXa.gr 1).toNat + 64 ≤ tKa.tsBase + tKa.tsSize ∧ (tXa.gr 1).toNat < 2 ^ 52 ∧ (tXa.gr 2).toNat % 64 ≠ 0 ∧
    (tSa tRelW).orderWait tT (BitVec.ofNat 64 (0xFFF * 2 ^ 52 + (tXa.gr 1).toNat)) 64 false = false ∧ ((tSa tRelW).array 0).owner.any (· != 0) = false ∧ ((tSa tRelW).array 0).queue.length < 8 ∧
    (tSa tRelW).replayHeld (some 0) (lkey 0x31000000000) 64 = false ∧ (tSa tRelW).poisoned 0x31000000000 64 = false ∧
    (tSa tRelW).cmdOk tKa 0 ((tSa tRelW).word512 0x31000000000) = true ∧
    (tSa 0).cmdOk tKa 0 ((tSa 0).word512 0x31000000000) = false ∧ tXa.gr 0 = 0 ∧ SMap.find? 7 tKa.arrSeq = none := by decide +kernel
theorem witness_ArrayRuns : (tSq { seq := 3, tag := 7, task := 0, word := tLoadW }).working = true ∧
    cmdType tLoadW = 1 ∧ (tSq { seq := 3, tag := 7, task := 0, word := tLoadW }).loadHeld 0 tLoadW = false ∧ cmdType tRelW = 3 ∧ (tSq { seq := 3, tag := 7, task := 0, word := tLoadW }).poison = [] ∧
    recRehearsal ((tSq { seq := 3, tag := 7, task := 0, word := tLoadW }).layerRec 0 (dLayer tDesc)) = 0 := by decide +kernel
/-- A STREAM that has run, writing 0x31000001000 and on, before the LOAD of those bytes. -/
def tStrW : W512 := BitVec.ofNat 512 (0x31000001000 * 2 ^ 128 + 8 * 2 ^ 64 + 2)
theorem witness_ArrayCompletes : cmdType tStrW = 2 ∧ overlap (loadSrcExt tLoadW).1 (loadSrcExt tLoadW).2 (streamOutExt tStrW 1).1 (streamOutExt tStrW 1).2 = true ∧
    overlap (loadSrcExt tLoadW).1 (loadSrcExt tLoadW).2 (streamOutExt (BitVec.ofNat 512 2) 1).1 (streamOutExt (BitVec.ofNat 512 2) 1).2 = false := by decide +kernel
theorem witness_PlaneWeights : ({ p := 4, c := 2, z := 0, scales := [], planes := [1, 3] } : TileCol).planes.length = 2 := by decide

theorem test_acmd_queues : tNext (exec (.acmd tT { ga := 1, tag := 7 }) (tSa tRelW)) (fun s => (s.array 0).queue.map (·.tag) == [7]) = true := by
  decide +kernel
theorem test_weight_top_plane_negative : ({ p := 4, c := 2, z := 0, scales := [], planes := [1, 3] } : TileCol).weight 0 0 = -4 := by decide +kernel

/-! ## Control flow, fences, waits and hints -/

/-- A second thread of the cast, on slot 1. -/
def tX1 (w : Wait) : Thread := { task := 0, tid := 1, pc := 0x4010#64, wait := w }
/-- Two threads of one cast. -/
def tS2 (w : Wait) : State := { tS with threads := [(0, tX), (1, tX1 w)] }
/-- A fabric context of partition 0: job 1 over the X ring, one window of every right over 1 GiB from 0. -/
def tFctx : Nat := 2 ^ 368 + 3 * 2 ^ 360 + 2 ^ 336
/-- The package at coordinate 0 with its +X neighbour on port 0 and the fabric context. -/
def tFab (s : State := tS) : State :=
  ({ s with fab := { coord := some 0, routes := [(0x100, BitVec.ofNat 64 (2 ^ 63 + 0x100 * 2 ^ 44))]
                     ports := [(0, { phase := .up, farCoord := 0x100 })] } }).setCfg 0x2410 1 0
    (bytesLE 64 tFctx ++ bytesLE 32 (2 ^ 192 * 0 + 2 ^ 128 * 0x40000000 + 7))

theorem witness_ControlAndEnd : (tX.gov 0 false).getLsbD 0 = true ∧ tX.inHandler = false ∧ Issues (tS { tX with inHandler := true }) tT
      { tX with inHandler := true } tK ∧ bOk {} false false false = true ∧ fld (tX.gr 1) 63 52 = 0 ∧ tS.isOwn (gcoord (tX.gr 4)) = true ∧
    fld (tX.gr 3) 63 52 ≠ 0 ∧ tS.isOwn (gcoord (tX.gr 2)) = false ∧ fld (tX.gr 2) 63 52 ≠ 0 ∧
    SMap.sorted (tS2 .ready).threads = true ∧ (tS2 .ready).thread? ⟨0, 1⟩ = some (tX1 .ready) ∧ (tX1 .ready).wait ≠ .bar ∧
    (∀ e ∈ tS.threads, e.2.task = 0 → e.1 = tidKey tT ∨ e.2.ended = true) := by decide +kernel
/-- A thread that waits at a release of one byte. -/
def tRel : Thread := { tX with wait := .release (.store [(tA 0x100002, [9])]) }
/-- An access of the thread that is outstanding: a far load. -/
def tPend : PendReq := { req := { port := 0, dst := 0x100, src := 0 }, op := 1, task := some 0, kind := .fence tT 1 }
theorem witness_FencesAndReleases : OnS tX { gd := 1 } { gd := true } ∧ tS.outstanding tT = [] ∧ tS.servesOwn tT = false ∧
    tS.awaitsCommit tK = false ∧ ({ tFab with fab := { tFab.fab with pend := [tPend] } } : State).outstanding tT ≠ [] ∧
    (tS tRel).thread? tT = some tRel ∧ (tS tRel).outstanding tT = [] ∧ (tA 0x100002).toNat + 1 < 2 ^ 64 ∧ StoresNow (tS tRel) tT tRel tK (tA 0x100002) 1 ∧
    (tFab.isOwn 0 = true ∧ tFab.resolve 0 (BitVec.ofNat 64 (0x100 * 2 ^ 52)) = .far 0x100 ∧ routeState (tFab.route 0x100) ≠ 1 ∧
      tFab.fab.pend.length < 65536 ∧ (∀ q ∈ tFab.fab.pend, q.req.dst = 0x100 → q.moved = false ∧ q.req.port.val = 0) ∧ tFab.firstHop (some 0) 0x100 = .port 0 ∧
      tFab.resolve 0 (BitVec.ofNat 64 (0x200 * 2 ^ 52)) = .refused) ∧
    OnS tX { ga := 4, gb := 1, gc := 0 } { ga := true, gb := true, gc := true } ∧ tFab.fab.coord = some (BitVec.ofNat 12 (tX.gr 0).toNat) ∧
    tFab.resolve 0 (tX.gr 4) ≠ .refused ∧
    (∀ q ∈ tFab.outstanding tT, q.writes = false) ∧ SMap.sorted tFab.lines = true := by decide +kernel
theorem witness_BarriersWaitsAndHints : OnS tX {} { gd := false } ∧ (tX1 .ready).ended = false ∧ (tX1 .bar).wait = .bar ∧
    SMap.sorted (tS2 .bar).threads = true ∧ (tS2 .bar).threads.all (fun e => decide (e.1 < 16384)) = true ∧
    Issues (tS2 .bar) tT tX tK ∧ (tX.gr 4).toNat % 8 = 0 ∧ tX.gr 0 = 0 ∧ tX.gr 1 ≠ 0x2211 ∧
    (tS { tX with wait := .waitv 1 (tA 0x100000) 7 0x2211 true false }).polling tT = false ∧
    OnS tX { ga := 4, gb := 5 } { ga := true, gb := true } ∧ tS.inAllocs 0 0x100000 4096 = true ∧ tS.inAllocs 0 0x200000 4096 = false := by
  decide +kernel

theorem test_br : tNext (exec (.br tT { disp := 0xFFFFFFFF }) tS) (fun s => ((s.thread? tT).map (·.pc)) == some 0x4000) = true := by
  decide +kernel
theorem test_bar_releases : tNext (exec (.bar tT {}) (tS2 .bar)) (fun s => s.threads.map (fun e => (e.2.pc, e.2.wait)) ==
    [(0x4010, .ready), (0x4018, .ready)]) = true := by decide +kernel
theorem test_waitv_match : tNext (exec (.waitv tT { gd := 9, ga := 4, gb := 1, gc := 0 }) tS) (fun s =>
    ((s.thread? tT).map fun x => (x.gr 9, x.pr 7)) == some (0x2211, 0)) = true := by decide +kernel
theorem test_end_ends_cast : tNext (exec (.endThread tT {}) tS) (fun s => s.threads == []) = true := by decide +kernel

/-! ## Queues -/

/-- Host queue 0 of partition 0, running, with one entry ready of a ring of 4. -/
def tHq : Queue := { status := 1, ringCfg := 1, sqEntries := 4, cqEntries := 4, sqTail := 1, sqHead := 0 }
/-- A working package with that queue; partition 0 has a phase and VF 1 exists. -/
def tQs (ph : PartPhase := .active) (q : Queue := tHq) : State :=
  { tS with queues := [(0x8000, q)], parts := [(0, { phase := ph })], numVfs := 1 }
/-- Its reference. -/
def tQ : QRef := .host 0 0
/-- The entry it reads. -/
def tEntry (w : W512) : Entry := { queue := 0x8000, submit := 0, part := 0, kind := entryKind (fld w 7 0), word := w }

theorem witness_Entries : (tQs .off).heldOf 0x8000 0 = none ∧ (tQs .off).mayAccept 0x8000 = true ∧ (tQs .off).qLocal 0x8000 = false ∧
    (tQs .active { tHq with sqTail := 0 }).mayAccept 0x8000 = false ∧ ((tQs .reset).part 0).phase = .reset ∧
    ((tQs).accept 0x8000 0 0x60).2 = some (0, tEntry 0x60) ∧ tQs.entryWaits 0 (tEntry 0x60) = false ∧
    entryKind (fld (0xFF : W512) 7 0) = .unknown := by decide +kernel
/-- A complete first entry of the queue. -/
def tDone (q : Queue := tHq) : State := { tQs .active q with entries := [(0, { tEntry 0x60 with done := some (0x13, 5) })] }
theorem witness_NoticeWritten : (tDone.firstEntry 0x8000).map Prod.fst = some 0 ∧ (tHq.cqTail + 1) % tHq.cqEntries.toNat ≠ tHq.cqHead ∧
    (tDone).fab.homeStores = [] ∧
    (∃ h ∈ ({ tDone with fab := { homeStores := [{ waits := [(4, 2)], act := .engine }] } } : State).fab.homeStores, h.act = .engine) ∧ ((tDone { tHq with cqTail := 3 }).queue 0x8000).cqTail + 1 = 4 ∧ bit tHq.ringCfg 1 = false := by decide +kernel
/-- Device queue 0 of partition 0 with its rings in the allocation. -/
def tDev : State := { tQs with queues := [(0, { sqBase := 0x100000, cqBase := 0x101000 })] }
theorem witness_QueuesAndDoorbells : tDev.queueUp (.dev 0 0) = true ∧ tDev.qStatus 0 = 1 ∧ tDev.standinQueue 0 = false ∧
    (0 + (tDev.queue 0).sqEntries.toNat - 0) % (tDev.queue 0).sqEntries.toNat + (15 + 16 - 0) % 16 < (tDev.queue 0).sqEntries.toNat ∧
    tDev.ringOk 0 (tDev.queue 0).sqBase (64 * 16) = true ∧ tDev.ringOk 0 (tDev.queue 0).cqBase (16 * 16) = true ∧
    tQs.queueUp tQ = true ∧ bit tHq.ringCfg 0 = true ∧ ((tQs .active {}).queue 0x8000).status = 0 ∧ (tQs .active {}).qHolds 0x8000 = false ∧
    (tQs .active { tHq with resetWanted := true }).qBusy 0x8000 = false := by decide +kernel

theorem test_notice_bytes : tNext (exec (.completionNotice tQ) tDone) (fun s => s.outbox.contains
    (.hostWrite 0 [1, 0x13, 0, 0x80, 0, 0, 0, 0, 5, 0, 0, 0, 0, 0, 0, 0])) = true := by decide +kernel
theorem test_tail_past_ring : tNext (exec (.sqTail (.dev 0 0) 16) tDev) (fun s => s.ctr .doorbellErrors 0 == 1 && (s.queue 0).sqTail == 0) = true := by
  decide +kernel

/-! ## Stage manager, requests, preemption, norm watch -/

/-- A cast task that waits and is ready, its code in an allocation at 0x4000. -/
def tWait : Task := { tK with phase := .waiting, dispatched := false, readyAt := some 0, ranges := [] }
/-- A package with that task and partition 0 owning core 0. -/
def tDs (k : Task := tWait) : State :=
  ({ tS with threads := [], tasks := [(0, k)], allocs := [(0x4000, { size := 0x2000, part := 0 }), (0x100000, { size := 0x10000, part := 0 })]
             parts := [(0, { phase := .active })] }).setCfg 0x3000 1 32 [1]
theorem witness_DispatchStartsCast : tDs.working = true ∧ (tDs.noteAll.readyOn 0) = [(0, tWait)] ∧ (tDs.noteAll.part 0).selectRunning = false ∧
    tDs.noteAll.replayWaits 0 tWait = false ∧ tDs.noteAll.checkTask tWait = some [] ∧ tDs.noteAll.readsHeld 0 tWait [] = false ∧
    tDs.noteAll.placeOn (tDs.noteAll.declare 0 tWait []) = some 0 ∧ tDs.noteAll.refetch (tDs.noteAll.declare 0 tWait []) 0 = [] := by
  decide +kernel
/-- The task complete, with its entry. -/
def tEnd : State := { tDs { tK with phase := .complete } with entries := [(0, tEntry 0x60)] }
theorem witness_TaskEnds : (tDs tK).runEnded 0 tK = true ∧ tK.phase = .running ∧ dType tK.desc = 0x60 ∧ tEnd.mayCommit 0 { tK with phase := .complete } = true ∧
    SMap.sorted tEnd.tasks = true ∧ dReq tK.desc = none ∧ tEnd.working = true ∧ tDs.mayCommit 0 tWait = false := by decide +kernel
/-- A partition whose step is to end, with nothing open. -/
def tStep : State := { tQs with tasks := [], threads := [], parts := [(0, { phase := .active, stepBegins := [0], step := 4, dispatchedAny := true })]
                                entries := [(0, tEntry 0x70)] }
theorem witness_StepsAndResets : tStep.stepOpen 0 0 = false ∧ bit (tStep.detRec 0) 0 = false ∧ (tDs tK).stepOpen 0 0 = true ∧
    fld ((tStep.setCfg 0x3000 1 4 [1]).partRec 0) 63 32 ≠ 0 ∧ fld (tStep.partRec 0) 63 32 = 0 ∧ ((tQs .reset).part 0).phase = .reset := by decide +kernel
/-- REQ_OPEN of slot 5 with RESULT 0x100100. -/
def tOpen : W512 := BitVec.ofNat 512 (0x100100 * 2 ^ 384 + 5 * 2 ^ 244 + 0x71)
/-- An open request in slot 5. -/
def tReqS (cls : Nat := 1) : State := { tQs with requests := [(5, { part := 0, result := 0x100100, cls := cls })] }
theorem witness_RequestEntries : Takes tQs tQ tOpen (tQs.accept 0x8000 0 tOpen).1 0 tOpen ∧
    (tQs.accept 0x8000 0 tOpen).1.reqOpenCheck 0 tOpen = none ∧ ((tReqS).accept 0x8000 0 tOpen).1.reqOpenCheck 0 tOpen = some 0x15 ∧
    fld tOpen 255 244 = 5 ∧ SMap.sorted (tReqS).requests = true ∧ SMap.sorted (tReqS).customers = true := by
  refine ⟨⟨?_, ?_, ?_, tEntry tOpen, ?_, ?_, ?_⟩, ?_, ?_, ?_, ?_, ?_⟩ <;> decide +kernel
/-- A waiting task of a DEADLINE request and a running one of a BACKGROUND request, on the one core of partition 0. -/
def tSw : State :=
  (((({ tS with
      tasks := [(0, { tK with desc := tDesc + BitVec.ofNat 512 (2 ^ 83 + 63 * 2 ^ 192), slots := List.range 64 }),
                (1, { tWait with desc := tDesc + BitVec.ofNat 512 (2 ^ 83 + 2 ^ 84) })]
      threads := (List.range 64).map fun i => (i, { tX with tid := i })
      requests := [(0, { part := 0, cls := 1 }), (1, { part := 0, cls := 2 })]
      parts := [(0, { phase := .active })] } : State).setCfg 0x3000 1 32 [1]).setCfg 0x3000 1 20 [1]).setCfg 0x3000 1 8 [1])
/-- One DEADLINE request of 1 µs, 2 µs old, with a remaining estimate and a stand-in record. -/
def tMon (r : Request := { part := 0, cls := 2, budgetUs := 1, estTotal := 9 }) (d : Nat := 2 ^ 56 + 1) : State :=
  ({ tDs with requests := [(5, r)], clk := { ticks := 200 }, queues := [(0, { sqBase := 0x100000, sqEntries := 8 })] } : State).setCfg 0x3000 5 0
    (bytesLE 16 d)
theorem witness_monitor : tMon.working = true ∧ tMon.isScripted 0 = false ∧ 100 * 1 < 200 + ceilDiv (10 * 9 * 2000) tMon.mhz ∧
    bit (tMon.standinRec 0 0) 0 = true ∧ fld (tMon.standinRec 0 0) 52 37 = 0 ∧ (tMon.queue 0).sqBase ≠ 0 ∧
    200 + ceilDiv (10 * 0 * 2000) tMon.mhz < 200 + ceilDiv (10 * 9 * 2000) tMon.mhz ∧
    fld (tMon.standinRec 0 0) 63 56 ≤ 8 - 1 - (0 + 8 - 0) % 8 ∧ bit ((tMon (d := 0)).standinRec 0 0) 0 = false ∧
    200 + ceilDiv (10 * 0 * 2000) tMon.mhz ≤ 100 * 2 ∧ SMap.sorted tMon.counters = true := by decide +kernel
theorem witness_MonitorAndPreemption : tSw.working = true ∧ Memory.wf tSw.mem = true ∧ tSw.wantsSwitch { tWait with desc := tDesc + BitVec.ofNat 512 (2 ^ 83 + 2 ^ 84) } = true ∧
    tSw.victimOf { tWait with desc := tDesc + BitVec.ofNat 512 (2 ^ 83 + 2 ^ 84) } = some 0 ∧
    tSw.saveBytes 0 { tK with desc := tDesc + BitVec.ofNat 512 (2 ^ 83 + 63 * 2 ^ 192), slots := List.range 64 } ≤ tSw.saveFree 0 ∧
    (tDs { tK with phase := .switchedOut, slots := [3], saved := [(3, tX)] }).mayResume 0
      { tK with phase := .switchedOut, slots := [3], saved := [(3, tX)] } = true := by decide +kernel
/-- Layer 0 of partition 0 with its one report in. -/
def tNw : State := { tDs { tK with phase := .complete } with
  parts := [(0, { phase := .active, layerCfg := [(0, 4)], reports := [(0, { total := 1, vals := [(0, 0x3F800000)] })] })] }
/-- A pending encore of layer 0. -/
def tEnc : State := { tDs { tK with phase := .complete } with parts := [(0, { phase := .active, encores := [(0, { kinds := [false] })] })] }
theorem witness_NormVerdicts : (SMap.get {} (tNw.part 0).reports (reportKey 0 false)).due = true ∧ recAction (tNw.layerRec 0 0) false = 1 ∧
    tNw.working = true ∧ (SMap.get {} (tNw.part 0).reports (reportKey 1 false)).due = false ∧
    tEnc.kindHeld 0 0 false = false ∧ tEnc.kindHeld 0 0 true = false ∧
    (tEnc.layerCasts 0 0).any (fun c => c.2.phase != .complete || c.2.replaying) = false ∧ SMap.sorted tEnc.tasks = true ∧
    (tEnc.mergeWaits 0 0).isNone = true := by decide +kernel

theorem test_dispatch_starts_at_code : tNext (exec (.dispatch 0) { tDs with clk := { cycle := 32 } }) (fun s =>
    s.threads.map (fun e => (e.1, e.2.pc)) == [(0, 0x4000)]) = true := by decide +kernel
theorem test_monitor_counts_late : tNext (exec .callMonitorTick (tMon (d := 0))) (fun s => s.ctr .lateNoSwitch 0 == 1 &&
    s.ctr .deadlineMisses == 1) = true := by decide +kernel
theorem test_reset_once : tNext (exec (.stepTimeout 0) (tStep.setCfg 0x3000 1 4 [1])) (fun s => (s.part 0).phase == .reset) = true := by
  decide +kernel

/-! ## Faults, replay and halt -/

/-- A dispatched cast of partition 0, running on core 0, and a task of dispatch number 1 that read its output. -/
def tRun : State := { tS tX { tK with dispatched := true, outs := [(0x100000, 64)] } with
  tasks := [(0, { tK with outs := [(0x100000, 64)] }), (1, { tK with phase := .complete, dseq := 1, ins := [(0x100020, 8)] })]
  parts := [(0, { phase := .active })] }
/-- The same replay set with both members complete. -/
def tRan : State := { tRun with
  tasks := [(0, { tK with phase := .complete, replaying := true }), (1, { tK with phase := .complete, replaying := true, dseq := 1 })]
  parts := [(0, { phase := .active, replay := [0, 1] })] }
/-- A package with transients at core 3, and with lane 5 of region 2 being copied. -/
def tSite (n : Nat) : State := { tS with faults := { transients := [(siteKey (.core 3), List.replicate n 0)] } }
/-- The copy. -/
def tCopy : LaneCopy := { tierD := false, region := 2, lane := 5, chan := 7, slot := 380 }
theorem witness_ReplaysAndRetirement : tRun.working = true ∧ tRun.task? 0 = some { tK with outs := [(0x100000, 64)] } ∧
    dIsCast tK.desc = true ∧ tRun.replaySet 0 [0] = [0, 1] ∧
    ([0, 1].all fun m => (tRun.task? m).any fun u => !tRun.noReplay u) = true ∧
    ((tS tX { tK with replays := 4 }).task? 0).map (·.replays) = some 4 ∧
    (tRan.part 0).replay = [0, 1] ∧ ([0, 1].all fun m => (tRan.task? m).any fun u => u.phase == .complete) = true ∧ tRan.fab.held = [] ∧
    (tSite 16).recent (.core 3) = 16 ∧ (tSite 17).recent (.core 3) = 17 ∧ (tSite 17).isRetired (.core 3) = false ∧
    ({ tS with faults := { copies := [tCopy] } } : State).faults.copies = [tCopy] ∧ tCopy.lane = 5 ∧ tS.house.deviceState = 1 := by decide +kernel
theorem witness_Halts : tFab.house.deviceState = 1 ∧ (tFab.fab.ports.any fun e => e.2.phase == .up) = true ∧
    ({ tS with house := { deviceState := 3 } } : State).house.deviceState = 3 ∧ tS.house.started = true ∧ tFab.house.started = true := by
  decide +kernel
/-- A package that has started and is in ghost-light. -/
def tGhost : State := { tS with house := { tS.house with started := true, deviceState := 2 } }
theorem witness_DeviceFatalFaults : tGhost.house.started = true ∧ tGhost.house.deviceState ≠ 3 := by decide

theorem test_halt_darkens_ports : tNext (exec (.dieLinkRetryLimit 3 5) tFab) (fun s => s.house.deviceState == 3 && s.house.haltCause == 3 &&
    s.fab.ports.all (fun e => e.2.phase == .dark)) = true := by decide +kernel
theorem test_retire_on_17th : tNext (exec (.sitePermanent (.core 3)) (tSite 16)) (fun s => s.faults.retiredCores == []) = true ∧
    tNext (exec (.sitePermanent (.core 3)) (tSite 17)) (fun s => s.faults.retiredCores == [3]) = true := by decide +kernel

/-! ## Tiers, objects and cue sheets -/

/-- Memory from words: address, length, value. -/
def tMem (ws : List (Nat × Nat × Nat)) : SMap Byte :=
  ws.flatMap fun x => SMap.keep (fun _ b => b != 0) ((bytesLE x.2.1 x.2.2).zipIdx.map fun e => (x.1 + e.2, e.1))
/-- An operation's entry: class, words A, B. -/
def tFly (c a b : Nat) : W512 := BitVec.ofNat 512 (a * 2 ^ 448 + b * 2 ^ 384 + c)
/-- An object of OBJECT_ID 42, 4 KiB at 0x102000. -/
def tObj : W512 := BitVec.ofNat 512 (42 * 2 ^ 448 + 0x102000 * 2 ^ 384 + 2 ^ 224)
/-- A cue entry of it: 6 units, 1 tile, to unit 4 of core 0. -/
def tCue : BitVec 256 := BitVec.ofNat 256 (42 * 2 ^ 192 + 6 * 2 ^ 136 + 2 ^ 67 + 4 * 2 ^ 44)
/-- A sheet of one layer and that entry, at 0x100400; an object descriptor at 0x100800; one tile without planes in the object. -/
def tSheetMem : SMap Byte := tMem [(0x100400, 64, 7 * 2 ^ 448 + 0x100500 * 2 ^ 384 + 2 ^ 352 + 2 ^ 341 + 1), (0x100500, 32, tCue.toNat),
  (0x100800, 64, tObj.toNat), (0x102000, 0x40, 1 + 768 * 2 ^ 352)]
/-- Partition 0 with quotas, queue and that memory. -/
def tFs (objs : SMap Object := []) : State := ({ tQs with
  tasks := [], threads := [], mem := tSheetMem, objects := objs }.setCfg 0x2310 1 0 (bytesLE 32 (4 * 2 ^ 224 + 2 ^ 192 + 2 * 2 ^ 160 + 2 * 2 ^ 144 + 2 ^ 128))).setCfg
    0x3000 1 32 [1]
/-- Whether a queue of a state takes a word. -/
def tTakes (s : State) (w : W512) : Bool :=
  (s.heldOf 0x8000 0).isNone && s.mayAccept 0x8000 && (s.part 0).phase == .active &&
  (match (s.accept 0x8000 0 w).2 with | some (k, x) => x.word == w && !s.entryWaits k x && k == 0 | none => false)
theorem takes_of_tTakes {s : State} {w : W512} (h : tTakes s w = true) : Takes s tQ w (s.accept 0x8000 0 w).1 0 w := by
  unfold tTakes at h
  rcases h2 : s.accept 0x8000 0 w with ⟨s1, _ | ⟨k, x⟩⟩ <;> simp only [h2] at h
  · simp at h
  · simp only [Bool.and_eq_true, Option.isNone_iff_eq_none, beq_iff_eq, Bool.not_eq_true'] at h
    obtain ⟨⟨⟨h3, h4⟩, h5⟩, ⟨h6, h7⟩, h8⟩ := h
    subst h8
    exact ⟨h3, h4, h5, x, h2, h6, h7⟩
/-- The objects with 42 registered. -/
def tObjs : SMap Object := [(42, { desc := tObj, part := 0 })]
theorem witness_AllocAndFree : ([tFly 0x20 0x80000000 0x200000, tFly 0x20 0x80000000 0xA00000, tFly 0x20 0x80000001 0x200000, tFly 0x21 0x100000 0,
      tFly 0x21 0x100040 0, tFly 0x21 0x100000 0 + 256].all (tTakes tFs)) = true ∧
    fld (tFly 0x20 0x80000000 0x200000) 383 256 = 0 ∧ inTiers 0x80000000 = true ∧ tFs.populated 0x80000000 0x200000 = true ∧
    0x80000000 + 0xA00000 ≤ tFs.reservedTop false ∧ (tFs.allocs.all fun x => !overlap x.1 x.2.size 0x80000000 0xA00000) = true ∧
    tFs.usedH 0 + 0x200000 ≤ tFs.quotaH 0 ∧ ¬ tFs.usedH 0 + 0xA00000 ≤ tFs.quotaH 0 ∧
    SMap.find? 0x100000 tFs.allocs = some { size := 0x10000, part := 0 } ∧ tFs.rangeUsed 0x100000 0x10000 = false ∧
    (tFs tObjs).rangeUsed 0x100000 0x10000 = true := by decide +kernel
theorem witness_ObjectsAndKeys : (tTakes tFs (tFly 0x22 0x100800 0) && tTakes (tFs tObjs) (tFly 0x23 42 0) && tTakes tFs (tFly 0x25 9 0x101000) &&
      tTakes { tFs with keys := [(9, { part := 0, keyId := 1, key := [] })] } (tFly 0x26 9 0)) = true ∧
    tFs.inAllocs 0 0x100800 64 = true ∧ tFs.poisoned 0x100800 64 = false ∧ tFs.objectOk 0 (tFs.word512 0x100800) = true ∧
    tFs.objectsOf 0 < fld (tFs.quotaRec 0) 191 160 ∧ (tFs tObjs).objectOk 0 ((tFs tObjs).word512 0x100800) = false ∧
    (tFs tObjs).objNamed 42 = false ∧ tFs.keyUsed 9 = false ∧ tFs.inAllocs 0 0x101000 1200 = true ∧
    tFs.keys.countP (fun x => x.2.part == 0) < fld (tFs.quotaRec 0) 159 144 ∧
    ((List.range 56).all fun i => tFs.byte (0x101000 + i) == 0) = true ∧ tFs.poisoned 0x101000 1200 = false := by decide +kernel
/-- A FILL of 16 bytes at OFF 64 of object 42 from 0x100400. -/
def tFill : W512 := BitVec.ofNat 512 (42 * 2 ^ 448 + 0x100400 * 2 ^ 384 + 64 * 2 ^ 320 + 16 * 2 ^ 256 + 0x24)
/-- It runs. -/
def tFilling : State := { tFs tObjs with entries := [(0, tEntry tFill)], fills := [(0, tEntry tFill)] }
theorem witness_Fills : (tTakes (tFs tObjs) tFill && tTakes tFs tFill) = true ∧ ((tFs tObjs).accept 0x8000 0 tFill).1.fillCheck 0 tFill = stOk ∧
    (tFs.accept 0x8000 0 tFill).1.fillCheck 0 tFill = 0x15 ∧ SMap.find? 0 tFilling.fills = some (tEntry tFill) ∧
    tFilling.working = true ∧ objSealed tObj = false ∧ tFilling.fillHere 0 tFill = some 0x100400 ∧ Memory.wf tFilling.mem = true ∧
    tFilling.poison = [] ∧ (tEntry tFill).done = none ∧ tFilling.homeHeld none 0x100400 16 = false ∧
    tFilling.homeHeld none ((objBase tObj false).toNat + 64) 16 = false ∧ tFilling.populated 0x100400 16 = true ∧
    tFilling.populated ((objBase tObj false).toNat + 64) 16 = true ∧ tFilling.guarded ((objBase tObj false).toNat + 64) 16 = false ∧
    ({ tFilling with tasks := [(0, { tK with guards := [(0x102000, 0x100)] })] } : State).guarded ((objBase tObj false).toNat + 64) 16 = true ∧
    ({ tFilling with tasks := [(0, { tK with replaying := true, outs := [(lkey ((objBase tObj false).toNat + 64), 16)] })] } : State).homeHeld
      none ((objBase tObj false).toNat + 64) 16 = true := by decide +kernel
/-- The sheet as loaded. -/
def tSheet : Sheet := { header := 0x100400, sheetId := 7, layers := [0], entriesAddr := 0x100500, entries := [{ word := tCue, pos := 0 }], lead := 0 }
/-- It is in slot 2, and may be selected. -/
def tSel (x : Part) : State := { tFs tObjs with parts := [(0, { x with phase := .active, sheets := [(2, tSheet)] })] }
theorem witness_CueSheets : (tTakes (tFs tObjs) (tFly 0x27 2 0x100400) && tTakes (tSel { dispatchedAny := true }) (tFly 0x28 2 0) &&
      tTakes (tSel {}) (tFly 0x29 2 0)) = true ∧
    ((tFs tObjs).accept 0x8000 0 (tFly 0x27 2 0x100400)).1.readSheet 0 0x100400 = some tSheet ∧
    (tFs.accept 0x8000 0 (tFly 0x27 2 0x100400)).1.readSheet 0 0x100400 = none ∧
    ((tSel { selected := some 2 }).part 0).selected = some 2 ∧
    ((tSel { selectRunning := true, selecting := [0, 3], selectLimit := 2 }).part 0).selectRunning = true ∧
    (tSel { selected := some 2, dispatchedAny := true }).entryStarts 0 0 = true ∧ (tSel {}).entryStarts 0 0 = false ∧
    (tSel { selected := some 2, entryPhase := [(0, .started 0)] }).working = true ∧
    ((tSel { selected := some 2, entryPhase := [(0, .started 0)] }).fetch (.cue 0 0) 0 0 tObj false 0 768 { bytes := [] }).2 =
      some { bytes := tFilling.bytes 0x102000 768 } ∧
    walkTiles (tFilling.bytes 0x102000 768) [] 1 0 = some [(0, 768)] ∧ tileOk (tFilling.bytes 0x102000 768) = true := by decide +kernel

theorem test_alloc_records : tNext (exec (.alloc tQ (tFly 0x20 0x80000000 0x200000)) tFs) (fun s =>
    SMap.find? 0x80000000 s.allocs == some { size := 0x200000, part := 0 }) = true := by decide +kernel
theorem test_fill_copies : tNext (exec (.fillComplete 0 { bytes := [] }) tFilling) (fun s =>
    s.bytes 0x102040 8 == s.bytes 0x100400 8 && s.byte 0x102050 == 0) = true := by decide +kernel

/-! ## Contexts, pools and pages -/

/-- A context image, also a descriptor's shape: page table of one page at 0x10F000, one layer and group, D = 32, pool 0. -/
def tImg : W512 := BitVec.ofNat 512 (0x10F000 * 2 ^ 384)
/-- Its descriptor for partition 0 with a length. -/
def tCtx (len : Nat) : W512 := setFld (freshCtx tImg 0 0 1) 383 352 len
/-- Its reference. -/
def tRef : W64 := tA (2 ^ 0)
/-- A package with that context at index 0, its page at 0x101000 in pool 0, and a handle 5. -/
def tCs (len : Nat) (hs : SMap Prefix := []) (ex : SMap CtxExtra := []) : State := { tFs with
  ctxs := [(0, tCtx len)], ctxExtra := ex
  mem := tMem [(0x10F000, 8, 0x101001)]
  parts := [(0, { phase := .active, handles := hs, pools := [(0, { base := 0x101000, size := 0xB000, dblk := 1, pmax := 4, train := false, counts := [(0, 1)], precs := [(0, 4)] })] })] }
/-- A published prefix of one page. -/
def tPre : Prefix := { len := 256, layerBase := 0, layersM1 := 0, groupsM1 := 0, dblkM1 := 0, pool := 0, pages := [(0, 0x101000)] }
/-- A POOL entry. -/
def tPoolW : W512 := BitVec.ofNat 512 (3 * 2 ^ 448 + 0x104000 * 2 ^ 384 + 0x8000 * 2 ^ 320 + 32 * 2 ^ 304 + 4 * 2 ^ 300 + 0x41)
/-- Memory with an image at 0x100200 and dirt in its page table. -/
def tImgs : State := { tFs with mem := tMem [(0x100200, 64, tImg.toNat), (0x10F000, 8, 5)] }
/-- A release in progress. -/
def tRels : State := { tCs 256 [] [(0, { releasing := some 0 })] with entries := [(0, tEntry (tFly 0x43 tRef.toNat 0))] }
/-- A task of a request whose context that is. -/
def tNamed : State := { tRels with
  tasks := [(0, { tWait with desc := BitVec.ofNat 512 (2 ^ 83 + 0x60) })], requests := [(0, { part := 0, ctx := tRef })] }
theorem witness_Contexts : (tTakes tFs tPoolW && tTakes tFs (tPoolW + BitVec.ofNat 512 (2 ^ 404)) && tTakes tImgs (tFly 0x42 0x100200 0) &&
      tTakes (tCs 256) (tFly 0x43 tRef.toNat 0) && tTakes (tCs 256) (tFly 0x47 tRef.toNat 0x100080) && tTakes (tCs 256) (tFly 0x47 tRef.toNat 0x500080) &&
      tTakes tFs (tFly 0x43 tRef.toNat 0)) = true ∧
    tFs.pool? 0 3 = none ∧ tFs.inAllocs 0 0x104000 0x8000 = true ∧ tFs.inAllocs 0 0x204000 0x8000 = false ∧
    tImgs.permits 0 0x100200 64 = true ∧ tImgs.poisoned 0x100200 64 = false ∧ ctxTableExt (tImgs.word512 0x100200) = (0x10F000, 8) ∧
    tImgs.inAllocs 0 0x10F000 8 = true ∧ Memory.wf tImgs.mem = true ∧ ctxTrain tImg = false ∧
    SMap.lowestFree 2097152 (SMap.keep (fun _ d => ctxState d != 0) tImgs.ctxs) = some 0 ∧ tImgs.usedH 0 + 64 ≤ tImgs.quotaH 0 ∧
    (match tFs.refCheck 0 tRef with | .error st => st == 0x15 | _ => false) = true ∧
    (match (tCs 256).refCheck 0 tRef with | .ok x => x == (0, tCtx 256) | _ => false) = true ∧
    (tCs 256).mayStore 0 0x100080 64 = true ∧ (tCs 256).mayStore 0 0x500080 64 = false ∧ Memory.wf (tCs 256).mem = true ∧
    (SMap.get {} tRels.ctxExtra 0).releasing = some 0 ∧ tRels.ctxNamed 0 (tCtx 256) = false ∧ tNamed.ctxNamed 0 (tCtx 256) = true ∧
    SMap.sorted tRels.ctxExtra = true := by decide +kernel
theorem witness_PrefixHandles : (tTakes (tCs 256) (tFly 0x44 tRef.toNat 5 + BitVec.ofNat 512 (256 * 2 ^ 320)) &&
      tTakes (tCs 256 [(5, tPre)]) (tFly 0x44 tRef.toNat 5 + BitVec.ofNat 512 (256 * 2 ^ 320)) && tTakes (tCs 0 [(5, tPre)]) (tFly 0x45 tRef.toNat 5) &&
      tTakes (tCs 0) (tFly 0x45 tRef.toNat 5) && tTakes (tCs 0 [(5, tPre)]) (tFly 0x46 5 0)) = true ∧
    (match (tCs 0 [(5, tPre)]).refCheck 0 tRef with | .ok x => x == (0, tCtx 0) | _ => false) = true ∧
    tPre.fits (tCtx 0) = true ∧ ((tCs 256).part 0).handles = [] ∧
    (tCs 256).usedH 0 + 8 * ((ctxHeads (tCtx 256)).length * 1) ≤ (tCs 256).quotaH 0 ∧ SMap.sorted ((tCs 0 [(5, tPre)]).part 0).handles = true := by
  decide +kernel
/-- A row of 32 values 1.0. -/
def tKv (row : Nat) : KvWrite := { p := 0, ref := tRef, layer := 0, group := 0, row := row, keys := List.replicate 32 0x3F800000, vals := List.replicate 32 0x3F800000 }
/-- The context whose page holds one row, this step's row 0 if so. -/
def tKvs (len a : Nat) : State := tCs len [] [(0, { appended := [(0, a)] })]
theorem witness_KeyValueAppends : (tKvs 1 0).working = true ∧ ((tKvs 1 0).part 0).phase = .active ∧
    (match (tKvs 1 0).refCheck 0 tRef with | .ok x => x == (0, tCtx 1) | _ => false) = true ∧ ctxState (tCtx 1) = 1 ∧ kvFits (tKv 0) (tCtx 1) = true ∧
    SMap.get 0 (SMap.get {} (tKvs 1 1).ctxExtra 0).appended (groupKey 0 0) = 1 ∧ (tKv 0).row ≤ 1 ∧ (tKv 0).row ≠ 1 ∧
    (ctxLen (tCtx 1) + 0) % 256 ≠ 0 ∧ (ctxLen (tCtx 1) + 0) % 256 ≠ 255 ∧ ctxPages (tCtx 256) * 256 ≤ ctxLen (tCtx 256) ∧
    ctxLen (tCtx 1) < ctxPages (tCtx 1) * 256 ∧ ctxTrain (tCtx 1) = false ∧ Memory.wf (tKvs 1 0).mem = true ∧
    entryPage ((tKvs 1 0).pageEntry (tCtx 1) 0 0 0) = 0x101000 := by decide +kernel

theorem test_ctx_alloc_ref : tNext (exec (.ctxAlloc tQ (tFly 0x42 0x100200 0)) tImgs) (fun s => (SMap.find? 0 s.entries).any (fun x =>
    x.done == some (0, BitVec.ofNat 64 1)) && s.byte 0x10F000 == 0) = true := by decide +kernel

/-! ## Casting calls and collectives -/

/-- A segment of a phase and sender at step 0. -/
def tSeg (phase : Nat) (src : Nat := 0) (st : Nat := 0) : Segment := { hdr := BitVec.ofNat 512 (phase * 2 ^ 243 + src * 2 ^ 231 + st * 2 ^ 215) }
/-- A call word: scores, map, bias, lists, table and counters from 0x104000 on, two tokens, G = 1. -/
def tCallW : W512 := BitVec.ofNat 512 (0x104000 * 2 ^ 448 + 0x105000 * 2 ^ 384 + 0x106000 * 2 ^ 320 + 0x107000 * 2 ^ 256 + 0x108800 * 2 ^ 192 +
  0x109000 * 2 ^ 128 + 2 * 2 ^ 45 + 2 ^ 33)
/-- Two experts, capacity 1, expert choice, rate 1.0, limit 2.0. -/
def tCastCfg : BitVec 256 := BitVec.ofNat 256 (0x3F800000 * 2 ^ 192 + 0x40000000 * 2 ^ 160 + 2 ^ 53 + 2 ^ 32)
/-- A call of task 0. -/
def tCall (w : CastWait := .counts) (fin : List Nat := []) : CastCall :=
  { task := 0, word := tCallW, cfg := tCastCfg, step := 0, mapCrc := 0, biasCrc := 0, cfgCrc := 0, waits := w, selected := true, finalSlots := fin }
/-- Its package: the map's second expert in slot 1; a bias of 1.0 and -1.0. -/
def tCast (w1 : Nat := 2 ^ 50) (x : Part := {}) (k : Task := { tK with desc := BitVec.ofNat 512 (0x100C00 * 2 ^ 256 + 0x63) }) : State :=
  ({ tFs with
    mem := tMem [(0x100C00, 64, tCallW.toNat), (0x104000, 8, 0x40000000 * 2 ^ 32 + 0x3F800000), (0x105210, 8, w1), (0x106000, 8, 0xBF800000 * 2 ^ 32 + 0x3F800000)]
    tasks := [(0, k)], parts := [(0, { x with phase := .active })] }).setCfg 0x270E 1 0 (bytesLE 32 tCastCfg.toNat)
/-- A posted all-to-all of layer 0. -/
def tA2a : CollRun := { task := 0, desc := BitVec.ofNat 512 (9 * 2 ^ 256 + 4 * 2 ^ 230), index := 0, n := 4, startTick := 0 }
/-- The COLL request of a segment from 0x100. -/
def tSegR : FabReq := { port := 0, dst := 0, src := 0x100, jobId := 1, cls := 1, seq := 0x80000001 }
/-- That package on the fabric, the sender in rank 0's place of the map. -/
def tCastF (x : Part := {}) : State := tFab (tCast (x := x))
theorem witness_SegmentsArrive : SegFresh (tCastF) tSegR ∧ (tCastF).contextCheck 0x10 tSegR = some 0 ∧
    (tCastF).contextCheck 0x10 { tSegR with jobId := 2 } = none ∧ SMap.sorted (tCastF).counters = true ∧
    ({ tCall with word := 0x104000 } : CastCall).group = 1 ∧
    (({ tCastF with mem := tMem [(0x105000, 2, 0x100)] } : State).rankCoord tCall 0) = 0x100 ∧
    (tCastF).isOwn 0x100 = false ∧
    ((tCast).part 0).phase = .active ∧ segKey (tSeg 4).hdr ∈ ((tCast (x := { heardSegs := [segKey (tSeg 4).hdr] })).part 0).heardSegs ∧
    ((tCast).part 0).heardSegs = [] ∧ ((tCast).part 0).colls = [] ∧ tCall.owns (tSeg 4).hdr = true ∧
    tCall.group = 1 ∧ ({ tCall with segs := [tSeg 2] } : CastCall).phaseSegs 4 0 = none ∧
    BitVec.ofNat 8 (fld (tSeg 7 0 0x15).hdr 222 215) ≠ stReset ∧ Memory.wf (tCast).mem = true ∧
    fld (tSeg 4).hdr 245 243 ≠ 3 ∧ fld (tSeg 4).hdr 511 448 = 0 := by decide +kernel
theorem witness_CastingCalls : (tCast).task? 0 = some { tK with desc := BitVec.ofNat 512 (0x100C00 * 2 ^ 256 + 0x63) } ∧
    dType (BitVec.ofNat 512 (0x100C00 * 2 ^ 256 + 0x63)) = 0x63 ∧ dAux (BitVec.ofNat 512 (0x100C00 * 2 ^ 256 + 0x63)) = 0x100C00 ∧
    (tCast).inAllocs 0 0x100C00 64 = true ∧ (tCast).word512 0x100C00 = tCallW ∧
    BitVec.ofNat 256 ((tCast).cfgNum 0x270E 1 0 32) = tCastCfg ∧ (tCast).callFieldsOk tCall = true ∧ (tCast 0).callFieldsOk tCall = false ∧
    SMap.sorted (tCast).tasks = true ∧ tCall.mode = 1 ∧ (tCast).inAllocs 0 (tCall.bias 0) (2 * castSstr tCall.experts) = true ∧
    (tCall.reads ++ tCall.writes).all ((tCast).extOk 0) = true ∧ (tCall.writes.any fun e => (tCast).guarded e.1 e.2) = false ∧
    (tCast).poison = [] ∧ ((tCast).setCfg 0x270F 0 0 [5]).cfgNum 0x270F 0 0 4 ≠ 0 ∧ ((tCast).setCfg 0x270F 0 0 [0, 0, 0, 0]).cfgNum 0x270F 0 0 4 = 0 ∧
    ((tCast).owned tCall 0).find? (fun x => x.1 == 1) = some (1, 1) ∧
    (tCast (2 ^ 56)).owned tCall 0 = [(0, 0)] ∧ tCall.out + castOsz tCall.cap * 1 + 8 ≤ 0x108800 ∧
    tCall.map + 512 + 16 * tCall.experts ≤ tCall.out := by decide +kernel
theorem witness_BiasUpdate : f32Lt 0x40000000#32 (f32Add 0x3F800000#32 0x3F800000#32 &&& 0x7FFFFFFF#32) = false ∧
    f32Lt 0x40000000#32 (f32Add 0x40000000#32 0x3F800000#32 &&& 0x7FFFFFFF#32) = true ∧ (0x40000000#32).toNat < 2 ^ 31 := by decide +kernel
/-- A collective's descriptor of 16 bytes a participant: KIND, COLL_ID 9. -/
def tCollW (kind : Nat) : W512 := BitVec.ofNat 512 (0x104000 * 2 ^ 448 + 0x106000 * 2 ^ 384 + 16 * 2 ^ 288 + 9 * 2 ^ 256 + kind * 2 ^ 230)
/-- A package of a block of four with a collective task. -/
def tColl (w : W512 := tCollW 3) (x : Part := {}) : State :=
  let s := tFab { tFs with
    mem := tMem [(0x100C00, 64, w.toNat), (0x104000, 8, 0x0807060504030201)]
    tasks := [(0, { tK with desc := BitVec.ofNat 512 (0x100C00 * 2 ^ 256 + 0x64) })], parts := [(0, { x with phase := .active })] }
  { s with fab := { s.fab with routes := [1, 2, 3].map fun j => (256 * j, BitVec.ofNat 64 (2 ^ 63 + 256 * j * 2 ^ 44)) } }
/-- It is posted; n segments are here. -/
def tPosted (n : Nat) : CollRun := { task := 0, desc := tCollW 3, index := 0, n := 4, startTick := 0, segs := (List.range n).map fun i => { collId := 9, sender := i, pos := i } }
/-- A segment of it. -/
def tCseg (i : Nat) (st : Byte := 0) : CollSegment := { collId := 9, sender := i, pos := i, status := st, body := List.replicate 16 0xAB }
theorem witness_CollectiveRuns : (tColl).inAllocs 0 0x100C00 64 = true ∧ dType (BitVec.ofNat 512 (0x100C00 * 2 ^ 256 + 0x64)) = 0x64 ∧
    dAux (BitVec.ofNat 512 (0x100C00 * 2 ^ 256 + 0x64)) = 0x100C00 ∧ (tColl).word512 0x100C00 = tCollW 3 ∧ collFieldsOk (tCollW 3) = true ∧
    collFieldsOk (tCollW 7) = false ∧ (tColl).collMembers 0 (tCollW 3) = [0x000, 0x100, 0x200, 0x300] ∧
    ((tColl).collMembers 0 (tCollW 3)).findIdx? (fun m => (tColl).isOwn m) = some 0 ∧ (tColl).extOk 0 (0x104000, 16) = true ∧
    (∀ j ∈ [1, 2, 3], Reaches tColl 0 (BitVec.ofNat 12 (256 * j))) ∧ SegFresh (tColl) tSegR ∧
    (tColl).contextCheck 0x10 tSegR = some 0 ∧ ((tColl).collMembers 0 (tCollW 3))[1]? = some 0x100 ∧
    (tColl).allPosted 0 (tPosted 3) = false ∧ (tColl).allPosted 0 (tPosted 4) = true ∧
    (tColl).extOk 0 (0x106000, 64) = true ∧ (tColl).guarded 0x106000 64 = false ∧ (tColl).poison = [] ∧ ((tColl).part 0).earlySegs = [] ∧
    (tColl).fabricUp = true ∧ (tColl).coll? 0 9 = none ∧ (9 : W32) ∈ ((tColl (x := { doneColls := [9] })).part 0).doneColls ∧
    (tColl (x := { colls := [(9, tPosted 3)] })).coll? 0 9 = some (tPosted 3) ∧ cId (tCollW 3) = 9 ∧ failing 0x15 = true ∧
    (tPosted 3).segs.length + 1 = (tPosted 3).n ∧ (tPosted 3).segs.all (fun y => y.sender != 3) = true ∧
    ((tColl).setCfg 0x2403 0 0 [5]).cfgNum 0x2403 0 0 4 ≠ 0 ∧ Memory.wf (tColl).mem = true := by decide +kernel

theorem test_bias_clamps_keeping_sign : (tCall.nextBias 0xC0000000#32 5 4) = (0xC0000000#32, true) := by decide +kernel

/-! ## Ports, requests and responses -/

/-- Port 0 in a phase, of a package at physical coordinate 0 whose link plan expects any module there. -/
def tPort (x : Port) : State := ({ tS with fab := { coord := some 0, ports := [(0, x)] } } : State).setCfg 0x2401 1 6 [0x80]
/-- The identity of its +X neighbour's port 3, with a mask of halves. -/
def tFar (halves : BitVec 2 := 3) : Identity := { serial := 5, port := 3, coord := 0x100, halves := halves, ns := 7 }
/-- The check value of CRC-32: that of the nine digits. -/
theorem test_crc32 : crc32 [0x31, 0x32, 0x33, 0x34, 0x35, 0x36, 0x37, 0x38, 0x39] = 0xCBF43926#32 := by decide +kernel
/-- A flit of SEQ 2 on channel 1, its payload cut short, with the CRC of its bits. -/
def tFlit (nak : Bool := false) : Flit :=
  let h := 2 * 2 ^ 116 + (if nak then 2 ^ 103 else 0) + 2 ^ 100
  { hdr := BitVec.ofNat 128 (h + (crc32 (bytesLE 12 (h / 2 ^ 32))).toNat), payload := [] }
theorem witness_PortStates : ((tPort { phase := .up, rxSeq := 2 }).port 0).phase = .up ∧ fld (tFlit).hdr 127 116 = 2 ∧
    fld (tFlit).hdr 102 100 < 4 ∧ bit (tFlit).hdr 103 = false ∧ bit (tFlit true).hdr 103 = true ∧
    ([false, true].all fun b => fld (tFlit b).hdr 31 0 ==
      (crc32 (bytesLE 12 ((tFlit b).hdr.toNat / 2 ^ 32) ++ (tFlit b).payload)).toNat) = true ∧
    fld (BitVec.ofNat 128 (3 * 2 ^ 116)) 127 116 ≠ 2 ∧ ((tPort { phase := .up }).port 0).nakRun = 0 ∧
    ((tPort { phase := .training }).port 0).retryDue = false ∧ (({} : Port).working &&& (tFar).halves) = 3 ∧
    (tPort { phase := .training }).identityOk 0 tFar = true ∧ (tPort { phase := .training }).identityOk 0 { tFar with port := 6 } = false ∧
    (({ retiredHalves := 1 } : Port).working &&& (tFar 1).halves) = 0 ∧ (tPort {}).opticsOn = true ∧
    (tPort {}).pins.laserOk.getLsbD 0 = true ∧ (tPort {}).expect 0 ≠ 0 ∧
    (({ tS with fab := { ports := [(22, { phase := .up })] } } : State).port 22).phase = .up := by decide +kernel
/-- A request of job 1 from 0x100 to LOCAL 0x100000. -/
def tRq (n : Nat) (body : List Byte := []) : FabReq :=
  { port := 0, dst := 0, src := 0x100, jobId := 1, lenM1 := BitVec.ofNat 12 (n - 1), addr := 0x100000, seq := 1, tag := 1, body := body }
/-- A house manager's message. -/
def tCtl (n : Nat) (body : List Byte) : FabReq := { tRq n body with jobId := 0 }
theorem witness_AccessRequests : Fresh tFab (tRq 8) ∧ NewTag tFab (tRq 8) ∧ tFab.reqCheck 1 (tRq 8) = some 0 ∧ tFab.reqCheck 1 (tRq 3) = none ∧
    tFab.reqCheck 2 (tRq 2 [1, 2]) = some 0 ∧ tFab.reqCheck 9 (tRq 1) = some 0 ∧ tFab.reqCheck 3 (tRq 4 [1, 0, 0, 0]) = some 0 ∧
    tFab.reqCheck 5 (tRq 8 [0x11, 0x22, 0, 0, 9, 0, 0, 0]) = some 0 ∧ tFab.reqCheck 6 (tRq 4 [0, 0, 0, 0]) = some 0 ∧ tFab.isScripted 0 = false ∧
    windowOf 0x100000 ≠ .control ∧ tFab.homeHeld none 0x100000 8 = false ∧ tFab.poison = [] ∧ tFab.copies 0x100000 8 (tFab.dieBit (tRq 8)) = [] ∧
    Memory.wf tFab.mem = true ∧
    SMap.find? 1 (({ tFab with fab := { tFab.fab with peers := [(0x100, { atoms := [(1, 1, 0x77, 0)] })] } } : State).peer 0x100).atoms = some (1, 0x77, 0) := by decide +kernel
/-- An invalidate of 0x100's being served, while a fill to be dropped is in flight or not. -/
def tServe (late : Bool) : State := { tFab with fab := { tFab.fab with
  serving := [{ src := 0x100, seq := 1, home := 0x100, lo := 0x100000, n := 64 }]
  pend := if late then [{ tPend with req := { tPend.req with addr := 0x100000 }, passed := true }] else [] } }
/-- A store that waits for die 4's copy. -/
def tHome : State := { tFab with fab := { tFab.fab with homeStores := [{ waits := [(0x4000, 16)], act := .request 2 (tRq 2 [5, 6]) }] } }
/-- A package on the way from 0x100 to 0x200. -/
def tMid : State := { tFab with fab := { tFab.fab with
  routes := [(0x100, BitVec.ofNat 64 (2 ^ 63 + 0x100 * 2 ^ 44)), (0x200, BitVec.ofNat 64 (2 ^ 63 + 0x200 * 2 ^ 44)),
    (0x300, BitVec.ofNat 64 (2 ^ 63 + 2 ^ 56 + 0x300 * 2 ^ 44))] } }
theorem witness_forwarding : tMid.fab.coord = some 0 ∧ routeValid (tMid.route 0x200) = true ∧ routeState (tMid.route 0x200) = 0 ∧
    routeState (tMid.route 0x300) = 1 ∧ routeValid (tMid.route 0x300) = true ∧
    tMid.firstHop (tMid.jobPart 1) 0x200 = .port 0 := by decide +kernel
theorem witness_CoherenceMessages : tFab.reqCheck 8 (tRq 64) = some 0 ∧
    (tServe true).fab.pend.any (fun q => q.passed && q.req.dst == 0x100 && q.meetsLines 0x100000 64) = true ∧
    (tServe false).fab.serving.find? (fun v => v.src == 0x100 && v.seq == 1) =
      some { src := 0x100, seq := 1, home := 0x100, lo := 0x100000, n := 64 } ∧ knownOp 0x20 = false ∧ knownOp 1 = true ∧
    tLines.fabricUp = true ∧ SMap.sorted tLines.lines = true ∧ tHome.fabricUp = true ∧ tHome.fab.held = [] ∧
    windowOf 0x100000 ≠ .control := by decide +kernel
/-- A package of the lock of identity 3 that runs over a line of Y, with coordinates 0x100 and 0x010 on its torus. -/
def tLine : State := (({ tFab with
  fab := { tFab.fab with routes := [(0x010, BitVec.ofNat 64 (2 ^ 63 + 0x010 * 2 ^ 44)), (0x100, BitVec.ofNat 64 (2 ^ 63 + 0x100 * 2 ^ 44))] }
  house := { tFab.house with placement := BitVec.ofNat 32 (3 * 2 ^ 20) } } : State).setCfg 0x2100 9 0
    (bytesLE 8 (3 * 2 ^ 48 + 3 * 2 ^ 40)))
/-- The understudy of that line. -/
def tUnder : State := { tLine with fab := { tLine.fab with coord := none, ports := [(0, { phase := .up, farCoord := 0x010 })] }
                                   house := { tLine.house with placement := BitVec.ofNat 32 (3 * 2 ^ 20 + 2 ^ 12) } }
/-- An ASSUME of coordinate 0x020 at tenure 5. -/
def tAssume : FabReq := { tCtl 16 (bytesLE 8 0x020 ++ bytesLE 8 5) with src := 0x010 }
theorem witness_ControlMessages : Fresh tLine (tCtl 8 (bytesLE 8 (3 * 2 ^ 48 + 9 * 2 ^ 43))) ∧ reqLen (tCtl 8 []) = 8 ∧ tLine.lockId = 3 ∧
    lockBox tLine.lockRec 0x100 = true ∧ lockBox tLine.lockRec 0x010 = false ∧ routeValid (tLine.route 0x100) = true ∧
    SMap.sorted tLine.dim.requests = true ∧ routeValid (tPort { phase := .up } |>.route 0x100) = false ∧ reqLen tAssume = 16 ∧
    (reqTable.any fun e => decide (0x0A ≤ e.2)) = true ∧ tUnder.fabricUp = true ∧ (tUnder.port 0).phase = .up ∧ tUnder.coolantHeld = false ∧
    tUnder.fab.held = [] ∧ tUnder.fab.homeStores = [] ∧ ((List.range 128).all fun p => !bit (tUnder.partRec p) 0) = true ∧ tUnder.assumeOk tAssume = true := by decide +kernel
/-- A thread that waits for a far load, and what it waits for. -/
def tWaits : Thread := { tX with wait := .far 0x100 4 }
/-- The request. -/
def tLoadQ (n : Nat := 0) : PendReq := { op := 1, req := { port := 0, dst := 0x100, src := 0, seq := 4 }, task := some 0, kind := .load tT 9 8 0, resends := n }
/-- A posted far store. -/
def tStoreQ : PendReq := { op := 2, req := { port := 0, dst := 0x100, src := 0, seq := 4, cls := 1 }, task := some 0, kind := .store tT }
/-- Outstanding. -/
def tOut (q : PendReq) : State := { tFab (tS tWaits) with fab := { tFab.fab with pend := [q] } }
/-- An answer. -/
def tAns (st : Byte) (body : List Byte := []) : FabResp := { port := 0, dst := 0x100, seq := 4, status := st, body := body }
/-- A switch-in of 0x010 that this package runs, the route updates acknowledged. -/
def tSwIn : State := { tLine with fab := { tLine.fab with
  switchIns := [{ coord := 0x010, tenure := 1, usport := 0 }], routes := [(0x010, BitVec.ofNat 64 (2 ^ 63 + 2 ^ 57 + 0x010 * 2 ^ 44))] } }
theorem witness_ResponsesAndLoss : (tOut tLoadQ).fabricUp = true ∧ ((tOut tLoadQ).port 0).phase = .up ∧ (tOut tLoadQ).coolantHeld = false ∧
    (tOut tLoadQ).fab.held = [] ∧ failing 0x15 = true ∧ failing 0 = false ∧ knownStatus 0 = true ∧ knownStatus 0x15 = true ∧
    (tOut tLoadQ).awaiting tT tLoadQ = some tWaits ∧ (tOut tStoreQ).thread? tT = some tWaits ∧ (tFab).fab.pend = [] ∧
    (tOut tLoadQ).fab.pend.find? (fun q => q.req.dst == 0x100 && q.req.seq == 4) = some tLoadQ ∧ tLine.runsSwitch 0x010 = true ∧
    (tOut tLoadQ).fab.jobs = [] ∧ (tOut tLoadQ).fab.sendq = [] ∧ (tAns 0).dest = none ∧ (tAns 0).nak = false ∧ tLine.axisLen tLine.spareAxis ≠ 1 ∧
    tLine.runsSwitch 0x100 = false ∧ tLine.fab.switchIns = [] ∧ (tLine.port 18).phase ≠ .up ∧ (tLine.port 19).phase ≠ .up ∧
    (tLine.fab.ports.any fun e => e.2.phase == .up && decide (e.1 < 18) && e.2.farCoord == routePhys (tLine.route 0x010)) = false ∧
    routeState (tSwIn.route 0x010) = 2 ∧ tSwIn.fab.pend = [] ∧ SMap.sorted tSwIn.counters = true := by decide +kernel

theorem test_cas_request : tNext (exec (.casRequest (tRq 8 [0x11, 0x22, 0, 0, 9, 0, 0, 0])) tFab) (fun s => s.num 0x100000 4 == 9) = true := by
  decide +kernel
theorem test_held_on_wrong_port : tNext (exec (.trainingComplete 0 { tFar with port := 6 }) (tPort { phase := .training })) (fun s =>
    (s.port 0).phase == .held) = true := by decide +kernel

/-! ## Dimmer and temperatures -/

/-- A package whose dimmer is in a state. -/
def tDim (d : Dimmer := {}) : State := { tS with dim := d }
/-- Its core 3 has stretched n times. -/
def tDroop (n : Nat) (d : Dimmer := {}) : State := { tDim d with cores := [(3, { stretches := n })] }
theorem witness_DimmerAndLock : (tDim { move := .lowerHop 4 }).dim.move = .lowerHop 4 ∧ (tDim { move := .raiseHop 20 }).dim.move = .raiseHop 20 ∧
    (tDim { move := .raiseVolt 20 }).dim.fails < 2 ∧ 2 ≤ (tDim { move := .lowerVolt 4, fails := 2 }).dim.fails ∧
    (tDim { move := .retry 20 }).dim.move = .retry 20 ∧ (tDim).dim.move = .still ∧ (80 : Nat) * 5 < 101 * 4 ∧ (79 : Nat) * 5 < 100 * 4 ∧
    ((tDroop 1001).cores.any fun e => decide (1000 < e.2.stretches)) = true ∧ ((tDroop 1000).cores.any fun e => decide (1000 < e.2.stretches)) = false ∧
    (tDroop 1000 { droopPermit := 22 }).dim.droopPermit < 23 ∧ tLine.lockId ≠ 0 ∧ tS.lockId = 0 := by decide +kernel
/-- Temperatures and coolant. -/
def tHot (t : Thermal := {}) (d : Dimmer := {}) : State := { tDim d with therm := t }
theorem witness_TemperaturesAndCoolant : (0 : Nat) ∈ (tHot { hot := [0] }).therm.hot ∧ (tHot).house.started = true ∧
    (tHot {} { diePermit := 22 }).dim.diePermit < 23 ∧ (tHot { die := [407] }).therm.die.all (fun t => decide (t < 408)) = true ∧
    (tHot {} { hbmPermit := 22 }).dim.hbmPermit < 23 ∧ (tHot { hbm := [1471] }).therm.hbm.all (fun t => decide (t < 1472)) = true ∧
    (tHot { hbm := [1472], die := [408] }).therm.die = [408] ∧ (tHot { coolantOk := false, coolantState := 1 }).therm.coolantOk = false ∧
    (tHot { coolantState := 2, returning := true }).therm.returning = true ∧ (tHot { coolantState := 3 }).house.deviceState ≠ 3 := by decide +kernel

theorem test_droop_permit_falls : tNext (exec .droopRateCheck (tDroop 1001)) (fun s => s.dim.droopPermit == 22 && (s.core 3).stretches == 0) = true ∧
    tNext (exec .droopRateCheck (tDroop 1000)) (fun s => s.dim.droopPermit == 23) = true := by decide +kernel
theorem test_thermal_trip : tNext (exec (.tempSample [460]) (tHot { hot := [0] })) (fun s => s.house.deviceState == 3 && s.pins.thermTrip) = true := by
  decide +kernel

/-! ## Mailboxes, the dictionary and the CAN FD node -/

/-- A package whose CAN FD node has an identifier. -/
def tCan (c : Can := {}) : State := { tS with can := c, house := { tS.house with nodeId := 5 } }
/-- A command on CAP. -/
def tCapC (len : Nat) (data : List Byte := []) : MbxCmd := { target := 0x21000100, length := BitVec.ofNat 64 len, seq := 9, data := data }
theorem witness_MailboxCommands : Quiet ({ tCan with mailboxes := [(200, { state := 1 })] } : State) ∧ ((tCan).mailbox 200).state ≠ 1 ∧
    (tCan).dictServes = true ∧ ({ tCan with house := {} } : State).dictServes = false ∧ fld (tCapC 2).target 7 0 = 0 ∧ (tCan).mbxServed 200 = true ∧
    ({ tCan with house := { tS.house with deviceState := 2 } } : State).mbxServed 200 = false ∧ 61440 < (tCapC 61441).length.toNat ∧
    Memory.wf ((tCan).mailbox 200).data = true ∧
    (match (started tCan 200 (tCapC 2)).readCheck (mbxScope 200) (mbxTarget (tCapC 2).target) (some 2) false with
      | .ok d => d.1.length == 2 | _ => false) = true ∧
    Quiet ((started tCan 200 (tCapC 2 [0x90, 0x01])).dictWrite (mbxScope 200) (mbxTarget (tCapC 2).target) [0x90, 0x01]).1 := by
  decide +kernel
theorem witness_DictionaryAccess : (match (tCan).writeCheck none { index := 0x2100, sub := 1 } [1] with | .error e => e == 0x06070010 | _ => false) = true ∧
    (tCan).indexServed 0x3001 = true ∧ (odRow? 0x3001 5).isSome = true ∧ entryPart 0x3001 5 = some 1 ∧ (tCan).canServes = true ∧
    Quiet tCan ∧ Quiet ((tCan).dictWrite none { index := 0x2100, sub := 1 } [0x90, 0x01]).1 ∧
    SMap.sorted (tCan).counters = true := by decide +kernel
/-- FLY_UCODE_SRC names an empty place of tier H. -/
def tUcode : State := (tCan).setCfg 0x2906 1 0 (bytesLE 8 0x400000)
theorem witness_LiveEntries : OnCan tCan ∧ SMap.sorted (tCan).od = true ∧ ({ tCan with therm := { coolantState := 3 } } : State).therm.coolantOk = true ∧
    (match (tCan).curtain 0x1FF with | .ok t => decide (Quiet t) | _ => false) = true ∧ ((tCan).part 0).sticky = [] ∧
    ({ tCan with parts := [(0, { phase := .active })] } : State).working = true ∧ (tCan).store.state = 0 ∧ tUcode.ucodeAt.isSome = true ∧
    tUcode.store.ucodeMask = 0 ∧ ({ tCan with fab := { ports := [(18, { phase := .up })] } } : State).lastPort 18 = false := by decide +kernel
/-- A transfer in progress. -/
def tUsdo (w : Bool) : State := tCan { usdo := some { write := w, addr := { index := 0x2100, sub := 1 }, data := [7] } }
theorem witness_CanNode : ({ tCan with store := { ucodeMask := 6 } } : State).updating = some 1 ∧ (tCan).engineReads 1 = false ∧
    (tCan).canServes = true ∧ (tS).canServes = false ∧ (tCan).can.usdo = none ∧ ((tUsdo true).can.usdo.map (·.write)) = some true ∧
    ((tUsdo false).can.usdo.map (·.write)) = some false ∧ (tCan).nmtHears = true ∧ tS.nmtHears = false ∧ (tCan).hmServes = true ∧
    ((tCan).setCfg 0x1017 0 0 [5, 0]).cfgNum 0x1017 0 0 2 ≠ 0 ∧ ((tCan).setCfg 0x1017 0 0 [0, 0]).cfgNum 0x1017 0 0 2 = 0 ∧
    (((tCan { nmt := .operational }).setCfg 0x1800 1 3 [0]).setCfg 0x1800 5 0 [5, 0]).cfgNum 0x1800 5 0 2 ≠ 0 ∧
    ((tCan { nmt := .operational }).setCfg 0x1800 1 3 [0]).cfgByte 0x1800 1 3 < 0x80 ∧
    tS.emcyFree = false ∧ (tCan { queue := [{ eec := 1, cls := 2, cause := 3 }], inhibited := true }).can.queue.length = 1 ∧
    (tCan).cfgNum 0x1015 0 0 2 ≠ 0 := by decide +kernel

theorem test_cap_over_range : tNext (exec (.cap .can (bytesLE 2 2601)) tCan) (fun s => s.outbox.getLast? == some (.can 3 (1 :: bytesLE 4 0x06090031))) = true := by
  decide +kernel
theorem test_mailbox_reads_cap : tNext (exec (.read 200 (tCapC 2)) tCan) (fun s => (s.mailbox 200).state == 2 && (s.mailbox 200).seq == 9 &&
    SMap.get 0 (s.mailbox 200).data 0 == (tCan).cfgByte 0x2100 1 0) = true := by decide +kernel

/-! ## The store, starts and restarts -/

/-- The package of the CAN FD node with a store and a standing. -/
def tStore (t : Store := {}) (h : House := { tCan.house with deviceState := 1 }) : State := { tCan with store := t, house := h }
theorem witness_StoreAndAttestation : OnNode tStore ∧ (tStore { state := 1, stagingType := 1 }).store.state = 1 ∧
    (tStore {} { tCan.house with deviceState := 2, ghostReason := 5 }).house.ghostReason = 5 ∧
    OnNode (tStore {} { tCan.house with deviceState := 2, ghostReason := 5 }) ∧ (List.replicate 5325 (0 : Byte)).length = 5325 ∧
    (tStore { attest := 1, nonce := List.replicate 32 7 }).store.nonce.length = 32 ∧
    (tStore { jobs := [.save 1] }).house.started = true ∧ (tStore { jobs := [.save 1] }).store.writing = none ∧
    (tStore { writing := some (.save 1) }).store.base = some 0 ∧ (tStore).house.deviceState ≠ 3 := by decide +kernel
/-- Two valid banks of SEQ 5 and 4. -/
def tBanks : Store := { bank0 := { seq := 5 }, bank1 := { seq := 4 } }
theorem witness_CurrentBank : tBanks.bank0.valid = true ∧ tBanks.bank1.valid = true ∧ newer tBanks.bank0.seq tBanks.bank1.seq = true ∧
    newer (2 ^ 63 : W64) 0 = false ∧ newer 0 (2 ^ 63 : W64) = false ∧ ({} : Store).bank1.valid = false := by decide +kernel
/-- What the boot ROM finds where both banks read back, or neither. -/
def tRep (ok : Bool) : StartReport := { bank0Reads := ok, bank1Reads := ok, nodeId := 5, modules := List.replicate 16 16 }
theorem witness_StartsAndRestarts : State.reset.house.started = false ∧ State.reset.pins.refclk = true ∧ State.reset.house.ready = [] ∧
    Quiet State.reset ∧ (State.reset.store.found (tRep true)).order = [0] ∧ (State.reset.store.found (tRep false)).order = [] ∧
    (tStore {} { tCan.house with deviceState := 0 }).house.running = true ∧ (tStore).faults.withdrawnH.contains 0 = false ∧
    bit ((tStore).partRec 3) 0 = false ∧
    ((List.range 256).all fun k => ({ tStore with faults := { retiredCores := List.range 256 } } : State).faults.retiredCores.contains k) = true ∧
    (tStore).hmServes = true ∧ (tStore {} { tCan.house with restarting := true }).store.base = some 0 ∧
    (tStore {} { tCan.house with restarting := true }).house.ready = [] := by decide +kernel

theorem test_newer_wraps : newer 0 (BitVec.ofNat 64 (2 ^ 64 - 1)) = true ∧ newer (BitVec.ofNat 64 (2 ^ 64 - 1)) 0 = false := by decide
theorem test_no_bank_is_ghost_2 : tNext (exec (.packageStart (tRep false)) State.reset) (fun s => s.house.deviceState == 2 && s.house.ghostReason == 2) = true := by
  decide +kernel

/-! ## The host port, lands, rails and references -/

/-- A package of one VF with its aperture at this package's address 0, and vectors. -/
def tHost (h : HostFn := { aperture := tA 0 }) : State := { tQs with hostFns := [(1, h)] }
theorem witness_HostMemory : (tHost).fnExists 2 = false ∧ (tHost).fnExists 1 = true ∧ (tHost).barsUp = true ∧ (tA 0).toNat % 2 ^ 36 = 0 ∧
    (tA 1).toNat % 2 ^ 36 ≠ 0 ∧ (tHost).serving = true ∧ Quiet (tHost) ∧ (tHost).fab.pend = [] ∧ (tHost).coolantHeld = false ∧
    (tHost).bar4Addr 1 0x100000 = (tA 0x100000).toNat ∧ (tHost).hostPlace 1 (tA 0x100000) = .here 0x100000 ∧
    (tHost).homeHeld none 0x100000 8 = false ∧ (tHost).hostAllows 1 0x100000 8 false = true ∧ (tHost).hostAllows 1 0x100000 8 true = true ∧
    (tHost).poison = [] ∧ (tHost).copies 0x100000 8 none = [] ∧ Memory.wf (tHost).mem = true ∧
    (tHost { aperture := 0x200 * 2 ^ 52 }).hostPlace 1 (BitVec.ofNat 64 (0x200 * 2 ^ 52)) = .refused ∧
    ({ tHost with house := { started := true, deviceState := 2 } } : State).serving = false := by decide +kernel
theorem witness_FunctionsAndInterrupts : (tHost).fnExists 1 = true ∧ ((tHost).part 0).phase = .active ∧ (tHost).house.started = true ∧
    (5 : Nat) < vectors 1 ∧ (tHost { pendingVec := [5] }).hostFn 1 = { pendingVec := [5] } ∧ (tHost).numVfs = 1 ∧ (tHost).house.running = true ∧
    fld ((tQs .active { tHq with coalesce := BitVec.ofNat 64 (2 ^ 16), sinceMsg := 2 }).queue 0x8000).coalesce 25 16 ≠ 0 ∧
    ((tQs .active { tHq with coalesce := BitVec.ofNat 64 (2 ^ 16), sinceMsg := 2 }).queue 0x8000).sinceMsg ≠ 0 ∧
    ({ tHost with house := {} } : State).store.romRecovery = false := by decide +kernel
theorem witness_LandEvents : 10 * 629 < 9 * tS.setPoint 0 ∧ ¬ 10 * 630 < 9 * tS.setPoint 0 ∧ railMax 17 < 2001 ∧ tS.house.started = true ∧
    tS.house.deviceState ≠ 3 ∧ State.reset.house.started = false ∧ tS.house.ready = [] := by decide +kernel

theorem test_bar4_write : tNext (exec (.bar4Write 1 0x100000 [1, 2, 3, 4, 5, 6, 7, 8]) tHost) (fun s => s.byte 0x100007 == 8 && s.byte 0x100000 == 1) = true := by
  decide +kernel
theorem test_bar4_refused_is_ur : tNext (exec (.bar4Read 1 0 8) (tHost { aperture := 0x200 * 2 ^ 52 })) (fun s => s.outbox == [.aer 1 .unsupportedRequest, .completion 1 false []] &&
    (s.hostFn 1).faultStatus == 0x15) = true := by decide +kernel

end Sys2Proof.Tests
end

/-! The cycle of an idle block (O2): the clocks by R3, and what a cycle leaves as it was where nothing is held and nothing waits. -/

namespace Sys2Proof.Machine

open Sys2Proof

/-! ## The clocks -/

@[simp] theorem Clock.pass_cycle (c : Clock) (mhz : Nat) : (c.pass mhz).cycle = c.cycle + 1 := by
  by_cases h : c.part + 100 < mhz <;> simp [Clock.pass, h]

/-- Time in units of 1 / mhz of a reference tick: a cycle adds 100 of them, none lost at the turn of a tick (R3). -/
theorem Clock.pass_time (c : Clock) (mhz : Nat) :
    (c.pass mhz).part + (c.pass mhz).ticks * mhz = c.part + c.ticks * mhz + 100 := by
  by_cases h : c.part + 100 < mhz
  · simp only [Clock.pass, h, if_true]; omega
  · simp only [Clock.pass, h, if_false, Nat.succ_mul]; omega

/-- A part of a tick stays below a whole one: a cycle is no longer than a tick. -/
theorem Clock.pass_part_lt {c : Clock} {mhz : Nat} (hc : c.part < mhz) (hm : 100 ≤ mhz) : (c.pass mhz).part < mhz := by
  by_cases h : c.part + 100 < mhz
  · simp only [Clock.pass, h, if_true]
  · simp only [Clock.pass, h, if_false]; omega

/-! ## Operations that find nothing to do

Each empties its queue and folds over what stood there: with `rw [← h]` the empty queue it puts back is the one that was there. -/

section Nothing
variable {s : State}

theorem State.tileCycle_of_nil (h : s.tileWrites = []) : s.tileCycle = s := by
  simp only [State.tileCycle, h, List.foldl_nil]
  rw [← h]

theorem State.pumpJobs_of_nil (h : s.fab.jobs = []) : s.pumpJobs = s := by
  simp only [State.pumpJobs, h, List.foldl_nil]
  rw [← h]

theorem State.pumpSends_of_nil (h : s.fab.sendq = []) : s.pumpSends = s := by
  simp only [State.pumpSends, h, List.foldl_nil]
  rw [← h]

theorem State.cohPump_of_nil (h : s.fab.cohWait = []) : s.cohPump = s := by
  simp only [State.cohPump, h, List.foldl_nil]
  rw [← h]

/-- Where nothing is held and nothing waits to be sent, a release only lets held threads issue again. -/
theorem State.releaseHeld_of_quiet (h : Quiet s) : s.releaseHeld = s.wakeHeld := by
  obtain ⟨hheld, hjobs, hsendq, hcoh⟩ := h
  unfold State.releaseHeld
  have hsame : ({ s with fab := { s.fab with held := [] } } : State) = s := by rw [← hheld]
  simp only [hheld, List.foldl_nil, hsame, pumpJobs_of_nil hjobs, pumpSends_of_nil hsendq, cohPump_of_nil hcoh]

end Nothing

/-! ## The cycle -/

section Cycle
variable {s : State}

/-- What a cycle does first: the clocks move, and at a reference tick the reasons that bind count it (R3, R369). -/
def State.clocksPass (s : State) : State :=
  let t := { s with clk := s.clk.pass s.mhz }
  if t.clk.ticks = s.clk.ticks then t else t.reasonTicks

/-- The clocks' part of a cycle touches the clocks and the throttle reasons alone. -/
theorem State.clocksPass_eq (s : State) : ∃ r, s.clocksPass =
    { s with clk := s.clk.pass s.mhz, dim := { s.dim with reasons := r } } := by
  unfold State.clocksPass
  dsimp only
  split
  · exact ⟨s.dim.reasons, rfl⟩
  · exact ⟨_, rfl⟩

/-- Without the reference no cycle passes. -/
theorem State.tick_of_no_refclk (h : s.pins.refclk = false) : s.tick = s := by
  simp [State.tick, h]

/-- With the reference a cycle is the clocks' part, the work of a package that works, the tile stores' collisions and a release. -/
theorem State.tick_of_refclk (h : s.pins.refclk = true) :
    s.tick = (if s.clocksPass.working then s.clocksPass.workCycle else s.clocksPass).tileCycle.releaseHeld := by
  unfold State.tick
  rw [if_neg (by simp [h])]
  rfl

/-- A package that does not work, with nothing held, waiting or written, moves its clocks and wakes held threads, and that is all. -/
theorem State.tick_of_idle (hclk : s.pins.refclk = true) (hwork : s.working = false) (hq : Quiet s)
    (htile : s.tileWrites = []) : s.tick = s.clocksPass.wakeHeld := by
  rw [State.tick_of_refclk hclk]
  obtain ⟨r, hr⟩ := s.clocksPass_eq
  have hwork' : s.clocksPass.working = false := by rw [hr]; exact hwork
  have htile' : s.clocksPass.tileWrites = [] := by rw [hr]; exact htile
  have hq' : Quiet s.clocksPass := by rw [hr]; exact hq
  rw [if_neg (by simp [hwork']), State.tileCycle_of_nil htile', State.releaseHeld_of_quiet hq']

/-- On an empty queue a step is a cycle (log entry 2). -/
theorem step_of_pending_nil (h : s.pending = []) : step s = .next s.tick := by
  simp only [step, h]

end Cycle

/-- Settles O2: without the reference a step changes nothing; with it an idle step is `clocksPass` and `wakeHeld`, which touch the
clocks, the throttle reasons and the waits of threads, and the clocks' account is `Clock.pass_time` (R3). -/
theorem idleStep : Obligations.IdleStep := by
  intro s hpend
  rw [step_of_pending_nil hpend]
  refine ⟨fun hclk => by rw [State.tick_of_no_refclk hclk], fun hclk hwork hq htile => ⟨s.tick, rfl, ?_⟩⟩
  obtain ⟨r, hr⟩ := s.clocksPass_eq
  rw [State.tick_of_idle hclk hwork hq htile, hr]
  exact ⟨Clock.pass_cycle _ _, rfl, rfl, rfl, rfl, hpend, Clock.pass_time _ _, Clock.pass_part_lt⟩

end Sys2Proof.Machine

/-! A device-fatal fault (O36, O37): what a report of a fault changes, what a halt does once, and the commands that halt (R17, R325, R330). -/

namespace Sys2Proof.Machine

open Sys2Proof

/-! ## What a report changes

An emergency, its interrupt and the error register touch the CAN FD node, the counters, the functions' pages and the outbox. -/

/-- s' is s after reports: nothing but the CAN FD node, counters and functions' pages differs, and the outbox has grown. -/
def State.Reported (s s' : State) : Prop :=
  ∃ can counters hostFns out, s' =
    { s with can := can, counters := counters, hostFns := hostFns, outbox := s.outbox ++ out }

section Reported
variable {s u v : State}

theorem State.Reported.of_eq {can : Can} {counters : SMap W64} {hostFns : SMap HostFn}
    (h : u = { s with can := can, counters := counters, hostFns := hostFns }) : s.Reported u :=
  ⟨can, counters, hostFns, [], by rw [h, List.append_nil]⟩

theorem State.Reported.refl (s : State) : s.Reported s := .of_eq rfl

theorem State.Reported.trans (h : s.Reported u) (h' : u.Reported v) : s.Reported v := by
  obtain ⟨_, _, _, o, rfl⟩ := h
  obtain ⟨c, k, f, o', rfl⟩ := h'
  exact ⟨c, k, f, o ++ o', by rw [List.append_assoc]⟩

theorem State.msix_reported (s : State) (f v : Nat) : s.Reported (s.msix f v) := by
  unfold State.msix
  dsimp only
  split
  · exact .refl s
  · split
    · exact ⟨_, _, _, _, rfl⟩
    · exact .of_eq rfl

/-- An emergency is written to the history; it is not sent, goes out, waits or is dropped; then it signals its vector (R391). -/
theorem State.emcy_reported (s : State) (e : Emcy) : s.Reported (s.emcy e) := by
  unfold State.emcy
  refine .trans ?_ (State.msix_reported _ 0 1)
  split
  · exact .of_eq rfl
  · split
    · exact ⟨_, _, _, _, rfl⟩
    · split <;> exact .of_eq rfl

theorem State.settle_reported (s : State) : s.Reported s.settle := by
  unfold State.settle
  dsimp only
  split
  · exact .trans (.of_eq rfl) (State.emcy_reported _ _)
  · exact .of_eq rfl

theorem State.logFault_reported (s : State) (r : FaultRec) : (s.logOnly r).1.Reported (s.logFault r) :=
  State.emcy_reported _ _

end Reported

/-! ## What sending changes -/

/-- s' is s after messages were sent: nothing but the ports differs, and the outbox has grown. -/
def State.SentOut (s s' : State) : Prop :=
  ∃ ports out, s' = { s with fab := { s.fab with ports := ports }, outbox := s.outbox ++ out }

section SentOut
variable {s u v : State}

theorem State.SentOut.refl (s : State) : s.SentOut s := ⟨s.fab.ports, [], by rw [List.append_nil]⟩

theorem State.SentOut.trans (h : s.SentOut u) (h' : u.SentOut v) : s.SentOut v := by
  obtain ⟨_, o, rfl⟩ := h
  obtain ⟨p, o', rfl⟩ := h'
  exact ⟨p, o ++ o', by rw [List.append_assoc]⟩

/-- A pass over a list whose steps only send only sends. -/
theorem State.SentOut.foldl {α : Type} {f : State → α → State} (hf : ∀ (s : State) (a : α), s.SentOut (f s a)) (l : List α) (s : State) :
    s.SentOut (l.foldl f s) :=
  List.foldlRecOn l f (.refl s) fun t ht a _ => ht.trans (hf t a)

/-- What has been sent stays in the outbox. -/
theorem State.SentOut.mem_outbox (h : s.SentOut u) {o : Out} (ho : o ∈ s.outbox) : o ∈ u.outbox := by
  obtain ⟨_, _, rfl⟩ := h
  exact List.mem_append_left _ ho

theorem State.send_sentOut (s : State) (o : Out) : s.SentOut (s.send o) := ⟨s.fab.ports, [o], rfl⟩

theorem State.portSend_sentOut (s : State) (n vc : Nat) (bs : List Byte) : s.SentOut (s.portSend n vc bs) :=
  ⟨_, [], by rw [List.append_nil]; rfl⟩

theorem State.emit_sentOut (s : State) (op : Nat) (r : FabReq) : s.SentOut (s.emit op r) :=
  (s.send_sentOut _).trans (State.portSend_sentOut _ _ _ _)

theorem State.mem_outbox_emit (s : State) (op : Nat) (r : FabReq) : Out.request op r ∈ (s.emit op r).outbox :=
  (State.portSend_sentOut _ _ _ _).mem_outbox (by simp)

end SentOut

/-! ## The halt

`State.haltNow` in its parts (`State.haltNow_eq`): HALT on the ports that are UP, the outstanding reads of the host fail, the package
goes dark, and the fault is logged. -/

/-- The request that tells the far end of a port of a halt with its cause (R330, R341). -/
def State.haltReq (s : State) (cause : Nat) (e : Nat × Port) : FabReq :=
  { port := Fin.ofNat 24 e.1, dst := e.2.farCoord, src := s.fab.coord.getD 0, cls := 2, lenM1 := 7, body := bytesLE 8 cause }

/-- Sends HALT on each of some ports. -/
def State.sendHalts (s : State) (cause : Nat) (l : List (Nat × Port)) : State :=
  l.foldl (fun s e => s.emit 0x0D (s.haltReq cause e)) s

/-- Completes the outstanding BAR4 reads with UR (R423). -/
def State.failHostReads (s : State) : State :=
  s.fab.hostReads.foldl (fun s e => (s.send (.aer e.2.fn .internal)).send (.completion e.2.fn false [])) s

/-- A port as a halt leaves it. -/
def Port.darkened (x : Port) : Port := if x.phase == PortPhase.retired then x else { x with phase := PortPhase.dark }

/-- Ports, lasers and PKG_READY off, DEVICE_STATE 3 with its cause, no read of the host outstanding (R330). -/
def State.goDark (s : State) (cause : Nat) : State :=
  { s with
    fab := { s.fab with
      ports := SMap.mapVals (fun _ x => x.darkened) s.fab.ports
      hostReads := []
      pend := s.fab.pend.filter fun q => match q.kind with | .bar4Read _ _ _ => false | _ => true }
    pins := { s.pins with laserReq := 0, pkgReady := false }
    house := { s.house with deviceState := 3, haltCause := cause } }

/-- A package that is not halted halts in these parts. -/
theorem State.haltNow_eq {s : State} (r : FaultRec) (h : s.house.deviceState ≠ 3) :
    s.haltNow r = (((s.sendHalts r.cause (s.fab.ports.filter fun e => e.2.phase == .up)).failHostReads.goDark r.cause).logFault
      { r with cls := 4 }).settle :=
  if_neg h

theorem State.sendHalts_sentOut (s : State) (cause : Nat) (l : List (Nat × Port)) : s.SentOut (s.sendHalts cause l) :=
  .foldl (fun s _ => s.emit_sentOut _ _) l s

theorem State.failHostReads_sentOut (s : State) : s.SentOut s.failHostReads :=
  .foldl (fun s _ => (s.send_sentOut _).trans (State.send_sentOut _ _)) _ s

/-- Each port of the list has its HALT in the outbox. -/
theorem State.halt_mem_sendHalts {cause : Nat} {e : Nat × Port} {l : List (Nat × Port)} (he : e ∈ l) (s : State) :
    ∃ q, Out.request 0x0D q ∈ (s.sendHalts cause l).outbox ∧ q.dst = e.2.farCoord := by
  induction l generalizing s with
  | nil => cases he
  | cons a l ih =>
    rcases List.mem_cons.mp he with rfl | he
    · exact ⟨s.haltReq cause e, (State.sendHalts_sentOut _ cause l).mem_outbox (s.mem_outbox_emit _ _), rfl⟩
    · exact ih he _

theorem Port.darkened_phase (x : Port) : x.darkened.phase = .dark ∨ x.darkened.phase = .retired := by
  unfold Port.darkened
  split
  · next h => exact .inr (by simpa using h)
  · exact .inl rfl

theorem State.goDark_ports (s : State) (cause : Nat) :
    ∀ e ∈ (s.goDark cause).fab.ports, e.2.phase = .dark ∨ e.2.phase = .retired := by
  intro e he
  obtain ⟨a, _, rfl⟩ := List.mem_map.mp he
  exact a.2.darkened_phase

/-- s' is s halted by the fault of record r: the record logged, the package dark and its neighbours told (R330), its memory, tasks and
threads as they were. -/
structure Halted (s s' : State) (r : FaultRec) : Prop where
  logged : Logged s s' r
  cls : r.cls = 4
  deviceState : s'.house.deviceState = 3
  haltCause : s'.house.haltCause = r.cause
  laserReq : s'.pins.laserReq = 0
  pkgReady : s'.pins.pkgReady = false
  ports : ∀ e ∈ s'.fab.ports, e.2.phase = .dark ∨ e.2.phase = .retired
  told : ∀ e ∈ s.fab.ports, e.2.phase = .up → ∃ q, Out.request 0x0D q ∈ s'.outbox ∧ q.dst = e.2.farCoord
  mem : s'.mem = s.mem
  tasks : s'.tasks = s.tasks
  threads : s'.threads = s.threads

/-- A halt in its parts: messages sent, HALT on every UP port among them; the package dark; the record logged; reports. -/
theorem Halted.of_parts {s u s' : State} {r : FaultRec} (hcls : r.cls = 4) (hsent : s.SentOut u)
    (told : ∀ e ∈ s.fab.ports, e.2.phase = .up → ∃ q, Out.request 0x0D q ∈ u.outbox ∧ q.dst = e.2.farCoord)
    (hrep : ((u.goDark r.cause).logOnly r).1.Reported s') : Halted s s' r := by
  obtain ⟨_, _, rfl⟩ := hsent
  obtain ⟨_, _, _, _, rfl⟩ := hrep
  exact
    { logged := ⟨SMap.find?_put_self .., rfl⟩
      cls := hcls, deviceState := rfl, haltCause := rfl, laserReq := rfl, pkgReady := rfl
      ports := State.goDark_ports _ r.cause
      told := fun e he hup => (told e he hup).imp fun _ ⟨hq, hdst⟩ => ⟨List.mem_append_left _ hq, hdst⟩
      mem := rfl, tasks := rfl, threads := rfl }

/-- A package that is not halted is, after `haltNow`, halted by the record given, in class 4. -/
theorem State.haltNow_halted {s : State} (r : FaultRec) (h : s.house.deviceState ≠ 3) :
    Halted s (s.haltNow r) { r with cls := 4 } := by
  rw [State.haltNow_eq r h]
  refine .of_parts rfl ((s.sendHalts_sentOut _ _).trans (State.failHostReads_sentOut _)) (fun e he hup => ?_)
    ((State.logFault_reported _ _).trans (State.settle_reported _))
  have hmem : e ∈ s.fab.ports.filter fun e => e.2.phase == .up := List.mem_filter.mpr ⟨he, by simpa using hup⟩
  obtain ⟨q, hq, hdst⟩ := State.halt_mem_sendHalts (cause := r.cause) hmem s
  exact ⟨q, (State.failHostReads_sentOut _).mem_outbox hq, hdst⟩

/-- The words drawn for a record are no part of what a halt says of the state before. -/
theorem Halted.of_draw {s s' : State} {r : FaultRec} (h : Halted s.draw.2 s' r) : Halted s s' r := { h with }

/-! ## The commands of a device-fatal fault -/

section Commands
variable {s : State} (hstart : s.house.started = true)
include hstart

theorem exec_dieLinkFlitError (hlive : s.house.deviceState ≠ 3) (l : Fin 9) :
    exec (.dieLinkFlitError l) s = .next (s.count .corrected) :=
  if_neg (by simp [hstart, hlive])

theorem exec_dieLinkRetryLimit (l : Fin 9) (n : Nat) : exec (.dieLinkRetryLimit l n) s =
    .next (s.haltNow { detail := BitVec.ofNat 64 l.val, unit := l.val, unitType := 7, cause := 0x03, detail2 := BitVec.ofNat 64 n }) :=
  if_neg (by simp [hstart])

theorem exec_promptBookParityError (die : Fin 4) : exec (.promptBookParityError die) s = .next (s.draw.2.draw.2.haltNow
    { detail := s.draw.1, unit := die.val, unitType := 9, cause := 0x02, detail2 := s.draw.2.draw.1 }) :=
  if_neg (by simp [hstart])

theorem exec_lockUp {engine : Bool} {n : Fin 16} (hn : engine = false → n.val < 4) :
    exec (.lockUp engine n) s = .next (s.draw.2.draw.2.haltNow
      { detail := s.draw.1, unit := n.val, unitType := if engine then 8 else 9, cause := Config.lockUpCause.toNat
        detail2 := s.draw.2.draw.1 }) :=
  if_neg (by simpa [hstart] using hn)

variable (hlive : s.house.deviceState ≠ 3)
include hlive

theorem dieLinkRetryLimit_halts (l : Fin 9) (n : Nat) : ∃ s' r, exec (.dieLinkRetryLimit l n) s = .next s' ∧ Halted s s' r ∧
    r.cause = 0x03 ∧ r.unitType = 7 ∧ r.unit = l.val ∧ r.detail2 = BitVec.ofNat 64 n :=
  ⟨_, _, exec_dieLinkRetryLimit hstart l n, State.haltNow_halted _ hlive, rfl, rfl, rfl, rfl⟩

theorem promptBookParityError_halts (die : Fin 4) : ∃ s' r, exec (.promptBookParityError die) s = .next s' ∧ Halted s s' r ∧
    r.cause = 0x02 ∧ r.unitType = 9 ∧ r.unit = die.val :=
  ⟨_, _, exec_promptBookParityError hstart die, (State.haltNow_halted (s := s.draw.2.draw.2) _ hlive).of_draw.of_draw, rfl, rfl, rfl⟩

theorem lockUp_halts {engine : Bool} {n : Fin 16} (hn : engine = false → n.val < 4) : ∃ s' r,
    exec (.lockUp engine n) s = .next s' ∧ Halted s s' r ∧ r.unitType = (if engine then 8 else 9) ∧ r.unit = n.val :=
  ⟨_, _, exec_lockUp hstart hn, (State.haltNow_halted (s := s.draw.2.draw.2) _ hlive).of_draw.of_draw, rfl, rfl⟩

end Commands

/-- There is no stage manager beyond die 3 to lock up. -/
theorem exec_lockUp_of_no_die {n : Fin 16} (hn : 4 ≤ n.val) (s : State) : exec (.lockUp false n) s = .next s :=
  if_pos (.inr ⟨rfl, hn⟩)

/-! ## Threads of a halted package -/

theorem State.working_of_halted {s : State} (h : s.house.deviceState = 3) : s.working = false := by
  simp [State.working, h]

/-- While the cores do not run no instruction issues (R330, R367). -/
theorem State.issue_of_not_working {s : State} (h : s.working = false) (t : Tid) (pred : BitVec 3) (neg ok always legal : Bool)
    (run : Thread → Task → State) : s.issue t pred neg ok always legal run = .next s := by
  unfold State.issue
  split
  · rfl
  · exact if_pos (by simp [State.mayIssue, h])

/-- Every instruction of format S in `scalarTable` is an issue. -/
theorem scalarTable_issues (s : State) (t : Tid) (f : SOp) : ∀ e ∈ scalarTable, ∃ pred neg ok always legal run,
    exec (e.1 t f) s = s.issue t pred neg ok always legal run := by
  simp only [scalarTable, binaryTable, List.map_cons, List.map_nil, List.cons_append, List.nil_append, List.forall_mem_cons,
    List.not_mem_nil, false_imp_iff, implies_true, and_true]
  and_intros <;> exact ⟨_, _, _, _, _, _, rfl⟩

/-- Settles O36: each of the four commands halts the package (`State.haltNow_halted`), and from then on `mayIssue` is false for every
thread, so that what is an issue does nothing. The CAUSE 0x02 of a prompt-book parity error is DEDUCED (log 80). -/
theorem halts : Obligations.Halts := by
  refine ⟨fun s hstart hlive i hi => ?_, fun s l n hstart hlive => ?_, fun s die hstart hlive => ?_, fun s t f hhalt e he => ?_,
    fun s l hstart hlive => exec_dieLinkFlitError hstart hlive l⟩
  · have hhalts : ∃ s' r, exec i s = .next s' ∧ Halted s s' r := by
      simp only [List.mem_cons, List.not_mem_nil, or_false] at hi
      rcases hi with rfl | rfl | rfl | rfl
      · obtain ⟨s', r, hx, h, _⟩ := dieLinkRetryLimit_halts hstart hlive 3 5
        exact ⟨s', r, hx, h⟩
      · obtain ⟨s', r, hx, h, _⟩ := promptBookParityError_halts hstart hlive 1
        exact ⟨s', r, hx, h⟩
      · obtain ⟨s', r, hx, h, _⟩ := lockUp_halts (engine := false) (n := 2) hstart hlive (by decide)
        exact ⟨s', r, hx, h⟩
      · obtain ⟨s', r, hx, h, _⟩ := lockUp_halts (engine := true) (n := 9) hstart hlive (by decide)
        exact ⟨s', r, hx, h⟩
    obtain ⟨s', r, hx, h⟩ := hhalts
    exact ⟨s', r, hx, h.logged, h.cls, h.deviceState, h.haltCause, h.laserReq, h.pkgReady, h.ports, h.told, h.mem⟩
  · obtain ⟨s', r, hx, h, hcause, _⟩ := dieLinkRetryLimit_halts hstart hlive l n
    exact ⟨s', hx, h.haltCause.trans hcause⟩
  · obtain ⟨s', r, hx, h, hcause, _⟩ := promptBookParityError_halts hstart hlive die
    exact ⟨s', hx, h.haltCause.trans hcause⟩
  · obtain ⟨_, _, _, _, _, _, hx⟩ := scalarTable_issues s t f e he
    exact hx.trans (State.issue_of_not_working (State.working_of_halted hhalt) ..)

/-- Settles O37: a retried flit is counted; the other commands halt the package with the record of their unit, but for a stage manager
of no die, which there is not. The CAUSE 0x02 of a prompt-book parity error is DEDUCED (log 80). -/
theorem deviceFatalFaults : Obligations.DeviceFatalFaults := by
  intro s hstart hlive
  refine ⟨exec_dieLinkFlitError hstart hlive, fun l n => ?_, fun die => ?_, fun engine n hn => ?_,
    fun n hn => exec_lockUp_of_no_die hn s⟩
  · obtain ⟨s', r, hx, h, hcause, htype, hunit, hdetail⟩ := dieLinkRetryLimit_halts hstart hlive l n
    exact ⟨s', r, hx, h.logged, h.cls, hcause, htype, hunit, hdetail, h.deviceState, h.haltCause.trans hcause, h.mem, h.tasks,
      h.threads⟩
  · obtain ⟨s', r, hx, h, hcause, htype, hunit⟩ := promptBookParityError_halts hstart hlive die
    exact ⟨s', r, hx, h.logged, h.cls, hcause, htype, hunit, h.deviceState, h.haltCause.trans hcause, h.mem, h.tasks⟩
  · obtain ⟨s', r, hx, h, htype, hunit⟩ := lockUp_halts hstart hlive hn
    exact ⟨s', r, hx, h.logged, h.cls, htype, hunit, h.deviceState, h.mem, h.tasks⟩

end Sys2Proof.Machine

/-! Refused addresses (O13): the checks of a thread's load and store, in the order in which they are made (R25, R26, R31, R33, R52). -/

namespace Sys2Proof.Machine

open Sys2Proof

/-! ## The checks of an access -/

/-- An own coordinate leads here (R28). -/
theorem State.resolve_of_isOwn {s : State} {a : W64} (h : s.isOwn (gcoord a) = true) (p : Nat) : s.resolve p a = .here (glocal a) := by
  simp [State.resolve, h]

section Checks
variable {s : State} {t : Tid} {x : Thread} {k : Task} {a : W64} {n align : Nat}

theorem State.threadLoad_misaligned (h : a.toNat % align ≠ 0) (pre : State → State) (kind : Nat → PendKind) :
    s.threadLoad t x k a n align pre kind = (s.raise t x .address a, none) :=
  if_pos h

theorem State.threadStore_misaligned (h : a.toNat % align ≠ 0) (ps : List (W64 × List Byte)) (release relaxed : Bool) :
    s.threadStore t x k a n align ps release relaxed = s.raise t x .address a :=
  if_pos h

variable (hal : a.toNat % align = 0) (hown : s.isOwn (gcoord a) = true)
include hal hown

/-- A near load of a range that is not populated or not reached raises EXC_ADDRESS (R26, R31). -/
theorem State.threadLoad_not_permitted (h : s.permits k.part (glocal a) n = false) (pre : State → State) (kind : Nat → PendKind) :
    s.threadLoad t x k a n align pre kind = (s.raise t x .address a, none) := by
  simp [State.threadLoad, hal, State.resolve_of_isOwn hown, State.mayLoad, h]

/-- A near store that its task may not make raises EXC_ADDRESS: refused by R26, R31 or R52, or outside what R25 declares. -/
theorem State.threadStore_refused (h : s.taskMayStore k (glocal a) n = false ∨ s.taskWrites k a n = false)
    (ps : List (W64 × List Byte)) (release relaxed : Bool) :
    s.threadStore t x k a n align ps release relaxed = s.raise t x .address a := by
  rcases h with h | h
  · simp [State.threadStore, hal, State.resolve_of_isOwn hown, h]
  · simp [State.threadStore, hal, State.resolve_of_isOwn hown, h]

end Checks

/-! ## What R52 refuses a task -/

theorem State.taskMayStore_of_not_permits {s : State} {k : Task} {l n : Nat} (h : s.permits k.part l n = false) :
    s.taskMayStore k l n = false := by
  simp [State.taskMayStore, State.mayStore, h]

theorem State.taskMayStore_of_guarded {s : State} {k : Task} {l n : Nat} (hg : s.guarded l n = true)
    (hr : s.mayRewrite k l n = false) : s.taskMayStore k l n = false := by
  simp [State.taskMayStore, State.mayStore, hg, hr]

/-- Nothing gives way to a task that is in no replay and no encore and is no part of a split. -/
theorem givesWay_of_plain {k : Task} (hreplay : k.replaying = false) (hencore : k.encore = false) (hsplit : splitOf k.desc = none)
    (b : Task) : givesWay k b = false := by
  cases h : splitOf b.desc <;> simp [givesWay, hreplay, hencore, hsplit, h]

theorem SMap.mapVals_id {α : Type} (m : SMap α) : SMap.mapVals (fun _ v => v) m = m := List.map_id' m

/-- To such a task a guarded range stays guarded (log 59). -/
theorem State.mayRewrite_of_plain {s : State} {k : Task} (hreplay : k.replaying = false) (hencore : k.encore = false)
    (hsplit : splitOf k.desc = none) {l n : Nat} (hg : s.guarded l n = true) : s.mayRewrite k l n = false := by
  simp [State.mayRewrite, givesWay_of_plain hreplay hencore hsplit, SMap.mapVals_id, hg]

/-! ## LD and ST -/

section Instructions
variable {s : State} {t : Tid} {x : Thread} {k : Task} {f : MOp} (hi : Issues s t x k) (hrsv : f.rsv = 0) (hord : f.ord.toNat ≤ 1)
  (hrlx : f.rlx = false) (hsz : f.sz.toNat ≤ 3) (hp : (x.gov f.pred f.pneg).getLsbD 0 = true)
include hi hrsv hord hrlx hsz hp

/-- An LD whose load answers no bytes leaves the state the load answers. -/
theorem exec_ld_of_no_bytes {s' : State}
    (hl : s.threadLoad t x k (mAddr x f) (mSize f) (mSize f) id (.load t f.gd (mSize f)) = (s', none)) :
    exec (.ld t f) s = .next s' := by
  obtain ⟨ht, hm, hk, hf⟩ := hi
  refine (State.issue_run ht hm hk hf (by simp [hrsv, hrlx]) (.inr hp) (by simp [hsz, hord])).trans ?_
  simp only [hl]

theorem exec_st_of_issues : exec (.st t f) s = .next (s.threadStore t x k (mAddr x f) (mSize f) (mSize f)
    [(mAddr x f, bytesLE (mSize f) (x.gr f.gd).toNat)] (f.ord == 1) f.rlx) := by
  obtain ⟨ht, hm, hk, hf⟩ := hi
  exact State.issue_run ht hm hk hf (by simp [hrsv]) (.inr hp) (by simp [hsz, hord, hrlx])

end Instructions

/-- Settles O13: each refusal is the answer of the load or the store of `State.threadLoad` and `State.threadStore`. What gives way to a
new run or to a split part is the model's reading of log 59. -/
theorem addressRefusals : Obligations.AddressRefusals := by
  intro s t x k f hi hrsv hord hrlx hsz hp a n
  have hld := exec_ld_of_no_bytes hi hrsv hord hrlx hsz hp (s' := s.raise t x .address a)
  have hst := exec_st_of_issues hi hrsv hord hrlx hsz hp
  refine ⟨fun hal => ⟨hld (State.threadLoad_misaligned hal ..), hst.trans (congrArg _ (State.threadStore_misaligned hal ..))⟩,
    fun hal hown => ?_⟩
  have hrefused (h : s.taskMayStore k (glocal a) n = false ∨ s.taskWrites k a n = false) :
      exec (.st t f) s = .next (s.raise t x .address a) :=
    hst.trans (congrArg _ (State.threadStore_refused hal hown h ..))
  refine ⟨fun h => ?_, fun h => hrefused ?_, fun hg hreplay hencore hsplit => hrefused (.inl ?_)⟩
  · have hnot : s.permits k.part (glocal a) n = false := by rcases h with h | h <;> simp [State.permits, h]
    exact ⟨hld (State.threadLoad_not_permitted hal hown hnot ..), hrefused (.inl (State.taskMayStore_of_not_permits hnot))⟩
  · exact h.imp_left fun ⟨hg, hr⟩ => State.taskMayStore_of_guarded hg hr
  · exact State.taskMayStore_of_guarded hg (State.mayRewrite_of_plain hreplay hencore hsplit hg)

end Sys2Proof.Machine

/-! Fences, releases, fabric fences and invalidates (O25): requests that nothing keeps back, near stores that nothing holds, and the
waits of R42, R44 and R45. -/

namespace Sys2Proof.Machine

open Sys2Proof

/-! ## What sending a message leaves -/

/-- Queuing bytes on a port changes the ports alone. -/
theorem State.portSend_eq (s : State) (n vc : Nat) (bs : List Byte) :
    ∃ ports, s.portSend n vc bs = { s with fab := { s.fab with ports := ports } } :=
  ⟨_, rfl⟩

/-- A request that leaves is the last of the outbox; beside it only the ports change. -/
theorem State.emit_eq (s : State) (op : Nat) (r : FabReq) :
    ∃ ports, s.emit op r = { s with fab := { s.fab with ports := ports }, outbox := s.outbox ++ [.request op r] } :=
  ⟨_, rfl⟩

/-! ## Sending a request -/

/-- Nothing keeps a request to a coordinate, on a port, back: the coordinate is not lost, no earlier OC0 request to it has failed, there
is room, and what is outstanding to it went the same way (R47, R49, R252, R262). -/
structure State.Sendable (s : State) (r : FabReq) (n : Nat) : Prop where
  live : routeState (s.route r.dst) ≠ 1
  unbroken : r.cls = 0 → (s.peer r.dst).broken = false
  room : s.fab.pend.length < pendLimit
  sameWay : ∀ q ∈ s.fab.pend, q.req.dst = r.dst → q.moved = false ∧ q.req.port.val = n % 24

/-- s' is s after request q was sent: q is kept until it is answered, it is in the outbox, and no thread or byte has changed. -/
structure SentReq (s s' : State) (q : PendReq) : Prop where
  pend : s'.fab.pend = s.fab.pend ++ [q]
  outbox : s'.outbox = s.outbox ++ [.request q.op q.req]
  threads : s'.threads = s.threads
  mem : s'.mem = s.mem

/-- A request's header as it is sent on a port: its number, its job and the CTAG of its destination (R261, R263, R265). -/
def State.stamped (s : State) (p : Option Nat) (n : Nat) (r : FabReq) : FabReq :=
  let peer := s.peer r.dst
  { r with
    port := Fin.ofNat 24 n, src := s.fab.coord.getD 0
    seq := if r.cls != 1 then BitVec.ofNat 32 (peer.nextOrdered % 2 ^ 31) else BitVec.ofNat 32 (2 ^ 31 + peer.nextUnordered % 2 ^ 31)
    jobId := match p with | some p => BitVec.ofNat 16 (s.jobId p) | none => 0
    ctag := BitVec.ofNat 32 (s.ctag r.dst) }

/-- A request that nothing keeps back is sent at once. -/
theorem State.sendVia_sent {s : State} {r : FabReq} {n : Nat} (h : s.Sendable r n) (p : Option Nat) (op : Nat) (task : Option Nat)
    (kind : PendKind) : let q : PendReq := { op := op, req := s.stamped p n r, task := task, kind := kind }
      ∃ s', s.sendVia (.port n) p op r task kind = (s', .sent q.req.seq) ∧ SentReq s s' q := by
  have hlost : ¬ (routeState (s.route r.dst) = 1 ∨ (r.cls = 0 ∧ (s.peer r.dst).broken = true)) := by
    rintro (hl | ⟨hc, hb⟩)
    · exact h.live hl
    · simp [h.unbroken hc] at hb
  have hother : (s.fab.pend.any fun q => q.req.dst == r.dst && clsOrdered r.cls q.req.cls &&
      (q.moved || q.req.port.val != n % 24)) = false := by
    refine List.any_eq_false.mpr fun q hq => ?_
    by_cases hd : q.req.dst = r.dst
    · simp [h.sameWay q hq hd]
    · simp [hd]
  unfold State.sendVia
  simp only [hlost, if_false, Nat.not_le.mpr h.room, hother, Bool.false_eq_true]
  exact ⟨_, rfl, rfl, rfl, rfl, rfl⟩

theorem State.sendReq_eq {op : Nat} (h : op ≠ 0x10) (s : State) (p : Option Nat) (r : FabReq) (task : Option Nat) (kind : PendKind) :
    s.sendReq p op r task kind = s.sendVia (s.firstHop p r.dst) p op r task kind := by
  simp [State.sendReq, h]

/-! ## Near stores -/

/-- Where no tray peer holds a line of the range there is nothing to invalidate (R267). -/
theorem State.copies_of_unshared {s : State} {l n : Nat} (h : ∀ e ∈ s.fab.directory, overlap (e.1 * 64) 64 l n = false)
    (except : Option Nat) : s.copies l n except = [] :=
  List.filterMap_eq_nil_iff.mpr fun e he => by simp [h e he]

/-- A store of one piece to lines that nobody else holds is performed at once, as memory. -/
theorem State.homeTry_store_unshared {s : State} {l : Nat} {d : List Byte} (hwin : windowOf l ≠ .control)
    (hdir : ∀ e ∈ s.fab.directory, overlap (e.1 * 64) 64 l d.length = false) (p : Nat) (reader : List Nat) (except : Option Nat)
    (l' : Nat) (act : HomeAct) :
    s.homeTry p reader except l' (.store [(l, d)]) act = (s.writeMem l d act.input, .done stOk []) := by
  simp [State.homeTry, HomeOp.writes, State.copies_of_unshared hdir, State.homeGo, State.putHere, hwin]

theorem State.touched_eq (s : State) (k : Nat) (ps : List (Nat × Nat)) : ∃ tasks, s.touched k ps = { s with tasks := tasks } := by
  unfold State.touched
  split
  · exact ⟨_, rfl⟩
  · exact ⟨s.tasks, rfl⟩

section NearStore
variable {s : State} {t : Tid} {x : Thread} {k : Task} {a : W64} {d : List Byte}

/-- A near store of one piece that nothing holds: memory takes its bytes, its task notes them, and the thread goes on. -/
theorem State.storeNow_near (ht : s.thread? t = some x) (h : StoresNow s t x k a d.length) (cls : BitVec 2) (w : Wait) :
    s.storeNow t x k a d.length cls [(a, d)] w =
      ((s.writeMem (glocal a) d).touched x.task [(glocal a, d.length)]).setThread t { x.step with wait := .ready } := by
  obtain ⟨hown, -, -, horder, hheld, hwin, hdir⟩ := h
  have htry := State.homeTry_store_unshared hwin hdir k.part [x.task] none (glocal a) (.thread t (.store [(a, d)]))
  have ht' : (s.writeMem (glocal a) d).thread? t = some x := ht
  simp [State.storeNow, hown, horder, hheld, localPieces, htry, HomeAct.input, State.threadEnd, ht']

/-- What it stores, and what it leaves as it was. -/
theorem State.storeNow_near_stores (ht : s.thread? t = some x) (h : StoresNow s t x k a d.length) (hmem : Memory.wf s.mem = true)
    (cls : BitVec 2) (w : Wait) : let s' := s.storeNow t x k a d.length cls [(a, d)] w
      StoreFrame s s' t x ∧ (∀ i < d.length, s'.byte (glocal a + i) = d.getD i 0) ∧
        ∀ b, b < glocal a ∨ glocal a + d.length ≤ b → s'.byte b = s.byte b := by
  rw [State.storeNow_near ht h]
  obtain ⟨tasks, htasks⟩ := (s.writeMem (glocal a) d).touched_eq x.task [(glocal a, d.length)]
  rw [htasks]
  refine ⟨⟨State.thread?_setThread _ _ _, fun u hu => State.thread?_setThread_ne _ hu _, rfl, rfl, rfl, rfl, rfl, rfl, rfl, rfl⟩,
    fun i hi => ?_, fun b hb => byte_writeMem_frame s _ d b hmem hb⟩
  rw [List.getD_eq_getElem _ _ hi]
  exact byte_writeMem s (glocal a) d i hmem hi

end NearStore

/-! ## FENCE -/

section Fence
variable {s : State} {t : Tid} {x : Thread} {k : Task}

/-- A fence is ready when nothing of the thread is outstanding, no invalidate of its own is served, and what its task consumes is
committed (R44, R45). -/
theorem State.fenceReady_iff : s.fenceReady t k = true ↔
    s.outstanding t = [] ∧ s.servesOwn t = false ∧ s.awaitsCommit k = false := by
  simp [State.fenceReady, and_assoc]

theorem Thread.fenced_eq (x : Thread) (gd : BitVec 6) : x.fenced gd =
    { (x.setG gd (BitVec.ofNat 64 x.failStatus.toNat)).step with failStatus := 0, farAddr := 0, wait := .ready } := by
  rw [BitVec.ofNat_toNat]
  rfl

theorem exec_fence_of_issues {f : SOp} (hi : Issues s t x k) (hon : OnS x f { gd := true }) : exec (.fence t f) s =
    .next (if s.fenceReady t k then s.setThread t (x.fenced f.gd) else s.hold t x (.fence f.gd.toNat)) := by
  obtain ⟨ht, hm, hk, hf⟩ := hi
  exact State.issue_run ht hm hk hf hon.1 (.inr hon.2) rfl

theorem exec_fenceComplete_of_waits {gd : Nat} (ht : s.thread? t = some x) (hw : x.wait = .fence gd) (hk : s.task? x.task = some k)
    (hwork : s.working = true) : exec (.fenceComplete t) s =
      .next (if s.fenceReady t k then s.setThread t (x.fenced (BitVec.ofNat 6 gd)) else s) := by
  change execFenceComplete t s = _
  simp [execFenceComplete, ht, hw, hk, hwork]

end Fence

/-! ## RELEASE_ISSUE -/

section Release
variable {s : State} {t : Tid} {x : Thread} {k : Task} {a : W64} {d : List Byte}

theorem exec_releaseIssue_of_waits (ht : s.thread? t = some x) (hw : x.wait = .release (.store [(a, d)]))
    (hk : s.task? x.task = some k) (hwork : s.working = true) : exec (.releaseIssue t) s =
      .next (if s.releaseReady t k a true then s.storeNow t x k a d.length 0 [(a, d)] x.wait else s) := by
  change execReleaseIssue t s = _
  simp [execReleaseIssue, ht, hw, hk, hwork, RelAccess.addr, piecesSpan]

/-- A near release waits while the thread has anything outstanding (R42). -/
theorem State.releaseReady_near_of_outstanding (hout : s.outstanding t ≠ []) (hown : s.isOwn (gcoord a) = true) :
    s.releaseReady t k a true = false := by
  simp [State.releaseReady, hout, hown]

theorem State.releaseReady_of_idle (hout : s.outstanding t = []) (hserve : s.servesOwn t = false) (hcommit : s.awaitsCommit k = false)
    (store : Bool) : s.releaseReady t k a store = true := by
  simp [State.releaseReady, hout, hserve, hcommit]

end Release

/-! ## FFENCE -/

theorem gcoord_coordBase (c : BitVec 12) : gcoord (coordBase c) = c := by
  have hc : c.toNat < 2 ^ 12 := c.isLt
  refine BitVec.eq_of_toNat_eq ?_
  simp only [gcoord, coordBase, fld, BitVec.toNat_ofNat, Nat.shiftRight_eq_div_pow]
  omega

section Ffence
variable {s : State} {t : Tid} {x : Thread} {k : Task} {f : SOp} {c : BitVec 12}
  (hi : Issues s t x k) (hon : OnS x f { gd := true, ga := true }) (hc : (x.gr f.ga).setWidth 12 = c)
include hi hon hc

/-- A fabric fence of this package sends nothing and gives 0x00 (Table 03-11). -/
theorem exec_ffence_of_own (hown : s.isOwn c = true) (hserve : s.servesOwn t = false) :
    exec (.ffence t f) s = .next (s.setThread t (x.setG f.gd 0).step) := by
  obtain ⟨ht, hm, hk, hf⟩ := hi
  have hres := State.resolve_of_isOwn (a := coordBase c) (s := s) (by rwa [gcoord_coordBase]) k.part
  refine (State.issue_run ht hm hk hf hon.1 (.inr hon.2) rfl).trans ?_
  simp [hc, hres, hserve]

/-- A refused coordinate is counted and raises EXC_ADDRESS (R28). -/
theorem exec_ffence_of_refused (hres : s.resolve k.part (coordBase c) = .refused) :
    exec (.ffence t f) s = .next (s.refuseCount.raise t x .address (x.gr f.ga)) := by
  obtain ⟨ht, hm, hk, hf⟩ := hi
  refine (State.issue_run ht hm hk hf hon.1 (.inr hon.2) rfl).trans ?_
  simp [hc, hres]

/-- A fabric fence of another package that nothing keeps back is sent in OC2, and the thread waits for its answer (R49). -/
theorem exec_ffence_of_far {n : Nat} (hres : s.resolve k.part (coordBase c) = .far c) (hhop : s.firstHop (some k.part) c = .port n)
    (hsend : s.Sendable { port := 0, dst := c, src := 0, cls := 2, die := Fin.ofNat 4 (t.core.val / 64) } n) :
    ∃ s' q, SentReq s s' q ∧ exec (.ffence t f) s = .next (s'.setThread t { x with wait := .far c q.req.seq }) ∧ q.op = 9 ∧
      q.req.dst = c ∧ q.req.cls = 2 ∧ q.kind = .fence t f.gd := by
  obtain ⟨ht, hm, hk, hf⟩ := hi
  obtain ⟨s', hsent, hq⟩ := State.sendVia_sent hsend (some k.part) 9 (some x.task) (.fence t f.gd)
  refine ⟨s', _, hq, (State.issue_run ht hm hk hf hon.1 (.inr hon.2) rfl).trans ?_, rfl, rfl, rfl, rfl⟩
  simp only [hc, hres, State.sendReq_eq (show 9 ≠ 0x10 by decide), hhop, hsent]

end Ffence

/-! ## INV -/

/-- Beginning to serve an invalidate drops lines, marks fills in flight and notes the invalidate. -/
theorem State.serveInval_eq (s : State) (v : Serving) : ∃ lines pend, (∀ e ∈ lines, e ∈ s.lines) ∧
    s.serveInval v = { s with lines := lines, fab := { s.fab with pend := pend, serving := s.fab.serving ++ [v] } } :=
  ⟨(s.serveInval v).lines, (s.serveInval v).fab.pend, fun _ he => List.mem_of_mem_filter he, rfl⟩

/-- An INV of this package's coordinate, with no write of the thread outstanding, is served at once and the thread goes on (R38). -/
theorem exec_inv_of_own {s : State} {t : Tid} {x : Thread} {k : Task} {f : SOp} (hi : Issues s t x k)
    (hon : OnS x f { ga := true, gb := true, gc := true }) (hcoord : s.fab.coord = some ((x.gr f.gc).setWidth 12))
    (hone : x.gr f.gc ≠ BitVec.allOnes 64) (hga : s.resolve k.part (x.gr f.ga) ≠ .refused)
    (hout : ∀ q ∈ s.outstanding t, q.writes = false) :
    ∃ v, v.own = some t ∧ exec (.inv t f) s = .next ((s.serveInval v).setThread t x.step) := by
  obtain ⟨ht, hm, hk, hf⟩ := hi
  have hown : s.isOwn ((x.gr f.gc).setWidth 12) = true := by simp [State.isOwn, hcoord]
  have hres := State.resolve_of_isOwn (a := coordBase ((x.gr f.gc).setWidth 12)) (s := s) (by rwa [gcoord_coordBase]) k.part
  have hstores (c : BitVec 12) : s.storesOut t c = false := List.any_eq_false.mpr fun q hq => by simp [hout q hq]
  have ht' (v : Serving) : (s.serveInval v).thread? t = some x := ht
  refine ⟨{ src := s.fab.coord.getD 0xFFF, seq := BitVec.ofNat 32 (tidKey t), lo := glocal (x.gr f.ga), n := (x.gr f.gb).toNat
            home := if s.isOwn (gcoord (x.gr f.ga)) then s.fab.coord.getD 0xFFF else gcoord (x.gr f.ga)
            own := some t, task := some x.task }, rfl, (State.issue_run ht hm hk hf hon.1 (.inr hon.2) rfl).trans ?_⟩
  simp only [hone, if_false, List.map_cons, List.map_nil, List.cons_append, List.nil_append, List.any_cons, List.any_nil, hres, hga,
    hstores, State.sendInvals, hown, if_true, ht']
  rfl

/-- Settles O25: fences by `State.fenceReady_iff`, the release by `State.storeNow_near_stores`, the fabric fence by where its coordinate
leads, the invalidate by `exec_inv_of_own`. GA as EXC_ADDR of a refused FFENCE (log 18) and INV of the own package served as received
(log 29) are the model's choices. -/
theorem fencesAndReleases : Obligations.FencesAndReleases := by
  refine ⟨⟨fun s t x k f hi hon => ?_, fun s t x k gd ht hw hk hwork => ?_⟩, fun s t x k a d ht hw hk hwork hmem hd => ?_,
    fun s t x k f hi => ⟨fun hon => ?_, fun hon hcoord hone hga hout _ => ?_⟩⟩
  · rw [exec_fence_of_issues hi hon]
    refine ⟨fun hout hserve hcommit => ?_, fun hwait => ?_⟩
    · rw [if_pos (State.fenceReady_iff.mpr ⟨hout, hserve, hcommit⟩), Thread.fenced_eq]
    · have hnot : ¬ s.fenceReady t k = true := by
        rw [State.fenceReady_iff]
        rintro ⟨hout, hserve, hcommit⟩
        simp [hout, hserve, hcommit] at hwait
      rw [if_neg hnot]
      rfl
  · rw [exec_fenceComplete_of_waits ht hw hk hwork]
    refine ⟨fun hout hserve hcommit => ?_, fun hout => ?_⟩
    · rw [if_pos (State.fenceReady_iff.mpr ⟨hout, hserve, hcommit⟩), Thread.fenced_eq]
    · rw [if_neg fun h => hout (State.fenceReady_iff.mp h).1]
  · rw [exec_releaseIssue_of_waits ht hw hk hwork]
    refine ⟨fun hout hown => ?_, fun hout hserve hcommit _ hstores => ?_⟩
    · rw [State.releaseReady_near_of_outstanding hout hown]
      rfl
    · rw [State.releaseReady_of_idle hout hserve hcommit]
      exact ⟨_, rfl, State.storeNow_near_stores ht hstores hmem 0 x.wait⟩
  · have hc : (x.gr f.ga).setWidth 12 = BitVec.ofNat 12 (x.gr f.ga).toNat := (BitVec.ofNat_toNat _ _).symm
    refine ⟨exec_ffence_of_own hi hon hc, fun hres => ⟨_, exec_ffence_of_refused hi hon hc hres, rfl⟩,
      fun n hres hlive hroom hhop hway => ?_⟩
    obtain ⟨s', q, hq, hx, hop, hdst, hcls, hkind⟩ :=
      exec_ffence_of_far hi hon hc hres hhop ⟨hlive, fun h => absurd h (show (2 : BitVec 2) ≠ 0 by decide), hroom, hway⟩
    exact ⟨_, q, hx, hq.pend, hop, hdst, hcls, hkind, hop ▸ hq.outbox, State.thread?_setThread _ _ _, hq.mem⟩
  · rw [BitVec.ofNat_toNat] at hcoord
    obtain ⟨v, hv, hx⟩ := exec_inv_of_own hi hon hcoord hone hga hout
    obtain ⟨lines, pend, hlines, hs⟩ := s.serveInval_eq v
    refine ⟨_, hx, State.thread?_setThread _ _ _, ?_⟩
    rw [hs]
    exact ⟨rfl, by simp, by simp [State.servesOwn, hv], hlines⟩

end Sys2Proof.Machine

/-! The completion notice (O28): what a write of an engine or manager changes beside memory, and the notice of a local ring (R46,
R418). -/

namespace Sys2Proof.Machine

open Sys2Proof

/-! ## Coherence messages -/

/-- s' is s but for the ports and the coherence messages that wait for one. -/
def State.CohMoved (s s' : State) : Prop :=
  ∃ ports cohWait, s' = { s with fab := { s.fab with ports := ports, cohWait := cohWait } }

theorem State.cohPort_cohMoved (s : State) (dst : BitVec 12) (die line : Nat) (ack : Bool) : s.CohMoved (s.cohPort dst die line ack) := by
  unfold State.cohPort
  split
  · exact ⟨_, s.fab.cohWait, rfl⟩
  · exact ⟨s.fab.ports, _, rfl⟩

/-- s' is s but for the fabric's state and the outbox. -/
def State.FabricOnly (s s' : State) : Prop := ∃ fab out, s' = { s with fab := fab, outbox := out }

section FabricOnly
variable {s u v : State}

theorem State.FabricOnly.refl (s : State) : s.FabricOnly s := ⟨s.fab, s.outbox, rfl⟩

theorem State.FabricOnly.trans (h : s.FabricOnly u) (h' : u.FabricOnly v) : s.FabricOnly v := by
  obtain ⟨_, _, rfl⟩ := h
  obtain ⟨fab, out, rfl⟩ := h'
  exact ⟨fab, out, rfl⟩

theorem State.FabricOnly.foldl {α : Type} {f : State → α → State} (hf : ∀ (s : State) (a : α), s.FabricOnly (f s a)) (l : List α)
    (s : State) : s.FabricOnly (l.foldl f s) :=
  List.foldlRecOn l f (.refl s) fun t ht a _ => ht.trans (hf t a)

theorem State.CohMoved.fabricOnly (h : s.CohMoved u) : s.FabricOnly u := by
  obtain ⟨_, _, rfl⟩ := h
  exact ⟨_, s.outbox, rfl⟩

theorem State.send_fabricOnly (s : State) (o : Out) : s.FabricOnly (s.send o) := ⟨s.fab, _, rfl⟩

theorem State.cohSend_fabricOnly (s : State) (dst : BitVec 12) (die line : Nat) (ack : Bool) :
    s.FabricOnly (s.cohSend dst die line ack) :=
  (s.send_fabricOnly _).trans (State.cohPort_cohMoved ..).fabricOnly

/-- Invalidations are sent and the directory's bits dropped: nothing outside the fabric changes (R267). -/
theorem State.dropCopies_fabricOnly (s : State) (l n : Nat) (except : Option Nat) : s.FabricOnly (s.dropCopies l n except) :=
  (State.FabricOnly.foldl (fun _ _ => .foldl (fun _ _ => State.cohSend_fabricOnly ..) _ _) _ s).trans ⟨_, _, rfl⟩

/-- A write of an engine or manager is the write to memory, and invalidations of the copies of its lines. -/
theorem State.homeWrite_fabricOnly (s : State) (a : Nat) (bs : List Byte) (input : Nat) :
    (s.writeMem a bs input).FabricOnly (s.homeWrite a bs input) := by
  obtain ⟨fab, out, h⟩ := s.dropCopies_fabricOnly a bs.length none
  unfold State.homeWrite
  rw [h]
  dsimp only
  split
  · exact ⟨fab, out, rfl⟩
  · exact ⟨_, out, rfl⟩

end FabricOnly

/-! ## The notice -/

@[simp] theorem bytesLE_length (n v : Nat) : (bytesLE n v).length = n := by
  induction n generalizing v with
  | zero => rfl
  | succ n ih => simp [bytesLE, ih]

theorem notice_length (c : Nat) (e : Entry) (st : Byte) (v : W64) (phase : Bool) : (notice c e st v phase).length = 16 := by
  simp [notice]

@[simp] theorem State.queue_setQueue (s : State) (c : Nat) (x : Queue) : (s.setQueue c x).queue c = x :=
  SMap.get_put_self _ _ _ _

/-- A queue that is not draining is left as it is (R416). -/
theorem State.qSettle_of_not_draining {s : State} {c : Nat} (h : (s.queue c).status ≠ 3) : s.qSettle c = s :=
  if_neg fun hd => h hd.1

theorem State.qSettle_eq (s : State) (c : Nat) : ∃ queues, s.qSettle c = { s with queues := queues } := by
  unfold State.qSettle
  split
  · exact ⟨_, rfl⟩
  · exact ⟨s.queues, rfl⟩

/-- The message of a queue clears the queue's count and is a report of its function (R420). -/
theorem State.queueMessage_reported (s : State) (c : Nat) (failNow : Bool) :
    ∃ queues, ({ s with queues := queues } : State).Reported (s.queueMessage c failNow) := by
  unfold State.queueMessage
  dsimp only
  split
  · exact ⟨_, State.msix_reported _ _ _⟩
  · exact ⟨s.queues, .refl s⟩

/-- A device queue sends no message (R420). -/
theorem State.queueMessage_of_device {s : State} {c : Nat} (h : c < 0x8000) (failNow : Bool) : s.queueMessage c failNow = s := by
  simp [State.queueMessage, codeIsHost, Nat.not_le.mpr h]

/-- A queue once a notice is in its completion ring, at a reference tick: the tail moves on, and PHASE inverts at the wrap (Table 17-4). -/
def Queue.noticed (x : Queue) (now : Nat) : Queue :=
  let t := (x.cqTail + 1) % x.cqEntries.toNat
  { x with
    cqTail := t, phase := if t = 0 then !x.phase else x.phase, sinceMsg := x.sinceMsg + 1
    firstTick := if x.sinceMsg = 0 then now else x.firstTick }

section Notice
variable {s : State} {c k : Nat} {e : Entry} {st : Byte} {v : W64} (hk : (s.queue c).discardBelow ≤ k)
include hk

/-- With the ring full the notice waits (R418). -/
theorem State.writeNotice_of_full (hfull : (s.queue c).full = true) : s.writeNotice c k e st v = s := by
  simp [State.writeNotice, Nat.not_lt.mpr hk, hfull]

/-- The notice of a device queue whose ring has room: written at CQ_TAIL, the entry gone, the tail moved. -/
theorem State.writeNotice_of_room (hfull : (s.queue c).full = false) (hc : c < 0x8000)
    (hin : s.inAllocs (codePart c) ((s.queue c).cqBase.toNat + 16 * (s.queue c).cqTail) 16 = true)
    (hg : s.guarded ((s.queue c).cqBase.toNat + 16 * (s.queue c).cqTail) 16 = false) (hst : (s.queue c).status ≠ 3) :
    ∃ fab out, s.writeNotice c k e st v = ({ s.writeMem ((s.queue c).cqBase.toNat + 16 * (s.queue c).cqTail)
        (notice c e st v (s.queue c).phase) with entries := SMap.del k s.entries, fab := fab, outbox := out } : State).setQueue c
      ((s.queue c).noticed s.clk.ticks) := by
  obtain ⟨fab, out, hw⟩ := State.homeWrite_fabricOnly { s with entries := SMap.del k s.entries }
    ((s.queue c).cqBase.toNat + 16 * (s.queue c).cqTail) (notice c e st v (s.queue c).phase) inputOwn
  have hloc : s.qLocal c = true := by simp [State.qLocal, codeIsHost, Nat.not_le.mpr hc]
  refine ⟨fab, out, ?_⟩
  unfold State.writeNotice
  simp only [Nat.not_lt.mpr hk, if_false, hfull, hloc, hin, hg, if_true, Bool.true_and, Bool.not_true, Bool.false_or, Bool.false_eq_true,
    hw, State.queueMessage_of_device hc]
  rw [State.qSettle_of_not_draining (by simpa using hst)]
  rfl

/-- The notice of a queue whose ring lies in the host's memory goes out to the host. -/
theorem State.writeNotice_of_host (hfull : (s.queue c).full = false) (hloc : s.qLocal c = false) :
    (s.writeNotice c k e st v).mem = s.mem ∧
      .hostWrite (BitVec.ofNat 64 ((s.queue c).cqBase.toNat + 16 * (s.queue c).cqTail)) (notice c e st v (s.queue c).phase) ∈
        (s.writeNotice c k e st v).outbox := by
  unfold State.writeNotice
  simp only [Nat.not_lt.mpr hk, if_false, hfull, hloc, Bool.false_and, Bool.false_eq_true]
  generalize hsent : State.setQueue _ c _ = s1
  have hmem1 : s1.mem = s.mem := by rw [← hsent]; rfl
  have hout1 : s1.outbox = s.outbox ++ [.hostWrite (BitVec.ofNat 64 ((s.queue c).cqBase.toNat + 16 * (s.queue c).cqTail))
      (notice c e st v (s.queue c).phase)] := by rw [← hsent]; rfl
  obtain ⟨_, hsettle⟩ := (s1.queueMessage c (failing st)).qSettle_eq c
  obtain ⟨_, _, _, _, _, hmsg⟩ := s1.queueMessage_reported c (failing st)
  rw [hsettle, hmsg]
  exact ⟨hmem1, by simp [hout1]⟩

end Notice

/-- Reading bytes back from where they were written. -/
theorem State.bytes_writeMem (s : State) (a : Nat) (bs : List Byte) (hm : Memory.wf s.mem = true) :
    (s.writeMem a bs).bytes a bs.length = bs := by
  refine List.ext_getElem (by simp [State.bytes]) fun i hi hi' => ?_
  simpa [State.bytes] using byte_writeMem s a bs i hm hi'

/-- The command takes the queue's first entry, unless a write of an engine or manager is still to be performed (R46). -/
theorem exec_completionNotice_of_done {s : State} {q : QRef} {k : Nat} {x : Entry} {st : Byte} {v : W64}
    (hx : s.firstEntry (qCode q) = some (k, x)) (hd : x.done = some (st, v)) (hw : s.engineWaits = false) :
    exec (.completionNotice q) s = .next (s.writeNotice (qCode q) k x st v) := by
  change execCompletionNotice q s = _
  simp [execCompletionNotice, hw, hx, hd]

/-- An entry that is not complete, or a write of an engine or manager still to be performed, keeps the notice back. -/
theorem exec_completionNotice_of_waits {s : State} {q : QRef} {k : Nat} {x : Entry} (hx : s.firstEntry (qCode q) = some (k, x))
    (h : x.done = none ∨ s.engineWaits = true) : exec (.completionNotice q) s = .next s := by
  change execCompletionNotice q s = _
  cases hw : s.engineWaits with
  | true => simp [execCompletionNotice, hw]
  | false => simp [execCompletionNotice, hw, hx, h.resolve_right (by simp [hw])]

/-- Settles O28: what keeps the notice back is `exec_completionNotice_of_waits` and `State.writeNotice_of_full`; with room it is
`State.writeNotice_of_room` or `State.writeNotice_of_host`. That any engine's write holds every notice back is the model's choice
(log 25). -/
theorem noticeWritten : Obligations.NoticeWritten := by
  intro s q k x hx c r
  refine ⟨fun h => exec_completionNotice_of_waits hx (h.imp_right fun ⟨y, hy, he⟩ => List.any_eq_true.mpr ⟨y, hy, by simp [he]⟩),
    fun st v hd hk hperf => ?_⟩
  have hw : s.engineWaits = false := List.any_eq_false.mpr fun y hy => by simpa using hperf y hy
  rw [exec_completionNotice_of_done hx hd hw]
  refine ⟨fun hfull => by rw [State.writeNotice_of_full hk (by simpa [Queue.full] using hfull)],
    fun hroom hc hin hg hsort hmem hst => ?_, fun hroom hc hcfg => ⟨_, rfl, State.writeNotice_of_host hk
      (by simpa [Queue.full] using hroom) (by simpa [State.qLocal, codeIsHost, show 0x8000 ≤ qCode q from hc] using hcfg)⟩⟩
  obtain ⟨fab, out, hs⟩ := State.writeNotice_of_room (e := x) (st := st) (v := v) hk (by simpa [Queue.full] using hroom) hc hin hg hst
  refine ⟨_, rfl, ?_⟩
  rw [hs]
  have hlen := notice_length c x st v r.phase
  refine ⟨?_, ?_, fun a ha => ?_, ?_, ?_⟩
  · exact (SMap.find?_del k k hsort).trans (if_pos rfl)
  · exact (congrArg _ hlen.symm).trans (State.bytes_writeMem s _ (notice c x st v r.phase) hmem)
  · exact byte_writeMem_frame s _ _ a hmem (by rwa [hlen])
  · rw [State.queue_setQueue]
    rfl
  · rw [State.queue_setQueue]
    rfl

end Sys2Proof.Machine

/-! Invalidates, unknown operations and coherence messages (O47): an answer, a request that arrives fresh, and a release where no access
is held and nothing waits to be sent (R38, R260, R261, R267). -/

namespace Sys2Proof.SMap

variable {α : Type}

/-- What a map holds of the entries kept. -/
theorem find?_keep (f : Nat → α → Bool) (k : Nat) : ∀ {lo : Nat} {m : SMap α}, sortedFrom lo m = true →
    find? k (keep f m) = (find? k m).filter (f k)
  | _, [], _ => rfl
  | lo, (j, v) :: m, hm => by
    simp only [sortedFrom, Bool.and_eq_true, decide_eq_true_eq] at hm
    have ih : find? k (List.filter (fun e => f e.1 e.2) m) = (find? k m).filter (f k) := find?_keep f k hm.2
    have hbelow (h : k ≤ j) : find? k m = none := find?_below (by omega) hm.2
    rcases Nat.lt_trichotomy k j with h | rfl | h
    · cases hf : f j v <;> simp [keep, List.filter, hf, find?, ih, hbelow (by omega), h, Nat.ne_of_lt h]
    · cases hf : f k v <;> simp [keep, List.filter, hf, find?, ih, hbelow le_rfl, Option.filter]
    · cases hf : f j v <;> simp [keep, List.filter, hf, find?, ih, Nat.ne_of_gt h, Nat.lt_asymm h]

theorem find?_mapVals (f : Nat → α → α) (k : Nat) : ∀ m : SMap α, find? k (mapVals f m) = (find? k m).map (f k)
  | [] => rfl
  | (j, v) :: m => by
    have ih : find? k (List.map (fun e => (e.1, f e.1 e.2)) m) = (find? k m).map (f k) := find?_mapVals f k m
    by_cases h : k = j
    · subst h; simp [mapVals, find?]
    · by_cases h' : k < j <;> simp [mapVals, find?, h, h', ih]

end Sys2Proof.SMap

namespace Sys2Proof.Machine

open Sys2Proof

/-! ## Answers -/

/-- A response is the last of the outbox; beside it only the ports change. -/
theorem State.respondTo_eq (s : State) (via : Option Nat) (dst : BitVec 12) (job : BitVec 16) (op : Nat) (seq : W32) (st : Byte)
    (body : List Byte) : ∃ ports, s.respondTo via dst job op seq st body =
      { s with fab := { s.fab with ports := ports }, outbox := s.outbox ++ [.response dst seq op st body] } := by
  unfold State.respondTo
  dsimp only
  split
  · exact ⟨_, rfl⟩
  · split
    · exact ⟨_, rfl⟩
    · exact ⟨s.fab.ports, rfl⟩

theorem State.early_of_put {s : State} {c : BitVec 12} {p : Peer} {m : SMap Peer} {l : List (Nat × Nat × FabReq)}
    (h : s.fab.peers = SMap.put c.toNat p m) (hp : p.early = l) : (s.peer c).early = l := by
  rw [State.peer, h, SMap.get_put_self, hp]

/-- An answer is the last of the outbox; beside it only the ports and what is kept for peers change, and of the source no early request
is taken (R261). -/
theorem State.respond_eq (s : State) (op : Nat) (r : FabReq) (st : Byte) (body : List Byte) :
    ∃ ports peers, s.respond op r st body = { s with
        fab := { s.fab with ports := ports, peers := peers }
        outbox := s.outbox ++ [.response r.src r.seq op st body] } ∧
      ((s.respond op r st body).peer r.src).early = (s.peer r.src).early := by
  unfold State.respond
  dsimp only
  split
  · obtain ⟨ports, h⟩ := s.respondTo_eq (if r.jobId = 0 ∧ op = 0x0C then some r.port.val else none) r.src r.jobId op r.seq st body
    rw [h]
    exact ⟨ports, s.fab.peers, rfl, rfl⟩
  · obtain ⟨ports, h⟩ := (s.setPeer r.src
      { s.peer r.src with refused := ((r.seq, st) :: (s.peer r.src).refused).take 4096 }).respondTo_eq
      (if r.jobId = 0 ∧ op = 0x0C then some r.port.val else none) r.src r.jobId op r.seq st body
    rw [h]
    exact ⟨ports, _, rfl, State.early_of_put rfl rfl⟩

/-- What is not an atomic is answered by its response alone. -/
theorem State.answer_of_not_atom {op : Nat} (h : isAtomOp op = false) (s : State) (r : FabReq) (st : Byte) :
    s.answer op r st [] = s.respond op r st [] := by
  simp [State.answer, h]

/-! ## A request that arrives fresh -/

/-- s1 is s as a fresh request of a source finds it: what is kept for peers has changed, and no early request of the source waits. -/
structure PeersNoted (s s1 : State) (src : BitVec 12) : Prop where
  eq : ∃ peers, s1 = { s with fab := { s.fab with peers := peers } }
  early : (s1.peer src).early = []

theorem State.drainEarly_of_nil {s : State} {c : BitVec 12} (h : (s.peer c).early = []) (n : Nat) : s.drainEarly n c = s := by
  cases n <;> simp [State.drainEarly, h]

/-- A fresh request is taken, with what the fabric contexts say of it; where no early request then waits, that is all (R261, R264). -/
theorem State.arrive_of_fresh {s : State} {r : FabReq} (h : Fresh s r) (op : Nat) : ∃ s1, PeersNoted s s1 r.src ∧
    (((s1.takeReq op (s.contextNoted op r) true).peer r.src).early = [] →
      s.arrive op r = s1.takeReq op (s.contextNoted op r) true) := by
  obtain ⟨-, hup, hport, hcoord, -, -, -, hearly, horder⟩ := h
  unfold State.arrive
  simp only [hup, hport, hcoord, bne_self_eq_false, Bool.not_true, Bool.or_self, Bool.false_eq_true, if_false, Option.isNone_some,
    ne_eq, not_true_eq_false, State.contextNoted]
  split at horder
  · next hmsb =>
    simp only [hmsb, if_true, List.contains_iff_mem, horder, if_false]
    refine ⟨_, ?_, fun _ => rfl⟩
    exact ⟨⟨_, rfl⟩, State.early_of_put rfl hearly⟩
  · next hmsb =>
    simp only [hmsb, horder, Nat.add_sub_cancel_left, Nat.mod_self, if_true]
    refine ⟨_, ?_, fun he => State.drainEarly_of_nil he 257⟩
    exact ⟨⟨_, rfl⟩, State.early_of_put rfl hearly⟩

/-- What the five checks say of a fresh request does not change as it is taken. -/
theorem PeersNoted.reqCheck {s s1 : State} {r : FabReq} (h : PeersNoted s s1 r.src) (hr : r.checked = none) (op : Nat) :
    s1.reqCheck op (s.contextNoted op r) = s.reqCheck op r := by
  obtain ⟨_, rfl⟩ := h.eq
  simp only [State.reqCheck, State.receiver, State.contextNoted, hr, Option.getD_some, Option.getD_none]
  rfl

/-- Nothing keeps a fresh request waiting. -/
theorem PeersNoted.performs {s s1 : State} {r : FabReq} (h : PeersNoted s s1 r.src) (hf : Fresh s r) (e : FabReq) :
    (s1.coolantHeld || s1.reqWaits e) = false ∧ s1.fab.coord = some r.dst := by
  obtain ⟨_, rfl⟩ := h.eq
  obtain ⟨-, -, -, hcoord, hcool, hheld, hstores, -⟩ := hf
  refine ⟨?_, hcoord⟩
  change (s.coolantHeld || _) = false
  rw [hcool]
  simp [State.reqWaits, hheld, hstores]

theorem State.takeReq_of_performed {s s' : State} {op : Nat} {r : FabReq} (h : s.performReq op r = (s', false)) (first : Bool) :
    s.takeReq op r first = s' := by
  simp [State.takeReq, h]

/-- An INVAL that passes its checks is served (R38). -/
theorem exec_inval_of_fresh {s : State} {r : FabReq} {p : Nat} (h : Fresh s r) (hjob : r.jobId ≠ 0) (hc : s.reqCheck 8 r = some p) :
    ∃ s1 v, PeersNoted s s1 r.src ∧ exec (.inval r) s = .next (s1.serveInval v) ∧
      v.src = r.src ∧ v.seq = r.seq ∧ v.own = none := by
  obtain ⟨s1, hs1, harr⟩ := State.arrive_of_fresh h 8
  have hcheck := (hs1.reqCheck h.1 8).trans hc
  obtain ⟨hwait, hcoord⟩ := hs1.performs h (s.contextNoted 8 r)
  have htake : s1.takeReq 8 (s.contextNoted 8 r) true = s1.serveInval
      { src := r.src, seq := r.seq, jobId := r.jobId, home := BitVec.ofNat 12 (leNat ((r.body.drop 8).take 8))
        lo := r.addr.toNat, n := leNat (r.body.take 8) } := by
    refine State.takeReq_of_performed ?_ true
    unfold State.performReq
    simp only [hwait, hcheck]
    have hjob' : r.jobId ≠ 0#16 := hjob
    simp [hcoord, State.contextNoted, hjob', knownOp, isAtomOp]
  refine ⟨s1, _, hs1, congrArg _ ((harr ?_).trans htake), rfl, rfl, rfl⟩
  rw [htake]
  exact hs1.early

/-! ## An unknown operation -/

/-- A transient is counted and logged: the fabric and memory stay as they are. -/
theorem State.transient_frame (s : State) (x : Site) (cause : Nat) (detail detail2 : W64) (status : Byte) (part : Nat) :
    (s.transient x cause detail detail2 status part).fab = s.fab ∧ (s.transient x cause detail detail2 status part).mem = s.mem := by
  obtain ⟨_, _, _, _, h⟩ := (s.noteTransient x).logFault_reported
    { detail := detail, unit := (siteUnit x).2, unitType := (siteUnit x).1, cls := 1, cause := cause, status := status, part := part,
      count := (s.noteTransient x).recent x, detail2 := detail2 }
  have hlog : s.transient x cause detail detail2 status part = _ := h
  rw [hlog]
  exact ⟨rfl, rfl⟩

/-- An OP outside Table 10-7 is logged and answered with DENIED (R260). -/
theorem exec_unknownOperation_of_fresh {s : State} {r : FabReq} {op : Byte} (h : Fresh s r) (hop : knownOp op.toNat = false) :
    ∃ s', exec (.unknownOperation r op) s = .next s' ∧ s'.mem = s.mem ∧
      s'.outbox.getLast? = some (.response r.src r.seq op.toNat 0x15 []) := by
  obtain ⟨s1, hs1, harr⟩ := State.arrive_of_fresh h op.toNat
  obtain ⟨hwait, hcoord⟩ := hs1.performs h (s.contextNoted op.toNat r)
  have hatom : isAtomOp op.toNat = false := by
    simp only [knownOp, Bool.or_eq_false_iff, decide_eq_false_iff_not] at hop
    simp only [isAtomOp, decide_eq_false_iff_not]
    omega
  have hassume : op.toNat ≠ 0x0C := fun he => by simp [he, knownOp] at hop
  obtain ⟨hfab, hmem⟩ := s1.transient_frame (.port r.port) 0x0F (BitVec.ofNat 64 r.port.val) (BitVec.ofNat 64 op.toNat) stDenied 0xFF
  set s2 := s1.transient (.port r.port) 0x0F (BitVec.ofNat 64 r.port.val) (BitVec.ofNat 64 op.toNat) stDenied with hs2
  have htake : s1.takeReq op.toNat (s.contextNoted op.toNat r) true = s2.respond op.toNat (s.contextNoted op.toNat r) stDenied [] := by
    refine State.takeReq_of_performed ?_ true
    unfold State.performReq
    simp only [hwait]
    simp [hcoord, State.contextNoted, hassume, hop, State.answer_of_not_atom hatom, hs2]
  obtain ⟨_, _, hs', hearly⟩ := s2.respond_eq op.toNat (s.contextNoted op.toNat r) stDenied []
  have hearly2 : (s2.peer r.src).early = (s1.peer r.src).early := by simp only [State.peer, hfab]
  have harrive := (harr (by rw [htake]; exact hearly.trans (hearly2.trans hs1.early))).trans htake
  refine ⟨_, (if_neg (by simp [hop]) : execUnknownOperation r op s = _), ?_⟩
  rw [harrive, hs']
  obtain ⟨_, rfl⟩ := hs1.eq
  exact ⟨hmem, by simp [State.contextNoted, stDenied]⟩

/-! ## INVALIDATE_COMPLETE -/

section InvalidateComplete
variable {s : State} {src : BitVec 12} {seq : W32}

/-- A fill in flight of the lines keeps an invalidate being served (R38). -/
theorem exec_invalidateComplete_of_fill {v : Serving} (hv : s.fab.serving.find? (fun v => v.src == src && v.seq == seq) = some v)
    (h : s.fab.pend.any (fun q => q.passed && q.req.dst == v.home && q.meetsLines v.lo v.n) = true) :
    exec (.invalidateComplete src seq) s = .next s := by
  change execInvalidateComplete src seq s = _
  simp only [execInvalidateComplete, hv, h, if_true]

/-- A peer's invalidate whose fills have landed is answered. -/
theorem exec_invalidateComplete_of_landed {v : Serving} (hv : s.fab.serving.find? (fun v => v.src == src && v.seq == seq) = some v)
    (h : s.fab.pend.any (fun q => q.passed && q.req.dst == v.home && q.meetsLines v.lo v.n) = false) (hown : v.own = none) :
    exec (.invalidateComplete src seq) s = .next (({ s with fab := { s.fab with serving := s.fab.serving.erase v } } : State).respondTo
      none src v.jobId 8 seq stOk []) := by
  change execInvalidateComplete src seq s = _
  simp only [execInvalidateComplete, hv, h, hown, Option.isSome_none, Bool.false_eq_true, if_false]

end InvalidateComplete

/-! ## COHERENCE_INVALIDATE -/

/-- The keys of two lines of the local map are the same only for the same die and line. -/
theorem lineKey_parts {die line : Nat} (h : line < 2 ^ 58) : lineKey die line / 2 ^ 58 = die ∧ lineKey die line % 2 ^ 58 = line := by
  unfold lineKey
  omega

/-- A copy is dropped where the test says so, and kept elsewhere. -/
theorem State.cached?_dropLines {s : State} (hs : SMap.sorted s.lines = true) (f : Nat → Nat → Bool) {die line : Nat}
    (h : line < 2 ^ 58) : (s.dropLines f).cached? die line = if f die line then none else s.cached? die line := by
  obtain ⟨hd, hl⟩ := lineKey_parts (die := die) h
  unfold State.cached? State.dropLines
  rw [SMap.find?_keep _ _ hs, hd, hl]
  cases f die line <;> cases SMap.find? (lineKey die line) s.lines <;> rfl

theorem State.cohSend_eq (s : State) (dst : BitVec 12) (die line : Nat) (ack : Bool) : ∃ ports cohWait, s.cohSend dst die line ack =
    { s with fab := { s.fab with ports := ports, cohWait := cohWait }, outbox := s.outbox ++ [.coherence die line ack] } := by
  obtain ⟨ports, cohWait, h⟩ := (s.send (.coherence die line ack)).cohPort_cohMoved dst die line ack
  exact ⟨ports, cohWait, h⟩

/-! ## COHERENCE_ACK -/

/-- Where no access is held and nothing waits to be sent, a release sends coherence messages on and wakes threads. -/
theorem State.releaseHeld_of_idle {s : State} (hheld : s.fab.held = []) (hjobs : s.fab.jobs = []) (hsendq : s.fab.sendq = []) :
    ∃ ports cohWait, s.releaseHeld = ({ s with fab := { s.fab with ports := ports, cohWait := cohWait } } : State).wakeHeld := by
  have hpump : ∀ (l : List (BitVec 12 × Nat × Nat × Bool)) (u : State),
      u.CohMoved (l.foldl (fun s w => s.cohPort w.1 w.2.1 w.2.2.1 w.2.2.2) u) := fun l u =>
    List.foldlRecOn l _ ⟨u.fab.ports, u.fab.cohWait, rfl⟩ fun t ⟨_, _, ht⟩ w _ => by
      obtain ⟨ports, cohWait, h⟩ := t.cohPort_cohMoved w.1 w.2.1 w.2.2.1 w.2.2.2
      exact ⟨ports, cohWait, by rw [h, ht]⟩
  have hsame : ({ s with fab := { s.fab with held := [] } } : State) = s := by rw [← hheld]
  obtain ⟨ports, cohWait, h⟩ := hpump s.fab.cohWait { s with fab := { s.fab with cohWait := [] } }
  refine ⟨ports, cohWait, ?_⟩
  have hheld' : s.fab.held.foldl State.actAgain { s with fab := { s.fab with held := [] } } = s := by
    rw [hsame, hheld, List.foldl_nil]
  unfold State.releaseHeld
  dsimp only
  rw [hheld', State.pumpJobs_of_nil hjobs, State.pumpSends_of_nil hsendq]
  exact congrArg State.wakeHeld h

/-- With no store that waits an acknowledgement changes nothing. -/
theorem State.acknowledge_of_nil {s : State} (h : s.fab.homeStores = []) (f : Nat × Nat → Option (Nat × Nat)) :
    s.acknowledge f = s := by
  simp only [State.acknowledge, h, List.map_nil, List.filter_nil, List.foldl_nil]
  rw [← h]

/-- The last acknowledgement of the one store that waits performs it. -/
theorem State.acknowledge_of_last {s : State} {line m : Nat} {act : HomeAct}
    (h : s.fab.homeStores = [{ waits := [(line, m)], act := act }]) :
    s.acknowledge (fun w => if w.1 = line then none else some w) =
      ({ s with fab := { s.fab with homeStores := [] } } : State).homeDone act := by
  simp [State.acknowledge, h]

/-- A peer's store is performed and answered. -/
theorem State.homeDone_store {s : State} {r : FabReq} (hwin : windowOf r.addr.toNat ≠ .control) : ∃ ports, s.homeDone (.request 2 r) =
    { s.writeMem r.addr.toNat r.body (inputOfPort r.port.val) with
      fab := { s.fab with ports := ports }, outbox := s.outbox ++ [.response r.src r.seq 2 0 []] } := by
  have hdone : s.homeDone (.request 2 r) = (s.writeMem r.addr.toNat r.body (inputOfPort r.port.val)).respondTo none r.src r.jobId 2 r.seq
      stOk [] := by
    simp [State.homeDone, State.homeGo, reqOp, State.putHere, hwin, HomeAct.input, State.answer_of_not_atom, isAtomOp, State.respond]
  obtain ⟨ports, h⟩ := (s.writeMem r.addr.toNat r.body (inputOfPort r.port.val)).respondTo_eq none r.src r.jobId 2 r.seq stOk []
  exact ⟨ports, hdone.trans h⟩

theorem exec_coherenceAck_of_up {s : State} (hup : s.fabricUp = true) (line : W64) : exec (.coherenceAck line) s =
    .next (s.acknowledge fun w => if w.1 = line.toNat then none else some w).releaseHeld :=
  if_neg (by simp [hup])

/-- Settles O47: an INVAL is served (`State.serveInval_eq`) and answered once its fills have landed, an unknown OP is answered with
DENIED, a copy is dropped by `State.cached?_dropLines`, and a store is performed with its last acknowledgement. -/
theorem coherenceMessages : Obligations.CoherenceMessages := by
  refine ⟨fun s r p hf hjob hc => ?_, fun s src seq => ⟨fun hv => ?_, fun v hv => ⟨fun hfill => ?_, fun hland hown => ?_⟩⟩,
    fun s r op => ⟨fun hop => ?_, fun hf hop => exec_unknownOperation_of_fresh hf hop⟩, fun s die line hup hline hsort => ?_,
    fun s line hup => ⟨fun hnil => ?_, fun m r hheld hjobs hsendq hlast hwin hmem => ?_⟩⟩
  · obtain ⟨s1, v, hs1, hx, hsrc, hseq, hown⟩ := exec_inval_of_fresh hf hjob hc
    obtain ⟨_, _, hlines, hv⟩ := s1.serveInval_eq v
    obtain ⟨_, rfl⟩ := hs1.eq
    refine ⟨_, v, hx, ?_⟩
    rw [hv]
    exact ⟨rfl, hsrc, hseq, hown, rfl, rfl, hlines⟩
  · change execInvalidateComplete src seq s = _
    simp only [execInvalidateComplete, hv]
  · exact exec_invalidateComplete_of_fill hv hfill
  · obtain ⟨_, h⟩ := State.respondTo_eq { s with fab := { s.fab with serving := s.fab.serving.erase v } } none src
      v.jobId 8 seq stOk []
    exact ⟨_, (exec_invalidateComplete_of_landed hv hland hown).trans (congrArg _ h), rfl, rfl, rfl⟩
  · exact if_pos hop
  · have hcached {d l : Nat} (h : l < 2 ^ 58) := State.cached?_dropLines hsort (fun d l => d == die.val && l == line.toNat) (die := d) h
    obtain ⟨_, _, h⟩ := ((s.dropLines fun d l => d == die.val && l == line.toNat).markFills (lineCoord line.toNat)
      (line.toNat % 2 ^ 46 * 64) 64 false).cohSend_eq (lineCoord line.toNat) die.val line.toNat true
    refine ⟨_, (if_neg (by simp [hup]) : execCoherenceInvalidate die line s = _).trans (congrArg _ h), ?_, rfl, rfl,
      fun d l hl hne => ?_⟩
    · exact (hcached hline).trans (by simp)
    · exact (hcached hl).trans (if_neg (by simpa using hne))
  · rw [exec_coherenceAck_of_up hup, State.acknowledge_of_nil hnil]
  · rw [exec_coherenceAck_of_up hup, State.acknowledge_of_last hlast]
    obtain ⟨_, hdone⟩ := State.homeDone_store (s := { s with fab := { s.fab with homeStores := [] } }) hwin
    set u := ({ s with fab := { s.fab with homeStores := [] } } : State).homeDone (.request 2 r)
    obtain ⟨_, _, hrel⟩ := State.releaseHeld_of_idle (s := u) (by rw [hdone]; exact hheld) (by rw [hdone]; exact hjobs)
      (by rw [hdone]; exact hsendq)
    rw [hrel, hdone]
    refine ⟨_, rfl, rfl, rfl, fun i b hb => ?_, fun a ha => ?_⟩
    · obtain ⟨hi, rfl⟩ := List.getElem?_eq_some_iff.mp hb
      exact byte_writeMem s _ _ i hmem hi
    · exact byte_writeMem_frame s _ _ a hmem ha

end Sys2Proof.Machine

/-! No command stops the block (O5): what comes out of an instruction of a thread, of an entry of a queue and of every other command. -/

namespace Sys2Proof.Machine

open Sys2Proof

/-- The outcome is a next state. -/
def GoesOn (r : Result) : Prop := ∃ s', r = .next s'

theorem goes_next (s : State) : GoesOn (.next s) := ⟨s, rfl⟩

/-- An instruction is refused, waits, raises its exception or runs: each is a next state. -/
theorem State.issue_goes {s : State} {t : Tid} {pred : BitVec 3} {neg ok always legal : Bool} {run : Thread → Task → State} :
    GoesOn (s.issue t pred neg ok always legal run) := State.issue_next

/-- An entry that a command takes is run, held or left as it is. -/
theorem State.withEntry_goes (s : State) (q : QRef) (e : W512) (mine : Nat → Bool) (run : State → Nat → Nat → W512 → State) :
    GoesOn (s.withEntry q e mine run) := by
  dsimp only [State.withEntry]
  repeat' split
  all_goals exact goes_next _

theorem execWaitv_goes (t : Tid) (f : SOp) (s : State) : GoesOn (execWaitv t f s) := by
  unfold execWaitv
  split
  · exact goes_next s
  · split
    · exact goes_next _
    · exact State.issue_goes

/-- Every command answers a next state: the instructions of threads by `State.issue_goes`, the entries of queues by
`State.withEntry_goes`, those that ask nothing first at once, and the others at every leaf of what they ask. -/
theorem exec_goes (i : Instr) (s : State) : GoesOn (exec i s) := by
  cases i with
  | nop | add | sub | mul | mulhu | mulhs | divu | divs | remu | rems | and | or | xor | shl | shr | sra | mins | maxs | popc | clz
  | cmp | sel | addi | andi | ori | xori | shli | shri | movhi | fadd | fmul | ffma | fcvtsf | fcvtfs | rds | wrs | ld | st | ldv
  | stv | ldai | atadd | atfadd | cas | fpadd32 | vadd | vsub | vmul | vfma | vmax | vmin | vand | vor | vxor | vshl | vshr | vcmp
  | vsel | vcvt | vbcast | vext | vins | vperm | vredsum | vredmax | vredmin | sfe | sfload | acmd | await | astat | flyhint | fence
  | ffence | inv | bar | br | call | jr | endThread | eret | erets | brk | yield => exact State.issue_goes
  | waitv t f => exact execWaitv_goes t f s
  | taskEntry | stepBegin | reqOpen | reqTokens | reqPause | reqResume | reqClose | pool | ctxAlloc | ctxRelease | publish | map
  | unpublish | ctxQuery | alloc | free | objRegister | objRetire | fill | keyLoad | keyDrop | cueLoad | cueSelect | cueUnload
  | unknownEntryClass =>
    delta exec
    exact State.withEntry_goes ..
  | budgetRefill | scoresSegment | offersSegment | responsesSegment | noticesSegment | countsSegment | dispatchSegment | returnSegment
  | failSegment | lightLost | loadRequest | storeRequest | ataddRequest | atfaddRequest | casRequest | fpadd32Request | inval
  | fenceRequest | freqCue | routeUpdate | assume | halt | coll | droopRecovery | coolantReenable | cap | stepMax | currentLimit
  | read | write | readWings | mailboxRelease | mailboxClaimTimeout | dictionaryWrite | curtain | discard | layerCounters | partReset
  | errorCount | store | restore | flyUcodeGo | portRetrain | emcyInhibit | storeBegin | image | activate | abandon | retryStart
  | ghostNext | ownerRequest | nonce | perst | mgmtRst | vauxLoss | busOffWindowExpiry => exact goes_next _
  | sfloadComplete | fenceComplete | releaseIssue | waitvTimeout | load | stream | release | arrayCommandComplete | stepBoundary
  | stepTimeout | dispatch | partitionResetComplete | taskComplete | taskCommit | completionNotice | kvAppend | normVerdict
  | encoreReservation | callMonitorTick | switchOut | castResume | checkFailure | replayComplete | sitePermanent | laneCopyComplete
  | dieLinkFlitError | dieLinkRetryLimit | ctxReleaseComplete | castingCall | slotListFinal | castTimeout | fillComplete
  | cueSelectComplete | cueEntryStart | cueEntryPlaced | flit | retrain | retrainComplete | retrainTimeout | lightDetected
  | trainingComplete | trainingTimeout | trainingRetry | invalidateComplete | unknownOperation | response | e2eResend
  | coherenceInvalidate | coherenceAck | portDownTimeout | switchInComplete | collective | collTimeout | fohLatencyMeasure
  | powerEstimate | gainUpdate | hopComplete | voltageConfirm | voltageTimeout | voltageRetry | droopStretch | droopRateCheck
  | droopPermitRestore | lockForce | tempSample | thermalPermitRise | hbmTempRead | hbmPermitRise | coolantOkFall | coolantStop
  | coolantOkRise | coolantReturned | coolantHoldExpiry | flyUcodeEngineLoaded | usdoInitiate | usdoSegment | usdoTimeout | nmtStart
  | nmtStop | nmtPreOperational | nmtResetCommunication | nmtResetNode | heartbeat | tpdoEvent | busOff | packageStart | showReady
  | startTimeout | watchdogExpiry | hmRestartComplete | bankWrite | bankWriteComplete | reportSigned | sqTail | cqHead | qreset
  | queueResetComplete | queueRingWrite | enableSet | enableClear | flr | bar4Read | bar4Write | bar4FaultStatusRead | interruptTimer
  | msixUnmask | atsInvalidate | railFault | refclkLoss | refclkReturn | laserOkChange | aperture | numvfs | promptBookParityError
  | lockUp | switchOutComplete | ringAccessError =>
    dsimp only [exec,
      execSfloadComplete, execFenceComplete, execReleaseIssue, execWaitvTimeout, execLoad, execStream, execRelease,
      execArrayCommandComplete, execStepBoundary, execStepTimeout, execDispatch, execPartitionResetComplete, execTaskComplete,
      execTaskCommit, execCompletionNotice, execKvAppend, execNormVerdict, execEncoreReservation, execCallMonitorTick, execSwitchOut,
      execCastResume, execCheckFailure, execReplayComplete, execSitePermanent, execLaneCopyComplete, execDieLinkFlitError,
      execDieLinkRetryLimit, execCtxReleaseComplete, execCastingCall, execSlotListFinal, execCastTimeout, execFillComplete,
      execCueSelectComplete, execCueEntryStart, execCueEntryPlaced, execFlit, execRetrain, execRetrainComplete, execRetrainTimeout,
      execLightDetected, execTrainingComplete, execTrainingTimeout, execTrainingRetry, execInvalidateComplete, execUnknownOperation,
      execResponse, execE2eResend, execCoherenceInvalidate, execCoherenceAck, execPortDownTimeout, execSwitchInComplete,
      execCollective, execCollTimeout, execFohLatencyMeasure, execPowerEstimate, execGainUpdate, execHopComplete, execVoltageConfirm,
      execVoltageTimeout, execVoltageRetry, execDroopStretch, execDroopRateCheck, execDroopPermitRestore, execLockForce,
      execTempSample, execThermalPermitRise, execHbmTempRead, execHbmPermitRise, execCoolantOkFall, execCoolantStop,
      execCoolantOkRise, execCoolantReturned, execCoolantHoldExpiry, execFlyUcodeEngineLoaded, execUsdoInitiate, execUsdoSegment,
      execUsdoTimeout, execNmtStart, execNmtStop, execNmtPreOperational, execNmtResetCommunication, execNmtResetNode, execHeartbeat,
      execTpdoEvent, execBusOff, execPackageStart, execShowReady, execStartTimeout, execWatchdogExpiry, execHmRestartComplete,
      execBankWrite, execBankWriteComplete, execReportSigned, execSqTail, execCqHead, execQreset, execQueueResetComplete,
      execQueueRingWrite, execEnableSet, execEnableClear, execFlr, execBar4Read, execBar4Write, execBar4FaultStatusRead,
      execInterruptTimer, execMsixUnmask, execAtsInvalidate, execRailFault, execRefclkLoss, execRefclkReturn, execLaserOkChange,
      execAperture, execNumvfs, execPromptBookParityError, execLockUp, execSwitchOutComplete, execRingAccessError]
    repeat' split
    all_goals exact goes_next _

/-- Settles O5: an idle step is a cycle, and a command goes on by `exec_goes`. That nothing stops the block is the model's choice (log 5). -/
theorem stepsAlwaysGoOn : Obligations.StepsAlwaysGoOn := by
  intro s
  unfold step
  split
  · exact goes_next s.tick
  · exact exec_goes _ _

end Sys2Proof.Machine

/-! What completing a request leaves unchanged of the house manager's notes (for O49): the packages reported and the switch-ins it runs.
One rule per operation, in the order of the model's files. -/

namespace Sys2Proof.Machine

open Sys2Proof

/-- The house manager's notes on other packages are the same: those reported to it (R262) and the switch-ins it runs (R341). -/
@[simp] abbrev State.SameHouse (s t : State) : Prop := t.fab.reported = s.fab.reported ∧ t.fab.switchIns = s.fab.switchIns

/-! ## Choices and folds -/

section Folds
variable {α β : Type}

@[simp] theorem ite_reported (c : Prop) [Decidable c] (s t : State) :
    (if c then s else t).fab.reported = if c then s.fab.reported else t.fab.reported := apply_ite (·.fab.reported) c s t

@[simp] theorem ite_switchIns (c : Prop) [Decidable c] (s t : State) :
    (if c then s else t).fab.switchIns = if c then s.fab.switchIns else t.fab.switchIns := apply_ite (·.fab.switchIns) c s t

/-- What every step of a fold keeps the fold keeps. -/
theorem foldl_keeps {f : β → α → β} {γ : Type} (g : β → γ) (h : ∀ b x, g (f b x) = g b) (l : List α) (b : β) :
    g (l.foldl f b) = g b := by
  induction l generalizing b with
  | nil => rfl
  | cons x l ih => exact (ih _).trans (h b x)

@[simp] theorem foldl_reported {f : State → α → State} (h : ∀ s x, (f s x).fab.reported = s.fab.reported) (l : List α) (s : State) :
    (l.foldl f s).fab.reported = s.fab.reported := foldl_keeps (·.fab.reported) h l s

@[simp] theorem foldl_switchIns {f : State → α → State} (h : ∀ s x, (f s x).fab.switchIns = s.fab.switchIns) (l : List α) (s : State) :
    (l.foldl f s).fab.switchIns = s.fab.switchIns := foldl_keeps (·.fab.switchIns) h l s

@[simp] theorem foldl_fst_reported {f : State × β → α → State × β} (h : ∀ a x, (f a x).1.fab.reported = a.1.fab.reported)
    (l : List α) (a : State × β) : (l.foldl f a).1.fab.reported = a.1.fab.reported := foldl_keeps (·.1.fab.reported) h l a

/-- The state that comes out beside a value. -/
theorem reported_of_eq {p : State × α} {s : State} {x : α} (h : p = (s, x)) : s.fab.reported = p.1.fab.reported := by rw [h]

end Folds

/-! ## Parts of the state -/

@[simp] theorem State.count_sameHouse (s : State) (c : CtrName) (unit : Nat) (n : Nat) : s.SameHouse (s.count c unit n) := by
  simp [State.count]

@[simp] theorem State.setThread_sameHouse (s : State) (t : Tid) (x : Thread) : s.SameHouse (s.setThread t x) := by
  simp [State.setThread]

@[simp] theorem State.setCore_sameHouse (s : State) (k : Nat) (x : Core) : s.SameHouse (s.setCore k x) := by
  simp [State.setCore]

@[simp] theorem State.setTask_sameHouse (s : State) (k : Nat) (x : Task) : s.SameHouse (s.setTask k x) := by
  simp [State.setTask]

@[simp] theorem State.setPart_sameHouse (s : State) (p : Nat) (x : Part) : s.SameHouse (s.setPart p x) := by
  simp [State.setPart]

@[simp] theorem State.modPart_sameHouse (s : State) (p : Nat) (f : Part → Part) : s.SameHouse (s.modPart p f) := by
  simp [State.modPart]

@[simp] theorem State.setPort_sameHouse (s : State) (n : Nat) (x : Port) : s.SameHouse (s.setPort n x) := by
  simp [State.setPort]

@[simp] theorem State.setPeer_sameHouse (s : State) (c : BitVec 12) (x : Peer) : s.SameHouse (s.setPeer c x) := by
  simp [State.setPeer]

@[simp] theorem State.setHostFn_sameHouse (s : State) (f : Nat) (x : HostFn) : s.SameHouse (s.setHostFn f x) := by
  simp [State.setHostFn]

@[simp] theorem State.send_sameHouse (s : State) (o : Out) : s.SameHouse (s.send o) := by
  simp [State.send]

@[simp] theorem State.draw_sameHouse (s : State) : s.SameHouse (s.draw).2 := by
  simp [State.draw]

@[simp] theorem State.writeMem_sameHouse (s : State) (a : Nat) (bs : List Byte) (input : Nat) : s.SameHouse (s.writeMem a bs input) := by
  simp [State.writeMem]

/-! ## Packets that leave -/

@[simp] theorem State.portSend_sameHouse (s : State) (n vc : Nat) (bs : List Byte) : s.SameHouse (s.portSend n vc bs) := by
  simp [State.portSend]

@[simp] theorem State.post_sameHouse (s : State) (p : Option Nat) (op : Nat) (r : FabReq) (kind : PendKind) (task : Option Nat) :
    s.SameHouse (s.post p op r kind task) := by
  simp [State.post]

@[simp] theorem State.postSeg_sameHouse (s : State) (p : Nat) (dst : BitVec 12) (g : FabSeg) (kind : PendKind) (task : Option Nat) :
    s.SameHouse (s.postSeg p dst g kind task) := by
  simp [State.postSeg]

@[simp] theorem State.cohPort_sameHouse (s : State) (dst : BitVec 12) (die line : Nat) (ack : Bool) :
    s.SameHouse (s.cohPort dst die line ack) := by
  unfold State.cohPort
  split <;> simp

@[simp] theorem State.cohSend_sameHouse (s : State) (dst : BitVec 12) (die line : Nat) (ack : Bool) :
    s.SameHouse (s.cohSend dst die line ack) := by
  simp [State.cohSend]

/-! ## The fault log -/

@[simp] theorem State.msix_sameHouse (s : State) (f v : Nat) : s.SameHouse (s.msix f v) := by
  simp [State.msix]

@[simp] theorem State.emcySend_sameHouse (s : State) (e : Emcy) : s.SameHouse (s.emcySend e) := by
  simp [State.emcySend]

@[simp] theorem State.emcy_sameHouse (s : State) (e : Emcy) : s.SameHouse (s.emcy e) := by
  simp [State.emcy]

@[simp] theorem State.settle_sameHouse (s : State) : s.SameHouse s.settle := by
  simp [State.settle]

@[simp] theorem State.logOnly_sameHouse (s : State) (r : FaultRec) : s.SameHouse (s.logOnly r).1 := by
  simp [State.logOnly]

@[simp] theorem State.logFault_sameHouse (s : State) (r : FaultRec) : s.SameHouse (s.logFault r) := by
  simp [State.logFault]

/-! ## Caches and copies -/

@[simp] theorem State.dropLines_sameHouse (s : State) (f : Nat → Nat → Bool) : s.SameHouse (s.dropLines f) := by
  simp [State.dropLines]

@[simp] theorem State.evict_sameHouse (s : State) (die : Nat) : s.SameHouse (s.evict die) := by
  simp only [State.evict]
  split <;> simp

@[simp] theorem State.cacheFill_sameHouse (s : State) (die line : Nat) (w : W512) : s.SameHouse (s.cacheFill die line w) := by
  simp [State.cacheFill]

@[simp] theorem State.markIf_sameHouse (s : State) (f : PendReq → Bool) : s.SameHouse (s.markIf f) := by
  simp [State.markIf]

@[simp] theorem State.cacheStore_sameHouse (s : State) (a : W64) (bs : List Byte) : s.SameHouse (s.cacheStore a bs) := by
  simp [State.cacheStore]

@[simp] theorem State.writeDone_sameHouse (s : State) (q : PendReq) : s.SameHouse (s.writeDone q) := by
  simp [State.writeDone]

@[simp] theorem State.dropCopies_sameHouse (s : State) (l n : Nat) (except : Option Nat) : s.SameHouse (s.dropCopies l n except) := by
  simp [State.dropCopies]

@[simp] theorem State.homeWrite_sameHouse (s : State) (a : Nat) (bs : List Byte) (input : Nat) :
    s.SameHouse (s.homeWrite a bs input) := by
  simp [State.homeWrite]

/-! ## Tasks, requests and resets -/

@[simp] theorem State.dropJobs_sameHouse (s : State) (f : EngineJob → Bool) : s.SameHouse (s.dropJobs f) := by
  simp [State.dropJobs]

@[simp] theorem State.freeThreads_sameHouse (s : State) (k : Nat) : s.SameHouse (s.freeThreads k) := by
  simp [State.freeThreads]

@[simp] theorem State.wakeAcmd_sameHouse (s : State) (arr : Nat) : s.SameHouse (s.wakeAcmd arr) := by
  simp [State.wakeAcmd]

@[simp] theorem State.releaseArrays_sameHouse (s : State) (k : Nat) : s.SameHouse (s.releaseArrays k) := by
  simp [State.releaseArrays]

@[simp] theorem State.wakeHeld_sameHouse (s : State) : s.SameHouse s.wakeHeld := by
  simp [State.wakeHeld]

@[simp] theorem State.taskStatus_sameHouse (s : State) (k : Nat) (st : Byte) : s.SameHouse (s.taskStatus k st) := by
  unfold State.taskStatus
  split <;> simp

@[simp] theorem State.endCast_sameHouse (s : State) (k : Nat) (st : Byte) (abrupt : Bool) : s.SameHouse (s.endCast k st abrupt) := by
  simp only [State.endCast]
  repeat' split
  all_goals simp

@[simp] theorem State.endRequest_sameHouse (s : State) (slot : Nat) (extra : Byte) : s.SameHouse (s.endRequest slot extra) := by
  unfold State.endRequest
  split <;> simp

@[simp] theorem State.freeEncore_sameHouse (s : State) (p l : Nat) : s.SameHouse (s.freeEncore p l) := by
  unfold State.freeEncore
  split
  · simp
  · simp only [State.SameHouse, State.modPart_sameHouse]
    exact ⟨foldl_reported (fun t r => (t.setCore_sameHouse ..).1) .., foldl_switchIns (fun t r => (t.setCore_sameHouse ..).2) ..⟩

@[simp] theorem State.freeEncores_sameHouse (s : State) (p : Nat) : s.SameHouse (s.freeEncores p) := by
  simp [State.freeEncores]

@[simp] theorem State.countCall_sameHouse (s : State) (p : Nat) (c : CastCall) : s.SameHouse (s.countCall p c) := by
  simp [State.countCall]

@[simp] theorem State.failCall_sameHouse (s : State) (p : Nat) (st : Byte) (tell : Bool) : s.SameHouse (s.failCall p st tell) := by
  unfold State.failCall
  split <;> simp

@[simp] theorem State.endColl_sameHouse (s : State) (p : Nat) (id : Nat) (st : Byte) (tell : Bool) :
    s.SameHouse (s.endColl p id st tell) := by
  unfold State.endColl
  split <;> simp

@[simp] theorem State.dropVerdicts_sameHouse (s : State) (p : Nat) : s.SameHouse (s.dropVerdicts p) := by
  simp [State.dropVerdicts]

@[simp] theorem State.dropFills_sameHouse (s : State) (p : Nat) : s.SameHouse (s.dropFills p) := by
  simp [State.dropFills]

@[simp] theorem State.resetSteps_sameHouse (s : State) (p : Nat) : s.SameHouse (s.resetSteps p) := by
  simp [State.resetSteps]

@[simp] theorem State.jobFault_sameHouse (s : State) (p : Nat) (cause : Nat) (detail detail2 : W64) :
    s.SameHouse (s.jobFault p cause detail detail2) := by
  simp [State.jobFault]

/-! ## Exceptions -/

@[simp] theorem State.raise_sameHouse (s : State) (t : Tid) (x : Thread) (e : Exc) (addr : W64) : s.SameHouse (s.raise t x e addr) := by
  simp only [State.raise]
  repeat' split
  all_goals simp

/-! ## Requests that leave -/

@[simp] theorem State.jobFailed_sameHouse (s : State) (job : EngineJob) (st : Byte) : s.SameHouse (s.jobFailed job st) := by
  simp [State.jobFailed]

/-! ## Requests that complete -/

@[simp] theorem State.farFail_sameHouse (s : State) (t : Tid) (x : Thread) (st : Byte) (a : W64) : s.SameHouse (s.farFail t x st a) := by
  simp [State.farFail]

@[simp] theorem State.landFill_sameHouse (s : State) (q : PendReq) (die : Nat) (st : Byte) (body : List Byte) :
    s.SameHouse (s.landFill q die st body) := by
  simp [State.landFill]

@[simp] theorem State.storeFail_sameHouse (s : State) (t : Tid) (task : Option Nat) (st : Byte) (a : W64) :
    s.SameHouse (s.storeFail t task st a) := by
  simp only [State.storeFail]
  repeat' split
  all_goals simp

@[simp] theorem State.waitvEnd_sameHouse (s : State) (t : Tid) (x : Thread) (gd : Nat) (v : W64) (hit : Bool) :
    s.SameHouse (s.waitvEnd t x gd v hit) := by
  simp [State.waitvEnd]

@[simp] theorem State.pollValue_sameHouse (s : State) (t : Tid) (x : Thread) (v : W64) : s.SameHouse (s.pollValue t x v) := by
  unfold State.pollValue
  split <;> simp

@[simp] theorem State.bar4Fail_sameHouse (s : State) (f : Nat) (a : W64) (st : Byte) : s.SameHouse (s.bar4Fail f a st) := by
  simp [State.bar4Fail]

@[simp] theorem State.hostPiece_sameHouse (s : State) (id pos : Nat) (st : Byte) (body : List Byte) :
    s.SameHouse (s.hostPiece id pos st body) := by
  unfold State.hostPiece
  split <;> simp

@[simp] theorem State.setColl_sameHouse (s : State) (p : Nat) (c : CollRun) : s.SameHouse (s.setColl p c) := by
  simp [State.setColl]

@[simp] theorem State.collPost_sameHouse (s : State) (p : Nat) (dst : BitVec 12) (g : CollSegment) :
    s.SameHouse (s.collPost p dst g) := by
  simp [State.collPost]

@[simp] theorem State.collEnd_sameHouse (s : State) (p : Nat) (c : CollRun) : s.SameHouse (s.collEnd p c) := by
  simp [State.collEnd]

@[simp] theorem State.collFeed_sameHouse (s : State) (p id : Nat) : s.SameHouse (s.collFeed p id) := by
  unfold State.collFeed
  split <;> simp

@[simp] theorem State.segDone_sameHouse (s : State) (k : PendKind) (st : Byte) : s.SameHouse (s.segDone k st) := by
  unfold State.segDone
  split <;> simp

@[simp] theorem State.deliver_sameHouse (s : State) (q : PendReq) (st : Byte) (body : List Byte) : s.SameHouse (s.deliver q st body) := by
  simp only [State.deliver]
  repeat' split
  all_goals simp

@[simp] theorem State.completeOne_sameHouse (s : State) (q : PendReq) (st : Byte) (body : List Byte) :
    s.SameHouse (s.completeOne q st body) := by
  simp [State.completeOne]

@[simp] theorem State.failAll_sameHouse (s : State) (qs : List PendReq) (st : Byte) : s.SameHouse (s.failAll qs st) := by
  simp [State.failAll]

@[simp] theorem State.complete_sameHouse (s : State) (q : PendReq) (st : Byte) (body : List Byte) :
    s.SameHouse (s.complete q st body) := by
  simp [State.complete]

end Sys2Proof.Machine

/-! What a release leaves unchanged of the packages reported (for O49): an access that was held may be any access of a thread, a host
or another package, and of those none reports a package or forgets one. One rule per operation, in the order of the model's files. -/

namespace Sys2Proof.Machine

open Sys2Proof

/-! ## Parts of the state -/

@[simp] theorem State.setCtr_reported (s : State) (c : CtrName) (unit : Nat) (v : W64) :
    (s.setCtr c unit v).fab.reported = s.fab.reported := by
  simp [State.setCtr]

@[simp] theorem State.setArray_reported (s : State) (k : Nat) (x : ArrayUnit) : (s.setArray k x).fab.reported = s.fab.reported := by
  simp [State.setArray]

@[simp] theorem State.setQueue_reported (s : State) (c : Nat) (x : Queue) : (s.setQueue c x).fab.reported = s.fab.reported := by
  simp [State.setQueue]

@[simp] theorem State.setMailbox_reported (s : State) (m : Nat) (x : Mailbox) : (s.setMailbox m x).fab.reported = s.fab.reported := by
  simp [State.setMailbox]

@[simp] theorem State.setCfgByte_reported (s : State) (idx sub off : Nat) (b : Byte) :
    (s.setCfgByte idx sub off b).fab.reported = s.fab.reported := by
  simp [State.setCfgByte]

@[simp] theorem State.setCfg_reported (s : State) (idx sub off : Nat) (bs : List Byte) :
    (s.setCfg idx sub off bs).fab.reported = s.fab.reported := by
  induction bs generalizing s off with
  | nil => rfl
  | cons b bs ih => simp [State.setCfg, ih]

/-! ## Addresses -/

@[simp] theorem State.refuseCount_reported (s : State) : s.refuseCount.fab.reported = s.fab.reported := by
  simp [State.refuseCount]

@[simp] theorem State.countHold_reported (s : State) (task : Option Nat) (l n : Nat) :
    (s.countHold task l n).fab.reported = s.fab.reported := by
  simp [State.countHold]

/-! ## Packets that leave -/

@[simp] theorem State.emit_reported (s : State) (op : Nat) (r : FabReq) : (s.emit op r).fab.reported = s.fab.reported := by
  simp [State.emit]

@[simp] theorem State.respondTo_reported (s : State) (via : Option Nat) (dst : BitVec 12) (job : BitVec 16) (op : Nat) (seq : W32) (st :
    Byte) (body : List Byte) :
    (s.respondTo via dst job op seq st body).fab.reported = s.fab.reported := by
  simp only [State.respondTo]
  repeat' split
  all_goals simp

@[simp] theorem State.respond_reported (s : State) (op : Nat) (r : FabReq) (st : Byte) (body : List Byte) :
    (s.respond op r st body).fab.reported = s.fab.reported := by
  simp [State.respond]

@[simp] theorem State.cohPump_reported (s : State) : s.cohPump.fab.reported = s.fab.reported := by
  simp [State.cohPump]

/-! ## The fault log -/

@[simp] theorem State.noteTransient_reported (s : State) (x : Site) : (s.noteTransient x).fab.reported = s.fab.reported := by
  simp [State.noteTransient]

@[simp] theorem State.transient_reported (s : State) (x : Site) (cause : Nat) (detail detail2 : W64) (status : Byte) (part : Nat) :
    (s.transient x cause detail detail2 status part).fab.reported = s.fab.reported := by
  simp [State.transient]

@[simp] theorem State.memError_reported (s : State) (l : Nat) (syndrome : W64) (status : Byte) (part : Nat) :
    (s.memError l syndrome status part).fab.reported = s.fab.reported := by
  unfold State.memError
  split <;> simp

/-! ## Caches and copies -/

@[simp] theorem State.markFills_reported (s : State) (home : BitVec 12) (l n : Nat) (served : Bool) :
    (s.markFills home l n served).fab.reported = s.fab.reported := by
  simp [State.markFills]

@[simp] theorem State.nearDrop_reported (s : State) (die : Nat) (a : W64) (n : Nat) :
    (s.nearDrop die a n).fab.reported = s.fab.reported := by
  simp [State.nearDrop]

@[simp] theorem State.invalidate_reported (s : State) (home : BitVec 12) (l n : Nat) :
    (s.invalidate home l n).fab.reported = s.fab.reported := by
  simp [State.invalidate]

@[simp] theorem State.noteCopies_reported (s : State) (die l n : Nat) : (s.noteCopies die l n).fab.reported = s.fab.reported := by
  simp [State.noteCopies]

@[simp] theorem State.homeWrites_reported (s : State) (ps : List (Nat × List Byte)) :
    (s.homeWrites ps).fab.reported = s.fab.reported := by
  simp [State.homeWrites]

/-! ## Tasks, requests and resets -/

@[simp] theorem State.markPos_reported (s : State) (p : Nat) : (s.markPos p).fab.reported = s.fab.reported :=
  foldl_reported (fun t _ => (t.modPart_sameHouse ..).1) ..

@[simp] theorem State.positions_reported (s : State) (p : Nat) : (s.positions p).fab.reported = s.fab.reported := by
  unfold State.positions
  dsimp only
  split
  · simp
  · refine (foldl_reported (fun s _ => foldl_reported (fun t _ => (t.setCore_sameHouse ..).1) ..) ..).trans ?_
    simp

@[simp] theorem State.raiseVclock_reported (s : State) (p : Nat) : (s.raiseVclock p).fab.reported = s.fab.reported := by
  simp only [State.raiseVclock]
  repeat' split
  all_goals simp

@[simp] theorem State.stopMember_reported (s : State) (k : Nat) : (s.stopMember k).fab.reported = s.fab.reported := by
  unfold State.stopMember
  split <;> simp

@[simp] theorem State.startReplay_reported (s : State) (k : Nat) (reader : List Nat) :
    (s.startReplay k reader).fab.reported = s.fab.reported := by
  simp only [State.startReplay]
  repeat' split
  all_goals simp

@[simp] theorem State.readError_reported (s : State) (p : Nat) (l : Nat) (reader : List Nat) :
    (s.readError p l reader).1.fab.reported = s.fab.reported := by
  simp only [State.readError]
  split <;> simp

/-! ## Layer counters -/

@[simp] theorem State.nwEvent_reported (s : State) (p l reason : Nat) : (s.nwEvent p l reason).fab.reported = s.fab.reported := by
  simp [State.nwEvent]

@[simp] theorem State.nwEvents_reported (s : State) (p l reason : Nat) (n : Nat) :
    (s.nwEvents p l reason n).fab.reported = s.fab.reported := by
  induction n generalizing s with
  | zero => rfl
  | succ n ih => simp [State.nwEvents, ih]

@[simp] theorem State.layerCounts_reported (s : State) (p l : Nat) (c : EncCounts) :
    (s.layerCounts p l c).fab.reported = s.fab.reported := by
  simp [State.layerCounts]

/-! ## Requests that leave -/

@[simp] theorem State.sendVia_reported (s : State) (hop : Hop) (p : Option Nat) (op : Nat) (r : FabReq) (task : Option Nat) (kind :
    PendKind) :
    (s.sendVia hop p op r task kind).1.fab.reported = s.fab.reported := by
  simp only [State.sendVia]
  repeat' split
  all_goals simp

@[simp] theorem State.sendReq_reported (s : State) (p : Option Nat) (op : Nat) (r : FabReq) (task : Option Nat) (kind : PendKind) :
    (s.sendReq p op r task kind).1.fab.reported = s.fab.reported := by
  simp [State.sendReq]

@[simp] theorem State.jobLoads_reported (m : Nat) (s : State) (j : FarRead) : (s.jobLoads m j).1.fab.reported = s.fab.reported := by
  induction m generalizing s j with
  | zero => rfl
  | succ n ih =>
    have hsent {p : State × Sent} {t : State} {b : Sent} (h : p = (t, b)) (hp : p.1.fab.reported = s.fab.reported) :
        t.fab.reported = s.fab.reported := (reported_of_eq h).trans hp
    unfold State.jobLoads
    dsimp only
    split
    · rfl
    · split
      · next h => exact (ih ..).trans (hsent h (by split <;> simp))
      · next h => exact hsent h (by split <;> simp)
      · rfl

@[simp] theorem State.pumpJobs_reported (s : State) : s.pumpJobs.fab.reported = s.fab.reported := by
  simp [State.pumpJobs]

@[simp] theorem State.takeSeg_reported (s : State) (k : Option Nat) : (s.takeSeg k).fab.reported = s.fab.reported := by
  unfold State.takeSeg
  split <;> simp

/-! ## Arrays -/

@[simp] theorem State.engineTime_reported (s : State) (p n : Nat) : (s.engineTime p n).fab.reported = s.fab.reported := by
  simp [State.engineTime]

@[simp] theorem State.lateTile_reported (s : State) (k : Nat) (c : ArrCmd) (t : Task) :
    (s.lateTile k c t).1.fab.reported = s.fab.reported := by
  simp only [State.lateTile]
  repeat' split
  all_goals simp

/-! ## Requests that complete -/

@[simp] theorem State.reroute_reported (s : State) (q : PendReq) : (s.reroute q).fab.reported = s.fab.reported := by
  simp only [State.reroute]
  repeat' split
  all_goals simp

@[simp] theorem State.pumpSends_reported (s : State) : s.pumpSends.fab.reported = s.fab.reported := by
  refine (foldl_reported (fun s e => ?_) ..).trans rfl
  dsimp only
  split
  · rfl
  · split
    · next h => simp [reported_of_eq h]
    · next h => simp [reported_of_eq h]
    · rfl

@[simp] theorem State.failSends_reported (s : State) (c : BitVec 12) : (s.failSends c).fab.reported = s.fab.reported := by
  simp [State.failSends]

@[simp] theorem State.portGone_reported (s : State) (n : Nat) : (s.portGone n).fab.reported = s.fab.reported := by
  simp [State.portGone]

/-! ## Collectives -/

@[simp] theorem State.linkSend_reported (s : State) (p l : Nat) (vs : List W32) :
    (s.linkSend p l vs).1.fab.reported = s.fab.reported := by
  simp [State.linkSend]

@[simp] theorem State.linkRead_reported (s : State) (p l n : Nat) (bs : List Byte) :
    (s.linkRead p l n bs).1.fab.reported = s.fab.reported := by
  simp [State.linkRead]

@[simp] theorem State.collSend_reported (s : State) (p : Nat) (dst : BitVec 12) (c : CollRun) (stage pos : Nat) (body : List Byte) :
    (s.collSend p dst c stage pos body).fab.reported = s.fab.reported := by
  simp [State.collSend]

@[simp] theorem State.collDone_reported (s : State) (p : Nat) (c : CollRun) (out : List (Nat × List Byte)) :
    (s.collDone p c out).fab.reported = s.fab.reported := by
  simp [State.collDone]

@[simp] theorem State.ringEncode_reported (s : State) (p : Nat) (c : CollRun) (link : Bool) (vs : List W32) :
    (s.ringEncode p c link vs).1.fab.reported = s.fab.reported := by
  unfold State.ringEncode
  split <;> simp

@[simp] theorem State.ringStart_reported (s : State) (p : Nat) (c : CollRun) (rs : List Ring) (a : Nat) :
    (s.ringStart p c rs a).fab.reported = s.fab.reported := by
  unfold State.ringStart
  split <;> simp

@[simp] theorem State.gatherStart_reported (s : State) (p : Nat) (c : CollRun) (rs : List Ring) (a : Nat) :
    (s.gatherStart p c rs a).fab.reported = s.fab.reported := by
  unfold State.gatherStart
  split <;> simp

@[simp] theorem State.gatherOut_reported (s : State) (p : Nat) (c : CollRun) (rs : List Ring) :
    (s.gatherOut p c rs).1.fab.reported = s.fab.reported := by
  simp [State.gatherOut]

@[simp] theorem State.reduced_reported (s : State) (p : Nat) (c : CollRun) (rs : List Ring) :
    (s.reduced p c rs).fab.reported = s.fab.reported := by
  simp [State.reduced]

@[simp] theorem State.ringHop_reported (s : State) (p : Nat) (c : CollRun) (rs : List Ring) (a : Nat) (g : CollSegment) :
    (s.ringHop p c rs a g).fab.reported = s.fab.reported := by
  simp only [State.ringHop]
  repeat' split
  all_goals simp

@[simp] theorem State.gatherHop_reported (s : State) (p : Nat) (c : CollRun) (rs : List Ring) (g : CollSegment) :
    (s.gatherHop p c rs g).fab.reported = s.fab.reported := by
  simp only [State.gatherHop]
  split <;> simp

@[simp] theorem State.mergePosition_reported (s : State) (p : Nat) (c : CollRun) (r : Nat) :
    (s.mergePosition p c r).1.fab.reported = s.fab.reported := by
  simp only [State.mergePosition]
  split
  · split <;> rfl
  · split <;> simp

@[simp] theorem State.mergeAll_reported (s : State) (p : Nat) (c : CollRun) : (s.mergeAll p c).fab.reported = s.fab.reported := by
  simp [State.mergeAll]

@[simp] theorem State.gatherAll_reported (s : State) (p : Nat) (c : CollRun) : (s.gatherAll p c).fab.reported = s.fab.reported := by
  simp [State.gatherAll]

@[simp] theorem State.credit_reported (s : State) (r : FabReq) : (s.credit r).fab.reported = s.fab.reported := by
  simp [State.credit]

@[simp] theorem State.refuseSeg_reported (s : State) (r : FabReq) : (s.refuseSeg r).fab.reported = s.fab.reported := by
  simp [State.refuseSeg]

@[simp] theorem State.collUse_reported (s : State) (p : Nat) (c : CollRun) (g : CollSegment) :
    (s.collUse p c g).fab.reported = s.fab.reported := by
  simp [State.collUse]

@[simp] theorem State.collRun_reported (s : State) (p id : Nat) (n : Nat) : (s.collRun p id n).fab.reported = s.fab.reported := by
  induction n generalizing s with
  | zero => rfl
  | succ n ih =>
    unfold State.collRun
    repeat' split
    all_goals simp [ih]

@[simp] theorem State.mergeRun_reported (s : State) (p id : Nat) (n : Nat) : (s.mergeRun p id n).fab.reported = s.fab.reported := by
  induction n generalizing s with
  | zero => rfl
  | succ n ih =>
    unfold State.mergeRun
    repeat' split
    all_goals simp [ih]

@[simp] theorem State.collResend_reported (s : State) (p : Nat) (c : CollRun) (dst : BitVec 12) :
    (s.collResend p c dst).fab.reported = s.fab.reported := by
  simp [State.collResend]

@[simp] theorem State.collTake_reported (s : State) (p : Nat) (r : FabReq) (g : CollSegment) :
    (s.collTake p r g).fab.reported = s.fab.reported := by
  simp only [State.collTake]
  split <;> simp

/-! ## Queues -/

@[simp] theorem State.qError_reported (s : State) (c cause : Nat) : (s.qError c cause).fab.reported = s.fab.reported := by
  simp [State.qError]

@[simp] theorem State.doorbellError_reported (s : State) (c : Nat) : (s.doorbellError c).fab.reported = s.fab.reported := by
  simp [State.doorbellError]

@[simp] theorem State.ringTail_reported (s : State) (c : Nat) (t : Nat) : (s.ringTail c t).fab.reported = s.fab.reported := by
  simp [State.ringTail]

@[simp] theorem State.sqTailWrite_reported (s : State) (c : Nat) (v : W64) : (s.sqTailWrite c v).fab.reported = s.fab.reported := by
  simp [State.sqTailWrite]

@[simp] theorem State.cqHeadWrite_reported (s : State) (c : Nat) (v : W64) : (s.cqHeadWrite c v).fab.reported = s.fab.reported := by
  simp [State.cqHeadWrite]

@[simp] theorem State.bellWrite_reported (s : State) (c : Nat) (tail : Bool) (v : W64) :
    (s.bellWrite c tail v).fab.reported = s.fab.reported := by
  simp [State.bellWrite]

@[simp] theorem State.bell_reported (s : State) (c : Nat) (tail : Bool) (v : W64) : (s.bell c tail v).fab.reported = s.fab.reported := by
  simp [State.bell]

@[simp] theorem State.devRingWrite_reported (s : State) (c : Nat) (r : RingReg) (v : W64) :
    (s.devRingWrite c r v).fab.reported = s.fab.reported := by
  unfold State.devRingWrite
  split <;> simp

@[simp] theorem State.ringCfgWrite_reported (s : State) (c : Nat) (v : W64) : (s.ringCfgWrite c v).fab.reported = s.fab.reported := by
  simp [State.ringCfgWrite]

@[simp] theorem State.hostRingWrite_reported (s : State) (c : Nat) (r : RingReg) (v : W64) :
    (s.hostRingWrite c r v).fab.reported = s.fab.reported := by
  simp only [State.hostRingWrite]
  repeat' split
  all_goals simp

@[simp] theorem State.ringWrite_reported (s : State) (c : Nat) (r : RingReg) (v : W64) :
    (s.ringWrite c r v).fab.reported = s.fab.reported := by
  simp [State.ringWrite]

@[simp] theorem State.qresetWrite_reported (s : State) (c : Nat) (v : W64) : (s.qresetWrite c v).fab.reported = s.fab.reported := by
  simp [State.qresetWrite]

@[simp] theorem State.accept_reported (s : State) (c p : Nat) (e : W512) : (s.accept c p e).1.fab.reported = s.fab.reported := by
  simp only [State.accept]
  repeat' split
  all_goals simp

/-! ## Pages and rows -/

@[simp] theorem State.setCtx_reported (s : State) (i : Nat) (d : W512) : (s.setCtx i d).fab.reported = s.fab.reported := by
  simp [State.setCtx]

@[simp] theorem State.modExtra_reported (s : State) (i : Nat) (f : CtxExtra → CtxExtra) :
    (s.modExtra i f).fab.reported = s.fab.reported := by
  simp [State.modExtra]

@[simp] theorem State.setPool_reported (s : State) (p n : Nat) (x : Pool) : (s.setPool p n x).fab.reported = s.fab.reported := by
  simp [State.setPool]

@[simp] theorem State.dropPage_reported (s : State) (p n page : Nat) : (s.dropPage p n page).fab.reported = s.fab.reported := by
  unfold State.dropPage
  split <;> simp

/-! ## Stages of a step -/

@[simp] theorem State.noteArea_reported (s : State) (p k : Nat) : (s.noteArea p k).fab.reported = s.fab.reported := by
  unfold State.noteArea
  split <;> simp

@[simp] theorem State.arrivalList_reported (s : State) (p k : Nat) : (s.arrivalList p k).fab.reported = s.fab.reported := by
  unfold State.arrivalList
  split <;> simp

@[simp] theorem State.partDone_reported (s : State) (t : Task) : (s.partDone t).fab.reported = s.fab.reported := by
  unfold State.partDone
  split <;> simp

@[simp] theorem State.report_reported (s : State) (t : Task) (v : W32) : (s.report t v).fab.reported = s.fab.reported := by
  unfold State.report
  split <;> simp

@[simp] theorem State.layerFails_reported (s : State) (p l : Nat) : (s.layerFails p l).fab.reported = s.fab.reported := by
  simp [State.layerFails]

@[simp] theorem State.taskDone_reported (s : State) (k : Nat) (t : Task) : (s.taskDone k t).fab.reported = s.fab.reported := by
  simp [State.taskDone]

@[simp] theorem State.freeScratch_reported (s : State) (p i : Nat) : (s.freeScratch p i).fab.reported = s.fab.reported := by
  unfold State.freeScratch
  split <;> simp

@[simp] theorem State.ctxIntermission_reported (s : State) (r : W64) (st : Nat) :
    (s.ctxIntermission r st).fab.reported = s.fab.reported := by
  simp only [State.ctxIntermission]
  repeat' split
  all_goals simp

@[simp] theorem State.intermissions_reported (s : State) (p : Nat) : (s.intermissions p).fab.reported = s.fab.reported := by
  simp [State.intermissions]

@[simp] theorem State.roster_reported (s : State) (p : Nat) : (s.roster p).fab.reported = s.fab.reported := by
  simp [State.roster]

@[simp] theorem State.readyBits_reported (s : State) (old new : Option Sheet) : (s.readyBits old new).fab.reported = s.fab.reported := by
  refine (foldl_reported (fun t _ => (t.setCore_sameHouse ..).1) ..).trans ?_
  exact foldl_reported (fun t _ => (t.setCore_sameHouse ..).1) ..

@[simp] theorem State.applySelect_reported (s : State) (p : Nat) : (s.applySelect p).fab.reported = s.fab.reported := by
  simp [State.applySelect]

@[simp] theorem State.takePreset_reported (s : State) (p : Nat) : (s.takePreset p).fab.reported = s.fab.reported := by
  simp [State.takePreset]

@[simp] theorem State.startStep_reported (s : State) (p inc : Nat) : (s.startStep p inc).fab.reported = s.fab.reported := by
  simp [State.startStep]

/-! ## Cue sheets -/

@[simp] theorem State.setReady_reported (s : State) (x : Part) (e : CueEntry) (bad : List Nat) :
    (s.setReady x e bad).fab.reported = s.fab.reported := by
  simp [State.setReady]

@[simp] theorem State.poisonEntry_reported (s : State) (p u : Nat) (e : CueEntry) (cause : Byte) :
    (s.poisonEntry p u e cause).fab.reported = s.fab.reported := by
  simp [State.poisonEntry]

/-! ## Casting calls -/

@[simp] theorem State.segsOut_reported (s : State) (p : Nat) (c : CastCall) (phase round : Nat) (f : Nat → Nat × List Byte) :
    (s.segsOut p c phase round f).1.fab.reported = s.fab.reported := by
  simp [State.segsOut]

@[simp] theorem State.setCall_reported (s : State) (p : Nat) (c : CastCall) : (s.setCall p c).fab.reported = s.fab.reported := by
  simp [State.setCall]

@[simp] theorem State.sendCounts_reported (s : State) (p : Nat) (c : CastCall) : (s.sendCounts p c).1.fab.reported = s.fab.reported := by
  simp [State.sendCounts]

@[simp] theorem State.selectExperts_reported (s : State) (p : Nat) (c : CastCall) (gs : List (Nat × Segment)) :
    (s.selectExperts p c gs).fab.reported = s.fab.reported := by
  simp [State.selectExperts]

@[simp] theorem State.sendOffers_reported (s : State) (p : Nat) (c : CastCall) (round : Nat) (offers : List (Nat × Nat)) :
    (s.sendOffers p c round offers).1.fab.reported = s.fab.reported := by
  simp [State.sendOffers]

@[simp] theorem State.offerWeight_reported (s : State) (c : CastCall) (e : Nat) (b : W32) :
    (s.offerWeight c e b).1.fab.reported = s.fab.reported := by
  unfold State.offerWeight
  split <;> simp

@[simp] theorem State.takeOffers_reported (s : State) (c : CastCall) (slot e : Nat) (mine : List (Nat × W32)) :
    (s.takeOffers c slot e mine).1.fab.reported = s.fab.reported := by
  refine foldl_fst_reported (fun a o => ?_) ..
  dsimp only
  split <;> simp

@[simp] theorem State.reofferCount_reported (s : State) (c : CastCall) (lost : List (Nat × Nat)) :
    (s.reofferCount c lost).1.fab.reported = s.fab.reported := by
  simp only [State.reofferCount]
  split <;> simp

@[simp] theorem State.answerOffers_reported (s : State) (p : Nat) (c : CastCall) (gs : List (Nat × Segment)) :
    (s.answerOffers p c gs).fab.reported = s.fab.reported := by
  simp [State.answerOffers]

@[simp] theorem State.settleOthers_reported (s : State) (c : CastCall) : (s.settleOthers c).1.fab.reported = s.fab.reported := by
  refine foldl_fst_reported (fun a e => ?_) ..
  dsimp only
  split <;> simp

@[simp] theorem State.writeAssigns_reported (s : State) (p : Nat) (c : CastCall) :
    (s.writeAssigns p c).fab.reported = s.fab.reported := by
  simp [State.writeAssigns]

@[simp] theorem State.gatherCounts_reported (s : State) (p : Nat) (c : CastCall) (gs : List (Nat × Segment)) :
    (s.gatherCounts p c gs).fab.reported = s.fab.reported := by
  simp [State.gatherCounts]

@[simp] theorem State.endCall_reported (s : State) (p : Nat) (c : CastCall) : (s.endCall p c).fab.reported = s.fab.reported := by
  simp only [State.endCall]
  split <;> simp

@[simp] theorem State.callSettle_reported (s : State) (p : Nat) : (s.callSettle p).fab.reported = s.fab.reported := by
  unfold State.callSettle
  split <;> simp

theorem State.callStep_reported (s : State) (p : Nat) (c : CastCall) {u : State} (h : s.callStep p c = some u) :
    u.fab.reported = s.fab.reported := by
  unfold State.callStep at h
  split at h
  all_goals simp only [Option.map_eq_some_iff, reduceCtorEq] at h
  all_goals obtain ⟨gs, -, rfl⟩ := h
  all_goals repeat' split
  all_goals simp

@[simp] theorem State.callRun_reported (s : State) (p : Nat) (n : Nat) : (s.callRun p n).fab.reported = s.fab.reported := by
  induction n generalizing s with
  | zero => rfl
  | succ n ih =>
    unfold State.callRun
    split
    · rfl
    · split
      · next h => rw [ih, State.callStep_reported _ _ _ h]
      · simp

@[simp] theorem State.callTake_reported (s : State) (p : Nat) (g : Segment) : (s.callTake p g).fab.reported = s.fab.reported := by
  unfold State.callTake
  split <;> simp

@[simp] theorem State.segArrive_reported (s : State) (p : Nat) (r : FabReq) (g : Segment) :
    (s.segArrive p r g).fab.reported = s.fab.reported := by
  simp only [State.segArrive]
  repeat' split
  all_goals simp

@[simp] theorem State.rowsUse_reported (s : State) (p : Nat) (c : CastCall) (a : CollRun) (r : FabReq) (g : Segment) :
    (s.rowsUse p c a r g).fab.reported = s.fab.reported := by
  simp only [State.rowsUse]
  repeat' split
  all_goals simp

@[simp] theorem State.rowsTake_reported (s : State) (p : Nat) (r : FabReq) (g : Segment) :
    (s.rowsTake p r g).fab.reported = s.fab.reported := by
  simp only [State.rowsTake]
  split <;> simp

@[simp] theorem State.rowsArrive_reported (s : State) (p : Nat) (r : FabReq) (g : Segment) :
    (s.rowsArrive p r g).fab.reported = s.fab.reported := by
  simp [State.rowsArrive]

/-! ## The dimmer -/

@[simp] theorem State.limits_reported (s : State) : s.limits.fab.reported = s.fab.reported := by
  simp [State.limits]

@[simp] theorem State.setRequest_reported (s : State) (c : BitVec 12) (n : Nat) : (s.setRequest c n).fab.reported = s.fab.reported := by
  simp [State.setRequest]

@[simp] theorem State.sendCues_reported (s : State) (force : Bool) : (s.sendCues force).fab.reported = s.fab.reported := by
  unfold State.sendCues
  split <;> simp

@[simp] theorem State.request_reported (s : State) (lower : Bool) : (s.request lower).fab.reported = s.fab.reported := by
  simp only [State.request]
  repeat' split
  all_goals simp

@[simp] theorem State.commandVolts_reported (s : State) (step : Nat) : (s.commandVolts step).fab.reported = s.fab.reported := by
  simp [State.commandVolts]

@[simp] theorem State.startRaise_reported (s : State) (n : Nat) : (s.startRaise n).fab.reported = s.fab.reported := by
  simp [State.startRaise]

@[simp] theorem State.cancelRaise_reported (s : State) : s.cancelRaise.fab.reported = s.fab.reported := by
  simp [State.cancelRaise]

@[simp] theorem State.steer_reported (s : State) : s.steer.fab.reported = s.fab.reported := by
  unfold State.steer
  split <;> simp

@[simp] theorem State.blackoutFor_reported (s : State) (reason : Nat) (on : Bool) :
    (s.blackoutFor reason on).fab.reported = s.fab.reported := by
  simp [State.blackoutFor]

@[simp] theorem State.noteReason_reported (s : State) (n : Nat) : (s.noteReason n).fab.reported = s.fab.reported := by
  simp [State.noteReason]

@[simp] theorem State.bindReasons_reported (s : State) : s.bindReasons.fab.reported = s.fab.reported := by
  simp [State.bindReasons]

@[simp] theorem State.slewMark_reported (s : State) (i : Nat) : (s.slewMark i).fab.reported = s.fab.reported := by
  simp [State.slewMark]

@[simp] theorem State.slewOn_reported (s : State) : s.slewOn.fab.reported = s.fab.reported := by
  simp only [State.slewOn]
  repeat' split
  all_goals simp

@[simp] theorem State.setBlackout_reported (s : State) (estimate : Bool) : (s.setBlackout estimate).fab.reported = s.fab.reported := by
  simp [State.setBlackout]

@[simp] theorem State.reassess_reported (s : State) (estimate : Bool) : (s.reassess estimate).fab.reported = s.fab.reported := by
  simp [State.reassess]

@[simp] theorem State.repermit_reported (s : State) : s.repermit.fab.reported = s.fab.reported := by
  simp [State.repermit]

@[simp] theorem State.slewWrite_reported (s : State) : s.slewWrite.fab.reported = s.fab.reported := by
  simp only [State.slewWrite]
  repeat' split
  all_goals simp

@[simp] theorem State.lockBarrier_reported (s : State) (p : Nat) : (s.lockBarrier p).fab.reported = s.fab.reported := by
  simp [State.lockBarrier]

@[simp] theorem State.lockCommitted_reported (s : State) : s.lockCommitted.fab.reported = s.fab.reported := by
  simp [State.lockCommitted]

@[simp] theorem State.lockForget_reported (s : State) (c : BitVec 12) : (s.lockForget c).fab.reported = s.fab.reported := by
  simp [State.lockForget]

@[simp] theorem State.takeCue_reported (s : State) (src : BitVec 12) (w : Nat) : (s.takeCue src w).fab.reported = s.fab.reported := by
  simp [State.takeCue]

/-! ## Ports -/

@[simp] theorem State.lasers_reported (s : State) : s.lasers.fab.reported = s.fab.reported := by
  simp [State.lasers]

@[simp] theorem State.toPhase_reported (s : State) (n : Nat) (ph : PortPhase) : (s.toPhase n ph).fab.reported = s.fab.reported := by
  simp [State.toPhase]

@[simp] theorem State.train_reported (s : State) (n : Nat) : (s.train n).fab.reported = s.fab.reported := by
  simp [State.train]

@[simp] theorem State.toRetrain_reported (s : State) (n : Nat) : (s.toRetrain n).fab.reported = s.fab.reported := by
  simp [State.toRetrain]

@[simp] theorem State.flitsAgain_reported (s : State) (n : Nat) : (s.flitsAgain n).fab.reported = s.fab.reported := by
  simp [State.flitsAgain]

@[simp] theorem State.pumpPort_reported (s : State) (n : Nat) : (s.pumpPort n).fab.reported = s.fab.reported := by
  simp [State.pumpPort]

@[simp] theorem State.checkPort_reported (s : State) (n : Nat) : (s.checkPort n).fab.reported = s.fab.reported := by
  simp [State.checkPort]

@[simp] theorem State.retired_reported (s : State) (r : FaultRec) : (s.retired r).fab.reported = s.fab.reported := by
  simp [State.retired]

@[simp] theorem State.retireHalves_reported (s : State) (n : Nat) (mask : BitVec 2) :
    (s.retireHalves n mask).fab.reported = s.fab.reported := by
  simp [State.retireHalves]

@[simp] theorem State.relight_reported (s : State) (n : Nat) : (s.relight n).fab.reported = s.fab.reported := by
  simp [State.relight]

@[simp] theorem State.withdraw_reported (s : State) (tierD : Bool) (x : Nat) (n : Nat) :
    (s.withdraw tierD x n).fab.reported = s.fab.reported := by
  induction n generalizing s with
  | zero => rfl
  | succ n ih =>
    unfold State.withdraw
    dsimp only
    split
    · rfl
    · split
      · rfl
      · simp [ih]

@[simp] theorem State.retireChannel_reported (s : State) (tierD : Bool) (x : Nat) :
    (s.retireChannel tierD x).fab.reported = s.fab.reported := by
  simp [State.retireChannel]

@[simp] theorem State.coreLost_reported (s : State) (c p : Nat) : (s.coreLost c p).fab.reported = s.fab.reported := by
  simp only [State.coreLost]
  repeat' split
  all_goals simp

@[simp] theorem State.retireCore_reported (s : State) (c : Nat) : (s.retireCore c).fab.reported = s.fab.reported := by
  simp [State.retireCore]

@[simp] theorem State.retireSite_reported (s : State) (x : Site) : (s.retireSite x).fab.reported = s.fab.reported := by
  unfold State.retireSite
  split <;> simp

/-! ## The store -/

@[simp] theorem State.storeJob_reported (s : State) (j : StoreJob) : (s.storeJob j).fab.reported = s.fab.reported := by
  simp [State.storeJob]

theorem State.storeCmd_reported (s : State) (w : Nat) {u : State} (h : s.storeCmd w = .ok u) : u.fab.reported = s.fab.reported := by
  simp only [State.storeCmd] at h
  repeat' split at h
  all_goals simp only [Except.ok.injEq, reduceCtorEq] at h
  all_goals subst h
  all_goals simp

theorem State.storeSave_reported (s : State) (sub : Nat) (restore : Bool) {u : State} (h : s.storeSave sub restore = .ok u) :
    u.fab.reported = s.fab.reported := by
  unfold State.storeSave at h
  repeat' split at h
  all_goals cases h
  all_goals simp

theorem State.storeOwner_reported (s : State) (r : List Byte) {u : State} (h : s.storeOwner r = .ok u) :
    u.fab.reported = s.fab.reported := by
  unfold State.storeOwner at h
  repeat' split at h
  all_goals cases h
  all_goals simp

/-! ## Wings -/

@[simp] theorem State.wingWrite_reported (s : State) (idx sub off : Nat) (d : List Byte) :
    (s.wingWrite idx sub off d).fab.reported = s.fab.reported := by
  simp [State.wingWrite]

@[simp] theorem State.emptyWings_reported (s : State) (held : List (Nat × Nat)) : (s.emptyWings held).fab.reported = s.fab.reported := by
  simp [State.emptyWings]

@[simp] theorem State.adoptPart_reported (s : State) (p : Nat) : (s.adoptPart p).fab.reported = s.fab.reported := by
  simp only [State.adoptPart]
  split <;> simp

@[simp] theorem State.adoptLinks_reported (s : State) : s.adoptLinks.fab.reported = s.fab.reported := by
  simp [State.adoptLinks]

@[simp] theorem State.adoptPreset_reported (s : State) (p : Nat) : (s.adoptPreset p).fab.reported = s.fab.reported := by
  simp [State.adoptPreset]

@[simp] theorem State.adopt_reported (s : State) (e : Nat × Nat) : (s.adopt e).fab.reported = s.fab.reported := by
  simp only [State.adopt]
  split <;> simp

theorem State.curtain_reported (s : State) (v : Nat) {u : State} (h : s.curtain v = .ok u) : u.fab.reported = s.fab.reported := by
  simp only [State.curtain] at h
  split at h
  · cases h
  · cases h
    simp

/-- A curtain that is refused keeps them too. -/
theorem State.curtain_refused_reported (s : State) (v : Nat) {u : State} (h : s.curtain v = .error u) :
    u.fab.reported = s.fab.reported := by
  simp only [State.curtain] at h
  split at h
  · cases h
    simp
  · cases h

/-! ## The dictionary, written -/

theorem State.keep_reported (s : State) (idx sub off : Nat) (d : List Byte) {u : State} (h : s.keep idx sub off d = .ok u) :
    u.fab.reported = s.fab.reported := by
  cases h
  simp

theorem State.ranged_reported (s : State) (idx sub : Nat) (d : List Byte) (lo hi : Nat) (f : State → State) {u : State} (hf : ∀ t, (f
    t).fab.reported = t.fab.reported) (h : s.ranged idx sub d lo hi f = .ok u) :
    u.fab.reported = s.fab.reported := by
  simp only [State.ranged] at h
  split at h
  · cases h
  · split at h <;> cases h
    simp [hf]

theorem State.resume_reported (s : State) (v : Nat) {u : State} (h : s.resume v = .ok u) : u.fab.reported = s.fab.reported := by
  unfold State.resume at h
  repeat' split at h
  all_goals cases h
  all_goals simp

theorem State.clearLayer_reported (s : State) (p v : Nat) {u : State} (h : s.clearLayer p v = .ok u) :
    u.fab.reported = s.fab.reported := by
  unfold State.clearLayer at h
  repeat' split at h
  all_goals cases h
  all_goals simp

theorem State.ucodeGo_reported (s : State) (mask : Nat) {u : State} (h : s.ucodeGo mask = .ok u) : u.fab.reported = s.fab.reported := by
  unfold State.ucodeGo at h
  repeat' split at h
  all_goals cases h
  all_goals simp

theorem State.portRetrain_reported (s : State) (n v : Nat) {u : State} (h : s.portRetrain n v = .ok u) :
    u.fab.reported = s.fab.reported := by
  unfold State.portRetrain at h
  repeat' split at h
  all_goals cases h
  all_goals simp

@[simp] theorem State.budgets_reported (s : State) (off : Nat) (d : List Byte) : (s.budgets off d).fab.reported = s.fab.reported := by
  simp [State.budgets]

@[simp] theorem State.takeNonce_reported (s : State) (d : List Byte) : (s.takeNonce d).fab.reported = s.fab.reported := by
  simp [State.takeNonce]

theorem State.stage_reported (s : State) (off : Nat) (d : List Byte) {u : State} (h : s.stage off d = .ok u) :
    u.fab.reported = s.fab.reported := by
  unfold State.stage at h
  repeat' split at h
  all_goals cases h
  all_goals simp

theorem State.liveCan_reported (s : State) (idx sub : Nat) (d : List Byte) {u : State} (h : s.liveCan idx sub d = .ok u) :
    u.fab.reported = s.fab.reported := by
  simp only [State.liveCan] at h
  split at h
  · split at h <;> cases h
    rfl
  · split at h
    · split at h
      · cases h
      · split at h <;> split at h
        · cases h
        · exact State.storeSave_reported _ _ _ h
        · cases h
        · exact State.storeSave_reported _ _ _ h
    · split at h
      · split at h
        · cases h
        · exact State.keep_reported _ _ _ _ _ h
      · split at h
        · split at h
          · exact State.keep_reported _ _ _ _ _ h
          · cases h
        · split at h
          · exact State.ranged_reported _ _ _ _ _ _ _ (fun _ => rfl) h
          · exact State.keep_reported _ _ _ _ _ h

/-- What comes of a write of the dictionary keeps the packages reported, whether it was taken or refused. -/
def State.KeepsReported (s : State) : Except (State × W32) State → Prop
  | .ok t => t.fab.reported = s.fab.reported
  | .error e => e.1.fab.reported = s.fab.reported

/-- A write that answers a state or an abort code refuses with the state as it was. -/
theorem State.keepsReported_lift {s : State} {r : Except W32 State} : (∀ u, r = .ok u → u.fab.reported = s.fab.reported) →
    s.KeepsReported (match r with | .ok t => .ok t | .error e => .error (s, e)) := by
  intro h
  cases r with
  | ok t => exact h t rfl
  | error e => rfl

theorem State.live_reported (s : State) (scope : Option Nat) (idx sub off : Nat) (d : List Byte) :
    s.KeepsReported (s.live scope idx sub off d) := by
  unfold State.live
  dsimp only
  split
  · split
    · exact State.keepsReported_lift fun _ => State.ranged_reported _ _ _ _ _ _ _ (fun t => by simp)
    · split
      · exact State.keepsReported_lift fun _ => State.ranged_reported _ _ _ _ _ _ _ (fun t => by simp)
      · exact State.keepsReported_lift fun _ => State.ranged_reported _ _ _ _ _ _ _ (fun t => by simp)
  · split
    · exact State.keepsReported_lift fun _ => State.resume_reported _ _
    · exact State.keepsReported_lift fun _ => State.ranged_reported _ _ _ _ _ _ _ (fun t => by simp)
  · exact State.keepsReported_lift fun _ => State.clearLayer_reported _ _ _
  · split
    · exact State.keepsReported_lift fun _ => State.ucodeGo_reported _ _
    · exact State.keepsReported_lift fun _ => State.keep_reported _ _ _ _ _
  · exact State.keepsReported_lift fun _ => State.portRetrain_reported _ _ _
  · split
    · rfl
    · split
      · split
        · next h => exact State.curtain_reported _ _ h
        · next h => exact State.curtain_refused_reported _ _ h
      · exact State.emptyWings_reported _ _
  · exact State.keepsReported_lift fun _ => State.stage_reported _ _ _
  · exact State.keepsReported_lift fun _ => State.storeCmd_reported _ _
  · exact State.keepsReported_lift fun _ => State.storeOwner_reported _ _
  · exact State.takeNonce_reported _ _
  · exact State.budgets_reported _ _ _
  · split
    · split
      · exact (State.jobFault_sameHouse ..).1
      · rfl
    · split
      · exact State.keepsReported_lift fun _ => State.liveCan_reported _ _ _ _
      · exact State.keepsReported_lift fun _ => State.keep_reported _ _ _ _ _

theorem State.idle_reported (s : State) (idx sub : Nat) (d : List Byte) {u : State} (h : s.idle idx sub d = .ok u) :
    u.fab.reported = s.fab.reported := by
  unfold State.idle at h
  repeat' split at h
  all_goals cases h
  all_goals simp

@[simp] theorem State.dictWrite_reported (s : State) (scope : Option Nat) (x : OdAddr) (d : List Byte) :
    (s.dictWrite scope x d).1.fab.reported = s.fab.reported := by
  simp only [State.dictWrite]
  split
  · simp
  · split
    · split <;> simp
    · split
      · simp
      · split
        · next h => exact State.idle_reported _ _ _ _ h
        · simp
    · split
      · simp
      · split
        · next h => exact (congrArg s.KeepsReported h).mp (s.live_reported ..)
        · next t e h =>
          have hrefused : t.fab.reported = s.fab.reported := (congrArg s.KeepsReported h).mp (s.live_reported ..)
          simp [hrefused]

@[simp] theorem State.dictRead_reported (s : State) (scope : Option Nat) (x : OdAddr) (n : Option Nat) (wings : Bool) :
    (s.dictRead scope x n wings).1.fab.reported = s.fab.reported := by
  unfold State.dictRead
  split <;> simp

/-! ## Mailboxes -/

@[simp] theorem State.mbxDone_reported (s : State) (m : Nat) (ab : W32) (count : Nat) :
    (s.mbxDone m ab count).fab.reported = s.fab.reported := by
  simp [State.mbxDone]

@[simp] theorem State.mbxPerform_reported (s : State) (m op : Nat) : (s.mbxPerform m op).fab.reported = s.fab.reported := by
  simp only [State.mbxPerform]
  repeat' split
  all_goals simp

@[simp] theorem State.mbxGo_reported (s : State) (m op : Nat) (seq : W32) : (s.mbxGo m op seq).fab.reported = s.fab.reported := by
  simp [State.mbxGo]

@[simp] theorem State.mbxStore_reported (s : State) (m off : Nat) (d : List Byte) :
    (s.mbxStore m off d).fab.reported = s.fab.reported := by
  simp [State.mbxStore]

/-! ## Accesses at home -/

@[simp] theorem State.apertureWrite_reported (s : State) (f : Nat) (v : W64) : (s.apertureWrite f v).fab.reported = s.fab.reported := by
  simp [State.apertureWrite]

@[simp] theorem State.ctlWrite_reported (s : State) (v : W64) (r : CtlReg) : (s.ctlWrite v r).fab.reported = s.fab.reported := by
  simp only [State.ctlWrite]
  repeat' split
  all_goals simp

@[simp] theorem State.ctlStore_reported (s : State) (o : Nat) (d : List Byte) : (s.ctlStore o d).fab.reported = s.fab.reported := by
  simp [State.ctlStore]

@[simp] theorem State.homeRead_reported (s : State) (p : Nat) (reader : List Nat) (l n : Nat) :
    (s.homeRead p reader l n).1.fab.reported = s.fab.reported := by
  simp only [State.homeRead]
  repeat' split
  all_goals simp

@[simp] theorem State.putHere_reported (s : State) (l : Nat) (d : List Byte) (input : Nat) :
    (s.putHere l d input).fab.reported = s.fab.reported := by
  simp [State.putHere]

@[simp] theorem State.homeGo_reported (s : State) (p : Nat) (reader : List Nat) (l : Nat) (o : HomeOp) (input : Nat) :
    (s.homeGo p reader l o input).1.fab.reported = s.fab.reported := by
  unfold State.homeGo
  split
  · split <;> rename_i h <;> simp [reported_of_eq h]
  · simp
  · dsimp only
    split
    · next h => split <;> simp [reported_of_eq h]
    · next h => simp [reported_of_eq h]
    · next h => simp [reported_of_eq h]

@[simp] theorem State.homeTry_reported (s : State) (p : Nat) (reader : List Nat) (except : Option Nat) (l : Nat) (o : HomeOp) (act :
    HomeAct) :
    (s.homeTry p reader except l o act).1.fab.reported = s.fab.reported := by
  simp only [State.homeTry]
  split <;> simp

@[simp] theorem State.touched_reported (s : State) (k : Nat) (ps : List (Nat × Nat)) :
    (s.touched k ps).fab.reported = s.fab.reported := by
  unfold State.touched
  split <;> simp

@[simp] theorem State.threadEnd_reported (s : State) (t : Tid) (x : RelAccess) (out : HomeOut) :
    (s.threadEnd t x out).fab.reported = s.fab.reported := by
  simp only [State.threadEnd]
  repeat' split
  all_goals simp

/-! ## Requests of other packages -/

@[simp] theorem State.refuseReq_reported (s : State) : (s.refuseReq).1.fab.reported = s.fab.reported := by
  simp [State.refuseReq]

@[simp] theorem State.logAtom_reported (s : State) (r : FabReq) (st : Byte) (v : W64) :
    (s.logAtom r st v).fab.reported = s.fab.reported := by
  simp [State.logAtom]

@[simp] theorem State.answer_reported (s : State) (op : Nat) (r : FabReq) (st : Byte) (body : List Byte) :
    (s.answer op r st body).fab.reported = s.fab.reported := by
  simp [State.answer]

@[simp] theorem State.hostStored_reported (s : State) (f a : Nat) (st : Byte) : (s.hostStored f a st).fab.reported = s.fab.reported := by
  simp [State.hostStored]

@[simp] theorem State.hostLoaded_reported (s : State) (f id pos a : Nat) (st : Byte) (body : List Byte) :
    (s.hostLoaded f id pos a st body).fab.reported = s.fab.reported := by
  simp [State.hostLoaded]

@[simp] theorem State.keepAct_reported (s : State) (a : HomeAct) : (s.keepAct a).fab.reported = s.fab.reported := by
  simp [State.keepAct]

@[simp] theorem State.orphanDone_reported (s : State) (x : RelAccess) : (s.orphanDone x).fab.reported = s.fab.reported := by
  unfold State.orphanDone
  split <;> simp

@[simp] theorem State.homeDone_reported (s : State) (act : HomeAct) : (s.homeDone act).fab.reported = s.fab.reported := by
  unfold State.homeDone
  split
  · split
    · split <;> simp
    · simp
  · simp
  · rfl
  · split <;> rename_i h <;> simp [reported_of_eq h]
  · split <;> rename_i h <;> simp [reported_of_eq h]
  · split <;> rename_i h <;> simp [reported_of_eq h]
  · simp

@[simp] theorem State.acknowledge_reported (s : State) (f : Nat × Nat → Option (Nat × Nat)) :
    (s.acknowledge f).fab.reported = s.fab.reported := by
  simp [State.acknowledge]

/-- Mailboxes that a store reaches are claimed for its source (Table 10-7). -/
theorem foldl_claim_reported (s : State) (o n : Nat) (src : BitVec 12) (boxes : List Nat) : (boxes.foldl (fun s m =>
    if overlap (m * 0x10000 + 0x10) 8 o n then s.setMailbox m { s.mailbox m with claim := some src } else s) s).fab.reported =
    s.fab.reported := by
  refine foldl_reported (fun t m => ?_) ..
  split <;> rfl

@[simp] theorem State.mailboxReq_reported (s : State) (op : Nat) (r : FabReq) : (s.mailboxReq op r).1.fab.reported = s.fab.reported := by
  unfold State.mailboxReq
  dsimp only
  generalize r.addr.toNat - baseCtl = o
  split
  · exact State.refuseReq_reported s
  · split
    · rfl
    · exact (State.ctlStore_reported ..).trans (foldl_claim_reported ..)

/-! ## Lost packages -/

@[simp] theorem State.forgetLines_reported (s : State) (c : BitVec 12) : (s.forgetLines c).fab.reported = s.fab.reported := by
  simp [State.forgetLines]

@[simp] theorem State.endShared_reported (s : State) (c : BitVec 12) : (s.endShared c).fab.reported = s.fab.reported := by
  refine foldl_reported (fun s e => ?_) ..
  refine (foldl_reported (fun s g => ?_) ..).trans ?_
  · split <;> simp
  · split
    · split <;> simp
    · rfl

@[simp] theorem State.loseTasks_reported (s : State) (c : BitVec 12) : (s.loseTasks c).fab.reported = s.fab.reported := by
  refine foldl_reported (fun s e => ?_) ..
  split
  · rfl
  · split <;> simp

@[simp] theorem State.loseEntries_reported (s : State) (c : BitVec 12) : (s.loseEntries c).fab.reported = s.fab.reported := by
  refine foldl_reported (fun s x => ?_) ..
  split
  · rfl
  · refine foldl_reported (fun s e => ?_) ..
    split <;> simp

@[simp] theorem State.loseCoord_reported (s : State) (c : BitVec 12) : (s.loseCoord c).fab.reported = s.fab.reported := by
  simp [State.loseCoord]

@[simp] theorem State.takeRoute_reported (s : State) (c : BitVec 12) (e : W64) : (s.takeRoute c e).fab.reported = s.fab.reported := by
  simp [State.takeRoute]

@[simp] theorem State.spreadRoute_reported (s : State) (c : BitVec 12) (e : W64) : (s.spreadRoute c e).fab.reported = s.fab.reported := by
  simp [State.spreadRoute]

@[simp] theorem State.declareLost_reported (s : State) (c : BitVec 12) (halted : Bool) :
    (s.declareLost c halted).fab.reported = s.fab.reported := by
  simp [State.declareLost]

@[simp] theorem State.assume_reported (s : State) (r : FabReq) : (s.assume r).fab.reported = s.fab.reported := by
  simp [State.assume]

/-! ## Held accesses -/

@[simp] theorem State.serveInval_reported (s : State) (v : Serving) : (s.serveInval v).fab.reported = s.fab.reported := by
  simp [State.serveInval]

@[simp] theorem State.controlReq_reported (s : State) (op : Nat) (r : FabReq) : (s.controlReq op r).1.fab.reported = s.fab.reported := by
  simp only [State.controlReq]
  repeat' split
  all_goals simp

@[simp] theorem State.accessReq_reported (s : State) (op : Nat) (r : FabReq) : (s.accessReq op r).1.fab.reported = s.fab.reported := by
  simp only [State.accessReq]
  split
  · simp
  · split
    · simp
    · split
      · rfl
      · split
        · next h =>
          split
          · split <;> simp [reported_of_eq h]
          · simp [reported_of_eq h]
        · next h => simp [reported_of_eq h]
        · next h => simp [reported_of_eq h]

@[simp] theorem State.freshAtom_reported (s : State) (op : Nat) (r : FabReq) (p : Peer) :
    (s.freshAtom op r p).1.fab.reported = s.fab.reported := by
  unfold State.freshAtom
  split <;> simp

@[simp] theorem State.atomReq_reported (s : State) (op : Nat) (r : FabReq) : (s.atomReq op r).1.fab.reported = s.fab.reported := by
  simp only [State.atomReq]
  repeat' split
  all_goals simp

@[simp] theorem State.collReq_reported (s : State) (r : FabReq) : (s.collReq r).fab.reported = s.fab.reported := by
  unfold State.collReq
  split <;> simp

@[simp] theorem State.performReq_reported (s : State) (op : Nat) (r : FabReq) : (s.performReq op r).1.fab.reported = s.fab.reported := by
  simp only [State.performReq]
  repeat' split
  all_goals simp

@[simp] theorem State.takeReq_reported (s : State) (op : Nat) (r : FabReq) (first : Bool) :
    (s.takeReq op r first).fab.reported = s.fab.reported := by
  unfold State.takeReq
  split <;> rename_i h <;> simp [reported_of_eq h]

@[simp] theorem State.hostStore_reported (s : State) (f a : Nat) (d : List Byte) : (s.hostStore f a d).fab.reported = s.fab.reported := by
  simp only [State.hostStore]
  split
  · simp
  · split
    · simp
    · split <;> rename_i h <;> simp [reported_of_eq h]

@[simp] theorem State.hostLoad_reported (s : State) (f id pos a n : Nat) : (s.hostLoad f id pos a n).fab.reported = s.fab.reported := by
  simp only [State.hostLoad]
  split
  · simp
  · split
    · simp
    · split <;> rename_i h <;> simp [reported_of_eq h]

@[simp] theorem State.hostRefused_reported (s : State) (f : Nat) : (s.hostRefused f).fab.reported = s.fab.reported := by
  simp [State.hostRefused]

@[simp] theorem State.hostPut_reported (s : State) (f a : Nat) (d : List Byte) : (s.hostPut f a d).fab.reported = s.fab.reported := by
  unfold State.hostPut
  split
  · simp
  · split
    · simp
    · simp
    · split
      · simp
      · split <;> rename_i h <;> simp [reported_of_eq h]

@[simp] theorem State.hostGet_reported (s : State) (f id pos a n : Nat) : (s.hostGet f id pos a n).fab.reported = s.fab.reported := by
  unfold State.hostGet
  split
  · simp
  · split
    · simp
    · simp
    · split <;> rename_i h <;> simp [reported_of_eq h]

@[simp] theorem State.actAgain_reported (s : State) (a : HomeAct) : (s.actAgain a).fab.reported = s.fab.reported := by
  unfold State.actAgain
  split <;> simp

@[simp] theorem State.releaseHeld_reported (s : State) : s.releaseHeld.fab.reported = s.fab.reported := by
  simp [State.releaseHeld]

end Sys2Proof.Machine

/-! Responses, resends, lost packages and switch-ins (O49): fields of a route, a response to one request, a request that is sent again
or given up, the loss of a package and the end of a switch-in (R36, R44, R78, R257, R262, R341). -/

namespace Sys2Proof.SMap

theorem sorted_set {α : Type} [DecidableEq α] (d : α) (k : Nat) (x : α) {m : SMap α} (h : sorted m = true) :
    sorted (set d m k x) = true := by
  unfold set
  split
  · exact sortedFrom_del k h
  · exact sortedFrom_put x (Nat.zero_le k) h

end Sys2Proof.SMap

namespace Sys2Proof.Machine

open Sys2Proof

/-! ## Fields of a word -/

theorem mul_add_lt_mul {a b c d : Nat} (ha : a < c) (hb : b < d) : a * d + b < c * d :=
  calc a * d + b < (a + 1) * d := by rw [Nat.succ_mul]; omega
    _ ≤ c * d := Nat.mul_le_mul_right d ha

section Field
variable {w : Nat} (x : BitVec w) {hi lo : Nat} (v : Nat)

/-- The number of a word with a field replaced: what lies above the field, the field, and what lies below it. -/
theorem setFld_toNat (hlo : lo ≤ hi) (hhi : hi < w) : (setFld x hi lo v).toNat =
    (x.toNat / 2 ^ (hi + 1) * 2 ^ (hi + 1 - lo) + v % 2 ^ (hi + 1 - lo)) * 2 ^ lo + x.toNat % 2 ^ lo := by
  obtain ⟨k, hk⟩ : ∃ k, hi + 1 = lo + k := ⟨hi + 1 - lo, by omega⟩
  obtain ⟨m, hm⟩ : ∃ m, w = lo + k + m := ⟨w - (hi + 1), by omega⟩
  have hx : x.toNat < 2 ^ lo * 2 ^ k * 2 ^ m := by rw [← Nat.pow_add, ← Nat.pow_add, ← hm]; exact x.isLt
  have hdiv : x.toNat / 2 ^ lo = x.toNat / (2 ^ lo * 2 ^ k) * 2 ^ k + x.toNat / 2 ^ lo % 2 ^ k := by
    rw [← Nat.div_div_eq_div_mul, Nat.div_add_mod']
  have hnum : x.toNat = (x.toNat / (2 ^ lo * 2 ^ k) * 2 ^ k + x.toNat / 2 ^ lo % 2 ^ k) * 2 ^ lo + x.toNat % 2 ^ lo := by
    rw [← hdiv, Nat.div_add_mod']
  have hsum : x.toNat - x.toNat / 2 ^ lo % 2 ^ k * 2 ^ lo + v % 2 ^ k * 2 ^ lo =
      (x.toNat / (2 ^ lo * 2 ^ k) * 2 ^ k + v % 2 ^ k) * 2 ^ lo + x.toNat % 2 ^ lo := by
    rw [Nat.add_mul] at hnum ⊢
    omega
  have hlt : (x.toNat / (2 ^ lo * 2 ^ k) * 2 ^ k + v % 2 ^ k) * 2 ^ lo + x.toNat % 2 ^ lo < 2 ^ w := by
    have hw : 2 ^ w = 2 ^ m * 2 ^ k * 2 ^ lo := by rw [← Nat.pow_add, ← Nat.pow_add]; congr 1; omega
    rw [hw]
    exact mul_add_lt_mul (mul_add_lt_mul (Nat.div_lt_of_lt_mul hx) (Nat.mod_lt _ (Nat.two_pow_pos k))) (Nat.mod_lt _ (Nat.two_pow_pos lo))
  simp only [setFld, fld, BitVec.toNat_ofNat, Nat.shiftRight_eq_div_pow, hk, Nat.add_sub_cancel_left, hsum,
    Nat.mod_eq_of_lt hlt, Nat.pow_add]

theorem fld_setFld_self (hlo : lo ≤ hi) (hhi : hi < w) : fld (setFld x hi lo v) hi lo = v % 2 ^ (hi + 1 - lo) := by
  rw [fld, setFld_toNat x v hlo hhi, Nat.shiftRight_eq_div_pow, Nat.add_comm, Nat.add_mul_div_right _ _ (Nat.two_pow_pos lo),
    Nat.div_eq_of_lt (Nat.mod_lt _ (Nat.two_pow_pos lo)), Nat.zero_add, Nat.mul_add_mod_self_right, Nat.mod_mod]

/-- A field above one that is replaced keeps its value. -/
theorem fld_setFld_above (hlo : lo ≤ hi) (hhi : hi < w) {hi' lo' : Nat} (h : hi < lo') :
    fld (setFld x hi lo v) hi' lo' = fld x hi' lo' := by
  obtain ⟨d, rfl⟩ : ∃ d, lo' = hi + 1 + d := ⟨lo' - (hi + 1), by omega⟩
  have hhigh : (setFld x hi lo v).toNat / 2 ^ (hi + 1) = x.toNat / 2 ^ (hi + 1) := by
    have hpow : 2 ^ (hi + 1) = 2 ^ (hi + 1 - lo) * 2 ^ lo := by rw [← Nat.pow_add]; congr 1; omega
    rw [setFld_toNat x v hlo hhi, Nat.add_mul, Nat.mul_assoc, ← hpow, Nat.add_assoc, Nat.add_comm,
      Nat.add_mul_div_right _ _ (Nat.two_pow_pos _), Nat.div_eq_of_lt, Nat.zero_add]
    rw [hpow]
    exact mul_add_lt_mul (Nat.mod_lt _ (Nat.two_pow_pos _)) (Nat.mod_lt _ (Nat.two_pow_pos lo))
  simp only [fld, Nat.shiftRight_eq_div_pow]
  rw [Nat.pow_add, ← Nat.div_div_eq_div_mul, hhigh, Nat.div_div_eq_div_mul]

end Field

theorem routeState_routeWith (e : W64) (state tenure usport : Nat) : routeState (routeWith e state tenure usport) = state % 4 := by
  unfold routeState routeWith
  rw [fld_setFld_above _ _ (by decide) (by decide) (by decide), fld_setFld_self _ _ (by decide) (by decide)]
  rfl

theorem routeTenure_routeWith (e : W64) (state tenure usport : Nat) : routeTenure (routeWith e state tenure usport) = tenure % 16 := by
  unfold routeTenure routeWith
  rw [fld_setFld_above _ _ (by decide) (by decide) (by decide), fld_setFld_above _ _ (by decide) (by decide) (by decide),
    fld_setFld_self _ _ (by decide) (by decide)]
  rfl

theorem routeTenure_lt (e : W64) : routeTenure e < 16 := Nat.mod_lt _ (by decide)

theorem leNat_bytesLE (n v : Nat) : leNat (bytesLE n v) = v % 256 ^ n := by
  induction n generalizing v with
  | zero => simp [bytesLE, leNat, Nat.mod_one]
  | succ n ih =>
    simp only [bytesLE, leNat, ih, BitVec.toNat_ofNat]
    exact (Nat.mod_mul (a := 256)).symm.trans (by rw [Nat.pow_succ'])

/-! ## Counters -/

theorem State.ctr_count {s : State} (h : SMap.sorted s.counters = true) (c d : CtrName) (i j n : Nat) :
    (s.count c i n).ctr d j = if ctrKey d j = ctrKey c i then s.ctr c i + BitVec.ofNat 64 n else s.ctr d j :=
  SMap.get_set _ _ _ _ h

/-- Of the counters an emergency moves at most that of the emergencies dropped. -/
theorem State.emcy_counters (s : State) (e : Emcy) :
    (s.emcy e).counters = s.counters ∨ (s.emcy e).counters = (s.count .emcyDropped).counters := by
  have hmsix (t : State) : (t.msix 0 1).counters = t.counters := by
    unfold State.msix
    dsimp only
    split
    · rfl
    · split <;> rfl
  unfold State.emcy
  dsimp only
  rw [hmsix]
  split
  · exact .inl rfl
  · split
    · exact .inl rfl
    · split
      · exact .inl rfl
      · exact .inr rfl

theorem State.logFault_ctr {s : State} (h : SMap.sorted s.counters = true) (r : FaultRec) {c : CtrName} {i : Nat}
    (hc : ctrKey c i ≠ ctrKey .emcyDropped 0) : (s.logFault r).ctr c i = s.ctr c i := by
  unfold State.ctr
  rcases (s.logOnly r).1.emcy_counters (s.logOnly r).2 with he | he
  · exact congrArg (SMap.get 0#64 · _) he
  · exact (congrArg (SMap.get 0#64 · _) he).trans ((State.ctr_count (s := (s.logOnly r).1) h ..).trans (if_neg hc))

/-! ## What a response and a release leave unchanged -/

/-- s' is s but for the lines of the caches and the draws that chose among them. -/
def State.CacheOnly (s s' : State) : Prop := ∃ lines draws, s' = { s with lines := lines, draws := draws }

theorem State.CacheOnly.trans {s u v : State} (h : s.CacheOnly u) (h' : u.CacheOnly v) : s.CacheOnly v := by
  obtain ⟨_, _, rfl⟩ := h
  obtain ⟨_, _, rfl⟩ := h'
  exact ⟨_, _, rfl⟩

theorem State.evict_cacheOnly (s : State) (die : Nat) : s.CacheOnly (s.evict die) := by
  simp only [State.evict]
  split
  · split <;> exact ⟨_, _, rfl⟩
  · exact ⟨_, _, rfl⟩

theorem State.cacheFill_cacheOnly (s : State) (die line : Nat) (w : W512) : s.CacheOnly (s.cacheFill die line w) := by
  unfold State.cacheFill
  split
  · exact ⟨_, _, rfl⟩
  · split
    · exact ⟨_, _, rfl⟩
    · exact (s.evict_cacheOnly die).trans ⟨_, _, rfl⟩

theorem State.landFill_cacheOnly (s : State) (q : PendReq) (die : Nat) (st : Byte) (body : List Byte) :
    s.CacheOnly (s.landFill q die st body) := by
  simp only [State.landFill]
  split
  · exact ⟨_, _, rfl⟩
  · exact List.foldlRecOn _ _ ⟨_, _, rfl⟩ fun t ht c _ => ht.trans (t.cacheFill_cacheOnly ..)

/-- A failed store of a thread that still runs is kept by it: its worst status (R78). -/
theorem State.storeFail_of_running {s : State} {t : Tid} {k : Option Nat} {x : Thread} (hx : s.thread? t = some x)
    (hk : k = some x.task) (st : Byte) (a : W64) : s.storeFail t k st a = s.setThread t { x with
      failStatus := worst x.failStatus st, farAddr := if x.failStatus = stOk then a else x.farAddr } := by
  simp only [State.storeFail, hx, hk, if_true]

/-- A failed store changes a thread or a task. -/
theorem State.storeFail_frame (s : State) (t : Tid) (k : Option Nat) (st : Byte) (a : W64) :
    (s.storeFail t k st a).fab = s.fab ∧ (s.storeFail t k st a).mem = s.mem := by
  have hlate (k : Option Nat) : (match k with | some k => s.taskStatus k st | none => s).fab = s.fab ∧
      (match k with | some k => s.taskStatus k st | none => s).mem = s.mem := by
    cases k with
    | none => exact ⟨rfl, rfl⟩
    | some k =>
      dsimp only [State.taskStatus]
      split <;> exact ⟨rfl, rfl⟩
  unfold State.storeFail
  dsimp only
  split
  · split
    · exact ⟨rfl, rfl⟩
    · exact hlate k
  · exact hlate k

/-- A thread after a release: it may issue again where an access or the log held it. -/
def Thread.woken (x : Thread) : Thread := if x.wait = .held ∨ x.wait = .log then { x with wait := .ready } else x

theorem Thread.woken_failStatus (x : Thread) : x.woken.failStatus = x.failStatus := by
  unfold Thread.woken
  split <;> rfl

theorem State.wakeHeld_thread? (s : State) (t : Tid) : s.wakeHeld.thread? t = (s.thread? t).map Thread.woken :=
  SMap.find?_mapVals (fun _ => Thread.woken) (tidKey t) s.threads

/-- What a release changes where nothing is held or waits to be sent. -/
structure State.Idled (s s' : State) : Prop where
  mem : s'.mem = s.mem
  pend : s'.fab.pend = s.fab.pend
  thread (t : Tid) : s'.thread? t = (s.thread? t).map Thread.woken

theorem State.releaseHeld_idled {s : State} (hheld : s.fab.held = []) (hjobs : s.fab.jobs = []) (hsendq : s.fab.sendq = []) :
    s.Idled s.releaseHeld := by
  obtain ⟨_, _, h⟩ := State.releaseHeld_of_idle hheld hjobs hsendq
  rw [h]
  exact ⟨rfl, rfl, fun t => State.wakeHeld_thread? _ t⟩

/-! ## Completing a request -/

/-- A request is outstanding no more. -/
def State.unpend (s : State) (q : PendReq) : State := { s with fab := { s.fab with pend := s.fab.pend.filter fun r => !r.same q } }

theorem State.unpend_pend (s : State) (q : PendReq) : ∀ p ∈ (s.unpend q).fab.pend, p.same q = false := fun p hp => by
  simpa using (List.mem_filter.mp hp).2

/-- A request that is neither a posted OC0 store nor fails its class completes alone. -/
theorem State.complete_alone {s : State} {q : PendReq} {st : Byte} (h : q.req.cls ≠ 0 ∨ q.op ≠ 2 ∧ st ≠ stLost) (body : List Byte) :
    s.complete q st body = (s.unpend q).deliver q st body := by
  unfold State.complete
  dsimp only
  rw [if_neg (by tauto), if_neg (by tauto)]
  rfl

/-! ## RESPONSE -/

/-- A response is taken: the fabric is up, it came in at a port that is UP, and it is for this package. -/
structure State.Answers (s : State) (r : FabResp) : Prop where
  up : s.fabricUp = true
  port : (s.port r.port.val).phase = .up
  cool : s.coolantHeld = false
  here : r.dest = none
  ack : r.nak = false

section Response
variable {s : State} {r : FabResp} (h : s.Answers r)
include h

theorem exec_response_of_none (hq : s.fab.pend.find? (fun q => q.req.dst == r.dst && q.req.seq == r.seq) = none) :
    exec (.response r) s = .next s := by
  obtain ⟨hup, hport, hcool, hdest, hnak⟩ := h
  change execResponse r s = _
  simp [execResponse, hup, hport, hcool, hdest, hnak, hq]

theorem exec_response_of_some {q : PendReq} (hq : s.fab.pend.find? (fun q => q.req.dst == r.dst && q.req.seq == r.seq) = some q)
    (hst : knownStatus r.status = true) (hop : q.op ≠ 0x0C) :
    exec (.response r) s = .next (s.complete q r.status r.body).releaseHeld := by
  obtain ⟨hup, hport, hcool, hdest, hnak⟩ := h
  change execResponse r s = _
  simp [execResponse, hup, hport, hcool, hdest, hnak, hq, State.farStatus, hst, hop]

end Response

section Idle
variable {s : State} (hheld : s.fab.held = []) (hjobs : s.fab.jobs = []) (hsendq : s.fab.sendq = [])
include hheld hjobs hsendq

/-- The bytes of a load reach the register and the thread goes on (R36). -/
theorem State.complete_load {q : PendReq} {t : Tid} {gd : BitVec 6} {n off : Nat} {x : Thread} (hk : q.kind = .load t gd n off)
    (hop : q.op = 1) (hx : s.awaiting t q = some x) {st : Byte} (hst : failing st = false) (body : List Byte) :
    let s' := (s.complete q st body).releaseHeld
    s'.mem = s.mem ∧ (∀ p ∈ s'.fab.pend, p.same q = false) ∧
      s'.thread? t = some { (x.setG gd (leWord 64 ((body.drop off).take n))).step with wait := .ready } := by
  have hlost : st ≠ stLost := by rintro rfl; exact absurd hst (by decide)
  obtain ⟨lines, draws, hland⟩ := (s.unpend q).landFill_cacheOnly q (t.core.val / 64) st body
  have hdone : s.complete q st body = ({ s.unpend q with lines := lines, draws := draws } : State).setThread t
      { (x.setG gd (leWord 64 ((body.drop off).take n))).step with wait := .ready } := by
    have hx' : ({ s.unpend q with lines := lines, draws := draws } : State).awaiting t q = some x := hx
    rw [State.complete_alone (.inr ⟨by omega, hlost⟩)]
    unfold State.deliver
    simp only [hk, hland, hx', hst, Bool.false_eq_true, if_false]
  obtain ⟨hmem, hpend, hthread⟩ := State.releaseHeld_idled (s := s.complete q st body) (by rw [hdone]; exact hheld)
    (by rw [hdone]; exact hjobs) (by rw [hdone]; exact hsendq)
  refine ⟨?_, ?_, ?_⟩
  · rw [hmem, hdone]; rfl
  · rw [hpend, hdone]; exact s.unpend_pend q
  · rw [hthread, hdone, State.thread?_setThread]; simp [Thread.woken]

/-- A store that fails alone changes the thread or the task that made it, and is outstanding no more. -/
theorem State.complete_failedStore {q : PendReq} {t : Tid} (hk : q.kind = .store t) (hcls : q.req.cls ≠ 0) {st : Byte}
    (hst : failing st = true) (body : List Byte) : ((s.complete q st body).releaseHeld).mem = s.mem ∧
      (∀ p ∈ (s.complete q st body).releaseHeld.fab.pend, p.same q = false) ∧
      ∀ x, s.thread? t = some x → q.task = some x.task → ∃ x', (s.complete q st body).releaseHeld.thread? t = some x' ∧
        x'.failStatus = worst x.failStatus st := by
  have hdone : s.complete q st body = (s.unpend q).storeFail t q.task st q.globalAddr := by
    rw [State.complete_alone (.inl hcls)]
    unfold State.deliver
    simp only [hk, hst, if_true]
  obtain ⟨hfab, hmem'⟩ := (s.unpend q).storeFail_frame t q.task st q.globalAddr
  obtain ⟨hmem, hpend, hthread⟩ := State.releaseHeld_idled (s := s.complete q st body) (by rw [hdone, hfab]; exact hheld)
    (by rw [hdone, hfab]; exact hjobs) (by rw [hdone, hfab]; exact hsendq)
  refine ⟨?_, ?_, fun x hx htask => ?_⟩
  · rw [hmem, hdone, hmem']; rfl
  · rw [hpend, hdone, hfab]; exact s.unpend_pend q
  · rw [hthread, hdone, State.storeFail_of_running (s := s.unpend q) hx htask, State.thread?_setThread]
    exact ⟨_, rfl, Thread.woken_failStatus _⟩

end Idle

/-! ## E2E_RESEND -/

/-- An outstanding request once q has been sent again: q has one resend more. -/
def PendReq.resentAs (q x : PendReq) : PendReq := if x.same q then { x with resends := x.resends + 1 } else x

theorem PendReq.resentAs_req (q x : PendReq) : (q.resentAs x).req = x.req := by
  unfold PendReq.resentAs
  split <;> rfl

section Resend
variable {s : State} {dst : BitVec 12} {seq : W32} (hup : s.fabricUp = true)
include hup

theorem exec_e2eResend_of_none (h : s.fab.pend.find? (fun q => q.req.dst == dst && q.req.seq == seq) = none) :
    exec (.e2eResend dst seq) s = .next s := by
  change execE2eResend dst seq s = _
  simp [execE2eResend, hup, h]

variable {q : PendReq} (hq : s.fab.pend.find? (fun q => q.req.dst == dst && q.req.seq == seq) = some q)
include hq

/-- Below the limit the request is sent again, and counted. -/
theorem exec_e2eResend_of_lt (hlt : q.resends < 8) : ∃ s', exec (.e2eResend dst seq) s = .next s' ∧ s'.mem = s.mem ∧
    s'.outbox = s.outbox ++ [.request q.op q.req] ∧ s'.fab.pend.length = s.fab.pend.length ∧
    s'.fab.pend.find? (fun y => y.req.dst == dst && y.req.seq == seq) = some { q with resends := q.resends + 1 } := by
  have hexec : exec (.e2eResend dst seq) s = .next
      ((({ s with fab := { s.fab with pend := s.fab.pend.map q.resentAs } } : State).count .e2eResends).emit q.op q.req) := by
    change execE2eResend dst seq s = _
    simp only [execE2eResend, hup, Bool.not_true, Bool.false_eq_true, if_false, hq, hlt, if_true]
    rfl
  have hreq : (fun y : PendReq => y.req.dst == dst && y.req.seq == seq) ∘ q.resentAs =
      fun y => y.req.dst == dst && y.req.seq == seq := by
    funext y
    simp only [Function.comp, q.resentAs_req]
  refine ⟨_, hexec, rfl, rfl, List.length_map _, ?_⟩
  change (s.fab.pend.map q.resentAs).find? _ = _
  rw [List.find?_map, hreq, hq]
  simp [PendReq.resentAs, PendReq.same]

/-- At the limit the destination is reported and the request completes with TARGET_LOST. -/
theorem exec_e2eResend_of_le (hle : 8 ≤ q.resends) (hop : q.op ≠ 0x0C) : exec (.e2eResend dst seq) s = .next
    (({ s with fab := { s.fab with reported := (s.fab.reported ++ [dst]).eraseDups } } : State).complete q stLost []).releaseHeld := by
  change execE2eResend dst seq s = _
  simp only [execE2eResend, hup, Bool.not_true, Bool.false_eq_true, if_false, hq, Nat.not_lt.mpr hle, hop]

end Resend

/-! ## PORT_DOWN_TIMEOUT -/

/-- A state after a package's position is retired and its loss is logged (R341). -/
def State.lossLogged (s : State) (c : BitVec 12) (halted : Bool) : State :=
  (s.retireSite (.package c)).retired { detail := BitVec.ofNat 64 c.toNat, unit := c.toNat, unitType := 6, cause := 0x0A,
                                        status := stLost, detail2 := if halted then 1 else 0 }

/-- An understudy is sent an ASSUME of a lost coordinate under a new sequence, and the switch-in is kept (Table 10-5, orders 1 and 2). -/
def State.sendAssume (s : State) (c : BitVec 12) (usport tenure : Nat) : State :=
  let r : FabReq := { port := Fin.ofNat 24 (18 + usport), dst := c, src := s.fab.coord.getD 0, cls := 2, lenM1 := 15, seq := 1
                      body := bytesLE 8 c.toNat ++ bytesLE 8 tenure }
  let s := s.setPeer c { nextOrdered := 2, broken := true }
  ({ s with fab := { s.fab with
      switchIns := s.fab.switchIns ++ [{ coord := c, tenure := tenure, usport := usport }]
      pend := s.fab.pend ++ [{ op := 0x0C, req := r, task := none, kind := .control }] } } : State).emit 0x0C r

theorem State.declareLost_of_not_runs {s : State} {c : BitVec 12} (h : s.runsSwitch c = false) (halted : Bool) :
    s.declareLost c halted = s := by
  simp [State.declareLost, h]

theorem State.storeJob_fab (s : State) (j : StoreJob) : (s.storeJob j).fab = s.fab := by
  unfold State.storeJob
  split <;> rfl

theorem State.route_of_put {s : State} {c : BitVec 12} {e : W64} {m : SMap W64} (h : s.fab.routes = SMap.put c.toNat e m) :
    s.route c = e := by
  rw [State.route, h, SMap.get_put_self]

theorem State.spreadRoute_route (s : State) (c : BitVec 12) (e : W64) : (s.spreadRoute c e).route c = e := by
  have htake (t : State) : (t.takeRoute c e).route c = e := by
    unfold State.takeRoute
    dsimp only
    split
    · exact State.route_of_put (congrArg Fabric.routes (State.storeJob_fab _ _))
    · exact State.route_of_put rfl
  exact htake _

section Loss
variable {s : State} {c : BitVec 12} (hruns : s.runsSwitch c = true) (hnew : s.fab.switchIns.any (·.coord == c) = false)
include hruns hnew

/-- With no understudy's port UP the entry of the lost coordinate is spread. -/
theorem State.declareLost_of_no_understudy (h18 : (s.port 18).phase ≠ .up) (h19 : (s.port 19).phase ≠ .up) (halted : Bool) :
    s.declareLost c halted =
      (s.lossLogged c halted).spreadRoute c (routeWith (s.route c) 1 (routeTenure (s.route c)) (routeUsport (s.route c))) := by
  have hport (n : Nat) : (s.lossLogged c halted).port n = s.port n := rfl
  unfold State.declareLost
  dsimp only
  rw [if_neg (by simp [hruns, hnew]), if_pos]
  · rfl
  · simp only [Bool.or_eq_true, Bool.and_eq_true, Bool.not_eq_true', beq_eq_false_iff_ne]
    exact .inr ⟨h18, h19⟩

/-- With the first understudy's port UP the requests to the lost package fail and the understudy is sent an ASSUME. -/
theorem State.declareLost_of_understudy (hline : s.axisLen s.spareAxis ≠ 1) (h18 : (s.port 18).phase = .up) (halted : Bool) :
    s.declareLost c halted = ((s.lossLogged c halted).failAll (s.fab.pend.filter fun q => q.req.dst == c) stLost).sendAssume c 0
      ((routeTenure (s.route c) + 1) % 16) := by
  have hup : (((s.lossLogged c halted).port 18).phase == .up) = true := beq_iff_eq.mpr h18
  have hus : (if ((s.lossLogged c halted).port 18).phase == .up then 0 else 1) = 0 := if_pos hup
  rw [← hus]
  unfold State.declareLost
  dsimp only
  rw [if_neg (by simp [hruns, hnew]), if_neg]
  · rfl
  · simp only [Bool.or_eq_true, Bool.and_eq_true, Bool.not_eq_true', beq_eq_false_iff_ne, decide_eq_true_eq, not_or, not_and]
    exact ⟨hline, fun h => absurd h18 h⟩

end Loss

/-- A package is lost only to the one that runs its switch-in, and not while a port reaches it (R257, R341). -/
theorem exec_portDownTimeout_of_not_lost {s : State} {c : BitVec 12} (h : s.fabricUp = false ∨ s.runsSwitch c = false ∨
    s.fab.ports.any (fun e => e.2.phase == .up && decide (e.1 < 18) && e.2.farCoord == routePhys (s.route c)) = true) :
    exec (.portDownTimeout c) s = .next s := by
  change execPortDownTimeout c s = _
  unfold execPortDownTimeout
  dsimp only
  split
  · rfl
  · next hgo =>
    simp only [Bool.or_eq_true, not_or, Bool.not_eq_true, Bool.not_eq_false'] at hgo
    obtain ⟨⟨hup, hto⟩, -⟩ := hgo
    rcases h with h | h | h
    · simp [h] at hup
    · rw [State.declareLost_of_not_runs h]
    · simp [h] at hto

theorem exec_portDownTimeout_of_lost {s : State} {c : BitVec 12} (hup : s.fabricUp = true) (hcool : s.coolantHeld = false)
    (hto : s.fab.ports.any (fun e => e.2.phase == .up && decide (e.1 < 18) && e.2.farCoord == routePhys (s.route c)) = false) :
    exec (.portDownTimeout c) s = .next (s.declareLost c false) :=
  if_neg (by simp only [hup, hto, hcool]; decide)

/-! ## SWITCH_IN_COMPLETE -/

/-- A switch-in all have acknowledged is complete: it is dropped, counted and logged. -/
theorem exec_switchInComplete_of_done {s : State} {c : BitVec 12} {x : SwitchIn}
    (hx : s.fab.switchIns.find? (fun x => x.coord == c) = some x)
    (hwait : ((s.fab.pend.any fun q => decide (q.op = 0x0B ∨ q.op = 0x0C) && decide (leNat (q.req.body.take 8) = c.toNat)) ||
      s.fab.sendq.any fun q => decide (q.op = 0x0B ∨ q.op = 0x0C) && decide (leNat (q.req.body.take 8) = c.toNat)) = false)
    (hroute : routeState (s.route c) = 2) : ∃ s', exec (.switchInComplete c) s = .next s' ∧ s'.mem = s.mem ∧
      (∀ y ∈ s'.fab.switchIns, y.coord ≠ c) ∧ (SMap.sorted s.counters = true → s'.ctr .switchIns = s.ctr .switchIns + 1) := by
  let u := ({ s with fab := { s.fab with switchIns := dropSwitch s.fab.switchIns c } } : State).count .switchIns
  let r : FaultRec := { detail := BitVec.ofNat 64 c.toNat, unit := c.toNat, unitType := 6, cls := 5, cause := 0x0B
                        detail2 := BitVec.ofNat 64 x.tenure }
  have hexec : exec (.switchInComplete c) s = .next (u.logFault r) := by
    change execSwitchInComplete c s = _
    simp only [execSwitchInComplete, hx, hwait, hroute, ne_eq, not_true_eq_false, decide_false, Bool.or_self, Bool.false_eq_true, if_false]
    rfl
  obtain ⟨_, _, _, _, hlog⟩ := u.logFault_reported r
  refine ⟨_, hexec, ?_, fun y hy => ?_, fun hs => ?_⟩
  · rw [hlog]
    rfl
  · rw [hlog] at hy
    simpa using (List.mem_filter.mp hy).2
  · rw [State.logFault_ctr (SMap.sorted_set _ _ _ hs) _ (by decide)]
    exact (State.ctr_count (s := { s with fab := { s.fab with switchIns := dropSwitch s.fab.switchIns c } }) hs ..).trans (if_pos rfl)

/-- Settles O49: responses by `State.complete_load` and `State.complete_failedStore`, resends by `exec_e2eResend_of_lt` and, at the
limit, by the layer that keeps the packages reported; losses by `State.declareLost_of_understudy` and its sibling, and switch-ins by
`exec_switchInComplete_of_done`. -/
theorem responsesAndLoss : Obligations.ResponsesAndLoss := by
  refine ⟨fun s r hup hport hcool hheld hjobs hsendq hdest hnak => ?_, fun s dst seq hup => ?_, fun s c => ?_, fun s c => ?_⟩
  · have hr : s.Answers r := ⟨hup, hport, hcool, hdest, hnak⟩
    refine ⟨exec_response_of_none hr, fun q t gd n off x hq hk hop hst hknown hx => ?_, fun q t x hq hk hop hcls hst hknown hx htask => ?_⟩
    · exact ⟨_, exec_response_of_some hr hq hknown (by omega), State.complete_load hheld hjobs hsendq hk hop hx hst _⟩
    · obtain ⟨hmem, hpend, hthread⟩ := State.complete_failedStore hheld hjobs hsendq hk hcls hst r.body
      obtain ⟨x', hx', hfail⟩ := hthread x hx htask
      exact ⟨_, x', exec_response_of_some hr hq hknown (by omega), hmem, hpend, hx', hfail⟩
  · refine ⟨exec_e2eResend_of_none hup, fun q hq => ⟨exec_e2eResend_of_lt hup hq, fun hle hop => ?_,
      fun t hle hk hop hcls hheld hjobs hsendq => ?_⟩⟩
    · refine ⟨_, exec_e2eResend_of_le hup hq hle hop, ?_⟩
      simp
    · obtain ⟨hmem, hpend, -⟩ := State.complete_failedStore
        (s := { s with fab := { s.fab with reported := (s.fab.reported ++ [dst]).eraseDups } }) hheld hjobs hsendq hk hcls
        (st := stLost) (by decide) []
      exact ⟨_, exec_e2eResend_of_le hup hq hle (by omega), hmem, hpend⟩
  · refine ⟨exec_portDownTimeout_of_not_lost, fun hup hcool hruns hnew hto => ⟨fun h18 h19 => ?_, fun hline h18 => ?_⟩⟩
    · refine ⟨_, exec_portDownTimeout_of_lost hup hcool hto, ?_⟩
      rw [State.declareLost_of_no_understudy hruns hnew h18 h19, State.spreadRoute_route, routeState_routeWith, routeTenure_routeWith]
      exact ⟨rfl, Nat.mod_eq_of_lt (routeTenure_lt _)⟩
    · have hlost := State.declareLost_of_understudy hruns hnew hline h18 false
      refine ⟨_, _, (exec_portDownTimeout_of_lost hup hcool hto).trans (congrArg _ hlost), List.getLast?_concat .., rfl, rfl, ?_,
        congrArg (· ++ _) (State.failAll_sameHouse ..).2⟩
      rw [List.drop_left' (bytesLE_length 8 _), leNat_bytesLE]
      exact Nat.mod_eq_of_lt ((Nat.mod_lt _ (by decide)).trans (by decide))
  · refine ⟨fun hnone => ?_, fun x hx => ⟨fun hwait => ?_, fun hwait hroute => exec_switchInComplete_of_done hx hwait hroute⟩⟩
    · change execSwitchInComplete c s = _
      simp only [execSwitchInComplete, hnone]
    · change execSwitchInComplete c s = _
      simp only [execSwitchInComplete, hx]
      exact if_pos (by simpa using hwait)

end Sys2Proof.Machine

/-! The scalar instructions (O6, O7, O8, O9, O10): what issues in order computes Table 03-6, changes its destination and the PC, and never
raises. -/

namespace Sys2Proof.Machine

open Sys2Proof

/-! ## What issues in order -/

section Issued
variable {s : State} {t : Tid} {x : Thread} {k : Task}

/-- A format S instruction on the thread alone, issued with its fields in order, has its effect. -/
theorem State.sOp_of_issues (hi : Issues s t x k) {f : SOp} {u : SUse} (hon : OnS x f u) {extra legal : Bool} (hextra : extra = true)
    (hlegal : legal = true) (eff : Thread → Thread) : s.sOp t f u extra legal eff = .next (s.setThread t (eff x).step) := by
  obtain ⟨ht, hm, hk, hf⟩ := hi
  exact State.issue_run ht hm hk hf (by rw [hon.1, hextra]; rfl) (.inr hon.2) hlegal

/-- A format I instruction on the thread alone, issued with its reserved field zero, has its effect. -/
theorem State.iOp_of_issues (hi : Issues s t x k) {f : IOp} (hon : OnI x f) (eff : Thread → Thread) :
    s.iOp t f eff = .next (s.setThread t (eff x).step) := by
  obtain ⟨ht, hm, hk, hf⟩ := hi
  exact State.issue_run ht hm hk hf (by simp [iOk, hon.1]) (.inr hon.2) rfl

theorem Thread.orFlags_none (x : Thread) : x.orFlags FpFlags.none = x := by
  simp [Thread.orFlags, FpFlags.none]

end Issued

/-! ## Table 03-6 as the model computes it -/

section Tables

theorem ofNat_mul_two_pow (a : W64) (n : Nat) : BitVec.ofNat 64 (a.toNat * 2 ^ n) = a <<< n :=
  BitVec.eq_of_toNat_eq (by simp [Nat.shiftLeft_eq])

theorem ofNat_div_two_pow (a : W64) (n : Nat) : BitVec.ofNat 64 (a.toNat / 2 ^ n) = a >>> n :=
  BitVec.eq_of_toNat_eq (by
    simp only [BitVec.toNat_ofNat, BitVec.toNat_ushiftRight, Nat.shiftRight_eq_div_pow]
    exact Nat.mod_eq_of_lt (Nat.lt_of_le_of_lt (Nat.div_le_self _ _) a.isLt))

theorem ofInt_div_two_pow (a : W64) (n : Nat) : BitVec.ofInt 64 (a.toInt / 2 ^ n) = a.sshiftRight n := by
  rw [BitVec.sshiftRight, Int.shiftRight_eq_div_pow]
  norm_cast

theorem ofInt_min (a b : W64) : BitVec.ofInt 64 (min a.toInt b.toInt) = if b.slt a then b else a := by
  rw [BitVec.slt_eq_decide]
  by_cases h : b.toInt < a.toInt
  · simp [h, min_eq_right h.le]
  · simp [h, min_eq_left (not_lt.mp h)]

theorem ofInt_max (a b : W64) : BitVec.ofInt 64 (max a.toInt b.toInt) = if a.slt b then b else a := by
  rw [BitVec.slt_eq_decide]
  by_cases h : a.toInt < b.toInt
  · simp [h, max_eq_right h.le]
  · simp [h, max_eq_left (not_lt.mp h)]

theorem ofInt_sub_toNat (a b : W64) : BitVec.ofInt 64 (a.toNat - b.toNat) = a - b := by
  rw [BitVec.sub_eq_add_neg, sub_eq_add_neg, BitVec.ofInt_add, BitVec.ofInt_neg, BitVec.ofInt_natCast, BitVec.ofInt_natCast]
  simp

theorem ofNat_add_toNat (a b : W64) : BitVec.ofNat 64 (a.toNat + b.toNat) = a + b := rfl
theorem ofNat_mul_toNat (a b : W64) : BitVec.ofNat 64 (a.toNat * b.toNat) = a * b := rfl

/-- Each two-operand instruction is the operation that Table 03-6 gives it. -/
theorem exec_of_binaryTable (t : Tid) (f : SOp) (s : State) : ∀ e ∈ binaryTable, exec (e.1 t f) s = s.binary t f e.2 := by
  simp only [binaryTable, List.forall_mem_cons, List.not_mem_nil, false_imp_iff, implies_true, and_true]
  simp only [ofNat_mul_two_pow, ofNat_div_two_pow, ofInt_div_two_pow, ofInt_min, ofInt_max, ofInt_sub_toNat, ofNat_add_toNat,
    ofNat_mul_toNat]
  and_intros <;> rfl

theorem toNat_and_ones (a : W64) {m : W64} (n : Nat) (hm : m.toNat = 2 ^ n - 1) : (a &&& m).toNat = a.toNat % 2 ^ n := by
  rw [BitVec.toNat_and, hm, Nat.and_two_pow_sub_one_eq_mod]

theorem movhi_value (a : W64) (i : BitVec 32) : (i.setWidth 64 <<< 32) ||| (a &&& 0xFFFFFFFF#64) =
    BitVec.ofNat 64 ((i.signExtend 64).toNat % 2 ^ 32 * 2 ^ 32 + a.toNat % 2 ^ 32) := by
  have himm : (i.signExtend 64).toNat % 2 ^ 32 = i.toNat := by
    have := i.isLt
    rw [BitVec.toNat_signExtend]
    simp only [BitVec.toNat_setWidth]
    split <;> omega
  have hlow : (a &&& 0xFFFFFFFF#64).toNat = a.toNat % 2 ^ 32 := toNat_and_ones a 32 rfl
  have hhigh : (i.setWidth 64 <<< 32).toNat = i.toNat * 2 ^ 32 := by
    have := i.isLt
    rw [BitVec.toNat_shiftLeft, BitVec.toNat_setWidth, Nat.shiftLeft_eq]
    omega
  refine BitVec.eq_of_toNat_eq ?_
  rw [himm, BitVec.toNat_or, hlow, hhigh, BitVec.toNat_ofNat, ← Nat.shiftLeft_eq,
    ← Nat.shiftLeft_add_eq_or_of_lt (Nat.mod_lt _ (by decide)), Nat.shiftLeft_eq]
  have := i.isLt
  omega

/-- Each immediate instruction is the operation that Table 03-6 gives it. -/
theorem exec_of_immTable (t : Tid) (f : IOp) (s : State) : ∀ e ∈ immTable, exec (e.1 t f) s = s.immediate t f e.2 := by
  simp only [immTable, List.forall_mem_cons, List.not_mem_nil, false_imp_iff, implies_true, and_true]
  simp only [ofNat_mul_two_pow, ofNat_div_two_pow, ofNat_add_toNat]
  refine ⟨rfl, rfl, rfl, rfl, rfl, rfl, ?_⟩
  change execMovhi t f s = _
  unfold execMovhi State.immediate
  simp only [movhi_value, immSx]

end Tables

/-- A condition code of CMP below 16 is its field. -/
theorem fld_low_of_lt {c : BitVec 6} (h : c.toNat < 16) : fld c 3 0 = c.toNat ∧ fld c 5 4 = 0 := by
  simp only [fld, Nat.shiftRight_eq_div_pow]
  omega

/-- The quotient and the remainder where the signed division overflows (R64). -/
theorem divSigned_overflow : divSigned (BitVec.ofInt 64 (-2 ^ 63)) (BitVec.ofInt 64 (-1)) = BitVec.ofInt 64 (-2 ^ 63) := by
  decide

theorem remSigned_overflow : remSigned (BitVec.ofInt 64 (-2 ^ 63)) (BitVec.ofInt 64 (-1)) = 0 := by
  decide

section Results
variable {s : State} {t : Tid} {x : Thread} {k : Task} (hi : Issues s t x k)
include hi

theorem State.binary_of_issues {f : SOp} (hon : OnS x f { gd := true, ga := true, gb := true }) (op : W64 → W64 → W64) :
    s.binary t f op = .next (s.setThread t (x.setG f.gd (op (x.gr f.ga) (x.gr f.gb))).step) :=
  State.sOp_of_issues hi hon rfl rfl _

theorem State.immediate_of_issues {f : IOp} (hon : OnI x f) (op : W64 → W64 → W64) :
    s.immediate t f op = .next (s.setThread t (x.setG f.gd (op (x.gr f.ga) (BitVec.ofInt 64 f.imm.toInt))).step) :=
  State.iOp_of_issues hi hon _

theorem exec_binary_of_issues {f : SOp} (hon : OnS x f { gd := true, ga := true, gb := true }) : ∀ e ∈ binaryTable,
    exec (e.1 t f) s = .next (s.setThread t (x.setG f.gd (e.2 (x.gr f.ga) (x.gr f.gb))).step) := fun e he =>
  (exec_of_binaryTable t f s e he).trans (State.binary_of_issues hi hon e.2)

theorem exec_immediate_of_issues {f : IOp} (hon : OnI x f) : ∀ e ∈ immTable,
    exec (e.1 t f) s = .next (s.setThread t (x.setG f.gd (e.2 (x.gr f.ga) (BitVec.ofInt 64 f.imm.toInt))).step) := fun e he =>
  (exec_of_immTable t f s e he).trans (State.immediate_of_issues hi hon e.2)

theorem exec_popc_of_issues {f : SOp} (hon : OnS x f { gd := true, ga := true }) :
    exec (.popc t f) s = .next (s.setThread t (x.setG f.gd (BitVec.ofNat 64 (popCount (x.gr f.ga)))).step) :=
  State.sOp_of_issues hi hon rfl rfl _

theorem exec_clz_of_issues {f : SOp} (hon : OnS x f { gd := true, ga := true }) :
    exec (.clz t f) s = .next (s.setThread t (x.setG f.gd (BitVec.ofNat 64 (leadZeros (x.gr f.ga)))).step) :=
  State.sOp_of_issues hi hon rfl rfl _

theorem exec_sel_of_issues {f : SOp} (hon : OnS x f { gd := true, ga := true, gb := true, gc := true }) (hgc : fld f.gc 5 3 = 0) :
    exec (.sel t f) s = .next (s.setThread t
      (x.setG f.gd (if (x.pr (f.gc.setWidth 3)).getLsbD 0 then x.gr f.ga else x.gr f.gb)).step) :=
  State.sOp_of_issues hi hon (by simp [zeroFld, hgc]) rfl _

theorem exec_cmp_of_issues {f : SOp} (hon : OnS x f { gd := true, ga := true, gb := true, gc := true }) (hgd : fld f.gd 5 3 = 0)
    (hgc : f.gc.toNat ≤ 8) : exec (.cmp t f) s = .next (s.setThread t ((x.setP (f.gd.setWidth 3)
      (predAll (scalarCond f.gc.toNat (x.gr f.ga) (x.gr f.gb)).1)).orFlags (scalarCond f.gc.toNat (x.gr f.ga) (x.gr f.gb)).2).step) := by
  obtain ⟨hcode, hzero⟩ := fld_low_of_lt (c := f.gc) (by omega)
  refine (State.sOp_of_issues hi hon (by simp [zeroFld, hgd, hzero]) (by simp [hcode, hgc]) _).trans ?_
  rw [hcode]

/-- CMP of an integer condition sets no flag. -/
theorem exec_cmp_integer {f : SOp} (hon : OnS x f { gd := true, ga := true, gb := true, gc := true }) (hgd : fld f.gd 5 3 = 0)
    (hgc : f.gc.toNat ≤ 5) : exec (.cmp t f) s = .next (s.setThread t
      (x.setP (f.gd.setWidth 3) (predAll (intCond 64 f.gc.toNat (x.gr f.ga).toNat (x.gr f.gb).toNat))).step) := by
  rw [exec_cmp_of_issues hi hon hgd (by omega), scalarCond, if_pos hgc, Thread.orFlags_none]

end Results

/-- The count of leading zeros places the highest set bit. -/
theorem leadZeros_spec (a : W64) : a = 0 ∧ leadZeros a = 64 ∨
    leadZeros a < 64 ∧ 2 ^ (63 - leadZeros a) ≤ a.toNat ∧ a.toNat < 2 ^ (64 - leadZeros a) := by
  unfold leadZeros
  split
  · next h => exact .inl ⟨h, rfl⟩
  · next h =>
    have hne : a.toNat ≠ 0 := fun h0 => h (BitVec.eq_of_toNat_eq h0)
    have hlog : Nat.log2 a.toNat < 64 := (Nat.log2_lt hne).mpr a.isLt
    refine .inr ⟨by omega, ?_, ?_⟩
    · rw [show 63 - (63 - Nat.log2 a.toNat) = Nat.log2 a.toNat by omega]
      exact Nat.log2_self_le hne
    · rw [show 64 - (63 - Nat.log2 a.toNat) = Nat.log2 a.toNat + 1 by omega]
      exact Nat.lt_log2_self

/-- Settles O6: each integer instruction is an operation of Table 03-6 (`exec_of_binaryTable`, `exec_of_immTable`) whose effect is on
its destination alone; the values at a zero divisor and at −2⁶³ by −1 are those the table's operations have there (R64). -/
theorem integerNeverRaises : Obligations.IntegerNeverRaises := by
  intro s t x k hi
  refine ⟨fun e he f hon => ⟨_, exec_binary_of_issues hi hon e he⟩, fun e he f hon => ⟨_, exec_immediate_of_issues hi hon e he⟩,
    fun f hon => ⟨_, _, exec_popc_of_issues hi hon, exec_clz_of_issues hi hon⟩,
    fun f hon => ⟨fun hgc => ⟨_, exec_sel_of_issues hi hon hgc⟩, fun hgd hgc => ⟨_, exec_cmp_integer hi hon hgd hgc⟩⟩,
    fun f hon => ?_⟩
  have hdivu : exec (.divu t f) s = s.binary t f fun a b => if b = 0 then BitVec.allOnes 64 else BitVec.ofNat 64 (a.toNat / b.toNat) := rfl
  have hdivs : exec (.divs t f) s = s.binary t f divSigned := rfl
  have hremu : exec (.remu t f) s = s.binary t f fun a b => if b = 0 then a else BitVec.ofNat 64 (a.toNat % b.toNat) := rfl
  have hrems : exec (.rems t f) s = s.binary t f remSigned := rfl
  rw [hdivu, hdivs, hremu, hrems]
  simp only [State.binary_of_issues hi hon]
  refine ⟨fun hb => ?_, fun ha hb => ?_⟩
  · simp only [hb, divSigned, remSigned, if_true, and_true]
    exact ⟨rfl, rfl⟩
  · rw [ha, hb, divSigned_overflow, remSigned_overflow]
    exact ⟨rfl, rfl⟩

/-- Settles O7: the tables by `exec_of_binaryTable` and `exec_of_immTable`, the rest by the effect of each instruction; CLZ by
`leadZeros_spec`, CMP by `exec_cmp_of_issues`. -/
theorem scalarResults : Obligations.ScalarResults := by
  refine ⟨fun e he s t x k f hi hon => exec_binary_of_issues hi hon e he, fun s t x k f hi => ⟨fun hon => ?_, fun hon => ⟨?_, ?_⟩,
    fun hon => ⟨fun hgc => exec_sel_of_issues hi hon hgc, fun hgd hgc => ?_⟩⟩,
    fun e he s t x k f hi hon => exec_immediate_of_issues hi hon e he, fun s t x k f hi => ?_⟩
  · exact State.sOp_of_issues hi hon rfl rfl id
  · exact exec_popc_of_issues hi hon
  · exact ⟨_, exec_clz_of_issues hi hon, leadZeros_spec _⟩
  · rw [exec_cmp_integer hi hon hgd hgc]
    obtain ⟨c, hc⟩ : ∃ c, f.gc.toNat = c := ⟨_, rfl⟩
    simp only [hc] at hgc ⊢
    interval_cases c <;> simp [intCond, predAll]
  · refine ⟨fun hon => ⟨State.sOp_of_issues hi hon rfl rfl _, State.sOp_of_issues hi hon rfl rfl _⟩,
      fun hon => State.sOp_of_issues hi hon rfl rfl _,
      fun hon => ⟨State.sOp_of_issues hi hon rfl rfl _, _, _, rfl, State.sOp_of_issues hi hon rfl rfl _⟩, fun hon hgd hgc => ?_⟩
    have hle : f.gc.toNat ≤ 8 := by
      simp only [List.mem_cons, List.not_mem_nil, or_false] at hgc
      omega
    refine ⟨(scalarCond f.gc.toNat (x.gr f.ga) (x.gr f.gb)).2, (exec_cmp_of_issues hi hon hgd hle).trans ?_⟩
    obtain ⟨c, hc⟩ : ∃ c, f.gc.toNat = c := ⟨_, rfl⟩
    simp only [hc, List.mem_cons, List.not_mem_nil, or_false] at hgc ⊢
    rcases hgc with rfl | rfl | rfl <;> rfl

/-! ## What a write of a general register leaves -/

/-- Beside g and its live list a write of a general register changes nothing of the thread. -/
theorem Thread.setG_eq (x : Thread) (i : BitVec 6) (v : W64) : ∃ g live, x.setG i v = { x with g := g, liveG := live } := by
  unfold Thread.setG
  split
  · exact ⟨x.g, x.liveG, rfl⟩
  · exact ⟨_, _, rfl⟩

@[simp] theorem Thread.gr_step (x : Thread) (i : BitVec 6) : x.step.gr i = x.gr i := rfl

/-- An integer instruction that writes v to its destination leaves as it was what `IntFrame` lists. -/
theorem intFrame_setG {s : State} {t : Tid} {x : Thread} (hg : SMap.sorted x.g = true) (gd : BitVec 6) (v : W64) :
    IntFrame s (s.setThread t (x.setG gd v).step) t x gd := by
  refine ⟨rfl, fun _ => rfl, fun u hu => State.thread?_setThread_ne s hu _, _, State.thread?_setThread s t _, ?_, fun j hj => ?_, rfl, ?_⟩
  · simp [Thread.step]
  · rw [Thread.gr_step, Thread.gr_setG x gd j v hg, if_neg fun h => hj h.1]
  · obtain ⟨g, live, h⟩ := x.setG_eq gd v
    rw [h]
    exact ⟨rfl, rfl, rfl, rfl, rfl, rfl, rfl, rfl, rfl⟩

/-- Settles O8: each instruction writes one value to GD (`exec_binary_of_issues` and its like), which leaves the rest by
`intFrame_setG`. -/
theorem integerFrame : Obligations.IntegerFrame := by
  intro s s' t x k hi hg
  have hframe {gd : BitVec 6} {v : W64} {r : Result} (hr : r = .next (s.setThread t (x.setG gd v).step)) (h : r = .next s') :
      IntFrame s s' t x gd := by
    obtain rfl := Host.Outcome.next.inj (hr.symm.trans h)
    exact intFrame_setG hg gd v
  exact ⟨fun e he f hon => hframe (exec_binary_of_issues hi hon e he), fun e he f hon => hframe (exec_immediate_of_issues hi hon e he),
    fun f hon => hframe (exec_popc_of_issues hi hon), fun f hon => hframe (exec_clz_of_issues hi hon)⟩

/-! ## Special registers -/

section Special
variable {s : State} {t : Tid} {x : Thread} {k : Task} (hi : Issues s t x k) {f : IOp} (hon : OnI x f)
include hi hon

theorem exec_rds_of_issues (hga : f.ga = 0) : exec (.rds t f) s = .next (match s.special t x k (immSx f).toNat with
    | some v => s.setThread t (x.setG f.gd v).step
    | none => s.raise t x .illegal 0) := by
  obtain ⟨ht, hm, hk, hf⟩ := hi
  exact State.issue_run ht hm hk hf (by simp [iOk, hon.1, hga]) (.inr hon.2) rfl

theorem exec_wrs_of_issues (hgd : f.gd = 0) : exec (.wrs t f) s = .next (if (immSx f).toNat = 0x15
    then s.setThread t ({ x with fpFlags := x.gr f.ga &&& 0x1F#64 }).step else s.raise t x .illegal 0) := by
  obtain ⟨ht, hm, hk, hf⟩ := hi
  exact State.issue_run ht hm hk hf (by simp [iOk, hon.1, hgd]) (.inr hon.2) rfl

end Special

/-- A sign-extended number is a small one only where it is that number itself. -/
theorem immSx_toNat (f : IOp) : (immSx f).toNat = f.imm.toNat ∨ 2 ^ 31 ≤ f.imm.toNat ∧ 2 ^ 31 ≤ (immSx f).toNat := by
  have hlt := f.imm.isLt
  rw [immSx, BitVec.toNat_signExtend, BitVec.toNat_setWidth, BitVec.msb_eq_decide, Nat.mod_eq_of_lt (by omega)]
  by_cases h : 2 ^ 31 ≤ f.imm.toNat
  · exact .inr ⟨h, Nat.le_add_right_of_le h⟩
  · exact .inl (by simp only [show (32 : Nat) - 1 = 31 from rfl, h, decide_false, Bool.false_eq_true, if_false, Nat.add_zero])

/-- Table 03-2 lists no other number. -/
theorem State.special_none {n : Nat} (h : 0x0B ≤ n ∧ n ≤ 0x0F ∨ 0x16 ≤ n) (s : State) (t : Tid) (x : Thread) (k : Task) :
    s.special t x k n = none := by
  rcases h with ⟨hlo, hhi⟩ | hhi
  · interval_cases n <;> rfl
  · obtain ⟨m, rfl⟩ := Nat.exists_eq_add_of_le' hhi
    rfl

/-- Settles O9: a listed number is read by `State.special`, whose list is Table 03-2's, any other number has none
(`State.special_none`), and WRS takes 0x15 alone. -/
theorem specialRegisters : Obligations.SpecialRegisters := by
  intro s t x k f hi hon
  have hsmall {n : Nat} (hn : n < 2 ^ 31) (h : f.imm.toNat = n) : (immSx f).toNat = n := by
    rcases immSx_toNat f with he | he <;> omega
  refine ⟨fun hga => ⟨?_, fun c hc h => ?_, fun h => ?_⟩, fun hgd => ⟨fun h => ?_, fun h => ?_⟩⟩
  · simp only [exec_rds_of_issues hi hon hga, List.forall_mem_cons, List.not_mem_nil, false_imp_iff, implies_true, and_true]
    and_intros <;> exact fun h => by rw [hsmall (by decide) h]; rfl
  · rw [exec_rds_of_issues hi hon hga, hsmall (by decide) h]
    simp [State.special, hc]
  · rw [exec_rds_of_issues hi hon hga, State.special_none]
    rcases immSx_toNat f with he | he <;> omega
  · rw [exec_wrs_of_issues hi hon hgd, if_pos (hsmall (by decide) h)]
    congr 4
    refine BitVec.eq_of_toNat_eq ?_
    rw [toNat_and_ones _ 5 rfl, BitVec.toNat_ofNat]
    omega
  · rw [exec_wrs_of_issues hi hon hgd, if_neg]
    rcases immSx_toNat f with he | he <;> omega

/-! ## Checks at issue -/

/-- The digits of a little-endian number to the base 256 are its bytes (R4). -/
theorem leNat_digit (bs : List Byte) (i : Nat) : leNat bs / 256 ^ i % 256 = (bs.getD i 0).toNat := by
  induction bs generalizing i with
  | nil => simp [leNat]
  | cons b bs ih =>
    have hb : b.toNat < 256 := b.isLt
    cases i with
    | zero => simp only [leNat, List.getD_cons_zero]; omega
    | succ i =>
      rw [List.getD_cons_succ, ← ih i, leNat, Nat.pow_succ', ← Nat.div_div_eq_div_mul]
      congr 2
      omega

theorem leNat_lt (bs : List Byte) : leNat bs < 256 ^ bs.length := by
  induction bs with
  | nil => simp [leNat]
  | cons b bs ih =>
    have hb : b.toNat < 256 := b.isLt
    rw [leNat, List.length_cons, Nat.pow_succ']
    omega

theorem State.bytes_getD (s : State) (a : Nat) {i n : Nat} (h : i < n) : (s.bytes a n).getD i 0 = s.byte (a + i) := by
  simp [State.bytes, List.getD_eq_getElem?_getD, h]

/-- The OPC of a word is its last byte. -/
theorem wordOpc_leNat {bs : List Byte} (h : bs.length = 8) : wordOpc (BitVec.ofNat 64 (leNat bs)) = (bs.getD 7 0).toNat := by
  have hlt := leNat_lt bs
  rw [h] at hlt
  rw [← leNat_digit, wordOpc, BitVec.extractLsb'_toNat, BitVec.toNat_ofNat, Nat.shiftRight_eq_div_pow]
  generalize leNat bs = n at hlt ⊢
  omega

theorem State.wordOpc_num (s : State) (a : Nat) : wordOpc (BitVec.ofNat 64 (s.num a 8)) = (s.byte (a + 7)).toNat := by
  rw [State.num, wordOpc_leNat (by simp [State.bytes]), State.bytes_getD s a (show 7 < 8 by decide)]

/-- Each instruction of the table is an issue governed by bit 0, with its fields checked as the table says. -/
theorem exec_of_scalarTable (t : Tid) (f : SOp) (s : State) : ∀ e ∈ scalarTable, ∃ ok legal run,
    exec (e.1 t f) s = s.issue t f.pred f.pneg ok false legal run ∧ ok = sOk f e.2.1 e.2.2 := by
  simp only [scalarTable, binaryTable, List.map_cons, List.map_nil, List.cons_append, List.nil_append, List.forall_mem_cons,
    List.not_mem_nil, false_imp_iff, implies_true, and_true]
  and_intros <;> exact ⟨_, _, _, rfl, by simp only [Bool.and_true]⟩

/-- A fetch that fails for any cause but an uncorrectable error raises its exception and does nothing else. -/
theorem State.issue_of_fetchExc {s : State} {t : Tid} {x : Thread} {k : Task} {e : Exc} {a : W64} (ht : s.thread? t = some x)
    (hm : s.mayIssue x = true) (hk : s.task? x.task = some k) (hf : s.fetchExc x k = some (e, a)) (he : e ≠ .data)
    (pred : BitVec 3) (neg ok always legal : Bool) (run : Thread → Task → State) :
    s.issue t pred neg ok always legal run = .next (s.raise t x e a) := by
  simp [State.issue, ht, hm, hk, hf, he]

section Fetch
variable {s : State} {x : Thread} {k : Task}

theorem State.fetchExc_misaligned (h : x.pc.toNat % 8 ≠ 0) : s.fetchExc x k = some (.illegal, 0) :=
  if_pos h

theorem State.fetchExc_outside (hal : x.pc.toNat % 8 = 0)
    (h : x.pc.toNat < fld k.desc 511 448 ∨ fld k.desc 511 448 + fld k.desc 255 232 * 64 < x.pc.toNat + 8) :
    s.fetchExc x k = some (.address, 0) := by
  have hin : inside x.pc.toNat 8 (dCodeExt k.desc).1 (dCodeExt k.desc).2 = false := by
    rw [inside, Bool.and_eq_false_iff, decide_eq_false_iff_not, decide_eq_false_iff_not]
    exact h.imp Nat.not_le.mpr Nat.not_le.mpr
  simp [State.fetchExc, hal, hin]

theorem State.fetchExc_unlisted (hal : x.pc.toNat % 8 = 0) (hlo : fld k.desc 511 448 ≤ x.pc.toNat)
    (hhi : x.pc.toNat + 8 ≤ fld k.desc 511 448 + fld k.desc 255 232 * 64) (hpop : s.populated x.pc.toNat 8 = true)
    (hpoison : s.poisoned x.pc.toNat 8 = false) (hopc : ∀ o ∈ opcList, (s.byte (x.pc.toNat + 7)).toNat ≠ o) :
    s.fetchExc x k = some (.illegal, 0) := by
  have hin : inside x.pc.toNat 8 (dCodeExt k.desc).1 (dCodeExt k.desc).2 = true := by
    simp [inside, dCodeExt, dCode, hlo, hhi]
  have hlisted : opcListed (BitVec.ofNat 64 (s.num x.pc.toNat 8)) = false := by
    rw [opcListed, State.wordOpc_num]
    simpa using fun h => hopc _ h rfl
  simp [State.fetchExc, hal, hin, hpop, hpoison, hlisted]

end Fetch

/-- Settles O10: by `exec_of_scalarTable` each instruction is an issue, whose checks come in the order of `State.issue`; EXC_ADDR 0 of
a bad fetch is the model's choice (log 18). -/
theorem issueChecks : Obligations.IssueChecks := by
  refine ⟨fun e he s t x k f hi => ?_, fun e he s t x k f ht hm hk => ?_⟩
  · obtain ⟨ok, legal, run, hx, hok⟩ := exec_of_scalarTable t f s e he
    obtain ⟨ht, hm, hk, hf⟩ := hi
    rw [hx]
    exact ⟨fun hrsv => State.issue_illegal ht hm hk hf (by rw [hok, sOk, beq_false_of_ne hrsv]; rfl),
      fun hu hp => State.issue_skip ht hm hk hf (hok.trans hu) hp⟩
  · obtain ⟨ok, legal, run, hx, -⟩ := exec_of_scalarTable t f s e he
    rw [hx]
    exact ⟨fun h => State.issue_of_fetchExc ht hm hk (State.fetchExc_misaligned h) (by decide) ..,
      fun hal h => State.issue_of_fetchExc ht hm hk (State.fetchExc_outside hal h) (by decide) ..,
      fun hal hlo hhi hpop hpoison hopc =>
        State.issue_of_fetchExc ht hm hk (State.fetchExc_unlisted hal hlo hhi hpop hpoison hopc) (by decide) ..⟩

end Sys2Proof.Machine

/-! Exceptions and control flow (O11, O24, O26): what taking an exception does, branches, the end of a cast, barriers, value waits and
hints. -/

namespace Sys2Proof.SMap

variable {α : Type}

theorem mem_of_find? {k : Nat} {v : α} : ∀ {m : SMap α}, find? k m = some v → (k, v) ∈ m
  | (j, w) :: m, h => by
    by_cases hj : k = j
    · simp [find?, hj] at h
      simp [hj, h]
    · by_cases hlt : k < j
      · simp [find?, hj, hlt] at h
      · simp only [find?, hj, hlt, if_false] at h
        exact List.mem_cons_of_mem _ (mem_of_find? h)

/-- In a sorted map each entry is what is found under its key. -/
theorem find?_of_mem {k : Nat} {v : α} : ∀ {lo : Nat} {m : SMap α}, sortedFrom lo m = true → (k, v) ∈ m →
    lo ≤ k ∧ find? k m = some v
  | lo, (j, w) :: m, hm, h => by
    simp only [sortedFrom, Bool.and_eq_true, decide_eq_true_eq] at hm
    rcases List.mem_cons.mp h with he | h
    · cases he
      exact ⟨hm.1, by simp [find?]⟩
    · obtain ⟨hlo, hf⟩ := find?_of_mem hm.2 h
      exact ⟨by omega, by simp [find?, show k ≠ j by omega, show ¬ k < j by omega, hf]⟩

/-- A value put in the place of another that a function does not tell from it leaves the list of that function's values. -/
theorem map_put_of_find? {β : Type} (f : α → β) {k : Nat} {v w : α} (hvw : f v = f w) : ∀ {m : SMap α}, find? k m = some v →
    (put k w m).map (fun e => f e.2) = m.map fun e => f e.2
  | (j, u) :: m, h => by
    by_cases hj : k = j
    · simp [find?, hj] at h
      simp [put, hj, h, hvw]
    · by_cases hlt : k < j
      · simp [find?, hj, hlt] at h
      · simp only [find?, hj, hlt, if_false] at h
        simp [put, hj, hlt, map_put_of_find? f hvw h]

theorem put_put (k : Nat) (v w : α) : ∀ m : SMap α, put k w (put k v m) = put k w m
  | [] => by simp [put]
  | (j, u) :: m => by
    by_cases hj : k = j
    · simp [put, hj]
    · by_cases hlt : k < j
      · simp [put, hj, hlt]
      · simp [put, hj, hlt, put_put k v w m]

end Sys2Proof.SMap

namespace Sys2Proof.Machine

open Sys2Proof

/-! ## Taking an exception -/

/-- The thread with the record of an exception (Table 03-12). -/
def Thread.recorded (x : Thread) (e : Exc) (a : W64) : Thread :=
  { x with excCode := e.code, excPc := x.pc, excAddr := a, excStatus := e.status.setWidth 64, wait := .ready }

/-- What an exception of a task that no handler takes does, once it is recorded: its class resets the partition or ends the cast
(Table 03-12). -/
def State.unhandled (s : State) (k : Task) (task : Nat) (e : Exc) : State :=
  if e.isJobFault then s.jobFault k.part else s.endCast task e.status true

theorem State.raise_unhandled {s : State} {x : Thread} {k : Task} (hk : s.task? x.task = some k) (hh : s.handlerOf x = none)
    (t : Tid) (e : Exc) (a : W64) : s.raise t x e a = (s.setThread t (x.recorded e a)).unhandled k x.task e := by
  have hk' : (s.setThread t (x.recorded e a)).task? x.task = some k := hk
  unfold State.raise
  dsimp only
  split
  · next h hsome => cases hh.symm.trans hsome
  · split
    · next hnone => cases hk'.symm.trans hnone
    · next k' hsome =>
      obtain rfl := Option.some.inj (hk'.symm.trans hsome)
      rfl

theorem State.handlerOf_eq {s : State} {x : Thread} {k : Task} (hk : s.task? x.task = some k) :
    s.handlerOf x = if x.inHandler then none else dHandler k.desc := by
  simp [State.handlerOf, hk]

/-- A format B instruction issued with its unused fields zero has its effect. -/
theorem State.issueB_of_issues {s : State} {t : Tid} {x : Thread} {k : Task} (hi : Issues s t x k) {f : BOp}
    (hp : (x.gov f.pred f.pneg).getLsbD 0 = true) {ok : Bool} (hok : ok = true) (run : Thread → Task → State) :
    s.issue t f.pred f.pneg ok false true run = .next (run x k) := by
  obtain ⟨ht, hm, hk, hf⟩ := hi
  exact State.issue_run ht hm hk hf hok (.inr hp) rfl

/-- Settles O11: with a handler by `State.raise_handled`, without one by `State.raise_unhandled`; the codes are those of Table 03-12. -/
theorem exceptionTaken : Obligations.ExceptionTaken := by
  refine ⟨fun s t x k e a hk => ⟨fun h hin hh => ?_, fun hno => ?_⟩, fun s t x k f hi hok hp => ?_, by decide⟩
  · exact State.raise_handled (by rw [State.handlerOf_eq hk, hin, hh]; rfl)
  · have hnone : s.handlerOf x = none := by
      rw [State.handlerOf_eq hk]
      rcases hno with h | h <;> simp [h]
    exact ⟨x.recorded e a, rfl, rfl, rfl, rfl, rfl, rfl, rfl, State.raise_unhandled hk hnone t e a⟩
  · exact State.issueB_of_issues hi hp hok _

/-! ## Branches -/

theorem brTarget_eq (x : Thread) (f : BOp) : brTarget x f = BitVec.ofInt 64 (x.pc.toNat + 8 * f.disp.toInt) := by
  rw [BitVec.ofInt_add, BitVec.ofInt_mul, BitVec.ofInt_natCast, BitVec.ofNat_toNat, BitVec.setWidth_eq]
  rfl

theorem gcoord_eq_zero_iff (v : W64) : gcoord v = 0 ↔ fld v 63 52 = 0 := by
  have hlt : fld v 63 52 < 2 ^ 12 := Nat.mod_lt _ (by decide)
  refine ⟨fun h => ?_, fun h => by rw [gcoord, h]; rfl⟩
  have h' := congrArg BitVec.toNat h
  rw [gcoord, BitVec.toNat_ofNat, Nat.mod_eq_of_lt hlt] at h'
  exact h'

theorem glocal_eq (a : W64) : glocal a = a.toNat % 2 ^ 52 := by
  rw [glocal, fld, Nat.shiftRight_zero]

theorem State.jumpTarget_own {s : State} {v : W64} (h : fld v 63 52 = 0 ∨ s.isOwn (gcoord v) = true) :
    s.jumpTarget v = BitVec.ofNat 64 (v.toNat % 2 ^ 52) := by
  rw [State.jumpTarget, if_pos (h.imp_left (gcoord_eq_zero_iff v).mpr), glocal_eq]

theorem State.jumpTarget_other {s : State} {v : W64} (h : fld v 63 52 ≠ 0) (hown : s.isOwn (gcoord v) = false) : s.jumpTarget v = v :=
  if_neg fun hor => hor.elim (fun h0 => h ((gcoord_eq_zero_iff v).mp h0)) (by simp [hown])

theorem bOk_of_zero {f : BOp} (hrsv : f.rsv = 0) {gd ga disp : Bool} (hgd : gd = true ∨ f.gd = 0) (hga : ga = true ∨ f.ga = 0)
    (hdisp : disp = true ∨ f.disp = 0) : bOk f gd ga disp = true := by
  rcases hgd with h | h <;> rcases hga with h' | h' <;> rcases hdisp with h'' | h'' <;> simp [bOk, hrsv, h, h', h'']

/-! ## Threads of a cast -/

theorem State.mem_threadsOf {s : State} {k : Nat} {e : Nat × Thread} : e ∈ s.threadsOf k ↔ e ∈ s.threads ∧ e.2.task = k := by
  simp [State.threadsOf, SMap.keep]

/-- A thread of the cast that runs and has reached no BAR keeps the others waiting (R75). -/
theorem State.barCheck_of_running {s : State} {k : Nat} {e : Nat × Thread} (he : e ∈ s.threads) (hk : e.2.task = k)
    (hend : e.2.ended = false) (hwait : e.2.wait ≠ .bar) : s.barCheck k = s := by
  refine if_neg fun hall => ?_
  have := List.all_eq_true.mp hall e (List.mem_filter.mpr ⟨State.mem_threadsOf.mpr ⟨he, hk⟩, by simp [hend]⟩)
  simp [hwait] at this

/-- What a thread becomes when the barrier of cast k opens. -/
def Thread.barred (k : Nat) (x : Thread) : Thread := if x.task = k ∧ x.wait = .bar then { x.step with wait := .ready } else x

/-- Once every live thread of the cast waits at a BAR all of them go on (R75). -/
theorem State.barCheck_of_all {s : State} {k : Nat} (h : ∀ e ∈ s.threads, e.2.task = k → e.2.ended = true ∨ e.2.wait = .bar) :
    s.barCheck k = { s with threads := SMap.mapVals (fun _ => Thread.barred k) s.threads } := by
  refine if_pos (List.all_eq_true.mpr fun e he => ?_)
  obtain ⟨hmem, hlive⟩ := List.mem_filter.mp he
  obtain ⟨hin, hk⟩ := State.mem_threadsOf.mp hmem
  have hend : e.2.ended = false := by simpa using hlive
  simpa [hend] using h e hin hk

/-! ## The end of a cast -/

/-- The status that a pass over threads collects is 0x00 or ranks before it (R9). -/
theorem worst_stOk_foldl (l : List Byte) (b : Byte) (hb : worst stOk b = b) : worst stOk (l.foldl worst b) = l.foldl worst b := by
  induction l generalizing b with
  | nil => exact hb
  | cons a l ih =>
    refine ih _ ?_
    unfold worst at hb ⊢
    split
    · next hlt =>
      refine if_pos (hlt.trans_le ?_)
      by_contra hgt
      rw [if_neg fun h => hgt h.le] at hb
      exact hgt (by rw [← hb])
    · exact hb

theorem State.uncollected_eq (s : State) (k : Nat) :
    s.uncollected k = ((s.threadsOf k).map fun e => e.2.failStatus).foldl worst stOk := by
  rw [State.uncollected, List.foldl_map]

theorem State.worst_uncollected (s : State) (k : Nat) : worst stOk (s.uncollected k) = s.uncollected k := by
  rw [State.uncollected_eq, worst_stOk_foldl _ _ rfl]

/-- Only reports of the norm watch change when a thread reports. -/
theorem State.report_eq (s : State) (k : Task) (v : W32) : ∃ parts, s.report k v = { s with parts := parts } := by
  unfold State.report
  split
  · exact ⟨s.parts, rfl⟩
  · dsimp only
    split
    · exact ⟨s.parts, rfl⟩
    · exact ⟨_, rfl⟩

/-- Waking threads that wait for an array changes no thread's task, and nothing but threads. -/
theorem State.foldl_wakeAcmd_eq (l : List Nat) (s : State) : ∃ threads, l.foldl State.wakeAcmd s = { s with threads := threads } ∧
    ∀ e ∈ threads, ∃ e' ∈ s.threads, e'.2.task = e.2.task := by
  induction l generalizing s with
  | nil => exact ⟨s.threads, rfl, fun e he => ⟨e, he, rfl⟩⟩
  | cons arr l ih =>
    obtain ⟨threads, hs, h⟩ := ih (s.wakeAcmd arr)
    refine ⟨threads, hs, fun e he => ?_⟩
    obtain ⟨e', he', htask⟩ := h e he
    obtain ⟨e'', he'', rfl⟩ := List.mem_map.mp he'
    exact ⟨e'', he'', by rw [← htask]; dsimp only; split <;> rfl⟩

/-- A cast that ends with its last END frees its slots, and its task takes in the statuses that no FENCE collected (R24, R78). -/
theorem State.endCast_graceful {s : State} {k : Nat} {x : Task} (hk : s.task? k = some x) (st : Byte) : let s' := s.endCast k st false
    s'.mem = s.mem ∧ (∀ e ∈ s'.threads, e.2.task ≠ k) ∧
      ∃ k', s'.task? k = some k' ∧ k'.status = worst x.status (worst st (s.uncollected k)) := by
  have hstatus : s.taskStatus k (worst st (s.uncollected k)) =
      s.setTask k { x with status := worst x.status (worst st (s.uncollected k)) } := by
    simp only [State.taskStatus, hk]
  obtain ⟨u, hu, hmem, hthreads, htask⟩ : ∃ u, (s.taskStatus k (worst st (s.uncollected k))).freeThreads k = u ∧ u.mem = s.mem ∧
      (∀ e ∈ u.threads, e.2.task ≠ k) ∧ u.task? k = some { x with status := worst x.status (worst st (s.uncollected k)) } := by
    rw [hstatus]
    refine ⟨_, rfl, rfl, fun e he => ?_, SMap.find?_put_self _ _ _⟩
    simpa using (List.mem_filter.mp he).2
  simp only [State.endCast, hu, htask, Bool.false_eq_true, if_false]
  obtain ⟨threads, hs, hkeep⟩ := State.foldl_wakeAcmd_eq ((u.arrays.filter fun e => e.2.owner == some k && e.2.queue.isEmpty).map Prod.fst)
    ({ u.setTask k { x with status := worst x.status (worst st (s.uncollected k)), castOver := true } with
      arrays := SMap.mapVals (fun _ a => if a.owner == some k && a.queue.isEmpty then a.freed else a) u.arrays } : State)
  refine ⟨by rw [State.setTask_arrays, hs]; exact hmem, fun e he => ?_, _, by rw [State.setTask_arrays, hs]; exact SMap.find?_put_self _ _ _, rfl⟩
  rw [State.setTask_arrays, hs] at he
  obtain ⟨e', he', htask'⟩ := hkeep e he
  exact htask' ▸ hthreads e' he'

/-- A thread's report keeps threads, tasks and memory. -/
theorem State.reported_eq (s : State) (x : Thread) (k : Task) :
    ∃ parts, (if x.tid = 0 then s.report k (BitVec.ofNat 32 (x.gr 2).toNat) else s) = { s with parts := parts } := by
  split
  · exact State.report_eq ..
  · exact ⟨s.parts, rfl⟩

/-- The statuses to collect do not tell a thread from the same thread ended. -/
theorem State.uncollected_setThread {s : State} {t : Tid} {x y : Thread} (ht : s.thread? t = some x) (htask : x.task = y.task)
    (hfail : x.failStatus = y.failStatus) (k : Nat) : (s.setThread t y).uncollected k = s.uncollected k := by
  have hcollect (s : State) : (s.threadsOf k).map (fun e => e.2.failStatus) =
      ((s.threads.map fun e => (e.2.task, e.2.failStatus)).filter fun p => p.1 == k).map Prod.snd := by
    simp only [State.threadsOf, SMap.keep, List.filter_map, List.map_map]
    rfl
  rw [State.uncollected_eq, State.uncollected_eq, hcollect, hcollect, State.setThread_threads,
    SMap.map_put_of_find? (fun x : Thread => (x.task, x.failStatus)) (by rw [htask, hfail]) ht]

section EndThread
variable {s : State} {t : Tid} {x : Thread} {k : Task} (hi : Issues s t x k)
include hi

/-- END: thread 0 reports, the thread is marked ended, and the cast ends or its barrier is looked at again (R24, R75, R131). -/
theorem exec_endThread_of_issues {f : BOp} (hp : (x.gov f.pred f.pneg).getLsbD 0 = true) (hok : bOk f false false false = true) :
    let r := if x.tid = 0 then s.report k (BitVec.ofNat 32 (x.gr 2).toNat) else s
    let u := r.setThread t { x with ended := true }
    exec (.endThread t f) s = .next (if (u.threadsOf x.task).all fun e => e.2.ended then u.endCast x.task stOk false
      else u.barCheck x.task) := by
  have hk : s.task? x.task = some k := hi.2.2.1
  refine (State.issueB_of_issues hi hp hok _).trans ?_
  simp only [hk, BitVec.ofNat_toNat]

/-- While another thread of the cast runs and has reached no BAR, an END ends its thread alone. -/
theorem exec_endThread_of_running {f : BOp} (hp : (x.gov f.pred f.pneg).getLsbD 0 = true) (hok : bOk f false false false = true)
    {u : Tid} {y : Thread} (hut : u ≠ t) (hu : s.thread? u = some y) (hy : y.task = x.task) (hend : y.ended = false)
    (hwait : y.wait ≠ .bar) : exec (.endThread t f) s =
      .next ((if x.tid = 0 then s.report k (BitVec.ofNat 32 (x.gr 2).toNat) else s).setThread t { x with ended := true }) := by
  refine (exec_endThread_of_issues hi hp hok).trans ?_
  obtain ⟨parts, hr⟩ := s.reported_eq x k
  rw [hr]
  have hmem : (tidKey u, y) ∈ (State.setThread { s with parts := parts } t { x with ended := true }).threads :=
    SMap.mem_of_find? ((State.thread?_setThread_ne _ hut _).trans hu)
  have hnot : ((State.setThread { s with parts := parts } t { x with ended := true }).threadsOf x.task).all (fun e => e.2.ended) = false :=
    List.all_eq_false.mpr ⟨_, State.mem_threadsOf.mpr ⟨hmem, hy⟩, by simp [hend]⟩
  rw [if_neg (by simp [hnot]), State.barCheck_of_running hmem hy hend hwait]

/-- The last END of a cast ends the cast. -/
theorem exec_endThread_of_last {f : BOp} (hp : (x.gov f.pred f.pneg).getLsbD 0 = true) (hok : bOk f false false false = true)
    (hsort : SMap.sorted s.threads = true) (hall : ∀ e ∈ s.threads, e.2.task = x.task → e.1 = tidKey t ∨ e.2.ended = true) :
    ∃ s', exec (.endThread t f) s = .next s' ∧ s'.mem = s.mem ∧ (∀ e ∈ s'.threads, e.2.task ≠ x.task) ∧
      ∃ k', s'.task? x.task = some k' ∧ k'.status = worst k.status (s.uncollected x.task) := by
  have ht : s.thread? t = some x := hi.1
  have hk : s.task? x.task = some k := hi.2.2.1
  obtain ⟨parts, hr⟩ := s.reported_eq x k
  have hexec := exec_endThread_of_issues hi hp hok
  rw [hr] at hexec
  have hsort' : SMap.sorted (SMap.put (tidKey t) { x with ended := true } s.threads) = true := SMap.sortedFrom_put _ (Nat.zero_le _) hsort
  have hended : ((State.setThread { s with parts := parts } t { x with ended := true }).threadsOf x.task).all (fun e => e.2.ended) = true := by
    refine List.all_eq_true.mpr fun e he => ?_
    obtain ⟨hmem, htask⟩ := State.mem_threadsOf.mp he
    by_cases hkey : e.1 = tidKey t
    · have hfind := (SMap.find?_of_mem hsort' hmem).2
      rw [hkey, SMap.find?_put_self] at hfind
      rw [← Option.some.inj hfind]
    · rcases SMap.mem_put hmem with rfl | hold
      · rfl
      · exact (hall e hold htask).resolve_left hkey
  obtain ⟨hmem, hthreads, k', hk', hstatus⟩ := State.endCast_graceful
    (s := State.setThread { s with parts := parts } t { x with ended := true }) hk stOk
  refine ⟨_, hexec.trans (by rw [if_pos hended]), hmem, hthreads, k', hk', hstatus.trans ?_⟩
  rw [State.uncollected_setThread (s := { s with parts := parts }) (y := { x with ended := true }) ht rfl rfl, State.worst_uncollected]
  rfl

end EndThread

/-- Settles O24: branches by `brTarget_eq` and `State.jumpTarget`, the returns from a handler by their effect, END by what the other
threads of the cast do. -/
theorem controlAndEnd : Obligations.ControlAndEnd := by
  refine ⟨fun s t x k f hi hp hrsv => ⟨fun hgd hga => ?_, fun hga => ?_, fun hgd hdisp => ⟨fun h => ?_, fun h hown => ?_⟩,
    fun hgd hga hdisp => ?_⟩, fun s t x k f hi hp hok hsort => ⟨?_, ?_⟩⟩
  · refine (State.issueB_of_issues hi hp (bOk_of_zero hrsv (.inr hgd) (.inr hga) (.inl rfl)) _).trans ?_
    rw [brTarget_eq]
  · refine (State.issueB_of_issues hi hp (bOk_of_zero hrsv (.inl rfl) (.inr hga) (.inl rfl)) _).trans ?_
    rw [brTarget_eq]
  · refine (State.issueB_of_issues hi hp (bOk_of_zero hrsv (.inr hgd) (.inl rfl) (.inr hdisp)) _).trans ?_
    rw [State.jumpTarget_own h]
  · refine (State.issueB_of_issues hi hp (bOk_of_zero hrsv (.inr hgd) (.inl rfl) (.inr hdisp)) _).trans ?_
    rw [State.jumpTarget_other h hown]
  · have hok : bOk f false false false = true := bOk_of_zero hrsv (.inr hgd) (.inr hga) (.inr hdisp)
    have hrun := State.issueB_of_issues hi hp hok
    refine ⟨fun hin => ⟨(hrun _).trans ?_, (hrun _).trans ?_⟩, fun hin => ⟨(hrun _).trans ?_, (hrun _).trans ?_⟩,
      _, hrun _, rfl, Nat.lt_succ_self _, rfl⟩
    · rw [if_pos hin]
    · rw [if_pos hin]
    · rw [if_neg (by simp [hin])]
    · rw [if_neg (by simp [hin])]
  · rintro ⟨u, y, hut, hu, hy, hend, hwait⟩
    exact exec_endThread_of_running hi hp hok hut hu hy hend hwait
  · exact exec_endThread_of_last hi hp hok hsort

/-! ## Registers while a thread waits

The registers of a thread do not depend on its wait, and a write of one keeps it. -/

theorem Thread.setG_setWait (x : Thread) (w : Wait) (i : BitVec 6) (v : W64) :
    Thread.setG { x with wait := w } i v = { x.setG i v with wait := w } := by
  unfold Thread.setG
  split <;> rfl

theorem Thread.setP_setWait (x : Thread) (w : Wait) (i : BitVec 3) (v : Pred) :
    Thread.setP { x with wait := w } i v = { x.setP i v with wait := w } := by
  unfold Thread.setP
  split <;> rfl

/-- A thread as a WAITV that ended leaves it: the value in GD, p7 all ones or zeros, the PC past the instruction (R76). -/
def Thread.waited (x : Thread) (gd : BitVec 6) (v : W64) (hit : Bool) : Thread :=
  { ((x.setG gd v).setP 7 (if hit then BitVec.allOnes 128 else 0)).step with wait := .ready }

theorem Thread.waited_setWait (x : Thread) (w : Wait) (gd : BitVec 6) (v : W64) (hit : Bool) :
    Thread.waited { x with wait := w } gd v hit = x.waited gd v hit := by
  rw [Thread.waited, Thread.setG_setWait, Thread.setP_setWait]
  rfl

theorem State.setThread_setThread (s : State) (t : Tid) (x y : Thread) : (s.setThread t x).setThread t y = s.setThread t y := by
  simp only [State.setThread, SMap.put_put]

/-! ## Barriers -/

theorem Thread.barred_of_waiting {k : Nat} {x : Thread} (hk : x.task = k) (hw : x.wait = .bar) :
    x.barred k = { x.step with wait := .ready } :=
  if_pos ⟨hk, hw⟩

theorem exec_bar_of_issues {s : State} {t : Tid} {x : Thread} {k : Task} (hi : Issues s t x k) {f : SOp} (hon : OnS x f { gd := false }) :
    exec (.bar t f) s = .next ((s.setThread t { x with wait := .bar }).barCheck x.task) := by
  obtain ⟨ht, hm, hk, hf⟩ := hi
  exact State.issue_run ht hm hk hf hon.1 (.inr hon.2) rfl

/-- Every slot number below 16,384 is a thread's. -/
theorem exists_tidKey {n : Nat} (h : n < 16384) : ∃ u, tidKey u = n :=
  ⟨⟨⟨n / 64, by omega⟩, ⟨n % 64, by omega⟩⟩, by simp only [tidKey]; omega⟩

/-! ## Value waits -/

section Near
variable {s : State} {t : Tid} {x : Thread} {k : Task} {a : W64} {n : Nat}

/-- A near read that nothing holds gives the bytes of memory and changes nothing. -/
theorem State.homeRead_of_loadsNow (h : LoadsNow s t x k a n) (p : Nat) (reader : List Nat) :
    s.homeRead p reader (glocal a) n = (s, .bytes (s.bytes (glocal a) n)) := by
  obtain ⟨-, -, -, -, hwin, hpoison⟩ := h
  simp [State.homeRead, hwin, hpoison]

/-- What a thread may load does not depend on the threads. -/
theorem loadsNow_setThread (h : LoadsNow s t x k a n) (u : Tid) (y : Thread) : LoadsNow (s.setThread u y) t x k a n := h

@[simp] theorem State.setThread_bytes (s : State) (t : Tid) (x : Thread) (a n : Nat) : (s.setThread t x).bytes a n = s.bytes a n := rfl

/-- A poll of a near flag at hand brings its value to the thread. -/
theorem State.poll_of_loadsNow (h : LoadsNow s t x k a 8) (hal : a.toNat % 8 = 0) {y : Thread} (hy : y.task = x.task) :
    s.poll t y k a = s.pollValue t y (BitVec.ofNat 64 (leNat (s.bytes (glocal a) 8))) := by
  obtain ⟨hown, hload, horder, hheld, -, -⟩ := id h
  simp [State.poll, hal, State.resolve_of_isOwn hown, hload, horder, hy, hheld, State.homeRead_of_loadsNow h, leWord]

end Near

theorem State.pollValue_of_waiting (s : State) (t : Tid) (x : Thread) (gd : Nat) (a e last : W64) (polled once : Bool) (v : W64) :
    s.pollValue t { x with wait := .waitv gd a e last polled once } v =
      s.setThread t (if v = e ∨ once = true then x.waited (BitVec.ofNat 6 gd) v (v == e)
        else { x with wait := .waitv gd a e v true once }) := by
  simp only [State.pollValue]
  split
  · exact congrArg _ (x.waited_setWait _ _ _ _)
  · rfl

theorem exec_waitv_of_issues {s : State} {t : Tid} {x : Thread} {k : Task} (hi : Issues s t x k) {f : SOp}
    (hon : OnS x f { gd := true, ga := true, gb := true, gc := true }) :
    let y := { x with wait := .waitv f.gd.toNat (x.gr f.ga) (x.gr f.gb) 0 false (x.gr f.gc == 0) }
    exec (.waitv t f) s = .next ((s.setThread t y).poll t y k (x.gr f.ga)) := by
  obtain ⟨ht, hm, hk, hf⟩ := hi
  have hready : x.wait = .ready := by
    simp only [State.mayIssue, Bool.and_eq_true, beq_iff_eq] at hm
    exact hm.1.2
  change execWaitv t f s = _
  unfold execWaitv
  simp only [ht, hready]
  exact State.issue_run ht hm hk hf hon.1 (.inr hon.2) rfl

/-- A WAITV of a near flag at hand is one poll of it. -/
theorem exec_waitv_near {s : State} {t : Tid} {x : Thread} {k : Task} (hi : Issues s t x k) {f : SOp}
    (hon : OnS x f { gd := true, ga := true, gb := true, gc := true }) (hal : (x.gr f.ga).toNat % 8 = 0)
    (h : LoadsNow s t x k (x.gr f.ga) 8) : let v := BitVec.ofNat 64 (leNat (s.bytes (glocal (x.gr f.ga)) 8))
      exec (.waitv t f) s = .next (s.setThread t (if v = x.gr f.gb ∨ (x.gr f.gc == 0) = true then x.waited f.gd v (v == x.gr f.gb)
        else { x with wait := .waitv f.gd.toNat (x.gr f.ga) (x.gr f.gb) v true (x.gr f.gc == 0) })) := by
  intro v
  let y : Thread := { x with wait := .waitv f.gd.toNat (x.gr f.ga) (x.gr f.gb) 0 false (x.gr f.gc == 0) }
  have hpoll : (s.setThread t y).poll t y k (x.gr f.ga) = (s.setThread t y).pollValue t y v := by
    rw [State.poll_of_loadsNow (loadsNow_setThread h t y) hal (y := y) rfl, State.setThread_bytes]
  refine (exec_waitv_of_issues hi hon).trans (congrArg _ (hpoll.trans ?_))
  rw [State.pollValue_of_waiting, State.setThread_setThread, BitVec.ofNat_toNat, BitVec.setWidth_eq]

/-! ## Hints -/

theorem exec_flyhint_of_issues {s : State} {t : Tid} {x : Thread} {k : Task} (hi : Issues s t x k) {f : SOp}
    (hon : OnS x f { ga := true, gb := true }) : let u := s.setThread t x.step
      exec (.flyhint t f) s = .next (if (x.gr f.gb).toNat = 0 then u
        else if s.isOwn (gcoord (x.gr f.ga)) && s.inAllocs k.part (glocal (x.gr f.ga)) (x.gr f.gb).toNat &&
          !s.engineDue (t.core.val % 16) && s.updating != some (t.core.val % 16) then u
        else u.count .droppedHints k.part) := by
  obtain ⟨ht, hm, hk, hf⟩ := hi
  exact State.issue_run ht hm hk hf hon.1 (.inr hon.2) rfl

section Bar
variable {s : State} {t : Tid} {x : Thread} {k : Task} (hi : Issues s t x k) {f : SOp} (hon : OnS x f { gd := false })

/-- Once the others have ended or wait at a BAR, the thread that reaches one leaves no live thread of the cast on the way. -/
theorem State.all_barred (hothers : ∀ u y, u ≠ t → s.thread? u = some y → y.task = x.task → y.ended = true ∨ y.wait = .bar)
    (hsort : SMap.sorted s.threads = true) (hslots : ∀ e ∈ s.threads, e.1 < 16384) :
    ∀ e ∈ (s.setThread t { x with wait := .bar }).threads, e.2.task = x.task → e.2.ended = true ∨ e.2.wait = .bar := by
  intro e he htask
  rcases SMap.mem_put he with rfl | hold
  · exact .inr rfl
  · obtain ⟨u, hu⟩ := exists_tidKey (hslots e hold)
    have hfind : (s.setThread t { x with wait := .bar }).thread? u = some e.2 := by
      rw [State.thread?, hu]
      exact (SMap.find?_of_mem (SMap.sortedFrom_put _ (Nat.zero_le _) hsort) he).2
    by_cases hut : u = t
    · rw [hut, State.thread?_setThread] at hfind
      exact .inr (by rw [← Option.some.inj hfind])
    · rw [State.thread?_setThread_ne s hut] at hfind
      exact hothers u e.2 hut hfind htask

include hi hon in
/-- The last thread of a cast to reach its BAR lets all go on. -/
theorem exec_bar_of_last (hothers : ∀ u y, u ≠ t → s.thread? u = some y → y.task = x.task → y.ended = true ∨ y.wait = .bar)
    (hsort : SMap.sorted s.threads = true) (hslots : ∀ e ∈ s.threads, e.1 < 16384) : ∃ s', exec (.bar t f) s = .next s' ∧
      s'.mem = s.mem ∧ ∀ u, s'.thread? u = ((s.setThread t { x with wait := .bar }).thread? u).map (Thread.barred x.task) :=
  ⟨_, (exec_bar_of_issues hi hon).trans (congrArg _ (State.barCheck_of_all (State.all_barred hothers hsort hslots))), rfl,
    fun u => SMap.find?_mapVals (fun _ => Thread.barred x.task) (tidKey u) _⟩

end Bar

/-- Settles O26: BAR by `State.barCheck_of_running` and `exec_bar_of_last`, WAITV by the one poll of a near flag, FLYHINT by
`exec_flyhint_of_issues`. -/
theorem barriersWaitsAndHints : Obligations.BarriersWaitsAndHints := by
  refine ⟨fun s t x k f hi hon => ⟨?_, fun hothers hsort hslots => ?_⟩,
    ⟨fun s t x k f hi hon hal hload => ?_, fun s t x gd a e v once ht hw hwork hpoll => ?_⟩, fun s t x k f hi hon => ?_⟩
  · rintro ⟨u, y, hut, hu, hy, hend, hwait⟩ -
    have hmem := SMap.mem_of_find? ((State.thread?_setThread_ne s hut { x with wait := .bar }).trans hu)
    rw [exec_bar_of_issues hi hon, State.barCheck_of_running hmem hy hend hwait]
  · obtain ⟨s', hx, hmem, hthread⟩ := exec_bar_of_last hi hon hothers hsort hslots
    refine ⟨s', hx, hmem, ?_, fun u y hut hu hy hw _ => ?_⟩
    · rw [hthread, State.thread?_setThread]
      exact congrArg some (if_pos ⟨rfl, rfl⟩)
    · rw [hthread, State.thread?_setThread_ne s hut, hu, Option.map_some, Thread.barred_of_waiting hy hw]
      rfl
  · rw [exec_waitv_near hi hon hal hload]
    refine ⟨fun hend => ⟨_, rfl, ?_, rfl⟩, fun hne hgc => ⟨_, rfl, rfl, ?_⟩⟩
    · rw [State.thread?_setThread, if_pos (hend.imp_right beq_iff_eq.mpr)]
      simp only [Thread.waited, beq_iff_eq]
    · have hgc' : (x.gr f.gc == 0) = false := beq_false_of_ne hgc
      rw [State.thread?_setThread, hgc', if_neg (fun h => h.elim hne (by decide))]
  · change execWaitvTimeout t s = _
    simp only [execWaitvTimeout, ht, hw, hwork, hpoll]
    rfl
  · rw [exec_flyhint_of_issues hi hon]
    refine ⟨_, rfl, ?_, fun hn hdrop => ?_⟩
    · split
      · exact .inl rfl
      · split
        · exact .inl rfl
        · exact .inr rfl
    · have hn' : (x.gr f.gb).toNat ≠ 0 := fun h => hn (BitVec.eq_of_toNat_eq h)
      rw [if_neg hn', if_neg]
      rcases hdrop with h | h <;> simp [h]

end Sys2Proof.Machine

/-! Near loads, stores and atomics (O12, O14, O15): what an access that nothing holds brings and leaves, and what an acquire drops. -/

namespace Sys2Proof.Machine

open Sys2Proof

/-! ## Bytes of words -/

/-- Byte i of the number that bytes spell. -/
theorem leNat_shiftRight (bs : List Byte) (i : Nat) : BitVec.ofNat 8 (leNat bs >>> (8 * i)) = bs.getD i 0 := by
  refine BitVec.eq_of_toNat_eq ?_
  rw [BitVec.toNat_ofNat, Nat.shiftRight_eq_div_pow, Nat.pow_mul]
  exact leNat_digit bs i

/-- A word of w bits holds the bytes it was made of. -/
theorem leWord_byte {w : Nat} {bs : List Byte} (h : 8 * bs.length = w) (i : Nat) :
    BitVec.ofNat 8 ((leWord w bs).toNat >>> (8 * i)) = bs.getD i 0 := by
  have hlt := leNat_lt bs
  rw [show 256 = 2 ^ 8 from rfl, ← Nat.pow_mul, h] at hlt
  rw [leWord, BitVec.toNat_ofNat, Nat.mod_eq_of_lt hlt, leNat_shiftRight]

/-- Byte i of the bytes of a number. -/
theorem bytesLE_getD (n v : Nat) {i : Nat} (h : i < n) : (bytesLE n v).getD i 0 = BitVec.ofNat 8 (v >>> (8 * i)) := by
  induction n generalizing v i with
  | zero => omega
  | succ n ih =>
    cases i with
    | zero => rfl
    | succ i =>
      rw [bytesLE, List.getD_cons_succ, ih _ (by omega), Nat.mul_succ, Nat.add_comm (8 * i) 8, Nat.shiftRight_add,
        Nat.shiftRight_eq_div_pow v 8]

/-! ## Near loads -/

section Load
variable {s : State} {t : Tid} {x : Thread} {k : Task} {a : W64} {n align : Nat}

/-- A near load that nothing holds has its bytes at once; beside what an acquire does first nothing changes. -/
theorem State.threadLoad_of_loadsNow (h : LoadsNow s t x k a n) (hal : a.toNat % align = 0) {pre : State → State}
    (hmem : (pre s).mem = s.mem) (hpoison : (pre s).poison = s.poison) (kind : Nat → PendKind) :
    s.threadLoad t x k a n align pre kind = (pre s, some (s.bytes (glocal a) n)) := by
  obtain ⟨hown, hload, horder, hheld, hwin, hclean⟩ := h
  have hclean' : (pre s).poisonAt (glocal a) n = none := by rw [State.poisonAt, hpoison]; exact hclean
  have hbytes : (pre s).bytes (glocal a) n = s.bytes (glocal a) n := by simp only [State.bytes, State.byte, hmem]
  simp [State.threadLoad, hal, State.resolve_of_isOwn hown, hload, horder, hheld, State.homeRead, hwin, hclean', hbytes]

end Load

section LoadInstructions
variable {s : State} {t : Tid} {x : Thread} {k : Task} (hi : Issues s t x k)
include hi

theorem exec_ld_near {f : MOp} (hrsv : f.rsv = 0) (hord : f.ord.toNat ≤ 1) (hrlx : f.rlx = false) (hsz : f.sz.toNat ≤ 3)
    (hp : (x.gov f.pred f.pneg).getLsbD 0 = true) (hal : (mAddr x f).toNat % mSize f = 0) (h : LoadsNow s t x k (mAddr x f) (mSize f)) :
    exec (.ld t f) s = .next (s.setThread t (x.setG f.gd (leWord 64 (s.bytes (glocal (mAddr x f)) (mSize f)))).step) := by
  obtain ⟨ht, hm, hk, hf⟩ := hi
  refine (State.issue_run ht hm hk hf (by simp [hrsv, hrlx]) (.inr hp) (by simp [hsz, hord])).trans ?_
  rw [State.threadLoad_of_loadsNow h hal rfl rfl]
  rfl

theorem exec_ldv_near {f : MOp} (hrsv : f.rsv = 0) (hord : f.ord.toNat ≤ 1) (hrlx : f.rlx = false) (hsz : f.sz = 4)
    (hgd : f.gd.getLsbD 0 = false) (hal : (mAddr x f).toNat % 64 = 0) (h : LoadsNow s t x k (mAddr x f) 512) :
    exec (.ldv t f) s = .next (s.setThread t (x.setV (mVec f)
      (loadLanes (x.vr (mVec f)) (x.gov f.pred f.pneg) (s.bytes (glocal (mAddr x f)) 512))).step) := by
  obtain ⟨ht, hm, hk, hf⟩ := hi
  refine (State.issue_run ht hm hk hf (by simp [hrsv, hrlx]) (.inl rfl) (by rw [hsz, hgd]; simp [hord])).trans ?_
  dsimp only
  rw [State.threadLoad_of_loadsNow h hal rfl rfl]
  rfl

end LoadInstructions

/-- A vector load takes the bytes of the elements whose predicate bit holds and keeps the others (R62). -/
theorem loadLanes_byte (old : VReg) (mask : Pred) (body : List Byte) {i : Nat} (h : i < 512) :
    BitVec.ofNat 8 ((loadLanes old mask body).toNat >>> (8 * i)) =
      if mask.getLsbD (i / 4) then body.getD i 0 else BitVec.ofNat 8 (old.toNat >>> (8 * i)) := by
  rw [loadLanes, leWord_byte (by simp)]
  simp [List.getD_eq_getElem?_getD, h]

/-! ## Acquires -/

section Acquire
variable (s : State) (die : Nat) (b n : W64)

theorem State.acquireDrop_zero : s.acquireDrop die b 0 = s := if_pos rfl

@[simp] theorem State.acquireDrop_mem : (s.acquireDrop die b n).mem = s.mem := by
  unfold State.acquireDrop
  split <;> rfl

@[simp] theorem State.acquireDrop_poison : (s.acquireDrop die b n).poison = s.poison := by
  unfold State.acquireDrop
  split <;> rfl

/-- What an acquire drops: the far lines of its die that meet its range (R39, R66). -/
theorem State.cached?_acquireDrop {s : State} (hs : SMap.sorted s.lines = true) (hn : n ≠ 0) (d : Nat) {line : Nat} (h : line < 2 ^ 58) :
    (s.acquireDrop die b n).cached? d line =
      if d == die && s.lineFar line && acquireMeets b n (line * 64) 64 then none else s.cached? d line := by
  rw [← State.cached?_dropLines hs (fun d l => d == die && s.lineFar l && acquireMeets b n (l * 64) 64) h, State.acquireDrop, if_neg hn]
  rfl

end Acquire

/-- A line meets a range that is not everything where it shares a byte with it, the range rounded outwards to lines. -/
theorem acquireMeets_line {b n : W64} (hpos : 0 < n.toNat) (hall : n ≠ BitVec.allOnes 64) (line : Nat) :
    acquireMeets b n (line * 64) 64 = decide (b.toNat / 64 ≤ line ∧ line * 64 < b.toNat + n.toNat) := by
  rw [acquireMeets, beq_false_of_ne hall, Bool.false_or, overlap, ← Bool.decide_and, ← Bool.decide_and, ← Bool.decide_and]
  exact decide_eq_decide.mpr (by omega)

/-- Two instructions whose checks agree, and whose effects agree on the thread that issues, are one. -/
theorem State.issue_congr {s : State} {t : Tid} {x : Thread} (ht : s.thread? t = some x) {pred : BitVec 3}
    {neg always ok ok' legal legal' : Bool} {run run' : Thread → Task → State} (hok : ok = ok') (hlegal : legal = legal')
    (hrun : ∀ k, run x k = run' x k) : s.issue t pred neg ok always legal run = s.issue t pred neg ok' always legal' run' := by
  simp only [State.issue, ht, hok, hlegal, hrun]

/-- LDAI of no range is an LD of 8 bytes with ORD 01 (R66). -/
theorem exec_ldai_of_no_range {s : State} {t : Tid} {x : Thread} {f : SOp} (ht : s.thread? t = some x) (hgc : x.gr f.gc = 0)
    (hok : sOk f { gd := true, ga := true, gb := true, gc := true } = true) :
    exec (.ldai t f) s = exec (.ld t { pred := f.pred, pneg := f.pneg, gd := f.gd, ga := f.ga, sz := 3, ord := 1 }) s := by
  refine State.issue_congr ht (by simp [hok]) (by simp) fun k => ?_
  have haddr : mAddr x { pred := f.pred, pneg := f.pneg, gd := f.gd, ga := f.ga, sz := 3, ord := 1 } = x.gr f.ga := by simp [mAddr]
  have hpre : (fun s : State => s.acquireDrop (t.core.val / 64) (x.gr f.gb) (x.gr f.gc)) = id :=
    funext fun s => by rw [hgc, State.acquireDrop_zero, id]
  rw [haddr, hpre]
  rfl

theorem exec_ldai_near {s : State} {t : Tid} {x : Thread} {k : Task} (hi : Issues s t x k) {f : SOp}
    (hon : OnS x f { gd := true, ga := true, gb := true, gc := true }) (hal : (x.gr f.ga).toNat % 8 = 0)
    (h : LoadsNow s t x k (x.gr f.ga) 8) : exec (.ldai t f) s =
      .next ((s.acquireDrop (t.core.val / 64) (x.gr f.gb) (x.gr f.gc)).setThread t
        (x.setG f.gd (leWord 64 (s.bytes (glocal (x.gr f.ga)) 8))).step) := by
  obtain ⟨ht, hm, hk, hf⟩ := hi
  refine (State.issue_run ht hm hk hf hon.1 (.inr hon.2) rfl).trans ?_
  rw [State.threadLoad_of_loadsNow h hal (State.acquireDrop_mem ..) (State.acquireDrop_poison ..)]

/-- Settles O14: what is dropped is `State.cached?_acquireDrop`; with no range LDAI is LD, and a near one at hand loads at once. -/
theorem acquireWithInvalidate : Obligations.AcquireWithInvalidate := by
  refine ⟨⟨fun s t x f ht hgc hok => exec_ldai_of_no_range ht hgc hok, fun s die line b n w hs hline hw => ?_⟩,
    fun s t x k f hi hon hal h => exec_ldai_near hi hon hal h⟩
  by_cases hn : n = 0
  · subst hn
    rw [State.acquireDrop_zero]
    exact ⟨fun _ _ => rfl, fun _ => hw, fun _ => ⟨fun _ => hw, fun h => absurd h (by decide), fun h => absurd h (by decide)⟩⟩
  · have hcached := fun d => State.cached?_acquireDrop die b n hs hn d hline
    refine ⟨fun d' hd => ?_, fun hfar => ?_, fun hfar => ⟨fun h0 => absurd h0 hn, fun hall => ?_, fun hpos hall => ?_⟩⟩
    · rw [hcached, beq_false_of_ne hd]
      rfl
    · rw [hcached, hfar, hw, Bool.and_false]
      rfl
    · have hall' : (n == BitVec.allOnes 64) = true := by rw [hall]; rfl
      rw [hcached, hfar, acquireMeets, hall']
      simp
    · rw [hcached, hfar, hw, acquireMeets_line hpos hall]
      simp

/-! ## Stores of several pieces -/

theorem windowOf_below_control {l : Nat} (h : l < baseCtl) : windowOf l ≠ .control := by
  unfold windowOf
  have hne : ¬ (baseCtl ≤ l ∧ l < baseCtl + 0x10000000) := fun hc => absurd hc.1 (Nat.not_le.mpr h)
  simp only [hne, if_false]
  repeat' split
  all_goals simp

theorem below_control_of_windowOf {l : Nat} (hctl : windowOf l ≠ .control) (hres : windowOf l ≠ .reserved) : l < baseCtl := by
  by_contra hge
  unfold windowOf baseD basePin baseTile at hctl hres
  unfold baseCtl at hge hctl hres
  rw [if_neg (by omega), if_neg (by omega), if_neg (by omega), if_neg (by omega)] at hctl hres
  split at hctl
  · exact hctl rfl
  · next h => exact hres (if_neg h)

/-- Neither the control window nor a reserved one is part of another window. -/
theorem sameWindow_eq {v w : Window} (h : sameWindow v w = true) (hv : w = .control ∨ w = .reserved) : v = w := by
  rcases hv with rfl | rfl <;> cases v <;> simp_all [sameWindow]

/-- A populated range outside the control window ends below it: a range lies in one window (R31). -/
theorem State.populated_below_control {s : State} {l n : Nat} (h : s.populated l n = true) (hwin : windowOf l ≠ .control) :
    l + n ≤ baseCtl := by
  simp only [State.populated, Bool.and_eq_true, decide_eq_true_eq] at h
  obtain ⟨⟨hn, hsame⟩, hpop⟩ := h
  have hres : windowOf l ≠ .reserved := fun hres => by simp [hres] at hpop
  have := below_control_of_windowOf (l := l + n - 1) (fun he => hwin ((sameWindow_eq hsame (.inl he)).trans he))
    (fun he => hres ((sameWindow_eq hsame (.inr he)).trans he))
  omega

/-- A pair of an offset and a length stands for the bytes of a register from there. -/
def sliceBytes (v : VReg) (p : Nat × Nat) : List Byte := bytesLE p.2 (v.toNat >>> (8 * p.1))

/-- The slices of two elements, the first of number e. -/
def pairSlices (mask : Pred) (e : Nat) : List (Nat × Nat) :=
  if mask.getLsbD e && mask.getLsbD (e + 1) then [(4 * e, 8)]
  else (if mask.getLsbD e then [(4 * e, 4)] else []) ++ (if mask.getLsbD (e + 1) then [(4 * e + 4, 4)] else [])

/-- The slices of one line of 16 elements. -/
def lineSlices (mask : Pred) (ln : Nat) : List (Nat × Nat) :=
  if (List.range 16).all fun i => mask.getLsbD (16 * ln + i) then [(64 * ln, 64)]
  else (List.range 8).flatMap fun j => pairSlices mask (16 * ln + 2 * j)

/-- The slices of a vector register that a store under a predicate makes its pieces (R33, R62). -/
def vecSlices (mask : Pred) : List (Nat × Nat) :=
  if mask = BitVec.allOnes 128 then [(0, 512)] else (List.range 8).flatMap (lineSlices mask)

theorem vecPieces_eq (a : W64) (v : VReg) (mask : Pred) :
    vecPieces a v mask = (vecSlices mask).map fun p => (a + BitVec.ofNat 64 p.1, sliceBytes v p) := by
  unfold vecPieces vecSlices lineSlices pairSlices
  simp only [List.map_flatMap, apply_ite (List.map _), List.map_append, List.map_cons, List.map_nil]
  rfl

/-- Whether a slice holds byte i. -/
def covered (ps : List (Nat × Nat)) (i : Nat) : Bool := ps.any fun p => decide (p.1 ≤ i ∧ i < p.1 + p.2)

theorem covered_append (ps qs : List (Nat × Nat)) (i : Nat) : covered (ps ++ qs) i = (covered ps i || covered qs i) := List.any_append

theorem covered_singleton (lo n i : Nat) : covered [(lo, n)] i = decide (lo ≤ i ∧ i < lo + n) := by simp [covered]

/-- What slices of a part of a register are to cover: of the bytes from lo to hi those of the elements whose predicate bit holds. -/
structure Slices (mask : Pred) (lo hi : Nat) (ps : List (Nat × Nat)) : Prop where
  bound : ∀ p ∈ ps, 0 < p.2 ∧ lo ≤ p.1 ∧ p.1 + p.2 ≤ hi
  cover : ∀ i, lo ≤ i → i < hi → covered ps i = mask.getLsbD (i / 4)

section Slices
variable {mask : Pred} {lo mid hi : Nat} {ps qs : List (Nat × Nat)}

/-- Slices of a part hold no byte of another. -/
theorem Slices.covered_outside (h : Slices mask lo hi ps) {i : Nat} (hi : i < lo ∨ hi ≤ i) : covered ps i = false :=
  List.any_eq_false.mpr fun p hp => by
    have := h.bound p hp
    simp only [decide_eq_true_eq]
    omega

/-- One slice covers a part whose every predicate bit holds. -/
theorem Slices.whole {n : Nat} (hn : 0 < n) (hhi : hi = lo + n) (h : ∀ i, lo ≤ i → i < hi → mask.getLsbD (i / 4) = true) :
    Slices mask lo hi [(lo, n)] := by
  refine ⟨fun p hp => ?_, fun i hlo hi => ?_⟩
  · rw [List.mem_singleton.mp hp]
    exact ⟨hn, le_rfl, hhi.ge⟩
  · rw [h i hlo hi, covered_singleton]
    exact decide_eq_true ⟨hlo, hhi ▸ hi⟩

/-- The slices of two parts side by side are slices of both. -/
theorem Slices.append (hp : Slices mask lo mid ps) (hq : Slices mask mid hi qs) (hlo : lo ≤ mid) (hhi : mid ≤ hi) :
    Slices mask lo hi (ps ++ qs) := by
  refine ⟨fun p h => ?_, fun i hi1 hi2 => ?_⟩
  · rcases List.mem_append.mp h with h | h
    · have := hp.bound p h
      omega
    · have := hq.bound p h
      omega
  · rw [covered_append]
    rcases Nat.lt_or_ge i mid with h | h
    · rw [hp.cover i hi1 h, hq.covered_outside (.inl h), Bool.or_false]
    · rw [hq.cover i h hi2, hp.covered_outside (.inr h), Bool.false_or]

end Slices

theorem Slices.flatMap {mask : Pred} {f : Nat → List (Nat × Nat)} {lo w : Nat} (m : Nat)
    (h : ∀ j, Slices mask (lo + w * j) (lo + w * j + w) (f j)) : Slices mask lo (lo + w * m) ((List.range m).flatMap f) := by
  induction m with
  | zero => exact ⟨fun _ hp => absurd hp (by simp), fun i h1 h2 => by omega⟩
  | succ m ih =>
    rw [List.range_succ, List.flatMap_append, List.flatMap_singleton]
    have hm := h m
    rw [Nat.add_assoc, ← Nat.mul_succ] at hm
    exact ih.append hm (by omega) (by rw [Nat.mul_succ]; omega)

theorem elementSlices_slices (mask : Pred) (e : Nat) :
    Slices mask (4 * e) (4 * e + 4) (if mask.getLsbD e then [(4 * e, 4)] else []) := by
  have hidx {i : Nat} (h1 : 4 * e ≤ i) (h2 : i < 4 * e + 4) : i / 4 = e := by omega
  split
  · next h => exact .whole (by decide) rfl fun i h1 h2 => by rw [hidx h1 h2, h]
  · next h => exact ⟨fun _ hp => absurd hp (by simp), fun i h1 h2 => by rw [hidx h1 h2, Bool.eq_false_of_not_eq_true h]; rfl⟩

theorem pairSlices_slices (mask : Pred) (e : Nat) : Slices mask (4 * e) (4 * e + 8) (pairSlices mask e) := by
  unfold pairSlices
  split
  · next h =>
    obtain ⟨h0, h1⟩ := Bool.and_eq_true_iff.mp h
    refine .whole (by decide) rfl fun i hlo hhi => ?_
    obtain he | he : i / 4 = e ∨ i / 4 = e + 1 := by omega
    · rw [he, h0]
    · rw [he, h1]
  · exact (elementSlices_slices mask e).append (elementSlices_slices mask (e + 1)) (by omega) (by omega)

theorem lineSlices_slices (mask : Pred) (ln : Nat) : Slices mask (64 * ln) (64 * ln + 64) (lineSlices mask ln) := by
  unfold lineSlices
  split
  · next h =>
    refine .whole (by decide) rfl fun i hlo hhi => ?_
    have hbit := List.all_eq_true.mp h (i / 4 - 16 * ln) (List.mem_range.mpr (by omega))
    rwa [show 16 * ln + (i / 4 - 16 * ln) = i / 4 by omega] at hbit
  · exact Slices.flatMap (w := 8) 8 fun j => by
      have := pairSlices_slices mask (16 * ln + 2 * j)
      rwa [show 4 * (16 * ln + 2 * j) = 64 * ln + 8 * j by omega] at this

/-- The slices of a register cover the elements whose predicate bit holds. -/
theorem vecSlices_slices (mask : Pred) : Slices mask 0 512 (vecSlices mask) := by
  unfold vecSlices
  split
  · next h =>
    refine .whole (by decide) rfl fun i _ hi => ?_
    rw [h, BitVec.getLsbD_allOnes]
    exact decide_eq_true (by omega)
  · exact Slices.flatMap (lo := 0) (w := 64) 8 fun ln => by simpa using lineSlices_slices mask ln

/-- A byte of memory after a store. -/
theorem byte_writeMem_eq {s : State} (hmem : Memory.wf s.mem = true) (a : Nat) (bs : List Byte) (b : Nat) (input : Nat := inputOwn) :
    (s.writeMem a bs input).byte b = if a ≤ b ∧ b < a + bs.length then bs.getD (b - a) 0 else s.byte b := by
  split
  · next h =>
    have := byte_writeMem s a bs (b - a) hmem (by omega)
    rw [Nat.add_sub_cancel' h.1] at this
    rw [List.getD_eq_getElem _ _ (by omega)]
    exact this
  · next h => exact byte_writeMem_frame s a bs b hmem (by omega)

/-- Memory after slices of a register are stored: the register's bytes where a slice covers, the old bytes elsewhere. -/
theorem byte_writeSlices {s : State} (hmem : Memory.wf s.mem = true) (l : Nat) (v : VReg) (ps : List (Nat × Nat)) (b : Nat) :
    (ps.foldl (fun s p => s.writeMem (l + p.1) (sliceBytes v p)) s).byte b =
      if l ≤ b ∧ covered ps (b - l) = true then BitVec.ofNat 8 (v.toNat >>> (8 * (b - l))) else s.byte b := by
  induction ps generalizing s with
  | nil => exact (if_neg fun h => Bool.false_ne_true h.2).symm
  | cons p ps ih =>
    rw [List.foldl_cons, ih (Memory.wf_writeMem s _ _ hmem), byte_writeMem_eq hmem, sliceBytes, bytesLE_length, ← List.singleton_append,
      covered_append, covered_singleton]
    by_cases hps : l ≤ b ∧ covered ps (b - l) = true
    · rw [if_pos hps, if_pos ⟨hps.1, by rw [hps.2, Bool.or_true]⟩]
    · rw [if_neg hps]
      by_cases hp : l + p.1 ≤ b ∧ b < l + p.1 + p.2
      · rw [if_pos hp, bytesLE_getD _ _ (by omega), if_pos ⟨by omega, by simp; omega⟩, ← Nat.shiftRight_add, ← Nat.mul_add]
        congr 3
        omega
      · rw [if_neg hp, if_neg]
        rintro ⟨hl, hor⟩
        rcases Bool.or_eq_true_iff.mp hor with h | h
        · exact hp (by rw [decide_eq_true_eq] at h; omega)
        · exact hps ⟨hl, h⟩

/-! ## Near stores -/

section Store
variable {s : State} {t : Tid} {x : Thread} {k : Task} {a : W64} {n align : Nat} {ps : List (W64 × List Byte)} {release : Bool}

/-- A near store whose checks pass and whose release need not wait is performed at once. -/
theorem State.threadStore_of_storesNow (h : StoresNow s t x k a n) (hal : a.toNat % align = 0)
    (hrel : release = true → s.releaseReady t k a true = true) (relaxed : Bool) :
    s.threadStore t x k a n align ps release relaxed = s.storeNow t x k a n (if relaxed then 1 else 0) ps .held := by
  obtain ⟨hown, hstore, hwrites, -⟩ := h
  have hmay : s.taskMayStore k (glocal a) n = true := by simp [State.taskMayStore, hstore]
  have hgo : (release && !s.releaseReady t k a true) = false := by
    cases hr : release
    · rfl
    · simp [hrel hr]
  simp [State.threadStore, hal, State.resolve_of_isOwn hown, hmay, hwrites, hgo]

end Store

section Pieces
variable {s : State} {t : Tid} {x : Thread} {k : Task}

/-- A store of pieces to lines that nobody else holds, outside the control window, is performed at once, as memory. -/
theorem State.homeTry_pieces_unshared {ps : List (Nat × List Byte)} (hwin : ∀ p ∈ ps, windowOf p.1 ≠ .control)
    (hdir : ∀ p ∈ ps, ∀ e ∈ s.fab.directory, overlap (e.1 * 64) 64 p.1 p.2.length = false) (p : Nat) (reader : List Nat)
    (except : Option Nat) (l : Nat) (act : HomeAct) : s.homeTry p reader except l (.store ps) act =
      (ps.foldl (fun s e => s.writeMem e.1 e.2 act.input) s, .done stOk []) := by
  have hcopies : ((HomeOp.store ps).writes l).flatMap (fun e => s.copies e.1 e.2 except) = [] := by
    refine List.flatMap_eq_nil_iff.mpr fun e he => ?_
    obtain ⟨q, hq, rfl⟩ := List.mem_map.mp he
    exact State.copies_of_unshared (hdir q hq) except
  have hput : ps.foldl (fun s e => s.putHere e.1 e.2 act.input) s = ps.foldl (fun s e => s.writeMem e.1 e.2 act.input) s :=
    List.foldl_ext _ _ _ fun s e he => if_neg (hwin e he)
  simp only [State.homeTry, hcopies, List.foldl_nil, List.isEmpty_nil, if_true, State.homeGo, hput]

/-- Stores of pieces change memory, its errors and the notes of tile stores alone. -/
theorem State.foldl_writeMem_eq {α : Type} (f : α → Nat) (g : α → List Byte) (input : Nat) (ps : List α) (s : State) :
    ∃ mem poison tile, ps.foldl (fun s p => s.writeMem (f p) (g p) input) s =
      { s with mem := mem, poison := poison, tileWrites := tile } := by
  induction ps generalizing s with
  | nil => exact ⟨s.mem, s.poison, s.tileWrites, rfl⟩
  | cons p ps ih =>
    obtain ⟨mem, poison, tile, h⟩ := ih (s.writeMem (f p) (g p) input)
    exact ⟨mem, poison, tile, h⟩

theorem glocal_add {a : W64} {off : Nat} (h : glocal a + off < 2 ^ 52) : glocal (a + BitVec.ofNat 64 off) = glocal a + off := by
  rw [glocal_eq] at h
  rw [glocal_eq, glocal_eq, BitVec.toNat_add, BitVec.toNat_ofNat]
  omega

/-- A part of a range shares no byte with what the range shares none with. -/
theorem overlap_part {a n l m l' m' : Nat} (h : overlap a n l m = false) (hlo : l ≤ l') (hhi : l' + m' ≤ l + m) :
    overlap a n l' m' = false := by
  simp only [overlap, Bool.and_eq_false_iff, decide_eq_false_iff_not] at h ⊢
  omega

/-- A near store of slices of a register that nothing holds: memory takes the bytes of the slices, and the thread goes on. -/
theorem State.storeNow_slices (ht : s.thread? t = some x) {a : W64} (h : StoresNow s t x k a 512) (hmem : Memory.wf s.mem = true)
    {ps : List (Nat × Nat)} (hps : ∀ p ∈ ps, 0 < p.2 ∧ p.1 + p.2 ≤ 512) (v : VReg) (cls : BitVec 2) (w : Wait) :
    let s' := s.storeNow t x k a 512 cls (ps.map fun p => (a + BitVec.ofNat 64 p.1, sliceBytes v p)) w
    StoreFrame s s' t x ∧ ∀ b, s'.byte b =
      if glocal a ≤ b ∧ covered ps (b - glocal a) = true then BitVec.ofNat 8 (v.toNat >>> (8 * (b - glocal a))) else s.byte b := by
  obtain ⟨hown, hstore, -, horder, hheld, hwin, hdir⟩ := h
  have hpop : s.populated (glocal a) 512 = true := by
    simp only [State.mayStore, State.permits, Bool.and_eq_true] at hstore
    exact hstore.1.1
  have hend := State.populated_below_control hpop hwin
  have hctl : baseCtl < 2 ^ 52 := by decide
  have hlocal : localPieces (ps.map fun p => (a + BitVec.ofNat 64 p.1, sliceBytes v p)) =
      ps.map fun p => (glocal a + p.1, sliceBytes v p) := by
    rw [localPieces, List.map_map]
    refine List.map_congr_left fun p hp => ?_
    have := hps p hp
    exact congrArg (·, sliceBytes v p) (glocal_add (by omega))
  have htry := State.homeTry_pieces_unshared (s := s) (ps := ps.map fun p => (glocal a + p.1, sliceBytes v p))
    (fun q hq => by
      obtain ⟨p, hp, rfl⟩ := List.mem_map.mp hq
      have := hps p hp
      exact windowOf_below_control (by omega))
    (fun q hq e he => by
      obtain ⟨p, hp, rfl⟩ := List.mem_map.mp hq
      have := hps p hp
      exact overlap_part (hdir e he) (Nat.le_add_right _ _) (by rw [sliceBytes, bytesLE_length]; omega))
    k.part [x.task] none (glocal a) (.thread t (.store (ps.map fun p => (a + BitVec.ofNat 64 p.1, sliceBytes v p))))
  rw [List.foldl_map] at htry
  obtain ⟨mem, poison, tile, hwrite⟩ := State.foldl_writeMem_eq (fun p : Nat × Nat => glocal a + p.1) (sliceBytes v) inputOwn ps s
  have hbyte := byte_writeSlices hmem (glocal a) v ps
  cases ps with
  | nil =>
    refine ⟨⟨State.thread?_setThread _ _ _, fun u hu => State.thread?_setThread_ne _ hu _, rfl, rfl, rfl, rfl, rfl, rfl, rfl, rfl⟩,
      hbyte⟩
  | cons p ps =>
    have hnow : s.storeNow t x k a 512 cls ((p :: ps).map fun p => (a + BitVec.ofNat 64 p.1, sliceBytes v p)) w =
        (({ s with mem := mem, poison := poison, tileWrites := tile } : State).touched x.task
          (((p :: ps).map fun p => (glocal a + p.1, sliceBytes v p)).map fun e => (e.1, e.2.length))).setThread t
            { x.step with wait := .ready } := by
      have ht' : ({ s with mem := mem, poison := poison, tileWrites := tile } : State).thread? t = some x := ht
      simp only [State.storeNow, List.isEmpty_map, List.isEmpty_cons, Bool.false_eq_true, if_false, hown, if_true, horder, hheld, hlocal,
        htry, HomeAct.input, hwrite, State.threadEnd, ht']
    obtain ⟨tasks, htasks⟩ := State.touched_eq ({ s with mem := mem, poison := poison, tileWrites := tile } : State) x.task
      (((p :: ps).map fun p => (glocal a + p.1, sliceBytes v p)).map fun e => (e.1, e.2.length))
    rw [hwrite] at hbyte
    rw [hnow, htasks]
    exact ⟨⟨State.thread?_setThread _ _ _, fun u hu => State.thread?_setThread_ne _ hu _, rfl, rfl, rfl, rfl, rfl, rfl, rfl, rfl⟩, hbyte⟩

end Pieces

theorem relaxed_not_release {f : MOp} (h : f.rlx = true → f.ord = 0) : (f.rlx && f.ord == 1) = false := by
  cases hr : f.rlx
  · rfl
  · simp [h hr]

section StoreInstructions
variable {s : State} {t : Tid} {x : Thread} {k : Task} (hi : Issues s t x k) {f : MOp} (hrsv : f.rsv = 0) (hord : f.ord.toNat ≤ 1)
  (hrlx : f.rlx = true → f.ord = 0) (hrel : f.ord = 1 → s.releaseReady t k (mAddr x f) true = true)
include hi hrsv hord hrlx hrel

theorem exec_st_near (hsz : f.sz.toNat ≤ 3) (hp : (x.gov f.pred f.pneg).getLsbD 0 = true) (hal : (mAddr x f).toNat % mSize f = 0)
    (h : StoresNow s t x k (mAddr x f) (mSize f)) : exec (.st t f) s = .next (s.storeNow t x k (mAddr x f) (mSize f)
      (if f.rlx then 1 else 0) [(mAddr x f, bytesLE (mSize f) (x.gr f.gd).toNat)] .held) := by
  obtain ⟨ht, hm, hk, hf⟩ := hi
  refine (State.issue_run ht hm hk hf (by simp [hrsv]) (.inr hp) ?_).trans (congrArg _ ?_)
  · rw [relaxed_not_release hrlx]
    simp [hsz, hord]
  · exact State.threadStore_of_storesNow h hal (by simpa using hrel) _

theorem exec_stv_near (hsz : f.sz = 4) (hgd : f.gd.getLsbD 0 = false) (hal : (mAddr x f).toNat % 64 = 0)
    (h : StoresNow s t x k (mAddr x f) 512) : exec (.stv t f) s = .next (s.storeNow t x k (mAddr x f) 512
      (if f.rlx then 1 else 0) (vecPieces (mAddr x f) (x.vr (mVec f)) (x.gov f.pred f.pneg)) .held) := by
  obtain ⟨ht, hm, hk, hf⟩ := hi
  refine (State.issue_run ht hm hk hf (by simp [hrsv]) (.inl rfl) ?_).trans (congrArg _ ?_)
  · rw [hsz, hgd, relaxed_not_release hrlx]
    simp [hord]
  · exact State.threadStore_of_storesNow h hal (by simpa using hrel) _

end StoreInstructions

/-- Settles O12: the loads have the bytes of memory at once (`State.threadLoad_of_loadsNow`), the stores are performed at once
(`State.storeNow_near_stores`, `State.storeNow_slices`), a vector store in the slices of its predicate (`vecSlices_slices`). -/
theorem nearAccesses : Obligations.NearAccesses := by
  refine ⟨fun s t x k f hi hrsv hord hrlx => ⟨fun hsz hp hal h => ?_, fun hsz hgd hal h => ?_⟩,
    fun s t x k f hi hmem hrsv hord hrlx hrel => ⟨fun hsz hp hal h => ?_, fun hsz hgd hal h => ?_⟩⟩
  · exact exec_ld_near hi hrsv hord hrlx hsz hp hal h
  · refine ⟨_, exec_ldv_near hi hrsv hord hrlx hsz hgd hal h, fun i hi => ?_⟩
    rw [loadLanes_byte _ _ _ hi, State.bytes_getD s _ hi]
    rfl
  · have h' : StoresNow s t x k (mAddr x f) (bytesLE (mSize f) (x.gr f.gd).toNat).length := by rw [bytesLE_length]; exact h
    obtain ⟨hframe, hbytes, hrest⟩ := State.storeNow_near_stores hi.1 h' hmem (if f.rlx then 1 else 0) .held
    rw [bytesLE_length] at hframe hbytes hrest
    refine ⟨_, exec_st_near hi hrsv hord hrlx hrel hsz hp hal h, hframe, fun i hi => ?_, hrest⟩
    rw [← bytesLE_getD _ _ hi]
    exact hbytes i hi
  · have hslices := vecSlices_slices (x.gov f.pred f.pneg)
    obtain ⟨hframe, hbyte⟩ := State.storeNow_slices hi.1 h hmem (fun p hp => ⟨(hslices.bound p hp).1, (hslices.bound p hp).2.2⟩)
      (x.vr (mVec f)) (if f.rlx then 1 else 0) .held
    rw [← vecPieces_eq] at hframe hbyte
    refine ⟨_, exec_stv_near hi hrsv hord hrlx hrel hsz hgd hal h, hframe, fun i hlt => ?_, fun b hb => ?_⟩
    · refine (hbyte _).trans ?_
      rw [Nat.add_sub_cancel_left, hslices.cover i (Nat.zero_le _) hlt]
      simp only [Nat.le_add_right, true_and]
      rfl
    · refine (hbyte _).trans (if_neg ?_)
      rintro ⟨hle, hcov⟩
      rw [hslices.covered_outside (by omega)] at hcov
      exact Bool.false_ne_true hcov

end Sys2Proof.Machine

/-! Near atomics (O15): the value each stores, its log record, and what it leaves. -/

namespace Sys2Proof.SMap

variable {α : Type}

/-- A sum over a map in which one value is replaced. -/
theorem sum_put_of_find? (f : α → Nat) {k : Nat} {v : α} (w : α) : ∀ {m : SMap α}, find? k m = some v →
    ((put k w m).map fun e => f e.2).sum + f v = (m.map fun e => f e.2).sum + f w
  | (j, u) :: m, h => by
    by_cases hj : k = j
    · simp [find?, hj] at h
      simp [put, hj, h]
      omega
    · by_cases hlt : k < j
      · simp [find?, hj, hlt] at h
      · simp only [find?, hj, hlt, if_false] at h
        have := sum_put_of_find? f w h
        simp [put, hj, hlt]
        omega

end Sys2Proof.SMap

namespace Sys2Proof.Machine

open Sys2Proof

/-! ## The fabric-operation log -/

/-- Records of the log that a task holds. -/
def Task.logLoad (k : Task) : Nat := k.log.length + k.segs

theorem State.logUsed_eq (s : State) : s.logUsed = (s.tasks.map fun e => e.2.logLoad).sum := by
  have hfold (l : List (Nat × Task)) (n : Nat) :
      l.foldl (fun n e => n + e.2.log.length + e.2.segs) n = n + (l.map fun e => e.2.logLoad).sum := by
    induction l generalizing n with
    | nil => rfl
    | cons e l ih =>
      rw [List.foldl_cons, ih, List.map_cons, List.sum_cons, Task.logLoad]
      omega
  rw [State.logUsed, hfold, Nat.zero_add]

/-- A task that holds m more records than before brings the log m records. -/
theorem State.logUsed_setTask {s : State} {n : Nat} {k k' : Task} {m : Nat} (hk : s.task? n = some k) (h : k'.logLoad = k.logLoad + m) :
    (s.setTask n k').logUsed = s.logUsed + m := by
  have := SMap.sum_put_of_find? Task.logLoad k' hk
  rw [State.logUsed_eq, State.logUsed_eq]
  change (List.map _ (SMap.put n k' s.tasks)).sum = _
  omega

theorem Task.logLoad_noteWrite (k : Task) (a n : Nat) : (k.noteWrite a n).logLoad = k.logLoad := by
  unfold Task.noteWrite
  split <;> rfl

theorem Task.logLoad_atomResult (k : Task) (tid index : Nat) (res : Byte × W64) : (k.atomResult tid index res).logLoad = k.logLoad := by
  simp [Task.logLoad, Task.atomResult]

/-- A record taken is one more of the task's, and the log is used by one more. -/
theorem State.takeLog_eq (s : State) (n : Nat) (k : Task) (r : AtomRec) : ∃ k' next, k'.logLoad = k.logLoad + 1 ∧
    s.takeLog n k r = { s.setTask n k' with fab := { s.fab with logNext := next } } := by
  unfold State.takeLog
  dsimp only
  split
  · exact ⟨_, _, by simp [Task.logLoad]; omega, rfl⟩
  · exact ⟨_, _, by simp [Task.logLoad]; omega, rfl⟩

/-! ## The value stored -/

/-- Memory after an atomic: its new value at its place, or as it was where CAS does not match. -/
def State.atomPut (s : State) (l n : Nat) : Option W64 → State
  | some v => s.writeMem l (bytesLE n v.toNat)
  | none => s

/-- The number an atomic leaves at its place. -/
def atomLeft (n : Nat) (old : W64) : Option W64 → Nat
  | some v => v.toNat % 256 ^ n
  | none => old.toNat

section Put
variable {s : State} (hmem : Memory.wf s.mem = true) (l n : Nat) (r : Option W64)

theorem State.atomPut_eq : ∃ mem poison tile, s.atomPut l n r = { s with mem := mem, poison := poison, tileWrites := tile } := by
  cases r with
  | none => exact ⟨s.mem, s.poison, s.tileWrites, rfl⟩
  | some v => exact ⟨_, _, _, rfl⟩

include hmem

theorem State.byte_atomPut {b : Nat} (h : b < l ∨ l + n ≤ b) : (s.atomPut l n r).byte b = s.byte b := by
  cases r with
  | none => rfl
  | some v => exact byte_writeMem_frame s l _ b hmem (by rw [bytesLE_length]; exact h)

theorem State.num_atomPut (hn : n ≤ 8) :
    leNat ((s.atomPut l n r).bytes l n) = atomLeft n (BitVec.ofNat 64 (leNat (s.bytes l n))) r := by
  cases r with
  | none =>
    have hlt : leNat (s.bytes l n) < 256 ^ n := by simpa [State.bytes] using leNat_lt (s.bytes l n)
    have hpow : 256 ^ n ≤ 256 ^ 8 := Nat.pow_le_pow_right (by decide) hn
    rw [atomLeft, BitVec.toNat_ofNat, Nat.mod_eq_of_lt (by omega)]
    rfl
  | some v =>
    have := State.bytes_writeMem s l (bytesLE n v.toNat) hmem
    rw [bytesLE_length] at this
    rw [State.atomPut, this, leNat_bytesLE, atomLeft]

end Put

/-- CAS compares as many bytes as it swaps. -/
theorem cas_match_iff (wide : Bool) {old : W64} (hold : wide = false → old.toNat < 2 ^ 32) (b : W64) :
    old = (if wide then b else (b.setWidth 32).setWidth 64) ↔ old.toNat = b.toNat % 2 ^ (8 * if wide then 8 else 4) := by
  have hb := b.isLt
  rw [← BitVec.toNat_inj]
  cases wide
  · simp only [Bool.false_eq_true, if_false, BitVec.toNat_setWidth]
    omega
  · simp only [if_true]
    omega

/-- The new values are those of Table 03-8 (R67). -/
theorem atomLeft_of_atomTable (wide : Bool) (old b c : W64) (hold : wide = false → old.toNat < 2 ^ 32) : ∀ e ∈ atomTable,
    (e.2.1 = .fpadd → wide = false) →
    atomLeft (if wide then 8 else 4) old (atomNew e.2.1 wide old b c) = e.2.2.2 (if wide then 8 else 4) old b c := by
  have hsum : (old + b).toNat % 256 ^ (if wide then 8 else 4) = (old.toNat + b.toNat) % 2 ^ (8 * if wide then 8 else 4) := by
    rw [BitVec.toNat_add]
    cases wide
    · simp only [Bool.false_eq_true, if_false]; omega
    · simp only [if_true]; omega
  simp only [atomTable, List.forall_mem_cons, List.not_mem_nil, false_imp_iff, implies_true, and_true]
  refine ⟨fun _ => hsum, fun _ => hsum, fun _ => ?_, fun hw => ?_⟩
  · simp only [atomNew, cas_match_iff wide hold]
    rw [apply_ite (atomLeft _ old), atomLeft, atomLeft, Nat.pow_mul]
  · have := (f32Add (old.setWidth 32) (b.setWidth 32)).isLt
    simp only [atomNew, atomLeft, hw trivial, Bool.false_eq_true, if_false, BitVec.toNat_setWidth]
    omega

/-- Each instruction of the table is an atomic; but for FPADD32 of 8 bytes it is legal. -/
theorem exec_of_atomTable (t : Tid) (f : SOp) (s : State) : ∀ e ∈ atomTable, ∃ legal,
    exec (e.1 t f) s = s.threadAtomic t f e.2.1 e.2.2.1 legal ∧ ((e.2.1 = .fpadd → f.w = false) → legal = true) := by
  simp only [atomTable, List.forall_mem_cons, List.not_mem_nil, false_imp_iff, implies_true, and_true]
  exact ⟨⟨_, rfl, fun _ => rfl⟩, ⟨_, rfl, fun _ => rfl⟩, ⟨_, rfl, fun _ => rfl⟩, _, rfl, fun h => by rw [h trivial]; rfl⟩

/-! ## A near atomic -/

section Near
variable {s : State} {t : Tid} {x : Thread} {k : Task}

/-- An atomic on lines that nobody else holds, outside the control window and free of errors, is performed at once, as memory. -/
theorem State.homeTry_atomic_unshared {l : Nat} {wide : Bool} (hwin : windowOf l ≠ .control)
    (hclean : s.poisonAt l (atomSize wide) = none) (hdir : ∀ e ∈ s.fab.directory, overlap (e.1 * 64) 64 l (atomSize wide) = false)
    (op : AtomOp) (b c : W64) (p : Nat) (reader : List Nat) (except : Option Nat) (act : RelAccess) :
    s.homeTry p reader except l (.atomic op wide b c) (.thread t act) =
      (s.atomPut l (atomSize wide) (atomNew op wide (leWord 64 (s.bytes l (atomSize wide))) b c),
        .done stOk (s.bytes l (atomSize wide))) := by
  have hread : s.homeRead p reader l (atomSize wide) = (s, .bytes (s.bytes l (atomSize wide))) := by
    simp [State.homeRead, hwin, hclean]
  simp only [State.homeTry, HomeOp.writes, List.flatMap_singleton, State.copies_of_unshared hdir, List.foldl_nil, List.isEmpty_nil,
    if_true, State.homeGo, hread]
  cases atomNew op wide (leWord 64 (s.bytes l (atomSize wide))) b c with
  | none => rfl
  | some v => simp only [State.putHere, hwin, if_false]; rfl

/-- The end of an atomic that was performed: its record holds the result, GD the old value but for ATADD, and the thread goes on. -/
theorem State.threadEnd_atomic (ht : s.thread? t = some x) (hk : s.task? x.task = some k) (op : AtomOp) (a : W64) (wide : Bool)
    (b c : W64) (gd : Nat) (acq : Bool) (bs : List Byte) : ∃ k', k'.logLoad = k.logLoad ∧
      s.threadEnd t (.atomic op a wide b c gd acq) (.done stOk bs) = (s.setTask x.task k').setThread t
        { (if op = .atadd then x else x.setG (BitVec.ofNat 6 gd) (leWord 64 bs)).step with wait := .ready } := by
  refine ⟨((k.atomResult x.tid (SMap.get 0 k.atomCount x.tid) (stOk, leWord 64 bs)).atomNext x.tid).noteWrite (glocal a) (atomSize wide),
    ?_, ?_⟩
  · rw [Task.logLoad_noteWrite]
    exact Task.logLoad_atomResult ..
  · have hok : failing stOk = false := by decide
    simp only [State.threadEnd, ht, hk, hok, Bool.false_eq_true, if_false]

/-- A near atomic that nothing holds: a log record, the new value at its place, and the thread's registers (R67, R332). -/
theorem State.atomNow_near (ht : s.thread? t = some x) (hk : s.task? x.task = some k) (hmem : Memory.wf s.mem = true) {a : W64} {wide : Bool}
    (hrec : k.atomRec x.tid = none) (hlog : s.logUsed < logSize) (hown : s.isOwn (gcoord a) = true)
    (horder : s.orderWait t a (atomSize wide) true = false) (hheld : s.homeHeld (some x.task) (glocal a) (atomSize wide) = false)
    (hwin : windowOf (glocal a) ≠ .control) (hclean : s.poisonAt (glocal a) (atomSize wide) = none)
    (hdir : ∀ e ∈ s.fab.directory, overlap (e.1 * 64) 64 (glocal a) (atomSize wide) = false)
    (op : AtomOp) (b c : W64) (gd : BitVec 6) (acq release : Bool) (w : Wait) :
    let old : W64 := BitVec.ofNat 64 (leNat (s.bytes (glocal a) (atomSize wide)))
    let s' := s.atomNow t x k op a wide b c gd.toNat acq release w
    s'.thread? t = some { (if op = .atadd then x else x.setG gd old).step with wait := .ready } ∧
      (∀ u, u ≠ t → s'.thread? u = s.thread? u) ∧ s'.logUsed = s.logUsed + 1 ∧
      leNat (s'.bytes (glocal a) (atomSize wide)) = atomLeft (atomSize wide) old (atomNew op wide old b c) ∧
      ∀ m, m < glocal a ∨ glocal a + atomSize wide ≤ m → s'.byte m = s.byte m := by
  intro old
  obtain ⟨k1, next, hload, htake⟩ := s.takeLog_eq x.task k { tid := x.tid, index := SMap.get 0 k.atomCount x.tid, dst := 0xFFF, tag := 0 }
  obtain ⟨u, hu⟩ : ∃ u : State, u = { s.setTask x.task k1 with fab := { s.fab with logNext := next } } := ⟨_, rfl⟩
  have humem : u.mem = s.mem := by rw [hu]; rfl
  have hubytes : u.bytes (glocal a) (atomSize wide) = s.bytes (glocal a) (atomSize wide) := by rw [hu]; rfl
  have hupoison : u.poison = s.poison := by rw [hu]; rfl
  have hudir : u.fab.directory = s.fab.directory := by rw [hu]
  have htry := State.homeTry_atomic_unshared (s := u) (t := t) hwin (by rw [State.poisonAt, hupoison]; exact hclean) (by rw [hudir]; exact hdir)
    op b c k.part [x.task] none (.atomic op a wide b c gd.toNat acq)
  rw [hubytes] at htry
  obtain ⟨v, hv⟩ : ∃ v, v = u.atomPut (glocal a) (atomSize wide) (atomNew op wide old b c) := ⟨_, rfl⟩
  obtain ⟨mem, poison, tile, hput⟩ := u.atomPut_eq (glocal a) (atomSize wide) (atomNew op wide old b c)
  have hvt : v.thread? t = some x := by rw [hv, hput, hu]; exact ht
  have hvk : v.task? x.task = some k1 := by rw [hv, hput, hu]; exact SMap.find?_put_self _ _ _
  obtain ⟨k2, hload2, hend⟩ := State.threadEnd_atomic hvt hvk op a wide b c gd.toNat acq (s.bytes (glocal a) (atomSize wide))
  have hroom : decide (logSize ≤ s.logUsed) = false := decide_eq_false (Nat.not_le.mpr hlog)
  have hnow : s.atomNow t x k op a wide b c gd.toNat acq release w =
      v.threadEnd t (.atomic op a wide b c gd.toNat acq) (.done stOk (s.bytes (glocal a) (atomSize wide))) := by
    simp only [State.atomNow, hown, if_true, State.atomHere, hrec, Option.bind_none, horder, hheld, Option.isNone_none, Option.isSome_none,
      Bool.false_eq_true, if_false, Bool.true_and, hroom, htake, ← hu, RelAccess.homeOp, htry]
    rw [hv]
    rfl
  rw [hnow, hend, BitVec.ofNat_toNat, BitVec.setWidth_eq]
  refine ⟨State.thread?_setThread _ _ _, fun y hy => ?_, ?_, ?_, fun m hm => ?_⟩
  · rw [State.thread?_setThread_ne _ hy, hv, hput, hu]
    rfl
  · refine (State.logUsed_setTask (m := 0) hvk hload2).trans ?_
    rw [hv, hput, hu]
    exact State.logUsed_setTask hk hload
  · have := State.num_atomPut (s := u) (by rw [humem]; exact hmem) (glocal a) (atomSize wide) (atomNew op wide old b c) (by cases wide <;> decide)
    rw [← hv, hubytes] at this
    exact this
  · have := State.byte_atomPut (s := u) (by rw [humem]; exact hmem) (glocal a) (atomSize wide) (atomNew op wide old b c) hm
    rw [← hv, State.byte, State.byte, humem] at this
    exact this

end Near

/-- A near atomic that issues in order and need not wait for a release is performed. -/
theorem State.threadAtomic_near {s : State} {t : Tid} {x : Thread} {k : Task} (hi : Issues s t x k) {f : SOp} {op : AtomOp} {u : SUse}
    (hon : OnS x f u true) (hfp : op = .fpadd → (s.part k.part).scripted = false)
    (hrel : 2 ≤ f.ord.toNat → s.releaseReady t k (x.gr f.ga) false = true) (hal : (x.gr f.ga).toNat % atomSize f.w = 0)
    (hown : s.isOwn (gcoord (x.gr f.ga)) = true) (hstore : s.mayStore k.part (glocal (x.gr f.ga)) (atomSize f.w) = true) :
    s.threadAtomic t f op u true = .next (s.atomNow t x k op (x.gr f.ga) f.w (x.gr f.gb) (x.gr f.gc) f.gd.toNat (f.ord.getLsbD 0)
      (decide (2 ≤ f.ord.toNat)) .held) := by
  obtain ⟨ht, hm, hk, hf⟩ := hi
  refine (State.issue_run ht hm hk hf (by rw [hon.1]; rfl) (.inr hon.2) rfl).trans (congrArg _ ?_)
  have hmay : s.taskMayStore k (glocal (x.gr f.ga)) (atomSize f.w) = true := by simp [State.taskMayStore, hstore]
  have hscript : ¬ (op = .fpadd ∧ s.isScripted k.part = true) := fun ⟨ho, hs⟩ => by
    rw [State.isScripted, hfp ho] at hs
    exact Bool.false_ne_true hs
  have hgo : (decide (2 ≤ f.ord.toNat) && !s.releaseReady t k (x.gr f.ga) false) = false := by
    by_cases h : 2 ≤ f.ord.toNat
    · simp [hrel h]
    · simp [h]
  simp only [hscript, if_false, hal, ne_eq, not_true_eq_false, State.resolve_of_isOwn hown, hmay, if_true, hgo, Bool.false_eq_true]

/-- Settles O15: an atomic in order is `State.atomNow` (`State.threadAtomic_near`), which `State.atomNow_near` follows; the values are
those of `atomLeft_of_atomTable`. Under SCRIPTED, FPADD32 raises before any address check (R53, R82). -/
theorem atomics : Obligations.Atomics := by
  refine ⟨fun e he s t x k f hi hmem hon hfp hrec hlog hrel => ?_, fun s t x k f hi hon hw hs => ?_⟩
  · obtain ⟨legal, hx, hlegal⟩ := exec_of_atomTable t f s e he
    intro a n old hal hown hstore horder hheld hwin hclean hdir
    rw [hlegal fun h => (hfp h).1] at hx
    obtain ⟨hthread, hothers, hlogged, hnum, hrest⟩ := State.atomNow_near hi.1 hi.2.2.1 hmem hrec hlog hown horder hheld hwin hclean hdir
      e.2.1 (x.gr f.gb) (x.gr f.gc) f.gd (f.ord.getLsbD 0) (decide (2 ≤ f.ord.toNat)) .held
    refine ⟨_, _, hx.trans (State.threadAtomic_near hi hon (fun h => (hfp h).2) hrel hal hown hstore), hthread, ?_, ?_, hrest, rfl, hothers,
      hlogged⟩
    · split
      · rfl
      · exact congrArg (· + 8) (x.setG_pc _ _)
    · refine hnum.trans (atomLeft_of_atomTable f.w _ _ _ (fun hw => ?_) e he fun h => (hfp h).1)
      have hlt := leNat_lt (s.bytes (glocal a) 4)
      simp only [State.bytes, List.length_map, List.length_range] at hlt
      rw [hw]
      exact Nat.lt_of_le_of_lt (Nat.mod_le _ _) hlt
  · obtain ⟨ht, hm, hk, hf⟩ := hi
    refine (State.issue_run ht hm hk hf (by rw [hon.1, hw]; rfl) (.inr hon.2) rfl).trans (congrArg _ ?_)
    exact if_pos ⟨rfl, hs⟩

end Sys2Proof.Machine

/-! Vector instructions (O16, O17, O18): registers as lists of elements, predication by element, and the results of Table 03-9. -/

namespace Sys2Proof.Machine

open Sys2Proof

/-! ## Registers as lists of elements -/

/-- The number whose digits to the base 2^w are the elements of a list, least first. -/
def packNat (w : Nat) (xs : List Nat) : Nat := xs.foldr (fun x acc => x % 2 ^ w + 2 ^ w * acc) 0

theorem packNat_lt (w : Nat) (xs : List Nat) : packNat w xs < 2 ^ (w * xs.length) := by
  induction xs with
  | nil => simp [packNat]
  | cons x xs ih =>
    have hx : x % 2 ^ w < 2 ^ w := Nat.mod_lt _ (Nat.two_pow_pos w)
    have hmul : 2 ^ w * (packNat w xs + 1) ≤ 2 ^ w * 2 ^ (w * xs.length) := Nat.mul_le_mul_left _ ih
    rw [List.length_cons, Nat.mul_succ, Nat.add_comm, Nat.pow_add]
    change x % 2 ^ w + 2 ^ w * packNat w xs < _
    rw [Nat.mul_succ] at hmul
    omega

/-- The digits are the elements. -/
theorem packNat_digit (w : Nat) (xs : List Nat) (i : Nat) : packNat w xs >>> (w * i) % 2 ^ w = xs.getD i 0 % 2 ^ w := by
  induction xs generalizing i with
  | nil => simp [packNat]
  | cons x xs ih =>
    change (x % 2 ^ w + 2 ^ w * packNat w xs) >>> (w * i) % 2 ^ w = _
    cases i with
    | zero => simp
    | succ i =>
      rw [List.getD_cons_succ, ← ih i, Nat.mul_succ, Nat.add_comm (w * i) w, Nat.shiftRight_add, Nat.shiftRight_eq_div_pow _ w,
        Nat.add_mul_div_left _ _ (Nat.two_pow_pos w), Nat.div_eq_of_lt (Nat.mod_lt _ (Nat.two_pow_pos w)), Nat.zero_add]

/-- An element of a register made of a list that it holds; beyond the list it is 0. -/
theorem velem_vpack {w : Nat} {xs : List Nat} (h : w * xs.length ≤ 4096) (i : Nat) : velem w (vpack w xs) i = xs.getD i 0 % 2 ^ w := by
  have hlt : packNat w xs < 2 ^ 4096 := Nat.lt_of_lt_of_le (packNat_lt w xs) (Nat.pow_le_pow_right (by decide) h)
  have hpack : vpack w xs = BitVec.ofNat 4096 (packNat w xs) := rfl
  rw [← packNat_digit, velem, hpack, BitVec.toNat_ofNat, Nat.mod_eq_of_lt hlt]

theorem velem_lt (w : Nat) (v : VReg) (i : Nat) : velem w v i < 2 ^ w := Nat.mod_lt _ (Nat.two_pow_pos w)

@[simp] theorem velem_mod (w : Nat) (v : VReg) (i : Nat) : velem w v i % 2 ^ w = velem w v i := Nat.mod_eq_of_lt (velem_lt w v i)

/-- An element type is 8, 16 or 32 bits wide (Table 03-1). -/
theorem etWidth_cases (et : BitVec 3) : etWidth et = 8 ∨ etWidth et = 16 ∨ etWidth et = 32 := by
  unfold etWidth
  split <;> simp

theorem etWidth_mul_etCount (et : BitVec 3) : etWidth et * etCount et = 4096 := by
  unfold etCount
  rcases etWidth_cases et with h | h | h <;> rw [h]

/-! ## A vector register written by element -/

/-- The thread with list rs of results in a vector register: the elements, and the union of their flags. -/
def Thread.setElems (x : Thread) (i : BitVec 5) (w : Nat) (rs : List (Nat × FpFlags)) : Thread :=
  (x.setV i (vpack w (rs.map Prod.fst))).orFlags (rs.foldl (fun a r => a ||| r.2) FpFlags.none)

theorem Thread.vr_setElems {x : Thread} (hv : SMap.sorted x.v = true) (i j : BitVec 5) (w : Nat) (rs : List (Nat × FpFlags)) :
    (x.setElems i w rs).vr j = if j = i then vpack w (rs.map Prod.fst) else x.vr j :=
  Thread.vr_setV x i j _ hv

/-- Flags already set stay set. -/
theorem Thread.or_and_self_left (x : Thread) (f : W64) : (x.fpFlags ||| f) &&& x.fpFlags = x.fpFlags := by
  ext i hi
  simp only [BitVec.getElem_and, BitVec.getElem_or]
  cases x.fpFlags[i] <;> simp

/-- A write of a vector register by element leaves what `VecFrame` lists. -/
theorem vecFrame_setElems {x : Thread} (hv : SMap.sorted x.v = true) (i : BitVec 5) (w : Nat) (rs : List (Nat × FpFlags)) :
    VecFrame x (x.setElems i w rs).step i := by
  refine ⟨rfl, rfl, rfl, fun j hj => (Thread.vr_setElems hv i j w rs).trans (if_neg hj), ?_, rfl, rfl, rfl, rfl, rfl, rfl⟩
  exact x.or_and_self_left _

/-- The results of a vector instruction under its predicate: ungoverned elements keep their value and set no flag (R62, R65). -/
def elemResults (x : Thread) (f : VOp) (op : Nat → Nat × FpFlags) : List (Nat × FpFlags) :=
  (List.range (etCount f.et)).map fun i =>
    if egov (x.gov f.pred f.pneg) (etWidth f.et) i then op i else (velem (etWidth f.et) (x.vr f.vd) i, FpFlags.none)

theorem vapply_eq (x : Thread) (f : VOp) (op : Nat → Nat × FpFlags) :
    vapply x f op = x.setElems f.vd (etWidth f.et) (elemResults x f op) := rfl

theorem velem_vapply {x : Thread} (hv : SMap.sorted x.v = true) (f : VOp) (op : Nat → Nat × FpFlags) {i : Nat} (hi : i < etCount f.et) :
    velem (etWidth f.et) ((vapply x f op).vr f.vd) i = if (x.gov f.pred f.pneg).getLsbD (i * etWidth f.et / 32)
      then (op i).1 % 2 ^ etWidth f.et else velem (etWidth f.et) (x.vr f.vd) i := by
  rw [vapply_eq, Thread.vr_setElems hv, if_pos rfl, velem_vpack (by simp [elemResults, etWidth_mul_etCount])]
  simp only [elemResults, List.map_map, List.getD_eq_getElem?_getD, List.getElem?_map, List.getElem?_range hi, Option.map_some,
    Option.getD_some, Function.comp]
  change _ = if egov (x.gov f.pred f.pneg) (etWidth f.et) i then _ else _
  cases egov (x.gov f.pred f.pneg) (etWidth f.et) i
  · exact velem_mod ..
  · rfl

/-! ## Issue -/

/-- Field values that an opcode refuses raise EXC_ILLEGAL once the predicate holds. -/
theorem State.issue_refused {s : State} {t : Tid} {x : Thread} {k : Task} (hi : Issues s t x k) {pred : BitVec 3}
    {neg ok always legal : Bool} {run : Thread → Task → State} (hok : ok = true) (hp : always = true ∨ (x.gov pred neg).getLsbD 0 = true)
    (hl : legal = false) : s.issue t pred neg ok always legal run = .next (s.raise t x .illegal 0) := by
  obtain ⟨ht, hm, hk, hf⟩ := hi
  unfold State.issue
  rcases hp with hp | hp <;> simp [ht, hm, hk, hf, hok, hp, hl]

section VOp
variable {s : State} {t : Tid} {x : Thread} {k : Task} (hi : Issues s t x k) {f : VOp} {u : VUse} (hok : vOk f u = true)
include hi hok

theorem State.vOp_of_issues {legal : Bool} (hl : legal = true) (eff : Thread → Thread) :
    s.vOp t f u legal eff = .next (s.setThread t (eff x).step) := by
  obtain ⟨ht, hm, hk, hf⟩ := hi
  exact State.issue_run ht hm hk hf hok (.inl rfl) hl

theorem State.vOp_refused {legal : Bool} (hl : legal = false) (eff : Thread → Thread) :
    s.vOp t f u legal eff = .next (s.raise t x .illegal 0) :=
  State.issue_refused hi hok (.inl rfl) hl

end VOp

theorem etPlain_of_le {et : BitVec 3} (h : et.toNat ≤ 4) : etPlain et = true := decide_eq_true h

theorem etInt_of_le {et : BitVec 3} (h2 : 2 ≤ et.toNat) (h4 : et.toNat ≤ 4) : etInt et = true := by
  revert et
  decide

theorem etInt_of_fp {et : BitVec 3} (h : et.toNat ≤ 1) : etInt et = false := by
  revert et
  decide

theorem etFmt_of_int {et : BitVec 3} (h2 : 2 ≤ et.toNat) : etFmt et = none := by
  revert et
  decide

/-! ## Elementwise instructions -/

/-- The operation of one element: FP at an FP type, else wrapping integer. -/
def arithPair (et : BitVec 3) (fop : Fmt → Nat → Nat → Nat × FpFlags) (iop : Int → Int → Int) (a b : Nat) : Nat × FpFlags :=
  match etFmt et with
  | some m => fop m a b
  | none => (swrap (etWidth et) (iop (sval (etWidth et) a) (sval (etWidth et) b)), FpFlags.none)

theorem swrap_lt (w : Nat) (z : Int) : swrap w z < 2 ^ w := BitVec.isLt _

theorem swrap_mod (w : Nat) (z : Int) : swrap w z % 2 ^ w = swrap w z := Nat.mod_eq_of_lt (swrap_lt w z)

theorem arithPair_fst (et : BitVec 3) (fop : Fmt → Nat → Nat → Nat × FpFlags) (iop : Int → Int → Int) (a b : Nat) :
    (arithPair et fop iop a b).1 % 2 ^ etWidth et = arithElem et (fun m a b => (fop m a b).1) iop a b := by
  unfold arithPair arithElem etFmt
  split_ifs with h0 h1
  · subst h0; rfl
  · subst h1; rfl
  · exact swrap_mod ..

/-- An instruction that writes op of each pair of elements, whose results are r; legal at every plain type, or at the integer ones. -/
def Elementwise (i : Tid → VOp → Instr) (anyEt : Bool) (r : BitVec 3 → Nat → Nat → Nat) : Prop :=
  ∃ op : BitVec 3 → Nat → Nat → Nat × FpFlags,
    (∀ t f s, exec (i t f) s = s.vOp t f { vd := true, va := true, vb := true } (if anyEt then etPlain f.et else etInt f.et)
      fun x => vapply x f fun n => op f.et (velem (etWidth f.et) (x.vr f.va) n) (velem (etWidth f.et) (x.vr f.vb) n)) ∧
    ∀ et a b, a < 2 ^ etWidth et → b < 2 ^ etWidth et → (op et a b).1 % 2 ^ etWidth et = r et a b

/-- An instruction that `State.vArith` performs. -/
theorem elementwise_arith {i : Tid → VOp → Instr} {fop : Fmt → Nat → Nat → Nat × FpFlags} {iop : Int → Int → Int}
    (h : ∀ t f s, exec (i t f) s = s.vArith t f fop fun _ => iop) :
    Elementwise i true fun et => arithElem et (fun m a b => (fop m a b).1) iop :=
  ⟨fun et => arithPair et fop iop, fun t f s => h t f s, fun et a b _ _ => arithPair_fst et fop iop a b⟩

/-- An instruction that `State.vBits` performs. -/
theorem elementwise_bits {i : Tid → VOp → Instr} {op : Nat → Nat → Nat → Nat} {r : BitVec 3 → Nat → Nat → Nat}
    (h : ∀ t f s, exec (i t f) s = s.vBits t f op)
    (hr : ∀ et a b, a < 2 ^ etWidth et → b < 2 ^ etWidth et → op (etWidth et) a b % 2 ^ etWidth et = r et a b) :
    Elementwise i false r :=
  ⟨fun et a b => (op (etWidth et) a b % 2 ^ etWidth et, FpFlags.none), fun t f s => h t f s, fun et a b ha hb =>
    (Nat.mod_mod ..).trans (hr et a b ha hb)⟩

theorem elementwise_vecTable : ∀ e ∈ vecTable, Elementwise e.1 e.2.1 e.2.2 := by
  simp only [vecTable, List.forall_mem_cons, List.not_mem_nil, false_imp_iff, implies_true, and_true]
  refine ⟨elementwise_arith (fop := fpAdd) fun _ _ _ => rfl, elementwise_arith (fop := fpSub) fun _ _ _ => rfl,
    elementwise_arith (fop := fpMul) fun _ _ _ => rfl,
    elementwise_arith (fop := fun m a b => (fpMax m a b, fpNanFlags m a b)) fun _ _ _ => rfl,
    elementwise_arith (fop := fun m a b => (fpMin m a b, fpNanFlags m a b)) fun _ _ _ => rfl,
    elementwise_bits (op := fun _ a b => a &&& b) (fun _ _ _ => rfl) fun et a b _ hb => ?_,
    elementwise_bits (op := fun _ a b => a ||| b) (fun _ _ _ => rfl) fun et a b ha hb => ?_,
    elementwise_bits (op := fun _ a b => a ^^^ b) (fun _ _ _ => rfl) fun et a b ha hb => ?_,
    elementwise_bits (op := fun w a b => a <<< (b % w)) (fun _ _ _ => rfl) fun et a b _ _ => ?_,
    elementwise_bits (op := fun w a b => swrap w (sval w a >>> (b % w))) (fun _ _ _ => rfl) fun et a b _ _ => ?_⟩
  · exact Nat.mod_eq_of_lt (Nat.and_lt_two_pow _ hb)
  · exact Nat.mod_eq_of_lt (Nat.or_lt_two_pow ha hb)
  · exact Nat.mod_eq_of_lt (Nat.xor_lt_two_pow ha hb)
  · rw [Nat.shiftLeft_eq]
  · rw [swrap_mod, Int.shiftRight_eq_div_pow, swrap, sval]
    push_cast
    rfl

section
variable {s : State} {t : Tid} {x : Thread} {k : Task} (hi : Issues s t x k) (hv : SMap.sorted x.v = true) {f : VOp} {u : VUse}
  (hok : vOk f u = true)
include hi hv hok

/-- An instruction that writes every element under its predicate: what its register then holds, and what it leaves. -/
theorem State.vOp_writes {legal : Bool} (hl : legal = true) {eff : Thread → Thread} {op : Nat → Nat × FpFlags} {r : Nat → Nat}
    (heff : eff x = vapply x f op) (hr : ∀ n, (op n).1 % 2 ^ etWidth f.et = r n) :
    ∃ x', s.vOp t f u legal eff = .next (s.setThread t x') ∧ VecFrame x x' f.vd ∧ ∀ n < 4096 / etWidth f.et,
      velem (etWidth f.et) (x'.vr f.vd) n = if (x.gov f.pred f.pneg).getLsbD (n * etWidth f.et / 32) then r n
        else velem (etWidth f.et) (x.vr f.vd) n := by
  refine ⟨_, State.vOp_of_issues hi hok hl eff, ?_, fun n hn => ?_⟩
  · rw [heff]
    exact vecFrame_setElems hv ..
  · rw [heff, ← hr]
    exact velem_vapply hv f op hn

end

/-- Settles O16, from the operation of each entry's element. -/
theorem vectorElementwise : Obligations.VectorElementwise := by
  rintro e he s t x k f hi hv ⟨hok, het⟩
  obtain ⟨op, hexec, hr⟩ := elementwise_vecTable e he
  refine ⟨fun hlegal => ?_, fun hbits hfp => ?_⟩
  · rw [hexec]
    refine State.vOp_writes hi hv hok ?_ rfl fun n => hr _ _ _ (velem_lt ..) (velem_lt ..)
    split
    · exact etPlain_of_le het
    next h => exact etInt_of_le (hlegal.resolve_left h) het
  · rw [hexec, hbits]
    exact State.vOp_refused hi hok (etInt_of_fp hfp) _

/-! ## Moves -/

/-- One element of VFMA. -/
def fmaPair (et : BitVec 3) (a b c : Nat) : Nat × FpFlags :=
  match etFmt et with
  | some m => fpFma m a b c
  | none => (swrap (etWidth et) (sval (etWidth et) a * sval (etWidth et) b + sval (etWidth et) c), FpFlags.none)

theorem fmaPair_fst (et : BitVec 3) (a b c : Nat) : (fmaPair et a b c).1 % 2 ^ etWidth et =
    if et = 0 then (fpFma .fp32 a b c).1 % 2 ^ 32 else if et = 1 then (fpFma .bf16 a b c).1 % 2 ^ 16
    else (a * b + c) % 2 ^ etWidth et := by
  unfold fmaPair etFmt
  split_ifs with h0 h1
  · subst h0; rfl
  · subst h1; rfl
  · change swrap _ _ % _ = _
    rw [swrap_mod, swrap, sval, sval, sval, BitVec.ofInt_add, BitVec.ofInt_mul]
    simp

/-- Settles O17, from what a write by element leaves in its register. -/
theorem vectorMoves : Obligations.VectorMoves := by
  intro s t x k f hi hv het
  have hplain := etPlain_of_le het
  refine ⟨fun hok => State.vOp_writes hi hv hok hplain rfl fun n => fmaPair_fst f.et _ _ _,
    fun hok => State.vOp_writes hi hv hok hplain rfl fun n => ?_,
    fun hok => State.vOp_writes hi hv hok hplain rfl fun n => Nat.mod_mod ..,
    fun hok hl => State.vOp_writes hi hv hok (Bool.and_eq_true_iff.2 ⟨hplain, decide_eq_true hl⟩) rfl fun n => ?_,
    fun hok => State.vOp_writes hi hv hok hplain rfl fun n => velem_mod ..⟩
  · exact (apply_ite (· % 2 ^ etWidth f.et) ..).trans (by rw [velem_mod, velem_mod]; rfl)
  · exact (apply_ite (· % 2 ^ etWidth f.et) ..).trans (by rw [velem_mod, Nat.mod_mod])

/-! ## Reductions -/

/-- One level of the tree over 2n elements joins each two neighbours. -/
theorem pairUp_range (op : Nat → Nat → Nat × FpFlags) (n : Nat) (h : Nat → Nat) :
    (pairUp op ((List.range (2 * n)).map h)).1 = (List.range n).map fun j => (op (h (2 * j)) (h (2 * j + 1))).1 := by
  induction n generalizing h with
  | zero => rfl
  | succ n ih =>
    rw [Nat.mul_succ, List.range_succ_eq_map, List.range_succ_eq_map, List.range_succ_eq_map (n := n)]
    simp only [List.map_cons, List.map_map, pairUp]
    exact congrArg (_ :: ·) (ih (h ∘ (· + 2)))

/-- The tree over the elements that level l of the summing tree gives is the summing tree's root. -/
theorem pairTree_treeSum (m : Fmt) (xs : Nat → Nat) (n l : Nat) :
    (pairTree (fpAdd m) n ((List.range (2 ^ n)).map (treeSum m xs l))).1 = treeSum m xs (l + n) 0 := by
  induction n generalizing l with
  | zero => rfl
  | succ n ih =>
    have hlevel : (pairUp (fpAdd m) ((List.range (2 ^ (n + 1))).map (treeSum m xs l))).1 =
        (List.range (2 ^ n)).map (treeSum m xs (l + 1)) := by
      rw [Nat.pow_succ', pairUp_range]
      rfl
    change (pairTree _ n (pairUp _ _).1).1 = _
    rw [hlevel, ih, Nat.add_right_comm, Nat.add_assoc]

theorem foldl_max_mem (b : Int) (xs : List Int) : xs.foldl max b = b ∨ xs.foldl max b ∈ xs :=
  List.mem_cons.1 (List.max?_eq_some_iff.1 (List.max?_cons' (x := b) (xs := xs))).1

theorem le_foldl_max (b : Int) {xs : List Int} {y : Int} (h : y ∈ b :: xs) : y ≤ xs.foldl max b :=
  (List.max?_eq_some_iff.1 (List.max?_cons' (x := b) (xs := xs))).2 y h

theorem foldl_min_mem (b : Int) (xs : List Int) : xs.foldl min b = b ∨ xs.foldl min b ∈ xs :=
  List.mem_cons.1 (List.min?_eq_some_iff.1 (List.min?_cons' (x := b) (xs := xs))).1

theorem foldl_min_le (b : Int) {xs : List Int} {y : Int} (h : y ∈ b :: xs) : xs.foldl min b ≤ y :=
  (List.min?_eq_some_iff.1 (List.min?_cons' (x := b) (xs := xs))).2 y h

/-- Sign extension of an element is its signed value. -/
theorem sext64_eq {w : Nat} (hw : 0 < w) (h64 : w ≤ 64) (v : Nat) : sext64 w v = BitVec.ofInt 64 (BitVec.ofNat w v).toInt := by
  obtain ⟨n, rfl⟩ : ∃ n, w = n + 1 := ⟨w - 1, by omega⟩
  have hpow : 2 ^ (n + 1) ≤ 2 ^ 64 := Nat.pow_le_pow_right (by decide) h64
  rw [sext64, BitVec.toInt_eq_toNat_cond, BitVec.toNat_ofNat, Nat.add_sub_cancel]
  rw [Nat.pow_succ] at *
  split_ifs with hlow h2 h2
  · exact (BitVec.ofInt_natCast ..).symm
  · omega
  · omega
  · have hcast : ((2 ^ 64 + v % (2 ^ n * 2) - 2 ^ n * 2 : Nat) : Int) = 2 ^ 64 + ((v % (2 ^ n * 2) : Nat) - (2 ^ n * 2 : Nat)) := by omega
    rw [← BitVec.ofInt_natCast, hcast, BitVec.ofInt_add]
    exact BitVec.zero_add _

theorem etWidth_pos (et : BitVec 3) : 0 < etWidth et := by
  rcases etWidth_cases et with h | h | h <;> omega

theorem etWidth_le (et : BitVec 3) : etWidth et ≤ 64 := by
  rcases etWidth_cases et with h | h | h <;> omega

/-- Sign extension of the pattern of an integer in the signed range of its width. -/
theorem sext64_swrap (et : BitVec 3) {z : Int} (hl : -2 ^ (etWidth et - 1) ≤ z) (hu : z < 2 ^ (etWidth et - 1)) :
    sext64 (etWidth et) (swrap (etWidth et) z) = BitVec.ofInt 64 z := by
  rw [sext64_eq (etWidth_pos et) (etWidth_le et), swrap, BitVec.ofNat_toNat, BitVec.setWidth_eq,
    BitVec.toInt_ofInt_eq_self (etWidth_pos et) hl hu]

/-- The signed elements of VA that a reduction takes, with id for the ungoverned ones (R62). -/
def redElems (x : Thread) (f : VOp) (id : Int) : List Int :=
  (List.range (etCount f.et)).map fun i =>
    if egov (x.gov f.pred f.pneg) (etWidth f.et) i then sval (etWidth f.et) (velem (etWidth f.et) (x.vr f.va) i) else id

theorem mem_redElems {x : Thread} {f : VOp} {id y : Int} (h : y = id ∨ y ∈ redElems x f id) :
    y = id ∨ ∃ i ∈ List.range (etCount f.et), egov (x.gov f.pred f.pneg) (etWidth f.et) i = true ∧
      y = sval (etWidth f.et) (velem (etWidth f.et) (x.vr f.va) i) := by
  rcases h with h | h
  · exact .inl h
  · obtain ⟨i, hi, rfl⟩ := List.mem_map.1 h
    split
    next hg => exact .inr ⟨i, hi, hg, rfl⟩
    next => exact .inl rfl

theorem mem_redElems_of_egov {x : Thread} {f : VOp} {i : Nat} (hi : i ∈ List.range (etCount f.et))
    (hg : egov (x.gov f.pred f.pneg) (etWidth f.et) i = true) (id : Int) :
    sval (etWidth f.et) (velem (etWidth f.et) (x.vr f.va) i) ∈ redElems x f id :=
  List.mem_map.2 ⟨i, hi, if_pos hg⟩

/-- With id in the signed range, so is every element. -/
theorem redElems_bounds {x : Thread} {f : VOp} {id y : Int} (hl : -2 ^ (etWidth f.et - 1) ≤ id) (hu : id < 2 ^ (etWidth f.et - 1))
    (h : y = id ∨ y ∈ redElems x f id) : -2 ^ (etWidth f.et - 1) ≤ y ∧ y < 2 ^ (etWidth f.et - 1) := by
  rcases mem_redElems h with rfl | ⟨i, -, -, rfl⟩
  · exact ⟨hl, hu⟩
  · exact ⟨BitVec.le_toInt _, BitVec.toInt_lt⟩

/-- The tree of a reduction at an FP type, with id for the ungoverned elements (R70). -/
def redTree (x : Thread) (f : VOp) (op : Nat → Nat → Nat × FpFlags) (id : Nat) : Nat × FpFlags :=
  pairTree op (Nat.log2 (etCount f.et)) ((List.range (etCount f.et)).map fun i =>
    if egov (x.gov f.pred f.pneg) (etWidth f.et) i then velem (etWidth f.et) (x.vr f.va) i else id)

/-- The summing tree of 2^l elements. -/
theorem redTree_fpAdd {x : Thread} {f : VOp} {m : Fmt} {xs : Nat → Nat} {l id : Nat} (hl : etCount f.et = 2 ^ l)
    (hxs : ∀ i, xs i = if egov (x.gov f.pred f.pneg) (etWidth f.et) i then velem (etWidth f.et) (x.vr f.va) i else id) :
    (redTree x f (fpAdd m) id).1 = treeSum m xs l 0 := by
  have htree := pairTree_treeSum m xs l 0
  rw [Nat.zero_add] at htree
  rw [redTree, hl, Nat.log2_two_pow, ← htree]
  exact congrArg (fun h => (pairTree (fpAdd m) l ((List.range (2 ^ l)).map h)).1) (funext fun i => (hxs i).symm)

theorem exec_vredsum (s : State) (t : Tid) (f : VOp) : exec (.vredsum t f) s = s.vReduce t f fpAdd (fun m => fpSign m true 0) (· + ·) fun _ => 0 := rfl

theorem exec_vredmax (s : State) (t : Tid) (f : VOp) : exec (.vredmax t f) s = s.vReduce t f (fun m a b => (fpMax m a b, fpNanFlags m a b))
    (fun m => fpSign m true m.infBits) max fun w => -2 ^ (w - 1) := rfl

theorem exec_vredmin (s : State) (t : Tid) (f : VOp) : exec (.vredmin t f) s = s.vReduce t f (fun m a b => (fpMin m a b, fpNanFlags m a b))
    (fun m => fpSign m false m.infBits) min fun w => 2 ^ (w - 1) - 1 := rfl

section
variable {s : State} {t : Tid} {x : Thread} {k : Task} (hi : Issues s t x k) {f : VOp} (hok : vOk f { va := true, gs := true } = true)
  (het : f.et.toNat ≤ 4)
include hi hok het

theorem State.vReduce_fp {m : Fmt} (hm : etFmt f.et = some m) (fop : Fmt → Nat → Nat → Nat × FpFlags) (fid : Fmt → Nat)
    (iop : Int → Int → Int) (iid : Nat → Int) : ∃ fl, s.vReduce t f fop fid iop iid = .next (s.setThread t
      ((x.setG f.gs (BitVec.ofNat 64 (redTree x f (fop m) (fid m)).1)).orFlags fl).step) := by
  refine ⟨(redTree x f (fop m) (fid m)).2, (State.vOp_of_issues hi hok (etPlain_of_le het) _).trans ?_⟩
  rw [hm]
  rfl

theorem State.vReduce_int (hm : 2 ≤ f.et.toNat) (fop : Fmt → Nat → Nat → Nat × FpFlags) (fid : Fmt → Nat)
    (iop : Int → Int → Int) (iid : Nat → Int) :
    s.vReduce t f fop fid iop iid = .next (s.setThread t (x.setG f.gs (sext64 (etWidth f.et) (swrap (etWidth f.et)
      ((redElems x f (iid (etWidth f.et))).foldl iop (iid (etWidth f.et)))))).step) := by
  refine (State.vOp_of_issues hi hok (etPlain_of_le het) _).trans ?_
  rw [etFmt_of_int hm]
  rfl

/-- The sum of R70 at FP32. -/
theorem State.vredsum_fp32 (h0 : f.et = 0) : ∃ fl, exec (.vredsum t f) s = .next (s.setThread t ((x.setG f.gs (BitVec.ofNat 64
    (treeSum .fp32 (fun i => if (x.gov f.pred f.pneg).getLsbD i then velem (etWidth f.et) (x.vr f.va) i else 0x80000000) 7 0))).orFlags
      fl).step) := by
  obtain ⟨fl, hrun⟩ := State.vReduce_fp hi hok het (m := .fp32) (by rw [h0]; rfl) fpAdd (fun m => fpSign m true 0) (· + ·) fun _ => 0
  refine ⟨fl, ((exec_vredsum s t f).trans hrun).trans ?_⟩
  rw [redTree_fpAdd (l := 7) (by rw [h0]; rfl) fun i => ?_]
  refine if_congr ?_ rfl rfl
  rw [egov, h0, show etWidth 0 = 32 from rfl, Nat.mul_div_cancel _ (by decide)]

/-- The sum of R70 at BF16. -/
theorem State.vredsum_bf16 (h1 : f.et = 1) : ∃ fl, exec (.vredsum t f) s = .next (s.setThread t ((x.setG f.gs (BitVec.ofNat 64
    (treeSum .bf16 (fun i => if (x.gov f.pred f.pneg).getLsbD (i / 2) then velem (etWidth f.et) (x.vr f.va) i else 0x8000) 8 0))).orFlags
      fl).step) := by
  obtain ⟨fl, hrun⟩ := State.vReduce_fp hi hok het (m := .bf16) (by rw [h1]; rfl) fpAdd (fun m => fpSign m true 0) (· + ·) fun _ => 0
  refine ⟨fl, ((exec_vredsum s t f).trans hrun).trans ?_⟩
  rw [redTree_fpAdd (l := 8) (by rw [h1]; rfl) fun i => ?_]
  refine if_congr ?_ rfl rfl
  rw [egov, h1, show etWidth 1 = 16 from rfl, Nat.mul_div_mul_right _ 2 (by decide : 0 < 16)]

theorem State.vredsum_int (hint : 2 ≤ f.et.toNat) : exec (.vredsum t f) s = .next (s.setThread t (x.setG f.gs (sext64 (etWidth f.et)
    (swrap (etWidth f.et) (redElems x f 0).sum))).step) := by
  rw [exec_vredsum, State.vReduce_int hi hok het hint, List.sum_eq_foldl]

/-- VREDMAX gives an element or the least value, and no governed element is above it. -/
theorem State.vredmax_int (hint : 2 ≤ f.et.toNat) : ∃ z : Int,
    exec (.vredmax t f) s = .next (s.setThread t (x.setG f.gs (BitVec.ofInt 64 z)).step) ∧
    (z = -2 ^ (etWidth f.et - 1) ∨ z ∈ redElems x f (-2 ^ (etWidth f.et - 1))) ∧ ∀ y ∈ redElems x f (-2 ^ (etWidth f.et - 1)), y ≤ z := by
  have hmem := foldl_max_mem (-2 ^ (etWidth f.et - 1)) (redElems x f (-2 ^ (etWidth f.et - 1)))
  have hpow : (0 : Int) < 2 ^ (etWidth f.et - 1) := by positivity
  have hb := redElems_bounds (Int.le_refl _) (by omega) hmem
  refine ⟨_, ?_, hmem, fun y hy => le_foldl_max _ (List.mem_cons_of_mem _ hy)⟩
  rw [exec_vredmax, State.vReduce_int hi hok het hint, sext64_swrap f.et hb.1 hb.2]

/-- VREDMIN gives an element or the greatest value, and no governed element is below it. -/
theorem State.vredmin_int (hint : 2 ≤ f.et.toNat) : ∃ z : Int,
    exec (.vredmin t f) s = .next (s.setThread t (x.setG f.gs (BitVec.ofInt 64 z)).step) ∧
    (z = 2 ^ (etWidth f.et - 1) - 1 ∨ z ∈ redElems x f (2 ^ (etWidth f.et - 1) - 1)) ∧
    ∀ y ∈ redElems x f (2 ^ (etWidth f.et - 1) - 1), z ≤ y := by
  have hmem := foldl_min_mem (2 ^ (etWidth f.et - 1) - 1) (redElems x f (2 ^ (etWidth f.et - 1) - 1))
  have hpow : (0 : Int) < 2 ^ (etWidth f.et - 1) := by positivity
  have hb := redElems_bounds (by omega) (by omega) hmem
  refine ⟨_, ?_, hmem, fun y hy => foldl_min_le _ (List.mem_cons_of_mem _ hy)⟩
  rw [exec_vredmin, State.vReduce_int hi hok het hint, sext64_swrap f.et hb.1 hb.2]

end

/-! ## Compare, extraction and conversion -/

/-- The number whose bits are the first parts of a list of results, least first. -/
def packBits (rs : List (Bool × FpFlags)) : Nat := rs.foldr (fun r acc => (if r.1 then 1 else 0) + 2 * acc) 0

theorem testBit_packBits (rs : List (Bool × FpFlags)) (j : Nat) : (packBits rs).testBit j = (rs[j]?.map Prod.fst).getD false := by
  induction rs generalizing j with
  | nil => simp [packBits]
  | cons r rs ih =>
    change ((if r.1 then 1 else 0) + 2 * packBits rs).testBit j = _
    have hlow : (if r.1 then 1 else 0) < 2 := by split <;> decide
    cases j with
    | zero => rcases hr : r.1 <;> simp [hr, Nat.testBit_zero]
    | succ j =>
      rw [Nat.testBit_succ, List.getElem?_cons_succ, ← ih]
      congr 1
      omega

theorem foldl_flags_none {α : Type} (rs : List (α × FpFlags)) (h : ∀ r ∈ rs, r.2 = FpFlags.none) :
    rs.foldl (fun a r => a ||| r.2) FpFlags.none = FpFlags.none := by
  induction rs with
  | nil => rfl
  | cons r rs ih =>
    rw [List.foldl_cons, h r List.mem_cons_self]
    exact ih fun r' hr' => h r' (List.mem_cons_of_mem _ hr')

/-- The results of an integer VCMP by group: the condition on every element, or the old bit. -/
def cmpGroups (x : Thread) (f : VOp) : List (Bool × FpFlags) :=
  (List.range 128).map fun j =>
    if (x.gov f.pred f.pneg).getLsbD j then
      let es := (List.range (32 / etWidth f.et)).map fun i =>
        (intCond (etWidth f.et) (fld f.vc 3 0) (velem (etWidth f.et) (x.vr f.va) (j * (32 / etWidth f.et) + i))
          (velem (etWidth f.et) (x.vr f.vb) (j * (32 / etWidth f.et) + i)), FpFlags.none)
      (es.all Prod.fst, es.foldl (fun a r => a ||| r.2) FpFlags.none)
    else ((x.pr f.pd).getLsbD j, FpFlags.none)

theorem cmpGroups_flags (x : Thread) (f : VOp) : ∀ r ∈ cmpGroups x f, r.2 = FpFlags.none := by
  intro r hr
  obtain ⟨j, -, rfl⟩ := List.mem_map.1 hr
  split
  · refine foldl_flags_none _ fun e he => ?_
    obtain ⟨i, -, rfl⟩ := List.mem_map.1 he
    rfl
  · rfl

theorem fld_low_of_le {v : BitVec 5} (h : v.toNat ≤ 5) : fld v 3 0 = v.toNat ∧ bit v 4 = false := by
  revert v
  decide

theorem vcmpLegal_of_int {et : BitVec 3} {c : Nat} (h2 : 2 ≤ et.toNat) (h4 : et.toNat ≤ 4) (hc : c ≤ 5) : vcmpLegal et c = true := by
  rw [vcmpLegal, if_pos (etInt_of_le h2 h4)]
  exact decide_eq_true hc

/-- An integer VCMP sets no flag; its bits are those of the groups. -/
theorem exec_vcmp_int {s : State} {t : Tid} {x : Thread} {k : Task} {f : VOp} (hi : Issues s t x k)
    (hok : vOk f { va := true, vb := true, vc := true, pd := true } = true) (h2 : 2 ≤ f.et.toNat) (h4 : f.et.toNat ≤ 4)
    (hc : f.vc.toNat ≤ 5) : exec (.vcmp t f) s = .next (s.setThread t (x.setP f.pd (BitVec.ofNat 128
      (packBits (cmpGroups x f)))).step) := by
  obtain ⟨hfld, hbit⟩ := fld_low_of_le hc
  have hlegal : (!bit f.vc 4 && vcmpLegal f.et (fld f.vc 3 0)) = true := by
    rw [hbit, hfld, vcmpLegal_of_int h2 h4 hc]
    rfl
  refine (State.vOp_of_issues hi hok hlegal _).trans ?_
  have hflags (y : Thread) : y = y.orFlags ((cmpGroups x f).foldl (fun a r => a ||| r.2) FpFlags.none) := by
    rw [foldl_flags_none _ (cmpGroups_flags x f), Thread.orFlags_none]
  rw [hflags (x.setP _ _), etFmt_of_int h2]
  rfl

theorem getLsbD_cmpGroups (x : Thread) (f : VOp) {j : Nat} (hj : j < 128) :
    (BitVec.ofNat 128 (packBits (cmpGroups x f))).getLsbD j =
      if (x.gov f.pred f.pneg).getLsbD j then (List.range (32 / etWidth f.et)).all fun i =>
        intCond (etWidth f.et) (fld f.vc 3 0) (velem (etWidth f.et) (x.vr f.va) (j * (32 / etWidth f.et) + i))
          (velem (etWidth f.et) (x.vr f.vb) (j * (32 / etWidth f.et) + i))
      else (x.pr f.pd).getLsbD j := by
  rw [BitVec.getLsbD_ofNat, testBit_packBits, decide_eq_true hj, Bool.true_and, cmpGroups, List.getElem?_map,
    List.getElem?_range hj, Option.map_some, Option.map_some, Option.getD_some]
  split
  · exact List.all_map
  · rfl

/-- The fields of VEXT name an element of the register. -/
theorem exec_vext_of_issues {s : State} {t : Tid} {x : Thread} {k : Task} {f : VOp} (hi : Issues s t x k)
    (hok : vOk f { va := true, gs := true, lane := true } = true) (het : f.et.toNat ≤ 4) (hl : f.lane.toNat < 4096 / etWidth f.et)
    (hg : (x.gov f.pred f.pneg).getLsbD (f.lane.toNat * etWidth f.et / 32) = true) :
    exec (.vext t f) s = .next (s.setThread t (x.setG f.gs
      (BitVec.ofInt 64 (BitVec.ofNat (etWidth f.et) (velem (etWidth f.et) (x.vr f.va) f.lane.toNat)).toInt)).step) := by
  refine (State.vOp_of_issues hi hok (Bool.and_eq_true_iff.2 ⟨etPlain_of_le het, decide_eq_true hl⟩) _).trans ?_
  rw [← sext64_eq (etWidth_pos _) (etWidth_le _)]
  exact congrArg (fun y : Thread => Host.Outcome.next (s.setThread t y.step)) (if_pos hg)

/-- The destination type of VCVT. -/
theorem cvt_legal {v : BitVec 5} {et : BitVec 3} (het : et ≠ 7) (hv : v.toNat < 7) :
    (zeroFld v 4 3 && et != 7 && (v.setWidth 3 : BitVec 3) != 7) = true := by
  revert v et
  decide

/-- The results of VCVT: n elements of the wider type, of which each governed one is converted (R69). -/
def cvtResults (x : Thread) (f : VOp) (d : BitVec 3) : List (Nat × FpFlags) :=
  (List.range (4096 / max (etWidth f.et) (etWidth d))).map fun i =>
    if egov (x.gov f.pred f.pneg) (max (etWidth f.et) (etWidth d)) i then etConvert f.et d (velem (etWidth f.et) (x.vr f.va) i)
    else (velem (etWidth d) (x.vr f.vd) i, FpFlags.none)

theorem exec_vcvt_of_issues {s : State} {t : Tid} {x : Thread} {k : Task} {f : VOp} (hi : Issues s t x k)
    (hok : vOk f { vd := true, va := true, vb := true } = true) (het : f.et ≠ 7) (hv : f.vb.toNat < 7) :
    exec (.vcvt t f) s = .next (s.setThread t
      (x.setElems f.vd (etWidth (f.vb.setWidth 3)) (cvtResults x f (f.vb.setWidth 3))).step) :=
  State.vOp_of_issues hi hok (cvt_legal het hv) _

/-- The register that VCVT leaves, by element: zeros from the n-th on. -/
theorem velem_cvtResults (x : Thread) (f : VOp) (d : BitVec 3) (i : Nat) :
    velem (etWidth d) (vpack (etWidth d) ((cvtResults x f d).map Prod.fst)) i =
      if 4096 / max (etWidth f.et) (etWidth d) ≤ i then 0
      else if (x.gov f.pred f.pneg).getLsbD (i * max (etWidth f.et) (etWidth d) / 32)
        then (etConvert f.et d (velem (etWidth f.et) (x.vr f.va) i)).1 % 2 ^ etWidth d
      else velem (etWidth d) (x.vr f.vd) i := by
  have hfit : etWidth d * ((cvtResults x f d).map Prod.fst).length ≤ 4096 := by
    rw [List.length_map, cvtResults, List.length_map, List.length_range]
    exact (Nat.mul_le_mul_right _ (Nat.le_max_right ..)).trans (Nat.mul_div_le ..)
  rw [velem_vpack hfit, List.getD_eq_getElem?_getD, List.getElem?_map, cvtResults, List.getElem?_map]
  split
  next h => rw [List.getElem?_eq_none (by rw [List.length_range]; exact h)]; rfl
  next h =>
    rw [List.getElem?_range (Nat.lt_of_not_le h), Option.map_some, Option.map_some, Option.getD_some]
    change _ = if egov (x.gov f.pred f.pneg) (max (etWidth f.et) (etWidth d)) i then _ else _
    cases egov (x.gov f.pred f.pneg) (max (etWidth f.et) (etWidth d)) i
    · exact velem_mod ..
    · rfl

/-- Settles O18, from one lemma for each instruction. -/
theorem vectorReductionsAndConversions : Obligations.VectorReductionsAndConversions := by
  refine ⟨fun s t x k f hi hon => ?_, fun s t x k f hi => ⟨fun hok h2 h4 hc => ?_, fun hok het => ⟨fun hl hg => ?_, fun hl => ?_⟩,
    fun hok het hv hs => ?_⟩⟩
  · obtain ⟨hok, het⟩ := hon
    refine ⟨State.vredsum_fp32 hi hok het, State.vredsum_bf16 hi hok het, fun hint => ⟨State.vredsum_int hi hok het hint, ?_⟩⟩
    obtain ⟨hi', hmax, hmaxMem, hmaxLe⟩ := State.vredmax_int hi hok het hint
    obtain ⟨lo, hmin, hminMem, hminLe⟩ := State.vredmin_int hi hok het hint
    exact ⟨hi', lo, hmax, hmin, fun i hm hg => ⟨hminLe _ (mem_redElems_of_egov hm hg _), hmaxLe _ (mem_redElems_of_egov hm hg _)⟩,
      mem_redElems hmaxMem, mem_redElems hminMem⟩
  · refine ⟨_, exec_vcmp_int hi hok h2 h4 hc, fun j hj => ?_⟩
    rw [getLsbD_cmpGroups x f hj, (fld_low_of_le hc).1]
  · exact exec_vext_of_issues hi hok het hl hg
  · refine State.vOp_refused hi hok ?_ _
    exact Bool.and_eq_false_iff.2 (.inr (decide_eq_false (Nat.not_lt.2 hl)))
  · rw [BitVec.ofNat_toNat]
    refine ⟨_, exec_vcvt_of_issues hi hok het hv, vecFrame_setElems hs .., fun i _ => ?_⟩
    rw [← velem_cvtResults]
    exact congrArg (velem _ · i) ((Thread.vr_setElems hs ..).trans (if_pos rfl))

end Sys2Proof.Machine

/-! Special functions (O19): the table an SFE uses and notes, the wait of an SFLOAD, and its completion. -/

namespace Sys2Proof.Machine

open Sys2Proof

/-! ## The note of a table in the saved state of a cast -/

section
variable (s : State) (k slot : Nat) (e : TableSlot)

@[simp] theorem State.noteTable_threads : (s.noteTable k slot e).threads = s.threads := by
  unfold State.noteTable
  split <;> rfl

@[simp] theorem State.noteTable_mem : (s.noteTable k slot e).mem = s.mem := by
  unfold State.noteTable
  split <;> rfl

@[simp] theorem State.noteTable_cores : (s.noteTable k slot e).cores = s.cores := by
  unfold State.noteTable
  split <;> rfl

/-- A cast that has been noted a table holds it in its saved state (R158). -/
theorem State.find?_tables_noteTable {k' : Task} (h : (s.noteTable k slot e).task? k = some k') :
    SMap.find? slot k'.tables = some e := by
  unfold State.noteTable at h
  split at h
  next k₀ _ =>
    have hk : (s.setTask k { k₀ with tables := SMap.put slot e k₀.tables }).task? k =
        some { k₀ with tables := SMap.put slot e k₀.tables } := SMap.find?_put_self ..
    rw [← Option.some.inj (hk.symm.trans h)]
    exact SMap.find?_put_self ..
  next hnone => rw [hnone] at h; cases h

end

theorem State.core_setCore (s : State) (c : Nat) (x : Core) : (s.setCore c x).core c = x := by
  rw [State.core, State.setCore_cores, SMap.get, SMap.find?_put_self]
  rfl

/-! ## SFE -/

theorem isSome_etFmt {et : BitVec 3} (h : et.toNat ≤ 1) : (etFmt et).isSome = true := by
  revert et
  decide

/-- An SFE sets no flag (R151). -/
theorem elemResults_flags (x : Thread) (f : VOp) (r : Nat → Nat) :
    ∀ e ∈ elemResults x f fun i => (r i, FpFlags.none), e.2 = FpFlags.none := by
  intro e he
  obtain ⟨i, -, rfl⟩ := List.mem_map.1 he
  split <;> rfl

theorem vapply_fpFlags (x : Thread) (f : VOp) (r : Nat → Nat) :
    (vapply x f fun i => (r i, FpFlags.none)).fpFlags = x.fpFlags := by
  rw [vapply_eq, Thread.setElems, foldl_flags_none _ (elemResults_flags x f r), Thread.orFlags_none]
  rfl

/-- What SFE computes of an element. -/
def sfeElem (x : Thread) (f : VOp) (e : TableSlot) (i : Nat) : Nat × Option Zone × Bool :=
  sfElem e.image (if f.et = 0 then Fmt.fp32 else Fmt.bf16) (velem (etWidth f.et) (x.vr f.va) i)

/-- What SFE computes of the governed elements. -/
def sfeResults (x : Thread) (f : VOp) (e : TableSlot) : List (Option (Nat × Option Zone × Bool)) :=
  (List.range (etCount f.et)).map fun i =>
    if egov (x.gov f.pred f.pneg) (etWidth f.et) i then some (sfeElem x f e i) else none

/-- The counts that an SFE adds to a core's counters: evaluations, and those below the window, above it, and flushed. -/
def State.countSfe (s : State) (c : Nat) (rs : List (Option (Nat × Option Zone × Bool))) : State :=
  (((s.count .sfeEvals c (rs.countP fun r => r.any fun _ => true)).count .sfBelow c
    (rs.countP fun r => r.any fun q => q.2.1 == some .below)).count .sfAbove c
    (rs.countP fun r => r.any fun q => q.2.1 == some .above)).count .sfFlushed c (rs.countP fun r => r.any fun q => q.2.2)

section
variable (s : State) (c : Nat) (rs : List (Option (Nat × Option Zone × Bool)))

@[simp] theorem State.countSfe_threads : (s.countSfe c rs).threads = s.threads := by
  simp only [State.countSfe, State.count_threads]

@[simp] theorem State.countSfe_mem : (s.countSfe c rs).mem = s.mem := by
  simp only [State.countSfe, State.count_mem]

@[simp] theorem State.countSfe_tasks : (s.countSfe c rs).tasks = s.tasks := by
  simp only [State.countSfe, State.count_tasks]

end

section Sfe
variable {s : State} {t : Tid} {x : Thread} {k : Task} (hi : Issues s t x k) {f : VOp}
  (hok : vOk f { vd := true, va := true, vc := true } = true) (het : f.et.toNat ≤ 1)
include hi hok het

/-- Without a table of its partition in the slot, SFE raises EXC_TABLE (R157). -/
theorem exec_sfe_refused (h : ∀ e, SMap.find? f.vc.toNat (s.core t.core.val).tables = some e → e.part ≠ k.part) :
    exec (.sfe t f) s = .next (s.raise t x .table 0) := by
  obtain ⟨ht, hm, hk, hf⟩ := hi
  refine (State.issue_run ht hm hk hf hok (.inl rfl) (isSome_etFmt het)).trans ?_
  split
  · rfl
  next e he => rw [if_pos (h e he)]

/-- With a table of its partition in the slot, SFE writes its function by element, notes the table and counts (R71, R157, R158). -/
theorem exec_sfe_of_table {e : TableSlot} (he : SMap.find? f.vc.toNat (s.core t.core.val).tables = some e) (hp : e.part = k.part) :
    exec (.sfe t f) s = .next (((s.setThread t (vapply x f fun i => ((sfeElem x f e i).1, FpFlags.none)).step).noteTable
      x.task f.vc.toNat e).countSfe t.core.val (sfeResults x f e)) := by
  obtain ⟨ht, hm, hk, hf⟩ := hi
  refine (State.issue_run ht hm hk hf hok (.inl rfl) (isSome_etFmt het)).trans ?_
  simp only [he, hp, ne_eq, not_true_eq_false, if_false]
  rfl

end Sfe

/-! ## SFLOAD -/

/-- The state in which an SFLOAD of source a waits for its slot in the load queue of its core. -/
def State.sfloadQueued (s : State) (t : Tid) (x : Thread) (slot : Nat) (a : W64) : State :=
  (s.setThread t { x with wait := .sfload slot a }).setCore t.core.val
    { s.core t.core.val with loads := (s.core t.core.val).loads ++ [(s.clk.cycle, t.slot.val)] }

section Sfload
variable {s : State} {t : Tid} {x : Thread} {k : Task} (hi : Issues s t x k) {f : VOp} (hok : vOk f { vc := true, gs := true } = true)
  (het : f.et = 0) (hg : (x.gov f.pred f.pneg).getLsbD 0 = true) (hown : s.isOwn (gcoord (x.gr f.gs)) = true)
include hi hok het hg hown

/-- An SFLOAD of an aligned own source that the thread may load and no order rule holds. -/
theorem exec_sfload_queued (hal : (x.gr f.gs).toNat % 64 = 0) (hmay : s.mayLoad k.part (glocal (x.gr f.gs)) 4160 = true)
    (hord : s.orderWait t (x.gr f.gs) 4160 false = false) :
    exec (.sfload t f) s = .next (s.sfloadQueued t x f.vc.toNat (x.gr f.gs)) := by
  obtain ⟨ht, hm, hk, hf⟩ := hi
  have hfields : (vOk f { vc := true, gs := true } && f.et == 0) = true := by rw [hok, het]; rfl
  refine (State.issue_run ht hm hk hf hfields (.inr hg) rfl).trans ?_
  simp only [hal, State.resolve_of_isOwn hown, hmay, hord, ne_eq, not_true_eq_false, if_false, Bool.not_true, Bool.false_eq_true]
  rfl

/-- An SFLOAD of an own source that is misaligned or that the thread may not load (R153). -/
theorem exec_sfload_refused (h : (x.gr f.gs).toNat % 64 ≠ 0 ∨ s.mayLoad k.part (glocal (x.gr f.gs)) 4160 = false) :
    exec (.sfload t f) s = .next (s.raise t x .address (x.gr f.gs)) := by
  obtain ⟨ht, hm, hk, hf⟩ := hi
  have hfields : (vOk f { vc := true, gs := true } && f.et == 0) = true := by rw [hok, het]; rfl
  refine (State.issue_run ht hm hk hf hfields (.inr hg) rfl).trans ?_
  dsimp only
  split
  · rfl
  next hal => simp only [State.resolve_of_isOwn hown, h.resolve_left hal, Bool.not_false, if_true]

end Sfload

/-- The core that has taken the load of a thread off its queue. -/
def State.loadTaken (s : State) (t : Tid) : State :=
  s.setCore t.core.val { s.core t.core.val with loads := (s.core t.core.val).loads.filter fun e => e.2 ≠ t.slot.val }

theorem State.loadTaken_tables (s : State) (t : Tid) : ((s.loadTaken t).core t.core.val).tables = (s.core t.core.val).tables := by
  rw [State.loadTaken, State.core_setCore]

/-- The completion of an SFLOAD of an own source whose bytes are at hand. -/
theorem exec_sfloadComplete_own {s : State} {t : Tid} {x : Thread} {k : Task} {slot : Nat} {a : W64} (bs : List Byte) (st : Byte)
    (ht : s.thread? t = some x) (hw : x.wait = .sfload slot a) (hk : s.task? x.task = some k) (hwork : s.working = true)
    (hnext : s.nextLoad t.core.val = some t.slot.val) (hown : s.isOwn (gcoord a) = true) (hcopy : s.copying (glocal a) 4160 = false)
    (hheld : s.replayHeld (some x.task) (s.gkey a) 4160 = false) (hmay : s.mayLoad k.part (glocal a) 4160 = true)
    (hpoison : s.poisonAt (glocal a) 4160 = none) :
    exec (.sfloadComplete t bs st) s = .next ((s.loadTaken t).tableRead t x k slot a (s.bytes (glocal a) 4160)) := by
  change execSfloadComplete t bs st s = _
  unfold execSfloadComplete
  simp only [ht, hw, hk, hwork, hnext, hown, hcopy, hheld, hmay, hpoison, ne_eq, not_true_eq_false, decide_false, Bool.not_true,
    Bool.or_false, Bool.false_eq_true, if_false, if_true]
  rfl

section TableRead
variable {s : State} {t : Tid} {x : Thread} {k : Task} {slot : Nat} {a : W64} {bs : List Byte}

/-- A table that passes the load check, into a slot that no other partition holds: the thread goes on (R153, R158). -/
theorem State.tableRead_of_check (hfree : ∀ o, SMap.find? slot (s.core t.core.val).tables = some o → o.part = k.part)
    (hchk : tabCheck (leWord 33280 bs) = true) :
    (s.tableRead t x k slot a bs).thread? t = some { x with wait := .ready, pc := x.pc + 8 } ∧
    SMap.find? slot ((s.tableRead t x k slot a bs).core t.core.val).tables =
      some { part := k.part, source := a, image := leWord 33280 bs } := by
  have hheld : ((SMap.find? slot (s.core t.core.val).tables).any fun o => o.part ≠ k.part &&
      s.tasks.any fun e => e.2.part == o.part && e.2.live && e.2.phase != .switchedOut && e.2.core == t.core.val) = false := by
    cases ho : SMap.find? slot (s.core t.core.val).tables with
    | none => rfl
    | some o => simp [hfree o ho]
  unfold State.tableRead
  simp only [hheld, hchk, Bool.not_true, Bool.or_false, Bool.false_eq_true, if_false]
  refine ⟨State.thread?_setThread .., ?_⟩
  simp only [State.core, State.setThread_cores, State.count_cores, State.noteTable_cores, State.setCore_cores, SMap.get,
    SMap.find?_put_self, Option.getD_some]

/-- A table that fails the load check raises EXC_TABLE with its source (R153). -/
theorem State.tableRead_of_not_check (hchk : tabCheck (leWord 33280 bs) = false) :
    s.tableRead t x k slot a bs = (s.count .tableLoadFails t.core.val).raise t x .table a := by
  unfold State.tableRead
  simp only [hchk, Bool.not_false, Bool.or_true, if_true]

end TableRead

/-- Settles O19, from the effect of SFE, SFLOAD and its completion in each case. The address an EXC_TABLE of SFE records and the bit that
governs SFLOAD are choices of the model (logs 18 and 19). -/
theorem specialFunctions : Obligations.SpecialFunctions := by
  refine ⟨fun s t x k f hi hok het hv => ⟨exec_sfe_refused hi hok het, fun e he hp => ?_⟩,
    fun s t x k f hi hok het hg hown => ⟨fun hal hmay hord => ?_, exec_sfload_refused hi hok het hg hown⟩,
    fun s t x k slot a bs st ht hw hk hwork hnext hown hcopy hheld hmay hpoison hfree => ?_⟩
  · refine ⟨_, (vapply x f fun i => ((sfeElem x f e i).1, FpFlags.none)).step, exec_sfe_of_table hi hok het he hp, ?_,
      vecFrame_setElems hv .., vapply_fpFlags .., ?_, fun i hlt => velem_vapply hv f _ hlt, fun k' hk' => ?_⟩
    · rw [State.thread?, State.countSfe_threads, State.noteTable_threads]
      exact State.thread?_setThread ..
    · rw [State.countSfe_mem, State.noteTable_mem, State.setThread_mem]
    · rw [State.task?, State.countSfe_tasks] at hk'
      exact State.find?_tables_noteTable _ _ _ _ hk'
  · refine ⟨_, exec_sfload_queued hi hok het hg hown hal hmay hord, ?_, ?_⟩
    · exact State.thread?_setThread ..
    · rw [State.sfloadQueued, State.core_setCore]
  · refine ⟨_, exec_sfloadComplete_own bs st ht hw hk hwork hnext hown hcopy hheld hmay hpoison, fun hchk => ?_, fun hchk hh hin => ?_⟩
    · exact State.tableRead_of_check (by rw [State.loadTaken_tables]; exact hfree) hchk
    · obtain ⟨h, hh⟩ := Option.ne_none_iff_exists'.1 hh
      have hk' : ((s.loadTaken t).count .tableLoadFails t.core.val).task? x.task = some k := hk
      rw [State.tableRead_of_not_check hchk, State.raise_handled (h := h) (by rw [State.handlerOf_eq hk', hin, hh]; rfl)]
      refine ⟨?_, _, State.thread?_setThread .., rfl, rfl⟩
      rw [← State.loadTaken_tables s t]
      rfl

end Sys2Proof.Machine

/-! Runs of the matrix arrays (O20): the block of a LOAD, the output extent of a STREAM, and a RELEASE. -/

namespace Sys2Proof.Machine

open Sys2Proof

/-! ## The front command of an array -/

theorem State.frontCmd_of_queue {s : State} {n ty : Nat} {c : ArrCmd} {cs : List ArrCmd} {k : Task} (hw : s.working = true)
    (hq : (s.array n).queue = c :: cs) (hran : c.ran = false) (hk : s.task? c.task = some k) (hty : cmdType c.word = ty) :
    s.frontCmd n ty = some (c, k) := by
  simp [State.frontCmd, hw, hq, hran, hk, hty]

theorem ArrayUnit.ran_queue {u : ArrayUnit} {c : ArrCmd} {cs : List ArrCmd} (hq : u.queue = c :: cs) (st : Byte) (n : Nat) :
    (u.ran st n).queue = { c with ran := true, status := st, left := n } :: cs := by
  simp [ArrayUnit.ran, hq]

theorem State.array_setArray (s : State) (n : Nat) (u : ArrayUnit) : (s.setArray n u).array n = u := by
  rw [State.array, State.setArray_arrays, SMap.get, SMap.find?_put_self]
  rfl

theorem State.poisonAt_nil {s : State} (h : s.poison = []) (a n : Nat) : s.poisonAt a n = none := by
  simp [State.poisonAt, h]

/-! ## What the run of a STREAM changes -/

/-- s' is s after part of a STREAM's run: of what is named here only bytes of [lo, hi) differ. -/
structure State.StreamPart (lo hi : Nat) (s s' : State) : Prop where
  arrays : s'.arrays = s.arrays
  cores : s'.cores = s.cores
  threads : s'.threads = s.threads
  poison : s.poison = [] → s'.poison = []
  wf : Memory.wf s.mem = true → Memory.wf s'.mem = true
  bytes : Memory.wf s.mem = true → ∀ m, m < lo ∨ hi ≤ m → s'.byte m = s.byte m

section StreamPart
variable {lo hi : Nat} {s u v : State}

theorem State.StreamPart.refl (s : State) : s.StreamPart lo hi s := ⟨rfl, rfl, rfl, id, id, fun _ _ _ => rfl⟩

theorem State.StreamPart.trans (h : s.StreamPart lo hi u) (h' : u.StreamPart lo hi v) : s.StreamPart lo hi v where
  arrays := h'.arrays.trans h.arrays
  cores := h'.cores.trans h.cores
  threads := h'.threads.trans h.threads
  poison hp := h'.poison (h.poison hp)
  wf hw := h'.wf (h.wf hw)
  bytes hw m hm := (h'.bytes (h.wf hw) m hm).trans (h.bytes hw m hm)

theorem State.streamPart_count (s : State) (c : CtrName) (i n : Nat) : s.StreamPart lo hi (s.count c i n) :=
  ⟨rfl, rfl, rfl, id, id, fun _ _ _ => rfl⟩

theorem State.streamPart_logFault (s : State) (r : FaultRec) : s.StreamPart lo hi (s.logFault r) := by
  obtain ⟨_, _, _, _, h⟩ := s.logFault_reported r
  rw [h]
  exact ⟨rfl, rfl, rfl, id, id, fun _ _ _ => rfl⟩

theorem State.streamPart_transient (s : State) (x : Site) (cause : Nat) (detail detail2 : W64) (status : Byte) (part : Nat) :
    s.StreamPart lo hi (s.transient x cause detail detail2 status part) :=
  .trans (u := s.noteTransient x) ⟨rfl, rfl, rfl, id, id, fun _ _ _ => rfl⟩ (State.streamPart_logFault ..)

theorem State.streamPart_writeMem (s : State) {a : Nat} {bs : List Byte} (hl : lo ≤ a) (hh : a + bs.length ≤ hi) :
    s.StreamPart lo hi (s.writeMem a bs) where
  arrays := rfl
  cores := rfl
  threads := rfl
  poison hp := by rw [State.writeMem, hp]; rfl
  wf := Memory.wf_writeMem s a bs
  bytes hw m hm := byte_writeMem_frame s a bs m hw (by omega)

variable {r r' r'' : StreamRun}

/-- A part of a run leaves the state related, and stops nothing. -/
def StreamRun.Within (lo hi : Nat) (r r' : StreamRun) : Prop := r.s.StreamPart lo hi r'.s ∧ r'.stopped = r.stopped


theorem StreamRun.Within.refl (r : StreamRun) : r.Within lo hi r := ⟨.refl _, rfl⟩

theorem StreamRun.Within.trans (h : r.Within lo hi r') (h' : r'.Within lo hi r'') : r.Within lo hi r'' :=
  ⟨h.1.trans h'.1, h'.2.trans h.2⟩

theorem StreamRun.within_foldl {α : Type} {f : StreamRun → α → StreamRun} {l : List α}
    (h : ∀ r : StreamRun, ∀ x ∈ l, r.Within lo hi (f r x)) (r : StreamRun) : r.Within lo hi (l.foldl f r) := by
  induction l generalizing r with
  | nil => exact .refl r
  | cons x l ih => exact (h r x List.mem_cons_self).trans (ih (fun r y hy => h r y (List.mem_cons_of_mem _ hy)) _)

theorem StreamRun.within_put (r : StreamRun) {a : Nat} {bs : List Byte} (arr : Nat) (hl : lo ≤ a) (hh : a + bs.length ≤ hi) :
    r.Within lo hi (r.put a bs arr) := by
  refine ⟨(State.streamPart_writeMem r.s hl hh).trans ?_, rfl⟩
  change State.StreamPart _ _ _ (if _ then _ else _)
  split
  · exact State.streamPart_count ..
  · exact .refl _

/-- Counting cycles and moving to the next tile. -/
theorem StreamRun.Within.counted (h : r.Within lo hi r') (cycles addr : Nat) {P : Prop} {_ : Decidable P} (c : CtrName) (i n : Nat) :
    r.Within lo hi { r' with cycles := cycles, addr := addr, s := if P then r'.s.count c i n else r'.s } := by
  refine h.trans ⟨?_, rfl⟩
  dsimp only
  split
  · exact State.streamPart_count ..
  · exact .refl _

end StreamPart

/-- The element of a column for slice n of tile i lies in the output extent (R104). -/
theorem streamOut_inside {w : W512} {cols i n tc : Nat} (hi : i < streamNt w) (hn : n < 64) (htc : tc < cols) :
    (streamOutExt w cols).1 ≤ fld w 191 128 + (64 * i + n) * fld w 207 192 + tc * streamE w ∧
    fld w 191 128 + (64 * i + n) * fld w 207 192 + tc * streamE w + streamE w ≤ (streamOutExt w cols).1 + (streamOutExt w cols).2 := by
  have hrow : (64 * i + n) * fld w 207 192 ≤ (64 * streamNt w - 1) * fld w 207 192 := Nat.mul_le_mul_right _ (by omega)
  have hcol : (tc + 1) * streamE w ≤ cols * streamE w := Nat.mul_le_mul_right _ htc
  rw [Nat.succ_mul] at hcol
  simp only [streamOutExt]
  omega

theorem outBytes_length (w : W512) (y : Nat) : (outBytes (bit w 5) y).length = streamE w := by
  unfold outBytes streamE
  split <;> exact bytesLE_length ..

theorem nanBytes_length (w : W512) :
    (if bit w 5 then bytesLE 2 (Fmt.nanBits .bf16) else bytesLE 4 (Fmt.nanBits .fp32)).length = streamE w := by
  unfold streamE
  split <;> exact bytesLE_length ..

/-- With every unit ready and no line in error, a tile is faulted or good. -/
theorem State.readTile_ready {s : State} (hp : s.poison = []) {core : Nat} (hu : (s.core core).unready = []) (p addr pcap : Nat) :
    (∃ reason line, (s.readTile p core addr pcap).2 = .faulted reason line) ∨ ∃ cols, (s.readTile p core addr pcap).2 = .good cols := by
  have hmeet (o n : Nat) : unitsMeet (s.core core).unready o n = false := by rw [hu]; rfl
  unfold State.readTile
  simp only [hmeet, State.poisonAt_nil hp, Bool.false_eq_true, if_false]
  split_ifs
  · exact .inl ⟨_, _, rfl⟩
  · exact .inl ⟨_, _, rfl⟩
  · exact .inl ⟨_, _, rfl⟩
  · exact .inl ⟨_, _, rfl⟩
  · have hnone : ((tileHead (s.bytes addr 704)).planeOffs pcap).findSome? (fun _ => (none : Option Nat)) = none := by simp
    rw [hnone]
    exact .inr ⟨_, rfl⟩

/-- The write of the element of a column for slice n of tile i. -/
theorem StreamRun.within_putOut (r : StreamRun) {w : W512} {cols i n tc : Nat} {bs : List Byte} (arr : Nat) (hi : i < streamNt w)
    (hn : n < 64) (htc : tc < cols) (hl : bs.length = streamE w) :
    r.Within (streamOutExt w cols).1 ((streamOutExt w cols).1 + (streamOutExt w cols).2)
      (r.put (fld w 191 128 + (64 * i + n) * fld w 207 192 + tc * streamE w) bs arr) :=
  StreamRun.within_put r arr (streamOut_inside hi hn htc).1 (hl ▸ (streamOut_inside hi hn htc).2)

/-- A tile of a STREAM writes in the output extent alone, and does not stop the run. -/
theorem StreamRun.within_tile {r : StreamRun} {arr i : Nat} {c : ArrCmd} {b : Block} (t : Task) (mode : Nat) (henc : c.encore = false)
    (hcols : b.cols = c.cols) (hi : i < streamNt c.word) (hp : r.s.poison = []) (hu : (r.s.core (arr / 2)).unready = []) :
    r.Within (streamOutExt c.word c.cols).1 ((streamOutExt c.word c.cols).1 + (streamOutExt c.word c.cols).2)
      (r.tile arr c t b mode i) := by
  unfold StreamRun.tile
  split
  · exact .refl r
  simp only [henc, Bool.false_eq_true, if_false, Option.map_none, Option.getD_none]
  have hready := State.readTile_ready hp hu t.part r.addr (fld c.word 11 8)
  generalize r.s.readTile t.part (arr / 2) r.addr (fld c.word 11 8) = tile at *
  obtain ⟨h, rd⟩ := tile
  obtain ⟨reason, line, rfl⟩ | ⟨cols, rfl⟩ := hready
  · dsimp only
    refine StreamRun.Within.counted ?_ ..
    refine .trans ?_ (StreamRun.within_foldl (fun r n hn => StreamRun.within_foldl (fun r tc htc => ?_) r) _)
    · refine ⟨.trans ?_ (State.streamPart_count ..), rfl⟩
      refine .trans ?_ (State.streamPart_logFault ..)
      split
      · exact State.streamPart_transient ..
      · exact .refl _
    · exact r.within_putOut arr hi (List.mem_range.1 hn) (hcols ▸ List.mem_range.1 htc) (nanBytes_length c.word)
  · dsimp only
    refine StreamRun.Within.counted ?_ ..
    refine .trans ?_ (StreamRun.within_foldl (fun r e he => StreamRun.within_foldl (fun r tc htc => ?_) r) _)
    · exact ⟨State.streamPart_count .., rfl⟩
    have hn : e.1 < 64 := List.mem_range.1 (List.of_mem_zip (List.mem_filter.1 he).1).1
    have htc' : tc < c.cols := hcols ▸ List.mem_range.1 htc
    split
    · exact r.within_putOut arr hi hn htc' (nanBytes_length c.word)
    · refine .trans ?_ (StreamRun.within_putOut _ arr hi hn htc' (outBytes_length ..))
      split
      · exact ⟨State.streamPart_count .., rfl⟩
      · exact .refl _

theorem StreamRun.within_tiles {arr : Nat} {c : ArrCmd} {b : Block} (t : Task) (mode : Nat) (henc : c.encore = false)
    (hcols : b.cols = c.cols) {l : List Nat} (hl : ∀ i ∈ l, i < streamNt c.word) {r : StreamRun} (hp : r.s.poison = [])
    (hu : (r.s.core (arr / 2)).unready = []) :
    r.Within (streamOutExt c.word c.cols).1 ((streamOutExt c.word c.cols).1 + (streamOutExt c.word c.cols).2)
      (l.foldl (fun r i => r.tile arr c t b mode i) r) := by
  induction l generalizing r with
  | nil => exact .refl r
  | cons i l ih =>
    have htile := StreamRun.within_tile t mode henc hcols (hl i List.mem_cons_self) hp hu
    refine htile.trans (ih (fun j hj => hl j (List.mem_cons_of_mem _ hj)) (htile.1.poison hp) ?_)
    rw [State.core, htile.1.cores]
    exact hu

/-- With every unit ready and no line in error, no tile is late (R234). -/
theorem State.lateTiles_ready {s : State} (hp : s.poison = []) {arr : Nat} (hu : (s.core (arr / 2)).unready = []) {c : ArrCmd}
    (henc : c.encore = false) (t : Task) : s.lateTiles arr c t = [] := by
  have hstep (p addr pcap : Nat) : (s.readTile p (arr / 2) addr pcap).2 ≠ .wait := by
    rcases State.readTile_ready hp hu p addr pcap with ⟨_, _, h⟩ | ⟨_, h⟩ <;> rw [h] <;> exact fun h => nomatch h
  unfold State.lateTiles
  refine List.foldlRecOn (List.range (streamNt c.word)) (motive := fun acc : List Nat × Nat => acc.1 = []) _ rfl fun acc hacc i _ => ?_
  simp only [henc, Bool.false_eq_true, if_false, Option.map_none, Option.getD_none]
  exact (if_neg (hstep _ _ _)).trans hacc

/-! ## LOAD -/

section Feed
variable {s u : State} (hmem : u.mem = s.mem)
include hmem

theorem State.byte_congr (a : Nat) : u.byte a = s.byte a := by rw [State.byte, hmem, State.byte]

theorem State.num_congr (a n : Nat) : u.num a n = s.num a n := by
  simp only [State.num, State.bytes, State.byte_congr hmem]

/-- The feeder reads memory alone. -/
theorem State.feed_congr (w : W512) (wide : Bool) : u.feed w wide = s.feed w wide := by
  have hblock (f : ElemFmt) (scaled : Bool) (j t : Nat) : u.loadBlock w f scaled j t = s.loadBlock w f scaled j t := by
    simp only [State.loadBlock, State.num_congr hmem, State.byte_congr hmem]
  simp only [State.feed, hblock]

end Feed

theorem State.sorted_count {s : State} (h : SMap.sorted s.counters = true) (c : CtrName) (i n : Nat) :
    SMap.sorted (s.count c i n).counters = true := SMap.sorted_set _ _ _ h

/-- A count leaves the counters that come before it. -/
theorem State.ctr_count_of_lt {s : State} (h : SMap.sorted s.counters = true) {c d : CtrName} (hlt : d.ctorIdx < c.ctorIdx) {j : Nat}
    (hj : j < 2 ^ 20) (i n : Nat) : (s.count c i n).ctr d j = s.ctr d j := by
  refine (State.ctr_count h ..).trans (if_neg ?_)
  have hmul : (d.ctorIdx + 1) * 2 ^ 20 ≤ c.ctorIdx * 2 ^ 20 := Nat.mul_le_mul_right _ hlt
  unfold ctrKey
  omega

/-- Clipped infinities are noted in the layer's sticky counters alone. -/
theorem State.layerCounts_clipped (s : State) (p l n : Nat) : ∃ parts, s.layerCounts p l { clipped := n } = { s with parts := parts } := by
  unfold State.layerCounts
  split
  · exact ⟨s.parts, rfl⟩
  · exact ⟨_, rfl⟩

theorem State.layerCounts_clipped_mem (s : State) (p l n : Nat) : (s.layerCounts p l { clipped := n }).mem = s.mem := by
  obtain ⟨parts, h⟩ := s.layerCounts_clipped p l n
  rw [h]

theorem State.layerCounts_clipped_ctr (s : State) (p l n : Nat) (c : CtrName) (i : Nat) :
    (s.layerCounts p l { clipped := n }).ctr c i = s.ctr c i := by
  obtain ⟨parts, h⟩ := s.layerCounts_clipped p l n
  rw [h]
  rfl

theorem State.layerRec_count (s : State) (c : CtrName) (i n p l : Nat) : (s.count c i n).layerRec p l = s.layerRec p l := rfl

theorem State.loadCycles_mem (s : State) (arr : Nat) (t : Task) : (s.loadCycles arr t).mem = s.mem := by
  unfold State.loadCycles
  dsimp only
  split <;> simp only [State.engineTime, State.count_mem]

theorem State.loadCycles_poison (s : State) (arr : Nat) (t : Task) : (s.loadCycles arr t).poison = s.poison := by
  unfold State.loadCycles
  dsimp only
  split <;> simp only [State.engineTime, State.count_poison]

theorem State.loadCycles_sorted {s : State} (h : SMap.sorted s.counters = true) (arr : Nat) (t : Task) :
    SMap.sorted (s.loadCycles arr t).counters = true := by
  unfold State.loadCycles
  dsimp only
  have hengine := State.sorted_count (State.sorted_count h .engineTime t.part (64 * 256)) .vclock t.part (64 * 256)
  split <;> exact State.sorted_count hengine ..

/-- Outside a rehearsal a LOAD takes 256 row cycles (R88). -/
theorem State.loadCycles_ctr {s : State} (h : SMap.sorted s.counters = true) {arr : Nat} (harr : arr < 2 ^ 20) {t : Task}
    (hmode : recRehearsal (s.layerRec t.part (dLayer t.desc)) = 0) :
    (s.loadCycles arr t).ctr .rowCycles arr = s.ctr .rowCycles arr + 256 := by
  have hengine := State.sorted_count h .engineTime t.part (64 * 256)
  have hlayer : recRehearsal ((s.engineTime t.part (64 * 256)).layerRec t.part (dLayer t.desc)) = 0 := by
    rw [State.engineTime, State.layerRec_count, State.layerRec_count, hmode]
  rw [State.loadCycles, if_pos hlayer, State.engineTime, State.ctr_count (State.sorted_count hengine ..), if_pos rfl,
    State.ctr_count_of_lt hengine (by decide) harr, State.ctr_count_of_lt h (by decide) harr]
  rfl

/-- The run of a LOAD whose bytes hold no error: the block that the feeder forms (R88 to R92). -/
theorem State.runLoad_of_poison_nil {s : State} (hp : s.poison = []) (hs : SMap.sorted s.counters = true) {arr : Nat} (harr : arr < 2 ^ 20)
    (task : Nat) (t : Task) (w : W512) : ∃ s', s.runLoad arr task t w =
      (s', some ((s.feed w (recRehearsal (s.layerRec t.part (dLayer t.desc)) == 2)).1, stOk)) ∧ s'.mem = s.mem ∧
      (recRehearsal (s.layerRec t.part (dLayer t.desc)) = 0 → s'.ctr .rowCycles arr = s.ctr .rowCycles arr + 256) := by
  have hpoison (a n : Nat) : (s.loadCycles arr t).poisonAt a n = none := State.poisonAt_nil ((s.loadCycles_poison arr t).trans hp) a n
  have hnone : (loadReads w).findSome? (fun e => (s.loadCycles arr t).poisonAt e.1 e.2) = none := by simp [hpoison]
  unfold State.runLoad
  simp only [hnone, State.feed_congr (s.loadCycles_mem arr t)]
  refine ⟨_, rfl, ?_, fun hmode => ?_⟩
  · rw [State.layerCounts_clipped_mem, State.count_mem, State.count_mem, State.loadCycles_mem]
  · have hcyc := State.loadCycles_sorted hs arr t
    rw [State.layerCounts_clipped_ctr, State.ctr_count_of_lt (State.sorted_count hcyc ..) (by decide) harr,
      State.ctr_count_of_lt hcyc (by decide) harr, State.loadCycles_ctr hs harr hmode]

theorem arrKey_lt (a : ArrRef) : arrKey a < 2 ^ 20 := by
  have := a.core.isLt
  have := a.arr.isLt
  unfold arrKey
  omega

theorem arrKey_div (a : ArrRef) : arrKey a / 2 = a.core.val := by
  have := a.arr.isLt
  unfold arrKey
  omega

theorem State.streamPart_engineTime {lo hi : Nat} (s : State) (p n : Nat) : s.StreamPart lo hi (s.engineTime p n) :=
  (State.streamPart_count ..).trans (State.streamPart_count ..)

/-- The note of an output extent in its task. -/
theorem State.StreamPart.noted {lo hi : Nat} {s u : State} (h : s.StreamPart lo hi u) (n : Nat) (g : Task → Task) :
    s.StreamPart lo hi (match u.task? n with | some t => u.setTask n (g t) | none => u) := by
  split
  · exact h.trans ⟨rfl, rfl, rfl, id, id, fun _ _ _ => rfl⟩
  · exact h

/-- The end of a run that has written its output: the front command is marked. -/
theorem State.StreamPart.ran {lo hi n : Nat} {s u : State} {c : ArrCmd} {cs : List ArrCmd} (h : s.StreamPart lo hi u)
    (hq : (s.array n).queue = c :: cs) (hmem : Memory.wf s.mem = true) {st : Byte} {cycles : Nat} :
    ∃ s' st' n', Host.Outcome.next (u.setArray n ((u.array n).ran st cycles)) = (.next s' : Result) ∧
      (s'.array n).queue = { c with ran := true, status := st', left := n' } :: cs ∧
      (∀ m, m < lo ∨ hi ≤ m → s'.byte m = s.byte m) ∧ s'.threads = s.threads := by
  refine ⟨_, st, cycles, rfl, ?_, h.bytes hmem, h.threads⟩
  rw [State.array_setArray]
  refine ArrayUnit.ran_queue ?_ st cycles
  rw [State.array, h.arrays]
  exact hq

section Front
variable {s : State} {a : ArrRef} {c : ArrCmd} {cs : List ArrCmd} {k : Task} (hw : s.working = true)
  (hq : (s.array (arrKey a)).queue = c :: cs) (hran : c.ran = false) (hk : s.task? c.task = some k)
include hw hq hran hk

theorem exec_load_of_front (hp : s.poison = []) (hs : SMap.sorted s.counters = true) (hty : cmdType c.word = 1)
    (hheld : s.loadHeld c.task c.word = false) : ∃ s', exec (.load a) s = .next s' ∧ s'.mem = s.mem ∧
      (s'.array (arrKey a)).block = some (s.feed c.word (recRehearsal (s.layerRec k.part (dLayer k.desc)) == 2)).1 ∧
      (s'.array (arrKey a)).queue = { c with ran := true, status := 0x00, left := 256 } :: cs ∧
      (recRehearsal (s.layerRec k.part (dLayer k.desc)) = 0 → s'.ctr .rowCycles (arrKey a) = s.ctr .rowCycles (arrKey a) + 256) := by
  obtain ⟨s₁, hrun, hmem, hctr⟩ := State.runLoad_of_poison_nil hp hs (arrKey_lt a) c.task k c.word
  refine ⟨s₁.setArray (arrKey a) { (s.array (arrKey a)).ran stOk 256 with
    block := some (s.feed c.word (recRehearsal (s.layerRec k.part (dLayer k.desc)) == 2)).1, loaded := some c.word }, ?_, hmem, ?_, ?_, hctr⟩
  · change execLoad a s = _
    simp only [execLoad, State.frontCmd_of_queue hw hq hran hk hty, hheld, hrun, Bool.false_eq_true, if_false]
  · rw [State.array_setArray]
  · rw [State.array_setArray]
    exact ArrayUnit.ran_queue hq stOk 256

theorem exec_release_of_front (hty : cmdType c.word = 3) : ∃ s', exec (.release a) s = .next s' ∧ s'.mem = s.mem ∧
    s'.threads = s.threads ∧ (s'.array (arrKey a)).queue = { c with ran := true, status := 0x00, left := 0 } :: cs := by
  refine ⟨s.setArray (arrKey a) ((s.array (arrKey a)).ran stOk), ?_, rfl, rfl, ?_⟩
  · change execRelease a s = _
    simp only [execRelease, State.frontCmd_of_queue hw hq hran hk hty]
  · rw [State.array_setArray]
    exact ArrayUnit.ran_queue hq stOk 0

theorem exec_stream_of_front (hp : s.poison = []) (hmem : Memory.wf s.mem = true) {b : Block} (hty : cmdType c.word = 2)
    (henc : c.encore = false) (hb : (s.array (arrKey a)).block = some b) (hcols : b.cols = c.cols)
    (hu : (s.core a.core.val).unready = []) : ∃ s' st n, exec (.stream a) s = .next s' ∧
      (s'.array (arrKey a)).queue = { c with ran := true, status := st, left := n } :: cs ∧
      (∀ m, m < fld c.word 191 128 ∨ (streamOutExt c.word c.cols).1 + (streamOutExt c.word c.cols).2 ≤ m → s'.byte m = s.byte m) ∧
      s'.threads = s.threads := by
  rw [← arrKey_div] at hu
  have hlate : s.lateTile (arrKey a) c k = (s, false) := by rw [State.lateTile, State.lateTiles_ready hp hu henc]
  have htiles := StreamRun.within_tiles (arr := arrKey a) (b := b) (l := List.range (streamNt c.word)) k
    (recRehearsal (s.layerRec k.part (dLayer k.desc))) henc hcols (fun i hi => List.mem_range.1 hi)
    (r := { s := s, addr := fld c.word 127 64, status := if b.poisoned then stPoison else stOk }) hp hu
  change ∃ s' st n, execStream a s = .next s' ∧ _
  simp only [execStream, State.frontCmd_of_queue hw hq hran hk hty, hb, hlate]
  generalize List.foldl _ _ _ = r at *
  obtain ⟨hpart, hstop⟩ := htiles
  rw [if_neg (ne_true_of_eq_false hstop)]
  refine State.StreamPart.ran ?_ hq hmem
  refine State.StreamPart.noted ?_ c.task fun t => t.noteWrite (streamOutExt c.word c.cols).1 (streamOutExt c.word c.cols).2
  refine hpart.trans (.trans ?_ (State.streamPart_engineTime ..))
  split <;> exact State.streamPart_count ..

end Front

/-- Settles O20, from the run of each type of command at the front of its queue. -/
theorem arrayRuns : Obligations.ArrayRuns := by
  intro s a c cs k hw hq hran hk hp hmem hs
  exact ⟨exec_load_of_front hw hq hran hk hp hs,
    fun b hty henc hb hcols hu => exec_stream_of_front hw hq hran hk hp hmem hty henc hb hcols hu, exec_release_of_front hw hq hran hk⟩

end Sys2Proof.Machine

/-! Array commands (O21): ACMD, ASTAT, AWAIT, and the completion of the front command. -/

namespace Sys2Proof.Machine

open Sys2Proof

section Issue
variable {s : State} {t : Tid} {x : Thread} {k : Task} (hi : Issues s t x k) {f : AOp}
  (hg : (x.gov f.pred f.pneg).getLsbD 0 = true) (hrsv : f.rsv = 0)
include hi hg hrsv

/-- A format A instruction with its unused fields zero has its effect. -/
theorem State.issueA_of_issues {gd ga tag : Bool} (hgd : gd = true ∨ f.gd = 0) (hga : ga = true ∨ f.ga = 0)
    (htag : tag = true ∨ f.tag = 0) (run : Thread → Task → State) :
    s.issue t f.pred f.pneg (aOk f gd ga tag) false true run = .next (run x k) := by
  obtain ⟨ht, hm, hk, hf⟩ := hi
  have hok : aOk f gd ga tag = true := by
    unfold aOk
    simp only [Bool.and_eq_true, Bool.or_eq_true, beq_iff_eq]
    exact ⟨⟨⟨hrsv, hgd⟩, hga⟩, htag⟩
  exact State.issue_run ht hm hk hf hok (.inr hg) rfl

/-- The count of the commands an array holds (R72). -/
theorem exec_astat_of_issues (hga : f.ga = 0) (htag : f.tag = 0) :
    exec (.astat t f) s = .next (s.setThread t (x.setG f.gd (BitVec.ofNat 64 (s.array (aKey t f)).queue.length)).step) :=
  State.issueA_of_issues hi hg hrsv (.inl rfl) (.inr hga) (.inr htag) _

end Issue

/-! ## ACMD -/

theorem fld_top_eq_zero_iff (a : W64) : fld a 63 52 = 0 ↔ a.toNat < 2 ^ 52 := by
  have := a.isLt
  simp only [fld, Nat.shiftRight_eq_div_pow]
  omega

/-- The tile-store range of a local address is kept under coordinate 0xFFF (R30). -/
theorem lkey_or {a : W64} (h : a.toNat < 2 ^ 52) : 0xFFF0000000000000#64 ||| a = BitVec.ofNat 64 (0xFFF * 2 ^ 52 + a.toNat) := by
  apply BitVec.eq_of_toNat_eq
  have hor : 0xFFF * 2 ^ 52 ||| a.toNat = 0xFFF * 2 ^ 52 + a.toNat := by
    rw [Nat.mul_comm]
    exact (Nat.two_pow_add_eq_or_of_lt h _).symm
  have hsum : (BitVec.ofNat 64 (0xFFF * 2 ^ 52 + a.toNat)).toNat = 0xFFF * 2 ^ 52 + a.toNat := by
    rw [BitVec.toNat_ofNat, Nat.mod_eq_of_lt (by omega)]
  rw [hsum, ← hor, BitVec.toNat_or]
  rfl

/-- A command word that ACMD refuses: misaligned, or not within the cast's range of its tile store (R72). -/
def AcmdRefused (k : Task) (a : W64) : Prop :=
  fld a 63 52 ≠ 0 ∨ a.toNat % 64 ≠ 0 ∨ (!inside a.toNat 64 k.tsBase k.tsSize) = true

theorem acmdRefused_iff (k : Task) (a : W64) : AcmdRefused k a ↔
    a.toNat % 64 ≠ 0 ∨ a.toNat < k.tsBase ∨ k.tsBase + k.tsSize < a.toNat + 64 ∨ 2 ^ 52 ≤ a.toNat := by
  rw [AcmdRefused, Ne, fld_top_eq_zero_iff]
  simp only [inside, Bool.not_eq_true', Bool.and_eq_false_iff, decide_eq_false_iff_not]
  omega

/-- The state in which an array holds the command of an ACMD (R72, R87, R104). -/
def State.acmdQueued (s : State) (t : Tid) (f : AOp) (x : Thread) (k : Task) : State :=
  let u := s.array (aKey t f)
  let key := arrTag (aKey t f) f.tag.toNat
  ((s.setArray (aKey t f) (u.accept x.task f.tag.toNat (s.word512 (x.gr f.ga).toNat) k.encore s.clk.cycle)).setTask x.task
    { k with arrSeq := SMap.put key u.nextSeq k.arrSeq, arrDone := SMap.del key k.arrDone }).setThread t x.step

/-- What follows the checks of the address and of order. -/
def State.acmdPlaced (s : State) (t : Tid) (f : AOp) (x : Thread) (k : Task) : State :=
  if s.replayHeld (some x.task) (lkey (x.gr f.ga).toNat) 64 then (s.setThread t { x with wait := .held }).count .replayHolds
  else if s.poisoned (x.gr f.ga).toNat 64 then
    let (s', began) := s.readError k.part (x.gr f.ga).toNat [x.task]
    if began then s' else s'.raise t x .data (x.gr f.ga)
  else if !s.cmdOk k (aKey t f) (s.word512 (x.gr f.ga).toNat) then s.raise t x .array 0
  else s.acmdQueued t f x k

section Acmd
variable {s : State} {t : Tid} {x : Thread} {k : Task} (hi : Issues s t x k) {f : AOp}
  (hg : (x.gov f.pred f.pneg).getLsbD 0 = true) (hrsv : f.rsv = 0) (hgd : f.gd = 0)
include hi hg hrsv hgd

/-- A bad command word raises EXC_ADDRESS. -/
theorem exec_acmd_address (h : AcmdRefused k (x.gr f.ga)) : exec (.acmd t f) s = .next (s.raise t x .address (x.gr f.ga)) := by
  refine (State.issueA_of_issues hi hg hrsv (.inr hgd) (.inl rfl) (.inl rfl) _).trans ?_
  exact congrArg Host.Outcome.next (if_pos h)

section Good
variable (hgood : ¬ AcmdRefused k (x.gr f.ga))
  (hord : s.orderWait t (BitVec.ofNat 64 (0xFFF * 2 ^ 52 + (x.gr f.ga).toNat)) 64 false = false)
include hgood hord

theorem exec_acmd_good : exec (.acmd t f) s = .next
    (if (s.array (aKey t f)).owner.any (· != x.task) ∨ 8 ≤ (s.array (aKey t f)).queue.length
      then s.setThread t { x with wait := .acmd (aKey t f) } else s.acmdPlaced t f x k) := by
  have hlt : (x.gr f.ga).toNat < 2 ^ 52 := by
    rw [acmdRefused_iff] at hgood
    omega
  have hord' : s.orderWait t (0xFFF0000000000000#64 ||| x.gr f.ga) 64 false = false := by rw [lkey_or hlt, hord]
  refine (State.issueA_of_issues hi hg hrsv (.inr hgd) (.inl rfl) (.inl rfl) _).trans (congrArg Host.Outcome.next ?_)
  refine (if_neg hgood).trans ?_
  simp only [hord', Bool.false_eq_true, if_false]
  rfl

/-- A full array, or another cast's, holds the thread (R72, R87). -/
theorem exec_acmd_waits (h : (s.array (aKey t f)).owner.any (· != x.task) = true ∨ 8 ≤ (s.array (aKey t f)).queue.length) :
    exec (.acmd t f) s = .next (s.setThread t { x with wait := .acmd (aKey t f) }) := by
  rw [exec_acmd_good hi hg hrsv hgd hgood hord, if_pos h]

section Place
variable (hown : (s.array (aKey t f)).owner.any (· != x.task) = false) (hlen : (s.array (aKey t f)).queue.length < 8)
  (hheld : s.replayHeld (some x.task) (lkey (x.gr f.ga).toNat) 64 = false) (hpoison : s.poisoned (x.gr f.ga).toNat 64 = false)
include hown hlen hheld hpoison

/-- A command that fails its checks raises EXC_ARRAY (R103). -/
theorem exec_acmd_array (hchk : s.cmdOk k (aKey t f) (s.word512 (x.gr f.ga).toNat) = false) :
    exec (.acmd t f) s = .next (s.raise t x .array 0) := by
  rw [exec_acmd_good hi hg hrsv hgd hgood hord, if_neg (by simp [hown, hlen])]
  simp only [State.acmdPlaced, hheld, hpoison, hchk, Bool.false_eq_true, if_false, Bool.not_false, if_true]

/-- A command that passes its checks is queued on the array, which its cast claims (R72, R87). -/
theorem exec_acmd_queued (hchk : s.cmdOk k (aKey t f) (s.word512 (x.gr f.ga).toNat) = true) :
    exec (.acmd t f) s = .next (s.acmdQueued t f x k) := by
  rw [exec_acmd_good hi hg hrsv hgd hgood hord, if_neg (by simp [hown, hlen])]
  simp only [State.acmdPlaced, hheld, hpoison, hchk, Bool.false_eq_true, if_false, Bool.not_true]

end Place

end Good

end Acmd

/-- The entry that a command accepted by an array makes in its queue. -/
def ArrayUnit.newCmd (u : ArrayUnit) (task tag : Nat) (w : W512) (encore : Bool) (lead : Option Nat) : ArrCmd :=
  { seq := u.nextSeq, tag := tag, task := task, word := w, cols := u.loadCols.getD 0, encore := encore, lead := lead }

/-- The command that an array accepts is its last, unrun, and the cast owns the array (R72, R73, R87). -/
theorem ArrayUnit.accept_queue (u : ArrayUnit) (task tag : Nat) (w : W512) (encore : Bool) (now : Nat) :
    (u.accept task tag w encore now).owner = some task ∧ ∃ c, (u.accept task tag w encore now).queue = u.queue ++ [c] ∧ c.word = w ∧
      c.tag = tag ∧ c.task = task ∧ c.seq = u.nextSeq ∧ c.ran = false := by
  unfold ArrayUnit.accept
  generalize (if u.queue.isEmpty then none else some now) = lead
  split <;> exact ⟨rfl, u.newCmd task tag w encore lead, rfl, rfl, rfl, rfl, rfl, rfl⟩

theorem State.array_setArray_ne (s : State) {m n : Nat} (h : m ≠ n) (u : ArrayUnit) : (s.setArray n u).array m = s.array m := by
  rw [State.array, State.setArray_arrays, SMap.get, SMap.find?_put_ne h]
  rfl

theorem State.acmdQueued_array (s : State) (t : Tid) (f : AOp) (x : Thread) (k : Task) (m : Nat) :
    (s.acmdQueued t f x k).array m = (s.setArray (aKey t f)
      ((s.array (aKey t f)).accept x.task f.tag.toNat (s.word512 (x.gr f.ga).toNat) k.encore s.clk.cycle)).array m := rfl

/-- What queueing a command leaves: the thread past its ACMD, the command at the end of its array's queue, all else. -/
theorem State.acmdQueued_spec (s : State) (t : Tid) (f : AOp) (x : Thread) (k : Task) : ∃ c,
    (s.acmdQueued t f x k).thread? t = some x.step ∧
    ((s.acmdQueued t f x k).array (aKey t f)).queue = (s.array (aKey t f)).queue ++ [c] ∧ c.word = s.word512 (x.gr f.ga).toNat ∧
    c.tag = f.tag.toNat ∧ c.task = x.task ∧ c.seq = (s.array (aKey t f)).nextSeq ∧ c.ran = false ∧
    ((s.acmdQueued t f x k).array (aKey t f)).owner = some x.task ∧ (s.acmdQueued t f x k).mem = s.mem ∧
    ∀ m, m ≠ aKey t f → (s.acmdQueued t f x k).array m = s.array m := by
  obtain ⟨hown, c, hq, hw, htag, htask, hseq, hran⟩ := (s.array (aKey t f)).accept_queue x.task f.tag.toNat
    (s.word512 (x.gr f.ga).toNat) k.encore s.clk.cycle
  refine ⟨c, State.thread?_setThread .., ?_, hw, htag, htask, hseq, hran, ?_, rfl, fun m hm => ?_⟩
  · rw [State.acmdQueued_array, State.array_setArray, hq]
  · rw [State.acmdQueued_array, State.array_setArray, hown]
  · rw [State.acmdQueued_array, State.array_setArray_ne _ hm]

/-! ## AWAIT -/

theorem arrTag_aKey (t : Tid) (f : AOp) (tag : Nat) : arrTag (aKey t f) tag = (if f.arr then 256 else 0) + tag := by
  unfold arrTag aKey
  split <;> omega

section Await
variable {s : State} {t : Tid} {x : Thread} {k : Task} (hi : Issues s t x k) {f : AOp}
  (hg : (x.gov f.pred f.pneg).getLsbD 0 = true) (hrsv : f.rsv = 0) (hga : f.ga = 0)
include hi hg hrsv hga

/-- The result of AWAIT by what the cast has had accepted and completed under its TAG (R73). -/
theorem exec_await_of_issues : exec (.await t f) s = .next
    (match SMap.find? ((if f.arr then 256 else 0) + f.tag.toNat) k.arrSeq with
      | none => s.setThread t (x.setG f.gd 0).step
      | some n => match SMap.find? ((if f.arr then 256 else 0) + f.tag.toNat) k.arrDone with
        | some st => s.setThread t (x.setG f.gd (st.setWidth 64)).step
        | none => s.setThread t { x with wait := .await (aKey t f) n f.gd.toNat }) := by
  rw [← arrTag_aKey t]
  exact State.issueA_of_issues hi hg hrsv (.inl rfl) (.inr hga) (.inl rfl) _

end Await

/-! ## The completion of the front command -/

/-- What the completion of the front command makes of a thread that awaits it: it goes on with the status in GD (R73). -/
def Thread.awaited (x : Thread) (gd : Nat) (st : Byte) : Thread :=
  (({ x with wait := .ready } : Thread).setG (BitVec.ofNat 6 gd) (st.setWidth 64)).step

theorem Thread.awaited_eq (x : Thread) (gd : Nat) (st : Byte) :
    ∃ g live, x.awaited gd st = { x with wait := .ready, g := g, liveG := live, pc := x.pc + 8 } := by
  obtain ⟨g, live, h⟩ := Thread.setG_eq ({ x with wait := .ready } : Thread) (BitVec.ofNat 6 gd) (st.setWidth 64)
  exact ⟨g, live, by rw [Thread.awaited, h]; rfl⟩

theorem Thread.awaited_wait (x : Thread) (gd : Nat) (st : Byte) : (x.awaited gd st).wait = .ready := by
  obtain ⟨g, live, h⟩ := x.awaited_eq gd st
  rw [h]

theorem Thread.awaited_pc (x : Thread) (gd : Nat) (st : Byte) : (x.awaited gd st).pc = x.pc + 8 := by
  obtain ⟨g, live, h⟩ := x.awaited_eq gd st
  rw [h]

theorem Thread.gr_awaited {x : Thread} (hs : SMap.sorted x.g = true) {gd : Nat} (h0 : gd ≠ 0) (hlt : gd < 64) (st : Byte) :
    (x.awaited gd st).gr (BitVec.ofNat 6 gd) = BitVec.ofNat 64 st.toNat := by
  have hgd : BitVec.ofNat 6 gd ≠ 0 := fun h => h0 (by simpa [Nat.mod_eq_of_lt hlt] using congrArg BitVec.toNat h)
  rw [Thread.awaited, Thread.gr_step, Thread.gr_setG ({ x with wait := .ready } : Thread) _ _ _ hs, if_pos ⟨rfl, hgd⟩, BitVec.ofNat_toNat]

/-- The completion of the front command, once it has run: tasks, threads and its own array change (R72, R73, R87). -/
theorem exec_arrayCommandComplete_of_ran {s : State} {a : ArrRef} {c : ArrCmd} {cs : List ArrCmd}
    (hq : (s.array (arrKey a)).queue = c :: cs) (hran : c.ran = true) :
    ∃ tasks, exec (.arrayCommandComplete a) s = .next (((({ s with tasks := tasks } : State).setArray (arrKey a)
      (s.afterCommand (arrKey a) c)).wakeAwait (arrKey a) c.seq c.status).wakeAcmd (arrKey a)) := by
  change ∃ tasks, execArrayCommandComplete a s = _
  unfold execArrayCommandComplete
  simp only [hq, hran, Bool.not_true, Bool.false_eq_true, if_false]
  split
  · split
    · exact ⟨_, rfl⟩
    · exact ⟨s.tasks, rfl⟩
  · exact ⟨s.tasks, rfl⟩

/-- A thread that awaits the completed command goes on. -/
theorem State.thread?_wakeAwait_wakeAcmd {s : State} {t : Tid} {x : Thread} {arr seq gd : Nat} (st : Byte) (n : Nat)
    (ht : s.thread? t = some x) (hw : x.wait = .await arr seq gd) :
    ((s.wakeAwait arr seq st).wakeAcmd n).thread? t = some (x.awaited gd st) := by
  have hawait : (s.wakeAwait arr seq st).thread? t = some (x.awaited gd st) := by
    rw [State.thread?, State.wakeAwait, SMap.find?_mapVals]
    change Option.map _ (s.thread? t) = _
    simp [ht, hw, Thread.awaited]
  rw [State.thread?, State.wakeAcmd, SMap.find?_mapVals]
  change Option.map _ ((s.wakeAwait arr seq st).thread? t) = _
  simp [hawait, x.awaited_wait]

/-- An array freed when its queue is empty holds what it held. -/
theorem ArrayUnit.queue_freedIf (u : ArrayUnit) (p : Bool) : (if u.queue.isEmpty && p then u.freed else u).queue = u.queue := by
  split
  next h => exact (List.isEmpty_iff.1 (Bool.and_eq_true_iff.1 h).1).symm
  next => rfl

/-- The queue that a completed command leaves: the commands behind it, the lead of each LOAD that waited for its output begun. -/
theorem State.afterCommand_queue {s : State} {n : Nat} {c : ArrCmd} {cs : List ArrCmd} (hq : (s.array n).queue = c :: cs) :
    (s.afterCommand n c).queue = cs.map fun d => d.leadAfter c s.clk.cycle := by
  unfold State.afterCommand
  refine (ArrayUnit.queue_freedIf ..).trans ?_
  dsimp only
  split <;> simp [hq]

/-- A RELEASE with nothing behind it frees its array (R87). -/
theorem State.afterCommand_release {s : State} {n : Nat} {c : ArrCmd} (hq : (s.array n).queue = [c]) (hty : cmdType c.word = 3) :
    (s.afterCommand n c).owner = none ∧ (s.afterCommand n c).block = none := by
  unfold State.afterCommand
  simp [hq, hty, ArrayUnit.freed]

/-- Settles O21, from the cases of ACMD, AWAIT and the completion of a command. The address 0 that an EXC_ARRAY records is the model's
choice (log 18). -/
theorem arrayCommands : Obligations.ArrayCommands := by
  refine ⟨fun s t x k f hi hg => ⟨fun hrsv hgd => ⟨fun hbad => ?_, fun hal hlo hhi hlt hord => ⟨fun hfull => ?_, ?_⟩⟩,
    fun hrsv hga htag => exec_astat_of_issues hi hg hrsv hga htag⟩, fun s t x k f hi hg hrsv hga => ⟨fun hnone => ?_, ?_, ?_⟩,
    fun s a c cs hq hran => ?_⟩
  · exact exec_acmd_address hi hg hrsv hgd ((acmdRefused_iff ..).2 hbad)
  · exact exec_acmd_waits hi hg hrsv hgd (mt (acmdRefused_iff ..).1 (by omega)) hord hfull
  · intro hown hlen hheld hpoison
    have hgood : ¬ AcmdRefused k (x.gr f.ga) := mt (acmdRefused_iff ..).1 (by omega)
    refine ⟨exec_acmd_array hi hg hrsv hgd hgood hord hown hlen hheld hpoison, fun hchk => ?_⟩
    obtain ⟨c, hspec⟩ := s.acmdQueued_spec t f x k
    exact ⟨_, c, exec_acmd_queued hi hg hrsv hgd hgood hord hown hlen hheld hpoison hchk, hspec⟩
  · rw [exec_await_of_issues hi hg hrsv hga, hnone]
  · intro n st hseq hdone
    rw [exec_await_of_issues hi hg hrsv hga, hseq, BitVec.ofNat_toNat]
    simp only [hdone]
  · intro n hseq hdone
    rw [exec_await_of_issues hi hg hrsv hga, hseq]
    simp only [hdone]
    rfl
  · obtain ⟨tasks, hexec⟩ := exec_arrayCommandComplete_of_ran hq hran
    have harr : (((({ s with tasks := tasks } : State).setArray (arrKey a) (s.afterCommand (arrKey a) c)).wakeAwait (arrKey a) c.seq
        c.status).wakeAcmd (arrKey a)).array (arrKey a) = s.afterCommand (arrKey a) c := State.array_setArray ..
    refine ⟨_, hexec, ?_, rfl, fun hty hcs => ?_, fun t x gd ht hw hgd _ => ?_⟩
    · rw [harr, State.afterCommand_queue hq]
      rfl
    · rw [harr]
      exact State.afterCommand_release (hcs ▸ hq) hty
    · exact ⟨x.awaited gd c.status, State.thread?_wakeAwait_wakeAcmd _ _ ht hw, x.awaited_wait .., x.awaited_pc ..,
        fun hgd0 hs => Thread.gr_awaited hs hgd0 hgd _⟩

end Sys2Proof.Machine

/-! The dispatch of a cast (O30): the first ready task goes, and its threads start in the slots chosen. -/

namespace Sys2Proof.Machine

open Sys2Proof

/-! ## Threads started in a list of slots -/

/-- A map that takes a value for each element of a list, under keys that no two of them share, holds each. -/
theorem SMap.find?_foldl_put {α β : Type} {key : β → Nat} {val : β → α} {l : List β} {e : β} (he : e ∈ l)
    (hinj : ∀ e' ∈ l, key e' = key e → e' = e) (m : SMap α) :
    SMap.find? (key e) (l.foldl (fun m e => SMap.put (key e) (val e) m) m) = some (val e) := by
  induction l using List.reverseRecOn with
  | nil => cases he
  | append_singleton l a ih =>
    rw [List.foldl_append]
    change SMap.find? (key e) (SMap.put (key a) (val a) _) = _
    by_cases hkey : key a = key e
    · rw [hinj a (by simp) hkey]
      exact SMap.find?_put_self ..
    · rw [SMap.find?_put_ne (fun h => hkey h.symm)]
      refine ih ?_ fun e' h' => hinj e' (List.mem_append_left _ h')
      rcases List.mem_append.1 he with h | h
      · exact h
      · exact absurd (congrArg key (List.mem_singleton.1 h)).symm hkey

theorem State.freeSlots_nodup (s : State) (c : Nat) : (s.freeSlots c).Nodup := List.nodup_range.filter _

/-- The thread that a cast starts with: PC at CODE, g1 the argument word (R24, R55). -/
def castThread (k : Nat) (d : W512) (n : Nat) : Thread :=
  { task := k, tid := n, pc := BitVec.ofNat 64 (dCode d), g := SMap.set 0 [] 1 (dArg d), liveG := [1] }

/-- The threads of a core's slots after a cast has started in some of them. -/
def castThreads (c k : Nat) (d : W512) (slots : List Nat) (threads : SMap Thread) : SMap Thread :=
  slots.zipIdx.foldl (fun m e => SMap.put (c * 64 + e.1) (castThread k d e.2) m) threads

theorem find?_castThreads {c k : Nat} {d : W512} {slots : List Nat} (hnodup : slots.Nodup) {n sl : Nat} (h : slots[n]? = some sl)
    (threads : SMap Thread) : SMap.find? (c * 64 + sl) (castThreads c k d slots threads) = some (castThread k d n) := by
  refine SMap.find?_foldl_put (key := fun e : Nat × Nat => c * 64 + e.1) (val := fun e => castThread k d e.2) (e := (sl, n))
    (List.mem_zipIdx_iff_getElem?.2 h) (fun e he hkey => ?_) threads
  obtain ⟨sl', n'⟩ := e
  obtain rfl : sl' = sl := by
    have : c * 64 + sl' = c * 64 + sl := hkey
    omega
  have hn' : slots[n']? = some sl' := List.mem_zipIdx_iff_getElem?.1 he
  rw [(List.getElem?_inj (List.getElem?_eq_some_iff.1 hn').1 hnodup).1 (hn'.trans h.symm)]

/-- g1 holds the argument word and every other general register zero (R55). -/
theorem gr_castThread (k : Nat) (d : W512) (n : Nat) (i : BitVec 6) : (castThread k d n).gr i = if i = 1 then dArg d else 0 := by
  have hget : SMap.get 0#64 (SMap.set 0 [] 1 (dArg d)) i.toNat = if i.toNat = 1 then dArg d else 0 :=
    SMap.get_set 0 1 i.toNat (dArg d) (m := []) rfl
  have hone : i.toNat = 1 ↔ i = 1 := ⟨fun h => BitVec.eq_of_toNat_eq h, fun h => h ▸ rfl⟩
  change (if i = 0 then 0 else SMap.get 0#64 (SMap.set 0 [] 1 (dArg d)) i.toNat) = _
  simp only [hget, hone]
  split
  next h0 => rw [h0, if_neg (by decide)]
  next => rfl

/-! ## A cast's start -/

/-- s' holds the threads and tasks of s. -/
def State.SameCasts (s s' : State) : Prop := s'.threads = s.threads ∧ s'.tasks = s.tasks

theorem State.noteArea_sameCasts (s : State) (p y : Nat) : s.SameCasts (s.noteArea p y) := by
  unfold State.noteArea
  dsimp only
  split
  · exact ⟨rfl, rfl⟩
  · split <;> exact ⟨rfl, rfl⟩

theorem State.arrivalList_sameCasts (s : State) (p y : Nat) : s.SameCasts (s.arrivalList p y) := by
  unfold State.arrivalList
  split
  · dsimp only
    split
    · obtain ⟨_, _, h⟩ := s.homeWrite_fabricOnly _ _ inputOwn
      rw [h]
      exact ⟨rfl, rfl⟩
    · exact ⟨rfl, rfl⟩
  · exact ⟨rfl, rfl⟩

/-- The accounts of a dispatch mark the task as dispatched and running where it was placed (R285, R290). -/
theorem State.noteDispatch_spec (s : State) (k : Nat) (t : Task) : ∃ t', (s.noteDispatch k t).task? k = some t' ∧
    t'.phase = .running ∧ t'.dispatched = true ∧ t'.core = t.core ∧ t'.slots = t.slots := by
  unfold State.noteDispatch
  exact ⟨_, SMap.find?_put_self .., rfl, rfl, rfl, rfl⟩

theorem State.noteDispatch_threads (s : State) (k : Nat) (t : Task) : (s.noteDispatch k t).threads = s.threads := by
  have htake : (s.takeLayer t.part (dLayer t.desc)).threads = s.threads := by
    unfold State.takeLayer
    dsimp only
    split <;> rfl
  exact htake

/-- The start of the arrival list of a split with its first part (R185). -/
theorem State.splitBegun_sameCasts (s : State) (d : W512) (p : Nat) : s.SameCasts
    (match splitOf d with
      | none => s
      | some y =>
        if dCollect d || (SMap.find? y (s.part p).splits).isSome then s
        else ((s.modPart p fun x => { x with splits := SMap.put y [] x.splits }).noteArea p y).arrivalList p y) := by
  split
  · exact ⟨rfl, rfl⟩
  next y _ =>
    split
    · exact ⟨rfl, rfl⟩
    · obtain ⟨hthreads, htasks⟩ := State.noteArea_sameCasts (s.modPart p fun x => { x with splits := SMap.put y [] x.splits }) p y
      obtain ⟨hthreads', htasks'⟩ := State.arrivalList_sameCasts
        ((s.modPart p fun x => { x with splits := SMap.put y [] x.splits }).noteArea p y) p y
      exact ⟨hthreads'.trans hthreads, htasks'.trans htasks⟩

/-- A task placed on a core: the lowest free slots, the lowest range, the lowest index (R290, R291). -/
def State.castPlaced (s : State) (t : Task) (c : Nat) : Task :=
  { t with
    core := c, slots := (s.freeSlots c).take (dThreads t.desc), tsBase := (s.tsRangeFor t.part c (dTile t.desc)).getD (tileBase c)
    tsSize := dTile t.desc, bookIdx := (bookFree (s.bookTaken (some c) 0)).getD 0 }

/-- A core's slots loaded with the tables that a cast has recorded (R158). -/
def State.castLoaded (s : State) (t : Task) (c : Nat) : State :=
  (s.setCore c { s.core c with tables := t.tables.foldl (fun m e => SMap.put e.1 e.2 m) (s.core c).tables }).count
    .tableLoads c t.tables.length

/-- What the start of a cast makes of its task and of the threads (R24, R290). -/
theorem State.startCast_spec (s : State) (k : Nat) (t : Task) (c : Nat) : ∃ t', (s.startCast k t c).task? k = some t' ∧
    t'.phase = .running ∧ t'.dispatched = true ∧ t'.core = c ∧ t'.slots = (s.freeSlots c).take (dThreads t.desc) ∧
    (s.startCast k t c).threads = castThreads c k t.desc t'.slots s.threads := by
  obtain ⟨t', htask, hphase, hdisp, hcore, hslots⟩ := (s.castLoaded t c).noteDispatch_spec k (s.castPlaced t c)
  obtain ⟨hthreads, htasks⟩ := State.splitBegun_sameCasts ({ (s.castLoaded t c).noteDispatch k (s.castPlaced t c) with
    threads := castThreads c k t.desc ((s.freeSlots c).take (dThreads t.desc)) ((s.castLoaded t c).noteDispatch k (s.castPlaced t c)).threads } :
    State) t.desc t.part
  refine ⟨t', ?_, hphase, hdisp, hcore, hslots, ?_⟩
  · exact (congrArg (SMap.find? k) htasks).trans htask
  · rw [hslots]
    exact hthreads.trans (congrArg (castThreads c k t.desc _) (State.noteDispatch_threads ..))

/-- The front ready task of a die goes where its checks pass and a core is free for it (R290, R291, R293). -/
theorem exec_dispatch_of_ready {s : State} {d : Fin 4} {k c : Nat} {t : Task} {rest : List (Nat × Task)} {rs : List Range}
    (hw : s.working = true) (hready : s.noteAll.readyOn d.val = (k, t) :: rest) (hsel : (s.noteAll.part t.part).selectRunning = false)
    (hfrom : (s.noteAll.part t.part).dispatchFrom ≤ s.noteAll.clk.cycle) (hwaits : s.noteAll.replayWaits k t = false)
    (hchk : s.noteAll.checkTask t = some rs) (hheld : s.noteAll.readsHeld k t rs = false) (hcast : dIsCast t.desc = true)
    (hplace : s.noteAll.placeOn (s.noteAll.declare k t rs) = some c) (hfetch : s.noteAll.refetch (s.noteAll.declare k t rs) c = []) :
    exec (.dispatch d) s = .next (s.noteAll.startCast k (s.noteAll.declare k t rs) c) := by
  have hgo : s.noteAll.tryDispatch k t = some (s.noteAll.startCast k (s.noteAll.declare k t rs) c) := by
    have hcast' : dIsCast (s.noteAll.declare k t rs).desc = true := hcast
    unfold State.tryDispatch
    simp [hsel, Nat.not_lt.2 hfrom, hwaits, hchk, hheld, hcast', hplace, hfetch]
  change execDispatch d s = _
  unfold execDispatch
  simp [hw, hready, hgo]

/-- Settles O30, from the state in which a cast has started. The slots taken are the lowest free ones, the model's choice (log 83). -/
theorem dispatchStartsCast : Obligations.DispatchStartsCast := by
  intro s d k t rest rs c hw s1 hready hsel hfrom hwaits hchk hheld hcast hplace hfetch
  obtain ⟨t', htask, hphase, hdisp, hcore, hslots, hthreads⟩ := s1.startCast_spec k (s1.declare k t rs) c
  refine ⟨_, t', exec_dispatch_of_ready hw hready hsel hfrom hwaits hchk hheld hcast hplace hfetch, htask, hphase, hdisp, hcore, hslots,
    fun n sl hn => ⟨castThread k t.desc n, ?_, rfl, rfl, rfl, gr_castThread k t.desc n, fun _ => rfl, fun i hi => if_neg hi, rfl, rfl⟩⟩
  have hnodup : t'.slots.Nodup := hslots ▸ (s1.freeSlots_nodup c).sublist (List.take_sublist ..)
  exact (congrArg (SMap.find? _) hthreads).trans (find?_castThreads hnodup hn _)

end Sys2Proof.Machine

/-! Sums of the bit-serial arrays (O22, O23): a weight as the sum of its consumed planes (R97), and the bounds that keep the
accumulators from overflowing (R98). -/

namespace Sys2Proof.SMap

theorem abs_get_le {m : SMap Int} {b : Int} (hb : 0 ≤ b) (h : ∀ e ∈ m, |e.2| ≤ b) (k : Nat) : |get 0 m k| ≤ b := by
  unfold get
  cases hv : find? k m with
  | none => simpa using hb
  | some v => exact h _ (mem_of_find? hv)

end Sys2Proof.SMap

namespace Sys2Proof.Machine

open Sys2Proof

/-! ## The planes of a weight -/

namespace TileCol

variable (x : TileCol) (pcap k : Nat)

/-- What the n-th plane from the top adds to the weight of row k: its bit by the plane's value, the top plane's negative (R97). -/
def planeTerm (n : Nat) : Int :=
  if (x.planes.getD n 0).testBit k then (if n = 0 then -(2 : Int) ^ (x.p - 1) else 2 ^ (x.p - 1 - n)) else 0

theorem used_le : x.used pcap ≤ x.c := by
  unfold used
  split
  · exact le_rfl
  · exact min_le_left ..

variable {x pcap k}

theorem used_pos (hc : 1 ≤ x.c) : 1 ≤ x.used pcap := by
  unfold used
  split
  · exact hc
  next hpcap => exact le_min hc (Nat.one_le_iff_ne_zero.2 hpcap)

/-- A weight is the sum of its consumed planes' terms (R97). -/
theorem weight_eq_sum (hp : x.used pcap ≤ x.p) :
    x.weight pcap k = ((List.range (min (x.used pcap) x.planes.length)).map (x.planeTerm k)).sum := by
  unfold weight positionsFrom
  rw [← List.sum_eq_foldl]
  congr 1
  refine List.ext_getElem (by simp) fun n hn _ => ?_
  have hlt : n < x.used pcap ∧ n < x.planes.length := by simpa using hn
  obtain ⟨hused, hplanes⟩ := hlt
  have htop : x.p - 1 - n + 1 = x.p ↔ n = 0 := by omega
  simp only [List.getElem_map, List.getElem_zip, List.getElem_range, planeTerm, List.getD_eq_getElem _ _ hplanes, htop]
  cases hbit : x.planes[n].testBit k with
  | false => rfl
  | true =>
    by_cases h0 : n = 0
    · subst h0; rfl
    · simp [h0]

theorem planeTerm_top : -(2 : Int) ^ (x.p - 1) ≤ x.planeTerm k 0 ∧ x.planeTerm k 0 ≤ 0 := by
  have hpow : (0 : Int) < 2 ^ (x.p - 1) := by positivity
  unfold planeTerm
  rw [if_pos rfl]
  split <;> omega

theorem planeTerm_below {n : Nat} (hn : n ≠ 0) : 0 ≤ x.planeTerm k n ∧ x.planeTerm k n ≤ 2 ^ (x.p - 1 - n) := by
  have hpow : (0 : Int) < 2 ^ (x.p - 1 - n) := by positivity
  unfold planeTerm
  rw [if_neg hn]
  split <;> omega

/-- The top n + 1 planes reach from the top plane's value to one unit of the n-th below its opposite. -/
theorem sum_planeTerm_bounds {n : Nat} (hn : n < x.p) :
    -(2 : Int) ^ (x.p - 1) ≤ ((List.range (n + 1)).map (x.planeTerm k)).sum ∧
      ((List.range (n + 1)).map (x.planeTerm k)).sum ≤ 2 ^ (x.p - 1) - 2 ^ (x.p - 1 - n) := by
  induction n with
  | zero => simpa using planeTerm_top
  | succ n ih =>
    obtain ⟨hlow, hhigh⟩ := ih (Nat.lt_of_succ_lt hn)
    obtain ⟨hterm0, hterm⟩ := planeTerm_below (x := x) (k := k) (n := n + 1) n.succ_ne_zero
    have hhalf : (2 : Int) ^ (x.p - 1 - n) = 2 * 2 ^ (x.p - 1 - (n + 1)) := by
      rw [← pow_succ']
      congr 1
      omega
    rw [List.sum_range_succ]
    constructor <;> omega

/-- R98: a consumed weight is at most 2^(P − 1) in magnitude. -/
theorem abs_weight_le (hp : x.used pcap ≤ x.p) : |x.weight pcap k| ≤ 2 ^ (x.p - 1) := by
  have hpow : (0 : Int) < 2 ^ (x.p - 1) := by positivity
  rw [weight_eq_sum hp]
  cases hm : min (x.used pcap) x.planes.length with
  | zero => simp
  | succ n =>
    obtain ⟨hlow, hhigh⟩ := sum_planeTerm_bounds (x := x) (k := k) (n := n) (by omega)
    have hunit : (0 : Int) < 2 ^ (x.p - 1 - n) := by positivity
    rw [abs_le]
    constructor <;> omega

theorem kappa_nonneg : 0 ≤ x.kappa pcap := by
  unfold kappa
  dsimp only
  split <;> positivity

/-- R98: κ is largest with one plane of eight consumed. -/
theorem kappa_le (hused : 1 ≤ x.used pcap) (hp : x.p ≤ 8) : x.kappa pcap ≤ 2 ^ 6 := by
  unfold kappa
  dsimp only
  split
  · exact pow_le_pow_right₀ (by norm_num) (by omega)
  · norm_num

end TileCol

/-- Settles O23: with no cap on planes the sum of the consumed planes' terms is over all that the column carries. -/
theorem planeWeights : Obligations.PlaneWeights := by
  intro x i _ hcp hlen
  have hused : x.used 0 = x.c := rfl
  constructor
  · rw [TileCol.weight_eq_sum (hused ▸ hcp), hused, hlen, min_self, List.sum_eq_foldl, List.foldl_map]
    rfl
  · have hlt : x.c < x.p ↔ x.c ≠ x.p := hcp.lt_iff_ne
    simp only [TileCol.kappa, hused, hlt, ite_not]

/-! ## The sums of a block -/

/-- A sum is at most its number of terms by their greatest magnitude. -/
theorem abs_sum_map_le {α : Type} {l : List α} {f : α → Int} {m : Int} (h : ∀ a ∈ l, |f a| ≤ m) :
    |(l.map f).sum| ≤ l.length * m := by
  have hle := List.sum_le_card_nsmul ((l.map f).map abs) m (by simpa using h)
  simp only [List.length_map, nsmul_eq_mul] at hle
  exact (List.le_sum_of_subadditive abs abs_zero.le abs_add_le _).trans hle

theorem abs_getD_le {ws : List Int} {m : Int} (hm : 0 ≤ m) (h : ∀ w ∈ ws, |w| ≤ m) (n : Nat) : |ws.getD n 0| ≤ m := by
  rcases Nat.lt_or_ge n ws.length with hn | hn
  · rw [List.getD_eq_getElem _ _ hn]
    exact h _ (List.getElem_mem hn)
  · rwa [List.getD_eq_default _ _ hn, abs_zero]

/-- R98: a block's sum is at most 32 products of the greatest weight and element, and the greatest correction. -/
theorem Block.abs_sum_le {b : Block} {ws : List Int} {kappa wmax kmax qmax smax : Int} (hw : ∀ n, |ws.getD n 0| ≤ wmax)
    (hk : |kappa| ≤ kmax) (hq : ∀ i, |SMap.get 0 b.q i| ≤ qmax) (hs : ∀ i, |SMap.get 0 b.sums i| ≤ smax) (j t : Nat) :
    |b.sum ws kappa j t| ≤ 32 * (wmax * qmax) + kmax * smax := by
  have hw0 : 0 ≤ wmax := (abs_nonneg _).trans (hw 0)
  have hk0 : 0 ≤ kmax := (abs_nonneg _).trans hk
  have hmul {a c m n : Int} (ha : |a| ≤ m) (hc : |c| ≤ n) (hm : 0 ≤ m) : |a * c| ≤ m * n := by
    rw [abs_mul]
    exact mul_le_mul ha hc (abs_nonneg c) hm
  unfold Block.sum
  rw [← List.sum_eq_foldl]
  refine (abs_add_le ..).trans (add_le_add ?_ (hmul hk (hs _) hk0))
  exact abs_sum_map_le (l := List.range 32) fun r _ => hmul (hw _) (hq _) hw0

/-- Settles O22: the planes' values bound the weights and κ, and these the sums. -/
theorem accumulationBounded : Obligations.AccumulationBounded := by
  refine ⟨fun x pcap i hc hcp hp8 => ?_, fun b ws kappa t hws hk0 hk hq hs => ?_⟩
  · have hpow : (2 : Int) ^ (x.p - 1) ≤ 2 ^ 7 := pow_le_pow_right₀ one_le_two (by omega)
    exact ⟨TileCol.abs_weight_le ((x.used_le pcap).trans hcp), hpow, TileCol.kappa_nonneg, TileCol.kappa_le (TileCol.used_pos hc) hp8⟩
  · have hblock (j : Nat) : |b.sum ws kappa j t| ≤ 12533760 :=
      Block.abs_sum_le (abs_getD_le (by norm_num) hws) ((abs_of_nonneg hk0).trans_le hk) hq hs j t
    exact ⟨hblock, by norm_num, abs_sum_map_le (l := List.range 8) fun j _ => hblock j, by norm_num, by norm_num⟩

/-! ## A column and a block of R98 -/

/-- A column of eight planes of which the top one alone is carried, with every bit set. -/
def topPlaneCol : TileCol := { p := 8, c := 1, z := 0, scales := [], planes := [2 ^ 256 - 1] }

/-- A block whose first 32 rows hold the greatest element in column 0. -/
def greatestBlock : Block :=
  { cols := 1, align := true, q := (List.range 32).map fun r => (128 * r, 2040), sums := [(0, 65280)] }

/-- O22's hypotheses hold of a column and a block with the greatest weights, elements and correction. -/
theorem accumulationBounded_greatestBlock :
    |greatestBlock.sum ((List.range 256).map (topPlaneCol.weight 0)) (topPlaneCol.kappa 0) 0 0| ≤ 12533760 := by
  obtain ⟨hcol, hblock⟩ := accumulationBounded
  have hbounds (i : Nat) := hcol topPlaneCol 0 i (by decide) (by decide) (by decide)
  obtain ⟨-, -, hk0, hk⟩ := hbounds 0
  refine (hblock greatestBlock _ _ 0 (fun w hw => ?_) hk0 hk (SMap.abs_get_le (by norm_num) (by decide))
    (SMap.abs_get_le (by norm_num) (by decide))).1 0
  obtain ⟨i, -, rfl⟩ := List.mem_map.1 hw
  obtain ⟨hweight, hpow, -, -⟩ := hbounds i
  exact hweight.trans hpow

end Sys2Proof.Machine

/-! Norm verdicts and encores (O35): a verdict that is logged, one that is not due, and a reservation that is placed (R132 to R138, R238). -/

namespace Sys2Proof.Machine

open Sys2Proof

/-! ## What a verdict leaves unchanged -/

/-- Memory, tasks and threads are the same. -/
structure State.SameWork (s t : State) : Prop where
  mem : t.mem = s.mem
  tasks : t.tasks = s.tasks
  threads : t.threads = s.threads

theorem State.SameWork.trans {s t u : State} (h : s.SameWork t) (h' : t.SameWork u) : s.SameWork u :=
  ⟨h'.mem.trans h.mem, h'.tasks.trans h.tasks, h'.threads.trans h.threads⟩

theorem State.Reported.sameWork {s t : State} (h : s.Reported t) : s.SameWork t := by
  obtain ⟨_, _, _, _, rfl⟩ := h
  exact ⟨rfl, rfl, rfl⟩

theorem State.modPart_sameWork (s : State) (p : Nat) (f : Part → Part) : s.SameWork (s.modPart p f) := ⟨rfl, rfl, rfl⟩

/-- An event of the norm watch touches its partition, a counter and what reports it (R135). -/
theorem State.nwEvent_sameWork (s : State) (p l reason : Nat) : s.SameWork (s.nwEvent p l reason) := by
  unfold State.nwEvent
  refine .trans ?_ (State.emcy_reported _ _).sameWork
  exact ⟨rfl, rfl, rfl⟩

theorem State.judge_sameWork (s : State) (p l : Nat) (g : Bool) (n : W32) : s.SameWork (s.judge p l g n).1 := by
  unfold State.judge
  dsimp only
  have hmod (f : Part → Part) := s.modPart_sameWork p f
  split <;> split
  · exact ((hmod _).trans (State.nwEvent_sameWork ..)).trans (State.nwEvent_sameWork ..)
  · exact (hmod _).trans (State.nwEvent_sameWork ..)
  · exact (hmod _).trans (State.nwEvent_sameWork ..)
  · exact hmod _

/-! ## NORM_VERDICT -/

section Verdict
variable {s : State} {p : Fin 128} {l : Fin 1024} {g : Bool}

/-- A verdict that is not due is not formed (R132). -/
theorem exec_normVerdict_of_not_due (h : (SMap.get {} (s.part p.val).reports (reportKey l.val g)).due = false) :
    exec (.normVerdict p l g) s = .next s :=
  if_pos (by simp [h])

/-- A due verdict under the logging action judges the reports and does no more (R135). -/
theorem exec_normVerdict_logged (hwork : s.working = true) (hphase : (s.part p.val).phase = .active)
    (hdue : (SMap.get {} (s.part p.val).reports (reportKey l.val g)).due = true) (hact : recAction (s.layerRec p.val l.val) g = 1)
    (henc : (s.part p.val).encores = []) : let r := SMap.get {} (s.part p.val).reports (reportKey l.val g)
    exec (.normVerdict p l g) s = .next ((s.judge p.val l.val g (normOf r.vals.values)).1.modPart p.val fun x =>
      { x with reports := SMap.put (reportKey l.val g) { r with judged := true } x.reports }) := by
  intro r
  change execNormVerdict p l g s = _
  unfold execNormVerdict
  rw [if_neg (by simp [hwork, hphase, hdue, hact])]
  simp only [hact, henc]
  cases (s.judge p.val l.val g (normOf r.vals.values)).2 <;> rfl

end Verdict

/-! ## ENCORE_RESERVATION -/

/-- The reports of a kind of a layer are gathered afresh. -/
def Part.gatherAfresh (l : Nat) (x : Part) (g : Bool) : Part := { x with reports := SMap.del (reportKey l g) x.reports }

theorem Part.foldl_gatherAfresh_encores (l : Nat) (ks : List Bool) (x : Part) :
    (ks.foldl (Part.gatherAfresh l) x).encores = x.encores :=
  foldl_keeps Part.encores (by intros; rfl) ks x

/-- Task k waits to run again as an encore. -/
def State.RunsAgain (s : State) (k : Nat) : Prop := ∃ t, s.task? k = some t ∧ t.phase = .waiting ∧ t.encore = true

/-- Sends a cast task of an encore's layer to run again (R138). -/
def State.sendAgain (p : Nat) (s : State) (c : Nat × Task) : State :=
  (s.raiseVclock p).setTask c.1 { c.2 with
    phase := .waiting, encore := true, readyAt := some s.clk.cycle, status := stOk, arrSeq := [], arrDone := []
    granules := [], atomCount := [], saved := [], savedArrays := [] }

@[simp] theorem State.raiseVclock_tasks (s : State) (p : Nat) : (s.raiseVclock p).tasks = s.tasks := by
  simp only [State.raiseVclock]
  repeat' split
  all_goals rfl

theorem State.sendAgain_runsAgain (p : Nat) (s : State) (c : Nat × Task) : (s.sendAgain p c).RunsAgain c.1 :=
  ⟨_, SMap.find?_put_self .., rfl, rfl⟩

theorem State.RunsAgain.sendAgain {s : State} {k : Nat} (h : s.RunsAgain k) (p : Nat) (c : Nat × Task) : (s.sendAgain p c).RunsAgain k := by
  by_cases hk : k = c.1
  · exact hk ▸ s.sendAgain_runsAgain p c
  · obtain ⟨t, ht, hwait⟩ := h
    refine ⟨t, ?_, hwait⟩
    rw [State.sendAgain, State.task?, State.setTask_tasks, SMap.find?_put_ne hk, State.raiseVclock_tasks]
    exact ht

/-- Every task of the list that is sent runs again. -/
theorem State.foldl_sendAgain_runsAgain (p : Nat) {c : Nat × Task} : ∀ {l : List (Nat × Task)} (s : State), c ∈ l ∨ s.RunsAgain c.1 →
    (l.foldl (State.sendAgain p) s).RunsAgain c.1
  | [], s, h => h.resolve_left List.not_mem_nil
  | d :: l, s, h => by
    refine State.foldl_sendAgain_runsAgain p (l := l) (s.sendAgain p d) ?_
    rcases h with h | h
    · rcases List.mem_cons.mp h with rfl | h
      · exact .inr (s.sendAgain_runsAgain p c)
      · exact .inl h
    · exact .inr (h.sendAgain p d)

section Reservation
variable {s : State} {p : Fin 128} {l : Fin 1024} {e : Encore}

/-- A reservation that nothing stands against is placed, and the layer's casts run again (R138, R238). -/
theorem exec_encoreReservation_placed (he : SMap.find? l.val (s.part p.val).encores = some e) (hwork : s.working = true)
    (hphase : (s.part p.val).phase = .active) (hplaced : e.placed = false) (hout : s.kindHeld p.val l.val false = false)
    (hgrad : s.kindHeld p.val l.val true = false) (hfree : e.ranges.any (s.rangeHeld p.val l.val) = false)
    (hdone : (s.layerCasts p.val l.val).any (fun c => c.2.phase != .complete || c.2.replaying) = false)
    (hmerge : s.mergeWaits p.val l.val = none) : ∃ s', exec (.encoreReservation p l) s = .next s' ∧
      (∀ c ∈ s.layerCasts p.val l.val, s'.RunsAgain c.1) ∧
      ∃ e', SMap.find? l.val (s'.part p.val).encores = some e' ∧ e'.placed = true := by
  change ∃ s', execEncoreReservation p l s = _ ∧ _
  unfold execEncoreReservation
  simp only [he]
  rw [if_neg (by simp [hwork, hphase, hplaced, hout, hgrad, hfree, hdone])]
  simp only [hmerge]
  refine ⟨_, rfl, fun c hc => State.foldl_sendAgain_runsAgain p.val _ (.inl hc), ?_⟩
  refine ⟨{ e with placed := true, redirects := ?_ }, ?_, rfl⟩
  rotate_left
  · refine (congrArg (fun x : Part => SMap.find? l.val x.encores) (SMap.get_put_self ..)).trans ?_
    refine (congrArg (SMap.find? l.val) (Part.foldl_gatherAfresh_encores ..)).trans ?_
    exact SMap.find?_put_self ..

end Reservation

/-- Settles O35: a verdict that is logged is `judge` and the mark of its reports; a reservation that is placed sends each cast of the
layer again. -/
theorem normVerdicts : Obligations.NormVerdicts := by
  intro s p l g x r
  refine ⟨fun hwork hphase hdue hact henc => ?_, exec_normVerdict_of_not_due, fun e he hwork hphase hplaced hout hgrad hfree hdone _ hmerge => ?_⟩
  · have hsame := s.judge_sameWork p.val l.val g (normOf r.vals.values)
    refine ⟨_, exec_normVerdict_logged hwork hphase hdue hact henc, ?_, hsame.mem, hsame.tasks, hsame.threads⟩
    simp [State.modPart, State.part]
  · exact exec_encoreReservation_placed he hwork hphase hplaced hout hgrad hfree hdone hmerge

end Sys2Proof.Machine

/-! What requests that leave, complete or are sent again change (for O53): no port's phase and no held access, and a partition in RESET
that has no task stays so. One rule per operation, in the order of the model's files. -/

namespace Sys2Proof.Machine

open Sys2Proof

/-- From s to t no access is held or let go, no port changes its phase, a partition in RESET stays there, and no partition gains its
first task. -/
structure State.Keeps (s t : State) : Prop where
  held : t.fab.held = s.fab.held
  phases : ∀ n, (t.port n).phase = (s.port n).phase
  resets : ∀ p, (s.part p).phase = .reset → (t.part p).phase = .reset
  tasks : ∀ e ∈ t.tasks, ∃ d ∈ s.tasks, d.2.part = e.2.part

section Keeps
variable {s t u : State}

theorem State.Keeps.of_eq (hheld : t.fab.held = s.fab.held) (hports : t.fab.ports = s.fab.ports) (hparts : t.parts = s.parts)
    (htasks : t.tasks = s.tasks) : s.Keeps t where
  held := hheld
  phases n := by rw [State.port, hports, State.port]
  resets p := by rw [State.part, State.part, hparts]; exact id
  tasks e he := ⟨e, htasks ▸ he, rfl⟩

theorem State.Keeps.refl (s : State) : s.Keeps s := .of_eq rfl rfl rfl rfl

theorem State.Keeps.trans (h : s.Keeps t) (h' : t.Keeps u) : s.Keeps u where
  held := h'.held.trans h.held
  phases n := (h'.phases n).trans (h.phases n)
  resets p hp := h'.resets p (h.resets p hp)
  tasks e he := by
    obtain ⟨d, hd, hde⟩ := h'.tasks e he
    obtain ⟨c, hc, hcd⟩ := h.tasks d hd
    exact ⟨c, hc, hcd.trans hde⟩

/-- A pass over a list whose steps keep keeps. -/
theorem State.Keeps.foldl {α : Type} {f : State → α → State} (hf : ∀ (s : State) (a : α), s.Keeps (f s a)) (l : List α) (s : State) :
    s.Keeps (l.foldl f s) :=
  List.foldlRecOn l f (.refl s) fun _ ht a _ => ht.trans (hf _ a)

/-- The state that comes out beside a value. -/
theorem State.Keeps.of_pair {α : Type} {p : State × α} {x : α} (h : s.Keeps p.1) (hp : p = (t, x)) : s.Keeps t := by
  rwa [hp] at h

/-- A partition with no task gains none. -/
theorem State.Keeps.noTask (h : s.Keeps t) {p : Nat} (hs : ∀ e ∈ s.tasks, e.2.part ≠ p) : ∀ e ∈ t.tasks, e.2.part ≠ p := by
  intro e he
  obtain ⟨d, hd, hde⟩ := h.tasks e he
  exact hde ▸ hs d hd

end Keeps

/-! ## Parts of the state -/

section Units
variable (s : State)

theorem State.count_keeps (c : CtrName) (i n : Nat) : s.Keeps (s.count c i n) := .of_eq rfl rfl rfl rfl

theorem State.send_keeps (o : Out) : s.Keeps (s.send o) := .of_eq rfl rfl rfl rfl

theorem State.setThread_keeps (t : Tid) (x : Thread) : s.Keeps (s.setThread t x) := .of_eq rfl rfl rfl rfl

theorem State.setCore_keeps (k : Nat) (x : Core) : s.Keeps (s.setCore k x) := .of_eq rfl rfl rfl rfl

theorem State.setPeer_keeps (c : BitVec 12) (x : Peer) : s.Keeps (s.setPeer c x) := .of_eq rfl rfl rfl rfl

variable {s} in
/-- A task replaced by one of its partition. -/
theorem State.setTask_keeps {k : Nat} {x y : Task} (hx : s.task? k = some x) (hpart : x.part = y.part) : s.Keeps (s.setTask k y) where
  held := rfl
  phases _ := rfl
  resets _ := id
  tasks e he := by
    rcases SMap.mem_put he with rfl | he
    · exact ⟨(k, x), SMap.mem_of_find? hx, hpart⟩
    · exact ⟨e, he, rfl⟩

/-- A partition changed without leaving RESET. -/
theorem State.modPart_keeps (p : Nat) {f : Part → Part}
    (hf : ∀ x : Part, x.phase = .reset → (f x).phase = .reset := by exact fun _ h => h) : s.Keeps (s.modPart p f) where
  held := rfl
  phases _ := rfl
  resets q hq := by
    rw [State.modPart, State.part, State.setPart_parts, SMap.get_put]
    split
    · next h => exact hf _ (h ▸ hq)
    · exact hq
  tasks e he := ⟨e, he, rfl⟩

/-- A port changed within its phase. -/
theorem State.setPort_keeps {n : Nat} {x : Port} (hx : x.phase = (s.port n).phase) : s.Keeps (s.setPort n x) where
  held := rfl
  phases m := by
    rw [State.port, State.setPort, SMap.get_put]
    split
    · next h => exact h ▸ hx
    · rfl
  resets _ := id
  tasks e he := ⟨e, he, rfl⟩

end Units

/-! ## Packets that leave -/

theorem Port.pump_phase (m : Nat) (x : Port) : (x.pump m).phase = x.phase := by
  induction m generalizing x with
  | zero => rfl
  | succ m ih =>
    have hlaunch (y : Port) (vc : Nat) (nak : Bool) (bs : List Byte) : (y.launch vc nak bs).phase = y.phase := by
      unfold Port.launch Port.spend
      dsimp only
      split <;> rfl
    unfold Port.pump
    split
    · rfl
    · split
      · rfl
      · exact (ih _).trans (hlaunch ..)

section Packets
variable (s : State)

theorem State.portSend_keeps (n vc : Nat) (bs : List Byte) : s.Keeps (s.portSend n vc bs) := by
  refine s.setPort_keeps ?_
  split
  · exact Port.pump_phase ..
  · rfl

theorem State.emit_keeps (op : Nat) (r : FabReq) : s.Keeps (s.emit op r) := (s.send_keeps _).trans (State.portSend_keeps ..)

theorem State.postSeg_keeps (p : Nat) (dst : BitVec 12) (g : FabSeg) (kind : PendKind) (task : Option Nat) :
    s.Keeps (s.postSeg p dst g kind task) := .of_eq rfl rfl rfl rfl

theorem State.cohPort_keeps (dst : BitVec 12) (die line : Nat) (ack : Bool) : s.Keeps (s.cohPort dst die line ack) := by
  unfold State.cohPort
  split
  · exact s.portSend_keeps ..
  · exact .of_eq rfl rfl rfl rfl

theorem State.cohSend_keeps (dst : BitVec 12) (die line : Nat) (ack : Bool) : s.Keeps (s.cohSend dst die line ack) :=
  (s.send_keeps _).trans (State.cohPort_keeps ..)

theorem State.cohPump_keeps : s.Keeps s.cohPump := by
  refine .trans ?_ (.foldl (fun u w => u.cohPort_keeps ..) s.fab.cohWait _)
  exact .of_eq rfl rfl rfl rfl

/-! ## The fault log -/

theorem State.Reported.keeps {s t : State} (h : s.Reported t) : s.Keeps t := by
  obtain ⟨_, _, _, _, rfl⟩ := h
  exact .of_eq rfl rfl rfl rfl

theorem State.settle_keeps : s.Keeps s.settle := s.settle_reported.keeps

theorem State.logFault_keeps (r : FaultRec) : s.Keeps (s.logFault r) :=
  .trans (t := (s.logOnly r).1) (.of_eq rfl rfl rfl rfl) (s.logFault_reported r).keeps

/-! ## Caches and copies -/

theorem State.evict_keeps (die : Nat) : s.Keeps (s.evict die) := by
  unfold State.evict
  dsimp only
  repeat' split
  all_goals exact .of_eq rfl rfl rfl rfl

theorem State.cacheFill_keeps (die line : Nat) (w : W512) : s.Keeps (s.cacheFill die line w) := by
  unfold State.cacheFill
  dsimp only
  split
  · exact .refl s
  · refine .trans (t := if (s.cached? die line).isSome then s else s.evict die) ?_ (.of_eq rfl rfl rfl rfl)
    split
    · exact .refl s
    · exact s.evict_keeps die

theorem State.writeDone_keeps (q : PendReq) : s.Keeps (s.writeDone q) := by
  unfold State.writeDone
  dsimp only
  split
  · exact .of_eq rfl rfl rfl rfl
  · split <;> exact .of_eq rfl rfl rfl rfl

theorem State.dropCopies_keeps (l n : Nat) (except : Option Nat) : s.Keeps (s.dropCopies l n except) :=
  .trans (.foldl (fun u _ => .foldl (fun v _ => v.cohSend_keeps ..) _ u) _ s) (.of_eq rfl rfl rfl rfl)

theorem State.homeWrite_keeps (a : Nat) (bs : List Byte) (input : Nat) : s.Keeps (s.homeWrite a bs input) := by
  have hwrite : s.Keeps ((s.dropCopies a bs.length none).writeMem a bs input) :=
    (s.dropCopies_keeps ..).trans (.of_eq rfl rfl rfl rfl)
  unfold State.homeWrite
  dsimp only
  split
  · exact hwrite
  · exact hwrite.trans (.of_eq rfl rfl rfl rfl)

/-! ## Tasks, requests and resets -/

theorem State.freeThreads_keeps (k : Nat) : s.Keeps (s.freeThreads k) := .of_eq rfl rfl rfl rfl

theorem State.wakeAcmd_keeps (arr : Nat) : s.Keeps (s.wakeAcmd arr) := .of_eq rfl rfl rfl rfl

theorem State.releaseArrays_keeps (k : Nat) : s.Keeps (s.releaseArrays k) := by
  refine .trans ?_ (.foldl (fun u arr => u.wakeAcmd_keeps arr) _ _)
  exact .of_eq rfl rfl rfl rfl

theorem State.wakeHeld_keeps : s.Keeps s.wakeHeld := .of_eq rfl rfl rfl rfl

theorem State.taskStatus_keeps (k : Nat) (st : Byte) : s.Keeps (s.taskStatus k st) := by
  unfold State.taskStatus
  split
  · next h => exact State.setTask_keeps h rfl
  · exact .refl s

theorem State.endCast_keeps (k : Nat) (st : Byte) (abrupt : Bool) : s.Keeps (s.endCast k st abrupt) := by
  have hfree : s.Keeps ((s.taskStatus k (worst st (s.uncollected k))).freeThreads k) :=
    (s.taskStatus_keeps ..).trans (State.freeThreads_keeps ..)
  unfold State.endCast
  dsimp only
  generalize (s.taskStatus k (worst st (s.uncollected k))).freeThreads k = v at hfree
  have hover : s.Keeps (match v.task? k with | some t => v.setTask k { t with castOver := true } | none => v) := by
    split
    · next h => exact hfree.trans (State.setTask_keeps h rfl)
    · exact hfree
  split
  · exact hover.trans (State.releaseArrays_keeps ..)
  · refine .trans ?_ (.foldl (fun u arr => u.wakeAcmd_keeps arr) _ _)
    exact hover.trans (.of_eq rfl rfl rfl rfl)

theorem State.endRequest_keeps (slot : Nat) (extra : Byte) : s.Keeps (s.endRequest slot extra) := by
  unfold State.endRequest
  split
  · exact .refl s
  · next r _ =>
    dsimp only
    have hcount : s.Keeps (if r.missed s.clk.ticks then s.count .deadlineMisses else s) := by
      split
      · exact s.count_keeps ..
      · exact .refl s
    refine (hcount.trans (State.homeWrite_keeps ..)).trans ⟨rfl, fun _ => rfl, fun _ => id, fun e he => ?_⟩
    obtain ⟨d, hd, rfl⟩ := List.mem_map.mp he
    refine ⟨d, hd, ?_⟩
    dsimp only
    split <;> rfl

theorem State.freeEncore_keeps (p l : Nat) : s.Keeps (s.freeEncore p l) := by
  unfold State.freeEncore
  split
  · exact .refl s
  · exact (State.Keeps.foldl (fun u _ => u.setCore_keeps ..) _ s).trans (State.modPart_keeps _ p)

theorem State.dropVerdicts_keeps (p : Nat) : s.Keeps (s.dropVerdicts p) :=
  (State.Keeps.foldl (fun u _ => u.freeEncore_keeps ..) _ s).trans (State.modPart_keeps _ p)

theorem State.countCall_keeps (p : Nat) (c : CastCall) : s.Keeps (s.countCall p c) := by
  apply State.Keeps.of_eq <;> simp [State.countCall]

theorem State.failCall_keeps (p : Nat) (st : Byte) (tell : Bool) : s.Keeps (s.failCall p st tell) := by
  unfold State.failCall
  split
  · exact .refl s
  · next c _ =>
    dsimp only
    refine .trans ?_ ((State.taskStatus_keeps _ c.task st).trans ((State.countCall_keeps ..).trans (State.modPart_keeps _ p)))
    have htell : s.Keeps (if tell then ((List.range c.group).filter (· ≠ c.rank)).foldl
        (fun s r => s.postSeg p (s.rankCoord c r) (.cast { hdr := c.header 7 0 r st 0 }) (c.kind p) (some c.task)) s else s) := by
      split
      · exact .foldl (fun u _ => u.postSeg_keeps ..) _ s
      · exact .refl s
    split
    · exact htell
    · exact htell.trans (State.homeWrite_keeps ..)

theorem State.endColl_keeps (p id : Nat) (st : Byte) (tell : Bool) : s.Keeps (s.endColl p id st tell) := by
  unfold State.endColl
  split
  · exact .refl s
  · next c _ =>
    split
    · exact .refl s
    · refine .trans ?_ ((State.taskStatus_keeps _ c.task st).trans (State.modPart_keeps _ p))
      split
      · refine .foldl (fun u m => ?_) _ s
        split
        · exact .refl u
        · exact u.postSeg_keeps ..
      · exact .refl s

theorem State.dropFills_keeps (p : Nat) : s.Keeps (s.dropFills p) := .of_eq rfl rfl rfl rfl

end Packets

/-! ## The partition reset

`State.resetSteps` in two: what ends the partition's work, and its tasks leaving with what follows. -/

/-- Steps 1 and 2 of a partition reset, and the end of its FILLs (R308). -/
def State.resetWork (s : State) (p : Nat) : State :=
  let mine := (s.tasks.filter fun e => e.2.part == p).map Prod.fst
  let s := (mine.foldl (fun s k => (s.freeThreads k).releaseArrays k) s).dropVerdicts p
  let s := s.failCall p stReset true
  let s := (s.part p).colls.foldl (fun s e => s.endColl p e.1 stReset true) s
  (s.modPart p fun x => { x with
    colls := [], earlySegs := [], heldSegs := [], heardSegs := [], replay := []
    entryPhase := SMap.mapVals (fun _ e => if e == .idle then .skipped else e) x.entryPhase
    selecting := x.selecting }).dropFills p

/-- Step 3: the partition's tasks leave, and its entries complete (R308). -/
def State.resetEntries (s : State) (p : Nat) : State :=
  let mineEntry (k : Nat) : Bool := (SMap.find? k s.entries).any fun e => e.part == p
  { s with
    ctxExtra := SMap.mapVals (fun _ (x : CtxExtra) => if x.releasing.any mineEntry then { x with releasing := none } else x) s.ctxExtra
    tasks := SMap.keep (fun _ t => t.part != p) s.tasks
    entries := SMap.mapVals (fun _ (e : Entry) =>
      if e.part == p && e.done.isNone then { e with done := some (stReset, 0) } else e) s.entries }

/-- What follows the entries: the positions waiting and, in step 4, the open requests (R308). -/
def State.resetRest (s : State) (p : Nat) : State :=
  let s := s.modPart p fun x => { x with stepBegins := [], selecting := [], held := [] }
  let open_ := (s.requests.filter fun e => e.2.part == p).map Prod.fst
  (open_.foldl (fun s r => s.endRequest r stReset) s).wakeHeld

theorem State.resetSteps_eq (s : State) (p : Nat) : s.resetSteps p = ((s.resetWork p).resetEntries p).resetRest p := rfl

section Reset
variable (s : State)

theorem State.resetWork_keeps (p : Nat) : s.Keeps (s.resetWork p) := by
  have hstop : s.Keeps ((((s.tasks.filter fun e => e.2.part == p).map Prod.fst).foldl
      (fun s k => (s.freeThreads k).releaseArrays k) s).dropVerdicts p) :=
    (State.Keeps.foldl (fun u k => (u.freeThreads_keeps k).trans (State.releaseArrays_keeps ..)) _ s).trans (State.dropVerdicts_keeps ..)
  have hcall := hstop.trans (State.failCall_keeps _ p stReset true)
  unfold State.resetWork
  dsimp only
  exact hcall.trans (.trans (.foldl (fun u e => u.endColl_keeps ..) _ _)
    ((State.modPart_keeps _ p).trans (State.dropFills_keeps ..)))

theorem State.resetEntries_keeps (p : Nat) : s.Keeps (s.resetEntries p) :=
  ⟨rfl, fun _ => rfl, fun _ => id, fun e he => ⟨e, List.mem_of_mem_filter he, rfl⟩⟩

theorem State.resetRest_keeps (p : Nat) : s.Keeps (s.resetRest p) :=
  (State.modPart_keeps s p).trans ((State.Keeps.foldl (fun u r => u.endRequest_keeps r stReset) _ _).trans
    (State.wakeHeld_keeps _))

theorem State.resetSteps_keeps (p : Nat) : s.Keeps (s.resetSteps p) := by
  rw [State.resetSteps_eq]
  exact (s.resetWork_keeps p).trans ((State.resetEntries_keeps ..).trans (State.resetRest_keeps ..))

/-- A partition reset leaves the partition no task (R308). -/
theorem State.resetSteps_noTask (p : Nat) : ∀ e ∈ (s.resetSteps p).tasks, e.2.part ≠ p := by
  rw [State.resetSteps_eq]
  refine (State.resetRest_keeps _ p).noTask fun e he => ?_
  simpa using (List.mem_filter.mp he).2

theorem State.jobFault_keeps (p cause : Nat) (detail detail2 : W64) : s.Keeps (s.jobFault p cause detail detail2) := by
  unfold State.jobFault
  split
  · exact .refl s
  · exact ((State.modPart_keeps s p (by exact fun _ _ => rfl)).trans (State.logFault_keeps ..)).trans
      ((State.resetSteps_keeps ..).trans (State.settle_keeps _))

/-- A job fault of an ACTIVE partition takes it to RESET without tasks (R307). -/
theorem State.jobFault_resets {s : State} {p : Nat} (h : (s.part p).phase = .active) (cause : Nat) (detail detail2 : W64) :
    ((s.jobFault p cause detail detail2).part p).phase = .reset ∧ ∀ e ∈ (s.jobFault p cause detail detail2).tasks, e.2.part ≠ p := by
  unfold State.jobFault
  rw [if_neg (by simp [h])]
  dsimp only
  refine ⟨?_, (State.settle_keeps _).noTask (State.resetSteps_noTask _ p)⟩
  refine ((State.logFault_keeps _ _).trans ((State.resetSteps_keeps ..).trans (State.settle_keeps _))).resets p ?_
  simp [State.modPart, State.part]

/-! ## Exceptions -/

theorem State.raise_keeps (t : Tid) (x : Thread) (e : Exc) (addr : W64) : s.Keeps (s.raise t x e addr) := by
  unfold State.raise
  dsimp only
  split
  · exact s.setThread_keeps ..
  · split
    · exact s.setThread_keeps ..
    · split
      · exact (s.setThread_keeps ..).trans (State.jobFault_keeps ..)
      · exact (s.setThread_keeps ..).trans (State.endCast_keeps ..)

/-! ## Requests that complete -/

theorem State.landFill_keeps (q : PendReq) (die : Nat) (st : Byte) (body : List Byte) : s.Keeps (s.landFill q die st body) := by
  unfold State.landFill
  dsimp only
  split
  · exact .refl s
  · exact .foldl (fun u _ => u.cacheFill_keeps ..) _ s

theorem State.storeFail_keeps (t : Tid) (task : Option Nat) (st : Byte) (a : W64) : s.Keeps (s.storeFail t task st a) := by
  have hlate : s.Keeps (match task with | some k => s.taskStatus k st | none => s) := by
    split
    · exact s.taskStatus_keeps ..
    · exact .refl s
  unfold State.storeFail
  dsimp only
  split
  · split
    · exact s.setThread_keeps ..
    · exact hlate
  · exact hlate

theorem State.pollValue_keeps (t : Tid) (x : Thread) (v : W64) : s.Keeps (s.pollValue t x v) := by
  unfold State.pollValue
  split
  · split <;> exact .of_eq rfl rfl rfl rfl
  · exact .refl s

theorem State.bar4Fail_keeps (f : Nat) (a : W64) (st : Byte) : s.Keeps (s.bar4Fail f a st) := by
  have hcount : s.Keeps ((s.count .bar4Refusals f).send (.aer f .unsupportedRequest)) :=
    (s.count_keeps ..).trans (State.send_keeps ..)
  unfold State.bar4Fail
  dsimp only
  split
  · exact hcount.trans (.of_eq rfl rfl rfl rfl)
  · exact hcount

theorem State.hostPiece_keeps (id pos : Nat) (st : Byte) (body : List Byte) : s.Keeps (s.hostPiece id pos st body) := by
  unfold State.hostPiece
  dsimp only
  split
  · exact .refl s
  · split <;> exact .of_eq rfl rfl rfl rfl

theorem State.setColl_keeps (p : Nat) (c : CollRun) : s.Keeps (s.setColl p c) := State.modPart_keeps s p

theorem State.collPost_keeps (p : Nat) (dst : BitVec 12) (g : CollSegment) : s.Keeps (s.collPost p dst g) := by
  unfold State.collPost
  exact (s.postSeg_keeps ..).trans (State.modPart_keeps _ p)

theorem State.collEnd_keeps (p : Nat) (c : CollRun) : s.Keeps (s.collEnd p c) := by
  unfold State.collEnd
  exact ((s.setColl_keeps p _).trans (State.count_keeps ..)).trans (State.modPart_keeps _ p)

theorem State.collFeed_keeps (p id : Nat) : s.Keeps (s.collFeed p id) := by
  unfold State.collFeed
  split
  · exact .refl s
  · next c _ =>
    split
    · exact .refl s
    · dsimp only
      have hpost := (s.setColl_keeps p { c with toSend := c.toSend.drop (mergeCredits - s.collOut p id) }).trans
        (State.Keeps.foldl (fun u g => u.collPost_keeps p (cRoot c.desc) g) (c.toSend.take (mergeCredits - s.collOut p id)) _)
      split
      · exact hpost.trans (State.collEnd_keeps ..)
      · exact hpost

theorem State.segDone_keeps (k : PendKind) (st : Byte) : s.Keeps (s.segDone k st) := by
  unfold State.segDone
  split
  · split
    · exact s.endColl_keeps ..
    · exact s.collFeed_keeps ..
  · split
    · exact s.failCall_keeps ..
    · exact .refl s
  · exact .refl s

theorem State.deliver_keeps (q : PendReq) (st : Byte) (body : List Byte) : s.Keeps (s.deliver q st body) := by
  unfold State.deliver
  dsimp only
  split
  case h_1 t _ _ _ _ | h_2 t _ _ _ =>
    refine (s.landFill_keeps q (t.core.val / 64) st body).trans ?_
    split
    · exact .refl _
    · split
      · exact State.raise_keeps ..
      · exact State.setThread_keeps ..
  case h_3 t off _ =>
    refine (s.landFill_keeps q (t.core.val / 64) st body).trans ?_
    split
    · exact .refl _
    · split
      · exact .refl _
      · split
        · split
          · exact State.raise_keeps ..
          · exact State.pollValue_keeps ..
        · exact .refl _
  case h_4 =>
    split
    · exact s.storeFail_keeps ..
    · exact s.writeDone_keeps q
  case h_5 =>
    split
    · exact s.storeFail_keeps ..
    · exact .refl s
  case h_6 t gd wide ret index _ =>
    have hdone : s.Keeps (if failing st then s else s.writeDone q) := by
      split
      · exact .refl s
      · exact s.writeDone_keeps q
    generalize (if failing st then s else s.writeDone q) = v at hdone
    have hland (u : State) (x : Thread) (g : Thread) : u.Keeps (if failing st then u.farFail t x st q.globalAddr
        else (match u.task? x.task with | some k => u.setTask x.task (k.atomNext x.tid) | none => u).setThread t g) := by
      split
      · exact State.raise_keeps ..
      · refine .trans ?_ (State.setThread_keeps ..)
        split
        · next h => exact State.setTask_keeps h rfl
        · exact .refl _
    have hresult : s.Keeps (match q.task with
        | some k => match v.task? k with
          | some x => v.setTask k (x.atomResult ((((q.task.bind v.task?).bind fun k => k.log.find? fun r =>
              r.tag == q.req.tag && r.dst == q.req.dst).map (·.tid)).getD 0) index (st, leWord 64 (body.take (if wide then 8 else 4))))
          | none => v
        | none => v) := by
      split
      · split
        · next h => exact hdone.trans (State.setTask_keeps h rfl)
        · exact hdone
      · exact hdone
    split
    · exact hresult
    · exact hresult.trans (hland ..)
  case h_7 =>
    split
    · exact .refl s
    · exact s.setThread_keeps ..
  case h_8 =>
    refine .trans ?_ (State.hostPiece_keeps ..)
    split
    · exact s.bar4Fail_keeps ..
    · exact .refl s
  case h_9 =>
    split
    · exact s.bar4Fail_keeps ..
    · exact s.writeDone_keeps q
  case h_10 => exact .refl s
  case h_11 =>
    split
    · exact .of_eq rfl rfl rfl rfl
    · exact .refl s
  case h_12 | h_13 => exact s.segDone_keeps ..

theorem State.completeOne_keeps (q : PendReq) (st : Byte) (body : List Byte) : s.Keeps (s.completeOne q st body) := by
  refine .trans ?_ (State.deliver_keeps _ q st body)
  exact .of_eq rfl rfl rfl rfl

theorem State.complete_keeps (q : PendReq) (st : Byte) (body : List Byte) : s.Keeps (s.complete q st body) := by
  have hearlier (c : Prop) [Decidable c] (l : List PendReq) :
      s.Keeps (if c then l.foldl (fun s r => s.completeOne r stOk []) s else s) := by
    split
    · exact .foldl (fun u r => u.completeOne_keeps r stOk []) l s
    · exact .refl s
  unfold State.complete
  dsimp only
  have hone := (hearlier (q.op = 2 ∧ q.req.cls = 0) (((s.fab.pend.filter fun r => r.req.dst == q.req.dst && r.req.cls == 0).takeWhile
    fun r => !r.same q).filter fun r => r.op == 2)).trans (State.completeOne_keeps _ q st body)
  split
  · exact hone.trans ((State.Keeps.foldl (fun u r => u.completeOne_keeps r stLost []) _ _).trans (State.setPeer_keeps ..))
  · exact hone

/-! ## Requests that leave -/

theorem State.sendVia_keeps (hop : Hop) (p : Option Nat) (op : Nat) (r : FabReq) (task : Option Nat) (kind : PendKind) :
    s.Keeps (s.sendVia hop p op r task kind).1 := by
  unfold State.sendVia
  dsimp only
  split
  · exact .refl s
  · split
    · exact .refl s
    · split
      · exact s.logFault_keeps _
      · split
        · exact .refl s
        · refine .trans ?_ (State.emit_keeps ..)
          exact .of_eq rfl rfl rfl rfl

theorem State.jobLoads_keeps (m : Nat) (j : FarRead) : s.Keeps (s.jobLoads m j).1 := by
  induction m generalizing s j with
  | zero => exact .refl s
  | succ m ih =>
    have hsent : s.Keeps (match s.jobHop j with
        | some hop => s.sendVia hop (some j.part) 1 (reqTo j.addr 1 (loadPiece (glocal j.addr) j.left)) none (.engine j.job)
        | none => (s, .lost)).1 := by
      split
      · exact s.sendVia_keeps ..
      · exact .refl s
    unfold State.jobLoads
    dsimp only
    split
    · exact .refl s
    · split
      · next h => exact (hsent.of_pair h).trans (ih ..)
      · next h => exact hsent.of_pair h
      · exact .refl s

/-- A pass that gathers values beside the state. -/
theorem State.Keeps.foldl_fst {α β : Type} {f : State × β → α → State × β} (hf : ∀ (a : State × β) (x : α), a.1.Keeps (f a x).1)
    (l : List α) (a : State × β) : a.1.Keeps (l.foldl f a).1 :=
  List.foldlRecOn l f (motive := fun b => a.1.Keeps b.1) (.refl a.1) fun _ hb x _ => hb.trans (hf _ x)

theorem State.pumpJobs_keeps : s.Keeps s.pumpJobs := by
  have hloads := State.Keeps.foldl_fst
    (f := fun (a : State × List FarRead) j => ((a.1.jobLoads pendLimit j).1, a.2 ++ [(a.1.jobLoads pendLimit j).2]))
    (fun a j => a.1.jobLoads_keeps pendLimit j) s.fab.jobs (s, [])
  exact hloads.trans (.of_eq rfl rfl rfl rfl)

theorem State.takeSeg_keeps (k : Option Nat) : s.Keeps (s.takeSeg k) := by
  unfold State.takeSeg
  split
  · exact .refl s
  · next k' t h =>
    obtain ⟨i, -, hi⟩ := Option.bind_eq_some_iff.mp h
    obtain ⟨t', ht, he⟩ := Option.map_eq_some_iff.mp hi
    obtain ⟨rfl, rfl⟩ := Prod.mk.inj he
    refine (State.setTask_keeps ht ?_).trans (.of_eq rfl rfl rfl rfl)
    dsimp only
    split <;> rfl

theorem State.reroute_keeps (q : PendReq) : s.Keeps (s.reroute q) := by
  unfold State.reroute
  split
  · exact .refl s
  · split
    · refine .trans ?_ (State.emit_keeps ..)
      exact .of_eq rfl rfl rfl rfl
    · exact (s.logFault_keeps _).trans (State.complete_keeps ..)

/-- One message of those that wait is sent, fails or goes on waiting (R252, R253, R262, R332). -/
def State.pumpSend (s : State) (e : SendReq) : State :=
  let keep : State := { s with fab := { s.fab with sendq := s.fab.sendq ++ [e] } }
  if (s.fab.sendq.any fun x => x.req.dst == e.req.dst && clsOrdered x.req.cls e.req.cls) || s.logBlocks e then keep
  else
    match s.sendReq e.part e.op e.req none e.kind with
    | (s, .sent _) => s.takeSeg e.task
    | (s, .lost) => s.deliver { op := e.op, req := e.req, task := none, kind := e.kind } stLost []
    | (_, .waits) => keep

theorem State.pumpSends_eq : s.pumpSends = s.fab.sendq.foldl State.pumpSend { s with fab := { s.fab with sendq := [] } } := rfl

theorem State.pumpSend_keeps (e : SendReq) : s.Keeps (s.pumpSend e) := by
  have hsent : s.Keeps (s.sendReq e.part e.op e.req none e.kind).1 := s.sendVia_keeps ..
  unfold State.pumpSend
  dsimp only
  split
  · exact .of_eq rfl rfl rfl rfl
  · split
    · next h => exact (hsent.of_pair h).trans (State.takeSeg_keeps ..)
    · next h => exact (hsent.of_pair h).trans (State.deliver_keeps ..)
    · exact .of_eq rfl rfl rfl rfl

theorem State.pumpSends_keeps : s.Keeps s.pumpSends := by
  rw [State.pumpSends_eq]
  refine .trans ?_ (.foldl (fun u e => u.pumpSend_keeps e) _ _)
  exact .of_eq rfl rfl rfl rfl

theorem State.portGone_keeps (n : Nat) : s.Keeps (s.portGone n) := .foldl (fun u q => u.reroute_keeps q) _ s

variable {s} in
/-- Where no access is held a release keeps. -/
theorem State.releaseHeld_keeps (h : s.fab.held = []) : s.Keeps s.releaseHeld := by
  have hsame : ({ s with fab := { s.fab with held := [] } } : State) = s := by rw [← h]
  unfold State.releaseHeld
  simp only [h, List.foldl_nil, hsame]
  exact s.pumpJobs_keeps.trans ((State.pumpSends_keeps _).trans ((State.cohPump_keeps _).trans (State.wakeHeld_keeps _)))

end Reset
end Sys2Proof.Machine

/-! A dimmer that takes up a new limit (for O53): what it changes, and that a cue of the job frequency lock that cannot leave waits on
until something else lets it go (R47, R262, R355, R358, R364). -/

namespace Sys2Proof.Machine

open Sys2Proof

/-! ## Routes

A route is chosen by the placement, the route table and the ports that are UP. -/

/-- What a route of the house manager's traffic is chosen by is the same. -/
structure State.SameRoutes (s t : State) : Prop where
  phases : ∀ n, (t.port n).phase = (s.port n).phase
  routes : t.fab.routes = s.fab.routes
  coord : t.fab.coord = s.fab.coord
  house : t.house = s.house

section Routes
variable {s t : State} (h : s.SameRoutes t)
include h

theorem State.SameRoutes.hopUp (n ax : Nat) (plus : Bool) : t.hopUp n ax plus = s.hopUp n ax plus := by
  rw [State.hopUp, h.phases, State.hopUp]

theorem State.SameRoutes.groupUp (ax : Nat) (plus : Bool) : t.groupUp ax plus = s.groupUp ax plus := by
  simp only [State.groupUp, h.phases]

theorem State.SameRoutes.axisLen (ax : Nat) : t.axisLen ax = s.axisLen ax := by
  rw [State.axisLen, h.house, State.axisLen]

theorem State.SameRoutes.spareAxis : t.spareAxis = s.spareAxis := by
  rw [State.spareAxis, h.house, State.spareAxis]

theorem State.SameRoutes.physCoord : t.physCoord = s.physCoord := by
  rw [State.physCoord, h.house, State.physCoord]

theorem State.SameRoutes.spans (ax : Nat) : t.spans none ax = s.spans none ax := by
  simp only [State.spans, State.blockAxis, h.axisLen]

theorem State.SameRoutes.handNeighbour (phys : BitVec 12) : t.handNeighbour none phys = s.handNeighbour none phys := by
  simp only [State.handNeighbour, State.blockAxis, h.spareAxis, h.axisLen, h.spans]
  rfl

theorem State.SameRoutes.hopTo (target dst : BitVec 12) : t.hopTo none target dst = s.hopTo none target dst := by
  simp only [State.hopTo, State.axisOrder, h.spareAxis, h.physCoord, h.axisLen, h.spans, h.groupUp]

theorem State.SameRoutes.route (dst : BitVec 12) : t.route dst = s.route dst := by
  rw [State.route, h.routes, State.route]

theorem State.SameRoutes.role : t.role = s.role := by
  rw [State.role, h.house, State.role]

theorem State.SameRoutes.spareHop (dst : BitVec 12) : t.spareHop none dst = s.spareHop none dst := by
  simp only [State.spareHop, State.trayTaken, h.coord, h.route, h.role, h.physCoord, h.phases, h.hopUp, h.handNeighbour, h.spareAxis]
  rfl

theorem State.SameRoutes.firstHop (dst : BitVec 12) : t.firstHop none dst = s.firstHop none dst := by
  simp only [State.firstHop, State.handover, State.spareNeighbour, h.route, h.role, h.physCoord, h.phases, h.hopUp, h.handNeighbour,
    h.spareAxis, h.axisLen, h.hopTo, h.spareHop]
  rfl

end Routes

/-! ## Cues -/

/-- A FREQ_CUE to another member of the lock as the house manager posts it (R364). -/
structure SendReq.IsCue (e : SendReq) : Prop where
  part : e.part = none
  op : e.op = 0x0A
  cls : e.req.cls = 2
  task : e.task = none
  kind : e.kind = .control

/-- Something keeps a cue to a coordinate back: no room, or an earlier request on another route (R47, R262). -/
def State.KeepsBack (s : State) (dst : BitVec 12) : Prop :=
  routeState (s.route dst) ≠ 1 ∧ (pendLimit ≤ s.fab.pend.length ∨ ∃ n, s.firstHop none dst = .port n ∧
    ∃ q ∈ s.fab.pend, (q.req.dst == dst && clsOrdered 2 q.req.cls && (q.moved || q.req.port.val != n % 24)) = true)

/-- What waits to be sent are cues, each kept back. -/
def State.CuesWait (s : State) : Prop := ∀ e ∈ s.fab.sendq, e.IsCue ∧ s.KeepsBack e.req.dst

theorem State.cuesWait_of_nil {s : State} (h : s.fab.sendq = []) : s.CuesWait := fun e he => by rw [h] at he; cases he

/-- What keeps a cue back goes on doing so while requests are added to those outstanding. -/
theorem State.KeepsBack.mono {s t : State} {dst : BitVec 12} (h : s.KeepsBack dst) (hr : s.SameRoutes t) {more : List PendReq}
    (hpend : t.fab.pend = s.fab.pend ++ more) : t.KeepsBack dst := by
  obtain ⟨hlive, hkept⟩ := h
  refine ⟨by rw [State.route, hr.routes]; exact hlive, ?_⟩
  rw [hr.firstHop, hpend]
  rcases hkept with hfull | ⟨n, hhop, q, hq, hother⟩
  · exact .inl (by rw [List.length_append]; omega)
  · exact .inr ⟨n, hhop, q, List.mem_append_left _ hq, hother⟩

/-! ## What a dimmer on its way changes -/

/-- The permits of the dimmer (R358). -/
def Dimmer.permits (d : Dimmer) : List Nat × Option Nat :=
  ([d.permit, d.capPermit, d.currentPermit, d.diePermit, d.hbmPermit, d.droopPermit], d.voltHold)

theorem Dimmer.permit_of_permits {d e : Dimmer} (h : d.permits = e.permits) : d.permit = e.permit := by
  simp only [Dimmer.permits, Prod.mk.injEq, List.cons.injEq] at h
  exact h.1.1

/-- From s to t the dimmer has moved within its permits, messages were sent, requests were added to those outstanding, and faults were
logged; whatever still waits is kept back. -/
structure State.SteeredTo (s t : State) : Prop where
  frame : ∃ dim can counters hostFns outbox ports peers more sendq log next, t = { s with
    dim := dim, can := can, counters := counters, hostFns := hostFns, outbox := outbox
    faults := { s.faults with log := log, next := next }
    fab := { s.fab with ports := ports, peers := peers, pend := s.fab.pend ++ more, sendq := sendq } }
  phases : ∀ n, (t.port n).phase = (s.port n).phase
  permits : t.dim.permits = s.dim.permits
  waits : t.CuesWait

/-- From s, where only cues that are kept back wait to be sent, the dimmer goes on to t. -/
structure State.Steered (s t : State) : Prop where
  steeredTo : s.CuesWait → s.SteeredTo t

section Steered
variable {s t u : State}

theorem State.Steered.trans (h : s.Steered t) (h' : t.Steered u) : s.Steered u where
  steeredTo hs := by
    obtain ⟨⟨_, _, _, _, _, _, _, more, _, _, _, rfl⟩, hphases, hpermits, hwaits⟩ := h.steeredTo hs
    obtain ⟨⟨dim, can, counters, hostFns, outbox, ports, peers, more', sendq, log, next, rfl⟩, hphases', hpermits', hwaits'⟩ :=
      h'.steeredTo hwaits
    refine ⟨⟨dim, can, counters, hostFns, outbox, ports, peers, more ++ more', sendq, log, next, ?_⟩,
      fun n => (hphases' n).trans (hphases n), hpermits'.trans hpermits, hwaits'⟩
    rw [← List.append_assoc]

/-- A step that posts nothing. -/
theorem State.Steered.of_sent {dim : Dimmer} {can : Can} {counters : SMap W64} {hostFns : SMap HostFn} {outbox : List Out}
    {log : SMap (Nat × FaultRec)} {next : Nat} {ports : SMap Port} {peers : SMap Peer} (more : List PendReq)
    (hphases : ∀ n, (t.port n).phase = (s.port n).phase) (hpermits : dim.permits = s.dim.permits)
    (h : t = { s with dim := dim, can := can, counters := counters, hostFns := hostFns, outbox := outbox
                      faults := { s.faults with log := log, next := next }
                      fab := { s.fab with ports := ports, peers := peers, pend := s.fab.pend ++ more } }) : s.Steered t where
  steeredTo hs := by
    have hroutes : s.SameRoutes t := ⟨hphases, by rw [h], by rw [h], by rw [h]⟩
    refine ⟨⟨dim, can, counters, hostFns, outbox, ports, peers, more, s.fab.sendq, log, next, h⟩, hphases, ?_, fun e he => ?_⟩
    · rw [h]; exact hpermits
    · have he : e ∈ s.fab.sendq := by rwa [h] at he
      exact ⟨(hs e he).1, (hs e he).2.mono hroutes (more := more) (by rw [h])⟩

/-- A step that sends no request and posts none. -/
theorem State.Steered.of_eq {dim : Dimmer} {can : Can} {counters : SMap W64} {hostFns : SMap HostFn} {outbox : List Out}
    {log : SMap (Nat × FaultRec)} {next : Nat} (hpermits : dim.permits = s.dim.permits)
    (h : t = { s with dim := dim, can := can, counters := counters, hostFns := hostFns, outbox := outbox
                      faults := { s.faults with log := log, next := next } }) : s.Steered t :=
  .of_sent (ports := s.fab.ports) (peers := s.fab.peers) [] (fun _ => by rw [h]; rfl) hpermits (by rw [h, List.append_nil])

theorem State.Steered.refl (s : State) : s.Steered s := .of_eq (dim := s.dim) rfl rfl

theorem State.Steered.of_dim {dim : Dimmer} (hpermits : dim.permits = s.dim.permits) : s.Steered { s with dim := dim } := .of_eq hpermits rfl

theorem State.Reported.steered (h : s.Reported t) : s.Steered t := by
  obtain ⟨_, _, _, _, rfl⟩ := h
  exact .of_eq (dim := s.dim) rfl rfl

theorem State.logFault_steered (s : State) (r : FaultRec) : s.Steered (s.logFault r) :=
  .trans (t := (s.logOnly r).1) (.of_eq (dim := s.dim) rfl rfl) (s.logFault_reported r).steered

theorem State.send_steered (s : State) (o : Out) : s.Steered (s.send o) := .of_eq (dim := s.dim) rfl rfl

/-- A pass over a list whose steps steer steers. -/
theorem State.Steered.foldl {α : Type} {f : State → α → State} (hf : ∀ (s : State) (a : α), s.Steered (f s a)) (l : List α) (s : State) :
    s.Steered (l.foldl f s) :=
  List.foldlRecOn l f (.refl s) fun _ ht a _ => ht.trans (hf _ a)

end Steered

/-! ## Sending a cue -/

section Send
variable {s : State} {e : SendReq}

theorem State.logBlocks_of_cue (he : e.IsCue) : s.logBlocks e = false := by simp [State.logBlocks, he.task]

/-- A cue is kept back, or it is sent or fails and the dimmer goes on. -/
theorem State.sendReq_cue (he : e.IsCue) :
    (s.sendReq e.part e.op e.req none e.kind = (s, .waits) ∧ s.KeepsBack e.req.dst) ∨
      (s.sendReq e.part e.op e.req none e.kind).2 ≠ .waits ∧ s.Steered (s.sendReq e.part e.op e.req none e.kind).1 := by
  rw [State.sendReq_eq (by simp [he.op]), he.part]
  have hbroken : ¬ (e.req.cls = 0 ∧ (s.peer e.req.dst).broken = true) := fun h => by simp [he.cls] at h
  unfold State.sendVia
  dsimp only
  split
  · exact .inr ⟨by simp, .refl s⟩
  next hlost =>
  have hlive : routeState (s.route e.req.dst) ≠ 1 := fun h => hlost (.inl h)
  split
  next hfull => exact .inl ⟨rfl, hlive, .inl hfull⟩
  split
  · exact .inr ⟨by simp, s.logFault_steered _⟩
  next n hhop =>
  split
  next hother =>
    obtain ⟨q, hq, hq'⟩ := List.any_eq_true.mp hother
    exact .inl ⟨rfl, hlive, .inr ⟨n, hhop, q, hq, by rw [he.cls] at hq'; exact hq'⟩⟩
  · refine .inr ⟨by simp, ?_⟩
    refine .of_sent (dim := s.dim) [_] (fun m => (State.emit_keeps ..).phases m) rfl rfl

theorem State.sendReq_of_keepsBack (he : e.IsCue) (hk : s.KeepsBack e.req.dst) :
    s.sendReq e.part e.op e.req none e.kind = (s, .waits) := by
  obtain ⟨hlive, hkept⟩ := hk
  have hlost : ¬ (routeState (s.route e.req.dst) = 1 ∨ (e.req.cls = 0 ∧ (s.peer e.req.dst).broken = true)) := by
    simp [hlive, he.cls]
  rw [State.sendReq_eq (by simp [he.op]), he.part]
  unfold State.sendVia
  dsimp only
  rw [if_neg hlost]
  split
  · rfl
  next hroom =>
  obtain ⟨n, hhop, q, hq, hother⟩ := hkept.resolve_left hroom
  rw [hhop]
  exact if_pos (List.any_eq_true.mpr ⟨q, hq, by rw [he.cls]; exact hother⟩)

/-- A cue that is kept back waits behind the others. -/
theorem State.CuesWait.steeredTo_append (hs : s.CuesWait) (he : e.IsCue) (hk : s.KeepsBack e.req.dst) :
    s.SteeredTo { s with fab := { s.fab with sendq := s.fab.sendq ++ [e] } } := by
  have hkeeps {dst : BitVec 12} (h : s.KeepsBack dst) :
      ({ s with fab := { s.fab with sendq := s.fab.sendq ++ [e] } } : State).KeepsBack dst :=
    h.mono ⟨fun _ => rfl, rfl, rfl, rfl⟩ (more := []) (List.append_nil _).symm
  refine ⟨⟨s.dim, s.can, s.counters, s.hostFns, s.outbox, s.fab.ports, s.fab.peers, [], s.fab.sendq ++ [e], s.faults.log,
    s.faults.next, by rw [List.append_nil]⟩, fun _ => rfl, rfl, fun x hx => ?_⟩
  rcases List.mem_append.mp hx with hx | hx
  · exact ⟨(hs x hx).1, hkeeps (hs x hx).2⟩
  · obtain rfl := List.mem_singleton.mp hx
    exact ⟨he, hkeeps hk⟩

/-- A cue of the list of what waits leaves, fails or is kept back. -/
theorem State.pumpSend_steered (he : e.IsCue) : s.Steered (s.pumpSend e) := by
  refine ⟨fun hs => ?_⟩
  unfold State.pumpSend
  dsimp only
  split
  next hbehind =>
    rw [State.logBlocks_of_cue he, Bool.or_false] at hbehind
    obtain ⟨x, hx, hsame⟩ := List.any_eq_true.mp hbehind
    have hdst : x.req.dst = e.req.dst := by simpa using (Bool.and_eq_true_iff.mp hsame).1
    exact hs.steeredTo_append he (hdst ▸ (hs x hx).2)
  · rcases State.sendReq_cue (s := s) he with ⟨hw, hk⟩ | ⟨hw, hsent⟩
    · rw [hw]
      exact hs.steeredTo_append he hk
    · split
      next u seq h =>
        have hu : u.takeSeg e.task = u := by simp [State.takeSeg, he.task]
        rw [h] at hsent
        rw [hu]
        exact hsent.steeredTo hs
      next u h =>
        have hu : u.deliver { op := e.op, req := e.req, task := none, kind := e.kind } stLost [] = u := by
          simp [State.deliver, he.kind]
        rw [h] at hsent
        rw [hu]
        exact hsent.steeredTo hs
      next h => exact absurd (by rw [h]) hw

/-- While every message that waits is a cue, a pass over them leaves those that are kept back. -/
theorem State.pumpSends_steered (hcues : ∀ e ∈ s.fab.sendq, e.IsCue) :
    ({ s with fab := { s.fab with sendq := [] } } : State).Steered s.pumpSends := by
  rw [State.pumpSends_eq]
  exact List.foldlRecOn _ _ (.refl _) fun _ ht e he => ht.trans (State.pumpSend_steered (hcues e he))

/-- Cues that are kept back go on waiting. -/
theorem State.CuesWait.pumpSends_eq (hs : s.CuesWait) : s.pumpSends = s := by
  have hkeep {acc l : List SendReq} (hl : ∀ e ∈ l, e.IsCue ∧ s.KeepsBack e.req.dst) :
      l.foldl State.pumpSend { s with fab := { s.fab with sendq := acc } } = { s with fab := { s.fab with sendq := acc ++ l } } := by
    induction l generalizing acc with
    | nil => rw [List.append_nil]; rfl
    | cons e l ih =>
      obtain ⟨he, hk⟩ := hl e List.mem_cons_self
      have hk' : ({ s with fab := { s.fab with sendq := acc } } : State).KeepsBack e.req.dst :=
        hk.mono ⟨fun _ => rfl, rfl, rfl, rfl⟩ (more := []) (List.append_nil _).symm
      have hstep : ({ s with fab := { s.fab with sendq := acc } } : State).pumpSend e =
          { s with fab := { s.fab with sendq := acc ++ [e] } } := by
        unfold State.pumpSend
        dsimp only
        split
        · rfl
        · rw [State.sendReq_of_keepsBack he hk']
      rw [List.foldl_cons, hstep, ih fun x hx => hl x (List.mem_cons_of_mem _ hx), List.append_assoc]
      rfl
  exact (hkeep hs).trans rfl

/-- Where only cues that are kept back wait, a release only lets held threads issue again. -/
theorem State.CuesWait.releaseHeld_eq (hs : s.CuesWait) (hheld : s.fab.held = []) (hjobs : s.fab.jobs = []) (hcoh : s.fab.cohWait = []) :
    s.releaseHeld = s.wakeHeld := by
  have hsame : ({ s with fab := { s.fab with held := [] } } : State) = s := by rw [← hheld]
  unfold State.releaseHeld
  simp only [hheld, List.foldl_nil, hsame, State.pumpJobs_of_nil hjobs, hs.pumpSends_eq, State.cohPump_of_nil hcoh]

end Send

/-! ## Requests of the lock -/

section Lock
variable (s : State)

/-- A cue to a coordinate, as it is posted. -/
def cuePost (w : Nat) (c : BitVec 12) : SendReq :=
  { part := none, op := 0x0A, kind := .control, task := none
    req := { port := 0, dst := c, src := 0, cls := 2, lenM1 := 7, body := bytesLE 8 w } }

theorem State.foldl_post_cue (w : Nat) (l : List (BitVec 12)) :
    l.foldl (fun s c => s.post none 0x0A { port := 0, dst := c, src := 0, cls := 2, lenM1 := 7, body := bytesLE 8 w } .control) s =
      { s with fab := { s.fab with sendq := s.fab.sendq ++ l.map (cuePost w) } } := by
  induction l generalizing s with
  | nil => rw [List.map_nil, List.append_nil]; rfl
  | cons c l ih =>
    rw [List.foldl_cons, ih, List.map_cons, List.append_cons]
    rfl

theorem State.sendCues_steered (force : Bool) : s.Steered (s.sendCues force) := by
  unfold State.sendCues
  split
  · exact .refl s
  next own _ =>
  dsimp only
  rw [State.foldl_post_cue]
  refine ⟨fun hs => ?_⟩
  have hdrop : s.SteeredTo { s with fab := { s.fab with sendq := [] } } :=
    ⟨⟨s.dim, s.can, s.counters, s.hostFns, s.outbox, s.fab.ports, s.fab.peers, [], [], s.faults.log, s.faults.next,
      by rw [List.append_nil]⟩, fun _ => rfl, rfl, State.cuesWait_of_nil rfl⟩
  refine (State.Steered.trans ⟨fun _ => hdrop⟩ (State.pumpSends_steered (s := { s with fab := { s.fab with
      sendq := s.fab.sendq ++ ((lockMembers s.lockRec).filter (· ≠ own)).map
        (cuePost (s.lockId * 2 ^ 48 + s.dim.permit * 2 ^ 43 + b2n force 42)) } })
    fun e he => ?_)).steeredTo hs
  rcases List.mem_append.mp he with he | he
  · exact (hs e he).1
  · obtain ⟨c, -, rfl⟩ := List.mem_map.mp he
    exact ⟨rfl, rfl, rfl, rfl, rfl⟩

theorem State.request_steered (lower : Bool) : s.Steered (s.request lower) := by
  unfold State.request
  split
  · exact .refl s
  · split
    · exact .refl s
    next own _ =>
    dsimp only
    have hcues : s.Steered ((s.setRequest own s.dim.permit).sendCues false) :=
      .trans (.of_eq (dim := (s.setRequest own s.dim.permit).dim) rfl rfl) (State.sendCues_steered _ false)
    split
    · exact hcues.trans (.of_dim rfl)
    · exact hcues

end Lock

/-! ## Moves, blackout and reasons -/

section Moves
variable (s : State)

theorem State.commandVolts_steered (n : Nat) : s.Steered (s.commandVolts n) := (s.send_steered _).trans (State.send_steered ..)

theorem State.startRaise_steered (n : Nat) : s.Steered (s.startRaise n) :=
  .trans (t := { s with dim := { s.dim with move := .raiseVolt n } }) (.of_dim rfl) (State.commandVolts_steered ..)

theorem State.cancelRaise_steered : s.Steered s.cancelRaise := by
  unfold State.cancelRaise
  dsimp only
  split
  · exact .of_dim rfl
  · split
    · refine .trans ?_ (State.commandVolts_steered ..)
      exact .of_dim rfl
    · exact s.startRaise_steered _

theorem State.steer_steered : s.Steered s.steer := by
  unfold State.steer
  split
  · split
    · exact .of_dim rfl
    · split
      · exact s.startRaise_steered _
      · exact .refl s
  · split
    · exact s.cancelRaise_steered
    · exact .refl s
  · split
    · exact s.cancelRaise_steered
    · exact .refl s
  · exact .refl s

theorem State.blackoutFor_steered (reason : Nat) (on : Bool) : s.Steered (s.blackoutFor reason on) := .of_dim rfl

theorem State.slewMark_steered (i : Nat) : s.Steered (s.slewMark i) := .of_dim rfl

theorem State.slewOn_steered : s.Steered s.slewOn := by
  unfold State.slewOn
  dsimp only
  have hlast {v : State} (hv : s.Steered v) : s.Steered (match v.dim.slew, v.dim.move with
      | .voltage, .still => { v.slewMark 2 with dim := { (v.slewMark 2).dim with slew := .release } }
      | _, _ => v) := by
    split
    · exact hv.trans (.of_dim rfl)
    · exact hv
  refine hlast ?_
  split
  · exact .refl s
  · exact .refl s
  · exact .of_dim rfl
  · exact .refl s

theorem State.noteReason_steered (n : Nat) : s.Steered (s.noteReason n) := .of_dim rfl

theorem State.bindReasons_steered : s.Steered s.bindReasons := by
  unfold State.bindReasons
  refine .trans ?_ (State.settle_reported _).steered
  exact .foldl (fun u i => u.noteReason_steered (i + 1)) _ s

theorem State.setBlackout_steered (estimate : Bool) : s.Steered (s.setBlackout estimate) := by
  have hcur := s.blackoutFor_steered 3 (!s.currentFits s.goal s.dim.voltMv || (s.dim.blackoutFor.contains 3 && !estimate))
  unfold State.setBlackout
  dsimp only
  generalize s.blackoutFor 3 _ = v at hcur ⊢
  split
  · exact hcur.trans (State.blackoutFor_steered ..)
  · split
    · exact hcur.trans ((v.slewMark_steered 3).trans ((State.blackoutFor_steered _ 2 false).trans (.of_dim rfl)))
    · exact hcur

/-- The dimmer with the limits and the local permit as they now are (R358). -/
def State.repermitted (s : State) : State := { s.limits with dim := { s.limits.dim with permit := s.limits.localPermit } }

theorem State.reassess_steered (estimate : Bool) : s.repermitted.Steered (s.reassess estimate) := by
  unfold State.reassess
  dsimp only
  refine .trans ?_ ((State.setBlackout_steered _ estimate).trans ((State.steer_steered _).trans ((State.slewOn_steered _).trans
    (State.bindReasons_steered _))))
  split
  · exact .refl _
  · exact State.request_steered ..

end Moves

/-! ## Writes that form the limits anew -/

/-- From s, with its dimmer set anew, the dimmer goes on to t. -/
def State.Redimmed (s t : State) : Prop := ∃ d : Dimmer, ({ s with dim := d } : State).Steered t

theorem State.Redimmed.of_dim {s t : State} {d : Dimmer} (h : ({ s with dim := d } : State).Redimmed t) : s.Redimmed t := h

theorem State.limits_eq (s : State) : ∃ d : Dimmer, s.limits = { s with dim := d } := by
  unfold State.limits
  exact ⟨_, rfl⟩

theorem State.Redimmed.of_limits {s t : State} (h : s.limits.Redimmed t) : s.Redimmed t := by
  obtain ⟨d, hl⟩ := s.limits_eq
  rw [hl] at h
  exact h.of_dim

theorem State.Redimmed.trans {s t u : State} (h : s.Redimmed t) (h' : t.Steered u) : s.Redimmed u := h.imp fun _ hd => hd.trans h'

theorem State.repermit_redimmed (s : State) : s.Redimmed s.repermit :=
  .of_limits (.of_dim (d := s.repermitted.dim) ⟨s.repermitted.dim, s.reassess_steered false⟩)

theorem State.requested_redimmed (l : State) (d : Dimmer) (c : Prop) [Decidable c] (lower : Bool) :
    l.Redimmed (if c then { l with dim := d } else ({ l with dim := d } : State).request lower) := by
  split
  · exact ⟨d, .refl _⟩
  · exact ⟨d, State.request_steered ..⟩

theorem State.slewWrite_redimmed (s : State) : s.Redimmed s.slewWrite := by
  unfold State.slewWrite
  extract_lets l far d0 s1 l1 new d1 s2 s3 s4 s5 d2 s6
  have h3 : s1.Redimmed s3 := .of_limits (l1.requested_redimmed s2.dim _ _)
  have h5 : s3.Steered s5 := (s3.setBlackout_steered false).trans
    ((s4.blackoutFor_steered 2 true).trans (State.blackoutFor_steered (s4.blackoutFor 2 true) 1 false))
  have h6 : s5.Steered s6 := by
    unfold s6
    clear_value s5
    split
    · split
      · exact .of_dim rfl
      · exact .refl _
    · exact .of_dim rfl
    · exact s5.steer_steered
  split
  · exact s.repermit_redimmed
  · exact h3.of_dim.trans (h5.trans (h6.trans ((State.slewOn_steered _).trans (State.bindReasons_steered _))))

/-- Where nothing waited to be sent, the settings and the house manager are as they were, and only cues that are kept back wait. -/
theorem State.Redimmed.settled {s t : State} (h : s.Redimmed t) (hs : s.fab.sendq = []) : t.od = s.od ∧ t.house = s.house ∧
    t.fab.held = s.fab.held ∧ t.fab.jobs = s.fab.jobs ∧ t.fab.cohWait = s.fab.cohWait ∧ t.CuesWait := by
  obtain ⟨d, hd⟩ := h
  have hto := hd.steeredTo (State.cuesWait_of_nil hs)
  obtain ⟨_, _, _, _, _, _, _, _, _, _, _, ht⟩ := hto.frame
  refine ⟨?_, ?_, ?_, ?_, ?_, hto.waits⟩ <;> rw [ht]

theorem State.localPermit_congr {s t : State} (hpermits : t.dim.permits = s.dim.permits) (hod : t.od = s.od) (hhouse : t.house = s.house) :
    t.localPermit = s.localPermit := by
  simp only [Dimmer.permits, Prod.mk.injEq, List.cons.injEq] at hpermits
  obtain ⟨⟨-, hcap, hcurrent, hdie, hhbm, hdroop, -⟩, hhold⟩ := hpermits
  simp only [State.localPermit, State.stepMax, State.cfgNum, State.cfgByte, hcap, hcurrent, hdie, hhbm, hdroop, hhold, hod, hhouse]

theorem State.localPermit_setPermit (s : State) (n : Nat) :
    ({ s with dim := { s.dim with permit := n } } : State).localPermit = s.localPermit := by
  simp only [State.localPermit, State.stepMax, State.cfgNum, State.cfgByte]

/-- A permit that has been taken up is the lowest of the permits (R358). -/
theorem State.repermit_permit {s : State} (hs : s.fab.sendq = []) : s.repermit.dim.permit = s.repermit.localPermit := by
  have hwaits : s.repermitted.CuesWait := by
    obtain ⟨d, hl⟩ := s.limits_eq
    refine State.cuesWait_of_nil ?_
    rw [State.repermitted, hl]
    exact hs
  have hto := (s.reassess_steered false).steeredTo hwaits
  obtain ⟨_, _, _, _, _, _, _, _, _, _, _, ht⟩ := hto.frame
  have hlocal : s.repermit.localPermit = s.repermitted.localPermit :=
    State.localPermit_congr hto.permits (by rw [State.repermit, ht]) (by rw [State.repermit, ht])
  have hself : s.repermitted.localPermit = s.repermitted.dim.permit := s.limits.localPermit_setPermit s.limits.localPermit
  have hsame : s.repermit.dim.permit = s.repermitted.dim.permit := Dimmer.permit_of_permits hto.permits
  rw [hlocal, hself, hsame]

theorem State.localPermit_le_stepMax (s : State) : s.localPermit ≤ s.stepMax := by
  simp only [State.localPermit, List.foldl]
  omega

end Sys2Proof.Machine

/-! Live writes of the entries with an effect of their own (O53): settings that read as written, the answers of the CAN FD node, and
each entry's effect (R121, R307, R345, R346, R358, R367, R368, R370, R378, R387). -/

namespace Sys2Proof.SMap

/-- A key that is not written reads as before, under any default. -/
theorem get_set_of_ne {α : Type} [DecidableEq α] (d d' : α) {k j : Nat} (h : j ≠ k) (x : α) {m : SMap α} (hm : sorted m = true) :
    get d' (set d m k x) j = get d' m j := by
  unfold set
  split
  · rw [get, find?_del k j hm, if_neg h, get]
  · rw [get_put, if_neg h]

end Sys2Proof.SMap

namespace Sys2Proof.Machine

open Sys2Proof

/-! ## Settings -/

section Settings
variable {s : State}

theorem State.setCfg_eq (s : State) (i j o : Nat) (bs : List Byte) : ∃ od, s.setCfg i j o bs = { s with od := od } := by
  induction bs generalizing s o with
  | nil => exact ⟨s.od, rfl⟩
  | cons b bs ih =>
    obtain ⟨od, h⟩ := ih (s.setCfgByte i j o b) (o + 1)
    exact ⟨od, h⟩

theorem State.setCfg_quiet (s : State) (h : Quiet s) (i j o : Nat) (bs : List Byte) : Quiet (s.setCfg i j o bs) := by
  obtain ⟨od, hset⟩ := s.setCfg_eq i j o bs
  rw [hset]
  exact h

theorem State.cfgByte_setCfgByte (hs : SMap.sorted s.od = true) (i j o o' : Nat) (b : Byte) :
    (s.setCfgByte i j o b).cfgByte i j o' = if o' = o then b else s.cfgByte i j o' := by
  have hkey : odKey i j o' = odKey i j o ↔ o' = o := by unfold odKey; omega
  by_cases h : o' = o
  · subst h
    rw [State.cfgByte, State.setCfgByte, SMap.get_set _ _ _ _ hs, if_pos rfl, if_pos rfl]
  · rw [if_neg h]
    exact SMap.get_set_of_ne _ _ (mt hkey.mp h) _ hs

theorem State.sorted_setCfgByte (hs : SMap.sorted s.od = true) (i j o : Nat) (b : Byte) : SMap.sorted (s.setCfgByte i j o b).od = true :=
  SMap.sorted_set _ _ _ hs

/-- Bytes below those that are written stay. -/
theorem State.cfgByte_setCfg_of_lt (hs : SMap.sorted s.od = true) {i j o o' : Nat} (h : o' < o) (bs : List Byte) :
    (s.setCfg i j o bs).cfgByte i j o' = s.cfgByte i j o' := by
  induction bs generalizing s o with
  | nil => rfl
  | cons b bs ih =>
    rw [State.setCfg, ih (State.sorted_setCfgByte hs ..) (by omega), State.cfgByte_setCfgByte hs, if_neg (by omega)]

/-- A setting reads as the bytes written to it. -/
theorem State.cfgNum_setCfg (hs : SMap.sorted s.od = true) (i j o : Nat) (bs : List Byte) :
    (s.setCfg i j o bs).cfgNum i j o bs.length = leNat bs := by
  suffices h : (List.range bs.length).map (fun n => (s.setCfg i j o bs).cfgByte i j (o + n)) = bs by rw [State.cfgNum, h]
  induction bs generalizing s o with
  | nil => rfl
  | cons b bs ih =>
    have hfirst : (s.setCfg i j o (b :: bs)).cfgByte i j o = b := by
      rw [State.setCfg, State.cfgByte_setCfg_of_lt (State.sorted_setCfgByte hs ..) (Nat.lt_succ_self o), State.cfgByte_setCfgByte hs,
        if_pos rfl]
    have hrest := ih (State.sorted_setCfgByte hs i j o b) (o + 1)
    rw [List.length_cons, List.range_succ_eq_map, List.map_cons, List.map_map, Nat.add_zero, hfirst]
    refine congrArg (b :: ·) (.trans (List.map_congr_left fun n _ => ?_) hrest)
    rw [Function.comp_apply, State.setCfg, Nat.succ_eq_add_one, Nat.add_assoc, Nat.add_comm 1 n]

theorem State.cfgNum_congr {t : State} (hod : t.od = s.od) (hhouse : t.house = s.house) (i j o n : Nat) :
    t.cfgNum i j o n = s.cfgNum i j o n := by
  simp only [State.cfgNum, State.cfgByte, hod, hhouse]

end Settings

/-! ## Answers -/

/-- The node answers that a write is done, and held threads may issue again. -/
def State.done (s : State) : State := (s.send (.can 3 [0])).wakeHeld

/-- The node answers an abort code, and held threads may issue again. -/
def State.refused (s : State) (e : W32) : State := (((s.count .aborts).count .usdoAborts).send (.can 3 (1 :: bytesLE 4 e.toNat))).wakeHeld

theorem State.done_cfgNum (s : State) (i j o n : Nat) : s.done.cfgNum i j o n = s.cfgNum i j o n := rfl

theorem State.done_part (s : State) (p : Nat) : s.done.part p = s.part p := rfl

theorem State.done_store (s : State) : s.done.store = s.store := rfl

theorem State.done_permit {s : State} (h : s.dim.permit = s.localPermit) : s.done.dim.permit = s.done.localPermit := h

theorem State.done_said (s : State) : CanSaid s.done 0 := List.getLast?_concat

theorem State.refused_eq (s : State) (e : W32) :
    ∃ counters threads outbox, s.refused e = { s with counters := counters, threads := threads, outbox := outbox } := by
  unfold State.refused State.wakeHeld State.send State.count
  exact ⟨_, _, _, rfl⟩

section Refused
variable (s : State) (e : W32)

theorem State.refused_od : (s.refused e).od = s.od := by
  obtain ⟨_, _, _, h⟩ := s.refused_eq e
  rw [h]

theorem State.refused_dim : (s.refused e).dim = s.dim := by
  obtain ⟨_, _, _, h⟩ := s.refused_eq e
  rw [h]

theorem State.refused_therm : (s.refused e).therm = s.therm := by
  obtain ⟨_, _, _, h⟩ := s.refused_eq e
  rw [h]

theorem State.refused_wings : (s.refused e).wings = s.wings := by
  obtain ⟨_, _, _, h⟩ := s.refused_eq e
  rw [h]

theorem State.refused_house : (s.refused e).house = s.house := by
  obtain ⟨_, _, _, h⟩ := s.refused_eq e
  rw [h]

theorem State.refused_store : (s.refused e).store = s.store := by
  obtain ⟨_, _, _, h⟩ := s.refused_eq e
  rw [h]

end Refused

theorem State.refused_said (s : State) {e : W32} (he : e ≠ 0) : CanSaid (s.refused e) e :=
  List.getLast?_concat.trans (by rw [if_neg he])

/-! ## The entries

A live entry takes a whole write of its size; a clear of a layer's counters is one word (R381). -/

/-- An entry that is written live and takes n bytes. -/
def takesLive (idx sub n : Nat) : Bool :=
  decide (idx < 65536) && decide (sub < 256) && odKnown idx && (odRow? idx sub).any fun r =>
    r.qual == .live && r.acc != .ro && r.acc != .const && r.recSize == 0 &&
      if r.dom then idx == 0x2703 && n == 4 else n == r.size && idx != 0x2703

theorem takesLive_cap : takesLive 0x2100 1 2 = true := by decide

theorem takesLive_stepMax : takesLive 0x2100 2 1 = true := by decide

theorem takesLive_currentLimit : takesLive 0x2100 7 2 = true := by decide

theorem takesLive_coolantReenable : takesLive 0x2200 6 1 = true := by decide

theorem takesLive_curtain : takesLive 0x2F00 1 2 = true := by decide

theorem takesLive_discard : takesLive 0x2F00 2 2 = true := by decide

theorem takesLive_errorCount : takesLive 0x1003 0 1 = true := by decide

theorem takesLive_flyUcodeGo : takesLive 0x2906 2 2 = true := by decide

theorem takesLive_store {sub : Nat} (h1 : 1 ≤ sub) (h3 : sub ≤ 3) : takesLive 0x1010 sub 4 = true ∧ takesLive 0x1011 sub 4 = true := by
  interval_cases sub <;> decide

theorem takesLive_counters : ∀ p : Fin 128, takesLive 0x2703 (p.val + 1) 4 = true := by decide +kernel

theorem takesLive_partReset (p : Fin 128) : takesLive (0x3000 + p.val) 4 1 = true := by
  have hlisted : odListed (0x3000 + p.val) = 0x3000 := if_pos (by omega)
  have hrow : odKnown (0x3000 + p.val) = true ∧ odRow? (0x3000 + p.val) 4 = odRow? 0x3000 4 := by
    simp only [odKnown, odRow?, hlisted]
    exact ⟨by decide, rfl⟩
  obtain ⟨hknown, hfound⟩ := hrow
  have hidx : 0x3000 + p.val < 65536 := by omega
  have hne : (0x3000 + p.val == 0x2703) = false := by simp; omega
  simp only [takesLive, hknown, hfound, hidx, hne, bne, decide_true, Bool.true_and]
  decide

theorem takesLive_portRetrain : ∀ n : Fin 24, takesLive 0x2907 (n.val + 1) 1 = true := by decide

section Write
variable {s t : State} {idx sub : Nat} {d : List Byte} {e : W32}

theorem addr_of_takesLive {n : Nat} (h : takesLive idx sub n = true) :
    (BitVec.ofNat 16 idx).toNat = idx ∧ (BitVec.ofNat 8 sub).toNat = sub := by
  simp only [takesLive, Bool.and_eq_true, decide_eq_true_eq] at h
  obtain ⟨⟨⟨hidx, hsub⟩, -⟩, -⟩ := h
  exact ⟨Nat.mod_eq_of_lt hidx, Nat.mod_eq_of_lt hsub⟩

theorem State.writeCheck_of_takesLive (hrom : s.store.romRecovery = false) (h : takesLive idx sub d.length = true) :
    ∃ r, s.writeCheck none { index := BitVec.ofNat 16 idx, sub := BitVec.ofNat 8 sub } d = .ok r ∧ r.qual = .live := by
  obtain ⟨hi, hs⟩ := addr_of_takesLive h
  obtain ⟨hrest, hrow⟩ := Bool.and_eq_true_iff.mp h
  obtain ⟨-, hknown⟩ := Bool.and_eq_true_iff.mp hrest
  obtain ⟨r, hr, htakes⟩ := Option.any_eq_true _ _ |>.mp hrow
  simp only [Bool.and_eq_true, beq_iff_eq, bne_iff_ne] at htakes
  obtain ⟨⟨⟨⟨hlive, hro⟩, hconst⟩, hrec⟩, hlen⟩ := htakes
  refine ⟨r, ?_, hlive⟩
  unfold State.writeCheck
  simp only [hi, hs, State.indexServed, hknown, hrom, hr, scopeOk]
  split at hlen <;> simp_all

/-- An accepted live write to the dictionary. -/
theorem State.dictWrite_live (hrom : s.store.romRecovery = false) (hready : s.house.deviceState = 1)
    (h : takesLive idx sub d.length = true) :
    s.dictWrite none { index := BitVec.ofNat 16 idx, sub := BitVec.ofNat 8 sub } d = match s.live none idx sub 0 d with
      | .ok t => (t, 0)
      | .error (t, e) => ((if e = abScope then t.count .scopeRefusals else t).count .aborts, e) := by
  obtain ⟨r, hr, hlive⟩ := State.writeCheck_of_takesLive hrom h
  obtain ⟨hi, hs⟩ := addr_of_takesLive h
  have hserved : s.writesServed idx = true := by simp [State.writesServed, hready]
  unfold State.dictWrite
  simp only [hr, hlive, hi, hs, hserved, ite_self] <;> rfl

/-- A live write over the CAN FD node: its effect, the answer, and what no longer waits. -/
theorem State.entryWrite_ok (h : OnCan s) (htakes : takesLive idx sub d.length = true)
    (hlive : s.live none idx sub 0 d = .ok t) : s.entryWrite .can idx sub d = (t.send (.can 3 [0])).releaseHeld := by
  obtain ⟨hcan, hdict, hrom, hready, -⟩ := h
  unfold State.entryWrite State.writeBy
  simp only [hcan, hdict, State.dictWrite_live hrom hready htakes, hlive] <;> rfl

/-- A live write after which only cues that are kept back wait. -/
theorem State.entryWrite_done (h : OnCan s) (htakes : takesLive idx sub d.length = true) (hlive : s.live none idx sub 0 d = .ok t)
    (hheld : t.fab.held = []) (hjobs : t.fab.jobs = []) (hcoh : t.fab.cohWait = []) (hwaits : t.CuesWait) :
    s.entryWrite .can idx sub d = t.done := by
  have hwaits' : (t.send (.can 3 [0])).CuesWait := ((t.send_steered _).steeredTo hwaits).waits
  rw [State.entryWrite_ok h htakes hlive, hwaits'.releaseHeld_eq hheld hjobs hcoh, State.done]

/-- A live write after which nothing waits. -/
theorem State.entryWrite_quiet (h : OnCan s) (htakes : takesLive idx sub d.length = true) (hlive : s.live none idx sub 0 d = .ok t)
    (hq : Quiet t) : s.entryWrite .can idx sub d = t.done := by
  rw [State.entryWrite_ok h htakes hlive, State.releaseHeld_of_quiet (s := t.send _) hq, State.done]

/-- A live write that is refused. -/
theorem State.entryWrite_refused (h : OnCan s) (htakes : takesLive idx sub d.length = true)
    (hlive : s.live none idx sub 0 d = .error (t, e)) (hq : Quiet t) (hscope : e ≠ abScope := by decide) (he : e ≠ 0 := by decide) :
    s.entryWrite .can idx sub d = t.refused e := by
  obtain ⟨hcan, hdict, hrom, hready, -⟩ := h
  rw [State.refused, ← State.releaseHeld_of_quiet (s := ((t.count .aborts).count .usdoAborts).send (.can 3 (1 :: bytesLE 4 e.toNat))) hq]
  unfold State.entryWrite State.writeBy
  simp only [hcan, hdict, State.dictWrite_live hrom hready htakes, hlive, if_neg hscope, if_neg he] <;> rfl

end Write

/-! ## What each entry's write does -/

section Live
variable (s : State) (sub : Nat) (d : List Byte)

/-- A write's effect, or its abort code beside the state. -/
def State.orRefused (r : Except W32 State) : Except (State × W32) State :=
  match r with
  | .ok t => .ok t
  | .error e => .error (s, e)

variable {s sub d} in
theorem State.live_of_ok {idx : Nat} {t : State} {r : Except W32 State} (h : s.live none idx sub 0 d = s.orRefused r) (hr : r = .ok t) :
    s.live none idx sub 0 d = .ok t := by
  rw [h, hr, State.orRefused]

theorem State.live_cap : s.live none 0x2100 1 0 d = s.orRefused (s.ranged 0x2100 1 d 400 2600 State.slewWrite) := rfl

theorem State.live_stepMax : s.live none 0x2100 2 0 d = s.orRefused (s.ranged 0x2100 2 d 0 23 State.repermit) := rfl

theorem State.live_currentLimit : s.live none 0x2100 7 0 d = s.orRefused (s.ranged 0x2100 7 d 100 520 State.repermit) := rfl

theorem State.live_coolantReenable : s.live none 0x2200 6 0 d = s.orRefused (s.resume (leNat d)) := rfl

theorem State.live_layerCounters : s.live none 0x2703 sub 0 d = s.orRefused (s.clearLayer (sub - 1) (leNat d)) := rfl

theorem State.live_flyUcodeGo : s.live none 0x2906 2 0 d = s.orRefused (s.ucodeGo (leNat d)) := rfl

theorem State.live_portRetrain : s.live none 0x2907 sub 0 d = s.orRefused (s.portRetrain (sub - 1) (leNat d)) := rfl

theorem State.live_errorCount : s.live none 0x1003 0 0 d = s.orRefused (s.liveCan 0x1003 0 d) := rfl

theorem State.live_store : s.live none 0x1010 sub 0 d = s.orRefused (s.liveCan 0x1010 sub d) := rfl

theorem State.live_restore : s.live none 0x1011 sub 0 d = s.orRefused (s.liveCan 0x1011 sub d) := rfl

theorem State.live_partReset (p : Fin 128) : s.live none (0x3000 + p.val) 4 0 [1] = .ok (s.jobFault p.val) := by
  unfold State.live
  dsimp only
  split
  case h_12 => rw [if_pos (by omega), if_pos (by decide), Nat.add_sub_cancel_left]
  all_goals omega

variable {s d} in
theorem State.live_curtain {v : Nat} (hv : wingValue none v = none) (hd : leNat d = v) : s.live none 0x2F00 1 0 d =
    match s.curtain v with
    | .ok t => .ok t
    | .error t => .error (t, abValue) := by
  subst hd
  unfold State.live
  dsimp only
  rw [hv] <;> rfl

variable {s d} in
theorem State.live_discard {v : Nat} (hv : wingValue none v = none) (hd : leNat d = v) :
    s.live none 0x2F00 2 0 d = .ok (s.emptyWings (s.heldEntries v)) := by
  subst hd
  unfold State.live
  dsimp only
  rw [hv]
  rfl

end Live

/-! ## Settings of the dimmer -/

section Dimmer
variable {s : State}

theorem State.ranged_ok {idx sub lo hi : Nat} {d : List Byte} (f : State → State) (hlo : lo ≤ leNat d) (hhi : leNat d ≤ hi) :
    s.ranged idx sub d lo hi f = .ok (f (s.setCfg idx sub 0 d)) := by
  rw [State.ranged, if_neg (by omega), if_neg (by omega)]

theorem State.ranged_above {idx sub lo hi : Nat} {d : List Byte} (f : State → State) (h : hi < leNat d) :
    s.ranged idx sub d lo hi f = .error abAbove := if_pos h

theorem State.ranged_below {idx sub lo hi : Nat} {d : List Byte} (f : State → State) (h : leNat d < lo) (hle : lo ≤ hi := by decide) :
    s.ranged idx sub d lo hi f = .error abBelow := by
  rw [State.ranged, if_neg (by omega), if_pos h]

variable (h : OnCan s) (hod : SMap.sorted s.od = true)
include h hod

/-- A ranged setting of the dimmer that is taken up reads as written (R358, R362, R370). -/
theorem State.entryWrite_redimmed {idx sub n v : Nat} {t : State} (htakes : takesLive idx sub n = true) (hv : v < 256 ^ n)
    (hlive : s.live none idx sub 0 (bytesLE n v) = .ok t) (ht : (s.setCfg idx sub 0 (bytesLE n v)).Redimmed t) :
    s.entryWrite .can idx sub (bytesLE n v) = t.done ∧ t.done.cfgNum idx sub 0 n = v := by
  have hlen : (bytesLE n v).length = n := bytesLE_length n v
  obtain ⟨hheld, hjobs, hsendq, hcoh⟩ := s.setCfg_quiet h.2.2.2.2 idx sub 0 (bytesLE n v)
  obtain ⟨hodt, hhouse, hheldt, hjobst, hcoht, hwaits⟩ := ht.settled hsendq
  refine ⟨State.entryWrite_done h (by rwa [hlen]) hlive (hheldt.trans hheld) (hjobst.trans hjobs) (hcoht.trans hcoh) hwaits, ?_⟩
  have hread := State.cfgNum_setCfg hod idx sub 0 (bytesLE n v)
  rw [hlen, leNat_bytesLE, Nat.mod_eq_of_lt hv] at hread
  rw [State.done_cfgNum, State.cfgNum_congr hodt hhouse, hread]

theorem exec_cap_taken {v : Nat} (hlo : 400 ≤ v) (hhi : v ≤ 2600) :
    ∃ s', exec (.cap .can (bytesLE 2 v)) s = .next s' ∧ s'.capW = v ∧ CanSaid s' 0 := by
  have hval : leNat (bytesLE 2 v) = v := by rw [leNat_bytesLE]; omega
  have hlive : s.live none 0x2100 1 0 (bytesLE 2 v) = .ok (s.setCfg 0x2100 1 0 (bytesLE 2 v)).slewWrite := by
    rw [State.live_cap, State.ranged_ok _ (by omega) (by omega), State.orRefused]
  obtain ⟨hdone, hread⟩ := State.entryWrite_redimmed h hod takesLive_cap (by omega) hlive (State.slewWrite_redimmed _)
  exact ⟨_, congrArg Host.Outcome.next hdone, hread, State.done_said _⟩

theorem exec_stepMax_taken {v : Nat} (hv : v ≤ 23) :
    ∃ s', exec (.stepMax .can (bytesLE 1 v)) s = .next s' ∧ s'.stepMax = v ∧ s'.dim.permit ≤ v ∧ CanSaid s' 0 := by
  have hval : leNat (bytesLE 1 v) = v := by rw [leNat_bytesLE]; omega
  have hlive : s.live none 0x2100 2 0 (bytesLE 1 v) = .ok (s.setCfg 0x2100 2 0 (bytesLE 1 v)).repermit := by
    rw [State.live_stepMax, State.ranged_ok _ (by omega) (by omega), State.orRefused]
  obtain ⟨hdone, hread⟩ := State.entryWrite_redimmed h hod takesLive_stepMax (by omega) hlive (State.repermit_redimmed _)
  have hpermit := State.done_permit (State.repermit_permit (s.setCfg_quiet h.2.2.2.2 0x2100 2 0 (bytesLE 1 v)).2.2.1)
  exact ⟨_, congrArg Host.Outcome.next hdone, hread, (hpermit.trans_le (State.localPermit_le_stepMax _)).trans_eq hread, State.done_said _⟩

theorem exec_currentLimit_taken {v : Nat} (hlo : 100 ≤ v) (hhi : v ≤ 520) : ∃ s', exec (.currentLimit .can (bytesLE 2 v)) s = .next s' ∧
    s'.currentLimit = v ∧ s'.dim.permit = s'.localPermit ∧ CanSaid s' 0 := by
  have hval : leNat (bytesLE 2 v) = v := by rw [leNat_bytesLE]; omega
  have hlive : s.live none 0x2100 7 0 (bytesLE 2 v) = .ok (s.setCfg 0x2100 7 0 (bytesLE 2 v)).repermit := by
    rw [State.live_currentLimit, State.ranged_ok _ (by omega) (by omega), State.orRefused]
  obtain ⟨hdone, hread⟩ := State.entryWrite_redimmed h hod takesLive_currentLimit (by omega) hlive (State.repermit_redimmed _)
  have hpermit := State.done_permit (State.repermit_permit (s.setCfg_quiet h.2.2.2.2 0x2100 7 0 (bytesLE 2 v)).2.2.1)
  exact ⟨_, congrArg Host.Outcome.next hdone, hread, hpermit, State.done_said _⟩

end Dimmer

section Refusals
variable {s : State} (h : OnCan s)
include h

theorem State.entryWrite_orRefused {idx sub : Nat} {d : List Byte} {e : W32} {r : Except W32 State}
    (htakes : takesLive idx sub d.length = true) (hlive : s.live none idx sub 0 d = s.orRefused r) (hr : r = .error e) (hscope : e ≠ abScope := by decide) (he : e ≠ 0 := by decide) :
    s.entryWrite .can idx sub d = s.refused e :=
  State.entryWrite_refused h htakes (by rw [hlive, hr, State.orRefused]) h.2.2.2.2 hscope he

theorem exec_cap_above {v : Nat} (hv : v < 65536) (hhi : 2600 < v) :
    ∃ s', exec (.cap .can (bytesLE 2 v)) s = .next s' ∧ s'.od = s.od ∧ s'.dim = s.dim ∧ CanSaid s' 0x06090031 := by
  have hval : leNat (bytesLE 2 v) = v := by rw [leNat_bytesLE]; omega
  have hrefused := State.entryWrite_orRefused h takesLive_cap (s.live_cap (bytesLE 2 v)) (State.ranged_above _ (by omega))
  exact ⟨_, congrArg Host.Outcome.next hrefused, s.refused_od _, s.refused_dim _, s.refused_said (by decide)⟩

theorem exec_cap_below {v : Nat} (hlo : v < 400) :
    ∃ s', exec (.cap .can (bytesLE 2 v)) s = .next s' ∧ s'.od = s.od ∧ s'.dim = s.dim ∧ CanSaid s' 0x06090032 := by
  have hval : leNat (bytesLE 2 v) = v := by rw [leNat_bytesLE]; omega
  have hrefused := State.entryWrite_orRefused h takesLive_cap (s.live_cap (bytesLE 2 v)) (State.ranged_below _ (by omega))
  exact ⟨_, congrArg Host.Outcome.next hrefused, s.refused_od _, s.refused_dim _, s.refused_said (by decide)⟩

theorem exec_coolantReenable_refused (hst : s.therm.coolantState ≠ 3) :
    ∃ s', exec (.coolantReenable .can [1]) s = .next s' ∧ s'.therm = s.therm ∧ CanSaid s' 0x08000022 := by
  have hrefused := State.entryWrite_orRefused h takesLive_coolantReenable (s.live_coolantReenable [1]) (if_pos hst)
  exact ⟨_, congrArg Host.Outcome.next hrefused, s.refused_therm _, s.refused_said (by decide)⟩

end Refusals

/-! ## The coolant -/

section Coolant
variable {s : State}

/-- Reasons and reports apart, the state is the same. -/
structure State.Noted (s t : State) : Prop where
  fab : t.fab = s.fab
  therm : t.therm = s.therm
  house : t.house = s.house
  store : t.store = s.store
  blackoutFor : t.dim.blackoutFor = s.dim.blackoutFor

theorem State.Noted.trans {s t u : State} (h : s.Noted t) (h' : t.Noted u) : s.Noted u :=
  ⟨h'.fab.trans h.fab, h'.therm.trans h.therm, h'.house.trans h.house, h'.store.trans h.store, h'.blackoutFor.trans h.blackoutFor⟩

theorem State.Reported.noted {s t : State} (h : s.Reported t) : s.Noted t := by
  obtain ⟨_, _, _, _, rfl⟩ := h
  exact ⟨rfl, rfl, rfl, rfl, rfl⟩

theorem State.logFault_noted (s : State) (r : FaultRec) : s.Noted (s.logFault r) :=
  .trans (t := (s.logOnly r).1) ⟨rfl, rfl, rfl, rfl, rfl⟩ (s.logFault_reported r).noted

theorem State.bindReasons_noted (s : State) : s.Noted s.bindReasons := by
  unfold State.bindReasons
  refine .trans ?_ (State.settle_reported _).noted
  exact List.foldlRecOn _ _ (motive := s.Noted) ⟨rfl, rfl, rfl, rfl, rfl⟩ fun _ ht _ _ => ht.trans ⟨rfl, rfl, rfl, rfl, rfl⟩

/-- A stopped package whose coolant has returned resumes (R368). -/
theorem State.resume_ok (hst : s.therm.coolantState = 3) (hok : s.therm.coolantOk = true) : ∃ t, s.resume 1 = .ok t ∧
    (({ s with therm := { s.therm with coolantState := 0 } } : State).blackoutFor 8 false).Noted t := by
  unfold State.resume
  rw [if_neg (by simp [hst]), if_neg (by decide)]
  simp only [hok, if_true]
  exact ⟨_, rfl, (State.logFault_noted _ _).trans (State.bindReasons_noted _)⟩

theorem exec_coolantReenable_resumes (h : OnCan s) (hst : s.therm.coolantState = 3) (hok : s.therm.coolantOk = true) :
    ∃ s', exec (.coolantReenable .can [1]) s = .next s' ∧ s'.therm.coolantState = 0 ∧ s'.working = true ∧ 8 ∉ s'.dim.blackoutFor ∧
      CanSaid s' 0 := by
  obtain ⟨t, ht, hfab, htherm, hhouse, -, hblack⟩ := State.resume_ok hst hok
  have hquiet : Quiet t := by rw [Quiet, hfab]; exact h.2.2.2.2
  have hdone := State.entryWrite_quiet (d := [1]) h takesLive_coolantReenable
    (by rw [State.live_coolantReenable, show leNat [(1 : Byte)] = 1 from rfl, ht, State.orRefused]) hquiet
  have hstate : t.therm.coolantState = 0 := by rw [htherm]; rfl
  refine ⟨t.done, congrArg Host.Outcome.next hdone, hstate, ?_, ?_, t.done_said⟩
  · have hready : t.house.deviceState = 1 := by rw [hhouse]; exact h.2.2.2.1
    change t.working = true
    simp [State.working, hready, hstate]
  · change 8 ∉ t.dim.blackoutFor
    rw [hblack]
    simp [State.blackoutFor]

end Coolant

/-! ## Wings -/

section Wings
variable {s t : State} {v : Nat}

theorem leNat_wingValue (hv : v < 128 ∨ v = 0x100 ∨ v = 0x1FF) : leNat (bytesLE 2 v) = v := by
  rw [leNat_bytesLE]
  omega

theorem exec_curtain_done (h : OnCan s) (hv : v < 128 ∨ v = 0x100 ∨ v = 0x1FF) (ht : s.curtain v = .ok t) (hq : Quiet t) :
    ∃ s', exec (.curtain .can (bytesLE 2 v)) s = .next s' ∧ s'.od = t.od ∧ s'.wings = t.wings ∧ CanSaid s' 0 := by
  have hdone := State.entryWrite_quiet h takesLive_curtain (by rw [State.live_curtain (if_pos hv) (leNat_wingValue hv), ht]) hq
  exact ⟨_, congrArg Host.Outcome.next hdone, rfl, rfl, t.done_said⟩

/-- A refused CURTAIN names what failed and counts (R378). -/
theorem State.curtain_error (ht : s.curtain v = .error t) :
    ∃ f counters, t = { s with house := { s.house with curtainFault := f }, counters := counters } := by
  unfold State.curtain at ht
  dsimp only at ht
  split at ht
  · exact ⟨_, _, (Except.error.inj ht).symm⟩
  · cases ht

theorem exec_curtain_refused (h : OnCan s) (hv : v < 128 ∨ v = 0x100 ∨ v = 0x1FF) (ht : s.curtain v = .error t) :
    ∃ s', exec (.curtain .can (bytesLE 2 v)) s = .next s' ∧ s'.od = s.od ∧ s'.wings = s.wings ∧
      s'.house.curtainFault = t.house.curtainFault ∧ CanSaid s' 0x06090030 := by
  obtain ⟨f, counters, hfail⟩ := State.curtain_error ht
  have hquiet : Quiet t := by rw [hfail]; exact h.2.2.2.2
  have hrefused := State.entryWrite_refused (e := abValue) h takesLive_curtain
    (by rw [State.live_curtain (if_pos hv) (leNat_wingValue hv), ht]) hquiet
  refine ⟨_, congrArg Host.Outcome.next hrefused, ?_, ?_, ?_, t.refused_said (by decide)⟩
  · rw [State.refused_od, hfail]
  · rw [State.refused_wings, hfail]
  · rw [State.refused_house]

/-- An emptied wing holds no entry (R379). -/
theorem State.heldEntries_emptyWings (s : State) (v : Nat) : (s.emptyWings (s.heldEntries v)).heldEntries v = [] := by
  rw [State.heldEntries, List.filter_eq_nil_iff]
  intro e he hsel
  obtain ⟨w, hw, rfl⟩ := List.mem_map.mp he
  obtain ⟨hmem, hkept⟩ := List.mem_filter.mp hw
  have hheld : (w.1 / 256, w.1 % 256) ∈ s.heldEntries v := List.mem_filter.mpr ⟨List.mem_map_of_mem hmem, hsel⟩
  simp [hheld] at hkept

theorem exec_discard_done (h : OnCan s) (hv : v < 128 ∨ v = 0x100 ∨ v = 0x1FF) :
    ∃ s', exec (.discard .can (bytesLE 2 v)) s = .next s' ∧ s'.heldEntries v = [] ∧ s'.od = s.od ∧ CanSaid s' 0 := by
  have hdone := State.entryWrite_quiet h takesLive_discard (State.live_discard (if_pos hv) (leNat_wingValue hv)) h.2.2.2.2
  exact ⟨_, congrArg Host.Outcome.next hdone, s.heldEntries_emptyWings v, rfl, State.done_said _⟩

end Wings

/-! ## Partitions -/

section Parts
variable {s : State} (h : OnCan s) (p : Fin 128)
include h

theorem exec_layerCounters_all : ∃ s', exec (.layerCounters .can p (bytesLE 4 0xFFFFFFFF)) s = .next s' ∧
    (s'.part p.val).sticky = [] ∧ CanSaid s' 0 := by
  have hlive : s.live none 0x2703 (p.val + 1) 0 (bytesLE 4 0xFFFFFFFF) = .ok (s.modPart p.val fun x => { x with sticky := [] }) := by
    rw [State.live_layerCounters, State.clearLayer, leNat_bytesLE, if_pos (by decide), Nat.add_sub_cancel, State.orRefused]
  have hdone := State.entryWrite_quiet h (takesLive_counters p) hlive h.2.2.2.2
  refine ⟨_, congrArg Host.Outcome.next hdone, ?_, State.done_said _⟩
  rw [State.done_part]
  simp [State.modPart, State.part]

theorem exec_layerCounters_one {l : Nat} (hl : l < 1024) (hs : SMap.sorted (s.part p.val).sticky = true) :
    ∃ s', exec (.layerCounters .can p (bytesLE 4 l)) s = .next s' ∧ SMap.find? l (s'.part p.val).sticky = none ∧ CanSaid s' 0 := by
  have hval : leNat (bytesLE 4 l) = l := by rw [leNat_bytesLE]; omega
  have hlive : s.live none 0x2703 (p.val + 1) 0 (bytesLE 4 l) =
      .ok (s.modPart p.val fun x => { x with sticky := SMap.del l x.sticky }) := by
    rw [State.live_layerCounters, State.clearLayer, hval, if_neg (by omega), if_pos hl, Nat.add_sub_cancel, State.orRefused]
  have hdone := State.entryWrite_quiet h (takesLive_counters p) hlive h.2.2.2.2
  refine ⟨_, congrArg Host.Outcome.next hdone, ?_, State.done_said _⟩
  rw [State.done_part]
  have hsticky : ((s.modPart p.val fun x => { x with sticky := SMap.del l x.sticky }).part p.val).sticky =
      SMap.del l (s.part p.val).sticky := by simp [State.modPart, State.part]
  rw [hsticky, SMap.find?_del l l hs, if_pos rfl]

/-- PART_RESET takes an ACTIVE partition to RESET, and its tasks leave (R307). -/
theorem exec_partReset_active (hact : (s.part p.val).phase = .active) : ∃ s', exec (.partReset .can p [1]) s = .next s' ∧
    (s'.part p.val).phase = .reset ∧ ∀ e ∈ s'.tasks, e.2.part ≠ p.val := by
  have hwrite := State.entryWrite_ok (d := [1]) h (takesLive_partReset p) (s.live_partReset p)
  obtain ⟨hreset, hnone⟩ := State.jobFault_resets hact Config.jobFaultCause.toNat 0 0
  have hheld := (s.jobFault_keeps p.val Config.jobFaultCause.toNat 0 0).held.trans h.2.2.2.2.1
  generalize s.jobFault p.val = t at hwrite hreset hnone hheld
  have hkeeps := (t.send_keeps (.can 3 [0])).trans (State.releaseHeld_keeps hheld)
  exact ⟨_, congrArg Host.Outcome.next hwrite, hkeeps.resets _ hreset, hkeeps.noTask hnone⟩

end Parts

/-! ## The store, the error history and microcode -/

section Store
variable {s : State} (h : OnCan s)
include h

theorem exec_errorCount_done : ∃ s', exec (.errorCount .can [0]) s = .next s' ∧ s'.can.history = [] ∧ CanSaid s' 0 := by
  have hdone := State.entryWrite_quiet (d := [0]) h takesLive_errorCount (s.live_errorCount [0]) h.2.2.2.2
  exact ⟨_, congrArg Host.Outcome.next hdone, rfl, State.done_said _⟩

omit h in
/-- A save or restore that is taken is queued (R387). -/
theorem State.storeSave_ok (hst : s.store.state = 0 ∨ s.store.state = 1) (sub : Nat) (restore : Bool) : s.storeSave sub restore =
    .ok { s with store := { s.store with
      state := 3, jobs := s.store.jobs ++ [if restore then .restore sub else .save sub] } } := by
  unfold State.storeSave State.storeJob
  rw [if_neg (by omega)]
  cases restore <;> rfl

theorem exec_store_done {sub : Fin 256} (h1 : 1 ≤ sub.val) (h3 : sub.val ≤ 3) (hst : s.store.state = 0 ∨ s.store.state = 1) :
    ∃ s', exec (.store .can sub (bytesLE 4 0x65766173)) s = .next s' ∧ s'.store.state = 3 ∧
      s'.store.jobs = s.store.jobs ++ [.save sub.val] ∧ CanSaid s' 0 := by
  have hsave : s.liveCan 0x1010 sub.val (bytesLE 4 0x65766173) = s.storeSave sub.val false := by
    unfold State.liveCan
    dsimp only
    rw [if_neg (by decide), if_pos (.inl rfl), if_neg (by omega), if_neg (by decide)]
    rfl
  have hdone := State.entryWrite_quiet h (takesLive_store h1 h3).1
    (State.live_of_ok (s.live_store _ _) (hsave.trans (State.storeSave_ok hst ..))) h.2.2.2.2
  exact ⟨_, congrArg Host.Outcome.next hdone, rfl, rfl, State.done_said _⟩

theorem exec_restore_done {sub : Fin 256} (h1 : 1 ≤ sub.val) (h3 : sub.val ≤ 3) (hst : s.store.state = 0 ∨ s.store.state = 1) :
    ∃ s', exec (.restore .can sub (bytesLE 4 0x64616F6C)) s = .next s' ∧ s'.store.state = 3 ∧
      s'.store.jobs = s.store.jobs ++ [.restore sub.val] ∧ CanSaid s' 0 := by
  have hrestore : s.liveCan 0x1011 sub.val (bytesLE 4 0x64616F6C) = s.storeSave sub.val true := by
    unfold State.liveCan
    dsimp only
    rw [if_neg (by decide), if_pos (.inr rfl), if_neg (by omega), if_neg (by decide)]
    rfl
  have hdone := State.entryWrite_quiet h (takesLive_store h1 h3).2
    (State.live_of_ok (s.live_restore _ _) (hrestore.trans (State.storeSave_ok hst ..))) h.2.2.2.2
  exact ⟨_, congrArg Host.Outcome.next hdone, rfl, rfl, State.done_said _⟩

theorem exec_store_unsigned {sub : Fin 256} (h1 : 1 ≤ sub.val) (h3 : sub.val ≤ 3) (hst : s.store.state = 0 ∨ s.store.state = 1) {v : Nat}
    (hv : v < 2 ^ 32) (hne : v ≠ 0x65766173) :
    ∃ s', exec (.store .can sub (bytesLE 4 v)) s = .next s' ∧ s'.store = s.store ∧ CanSaid s' 0x08000020 := by
  have hval : leNat (bytesLE 4 v) = v := by rw [leNat_bytesLE]; omega
  have hbad : s.liveCan 0x1010 sub.val (bytesLE 4 v) = .error abSignature := by
    unfold State.liveCan
    dsimp only
    rw [if_neg (by decide), if_pos (.inl rfl), if_neg (by omega), if_pos (by rw [hval, if_pos rfl]; exact hne)]
  have hrefused := State.entryWrite_orRefused h (takesLive_store h1 h3).1 (s.live_store sub.val (bytesLE 4 v)) hbad
  exact ⟨_, congrArg Host.Outcome.next hrefused, s.refused_store _, s.refused_said (by decide)⟩

/-- FLY_UCODE_GO takes up an image that passes its test; one that fails is logged and changes no engine (R345). -/
theorem exec_flyUcodeGo_done {mask : Nat} {img : List Byte} (hmask : mask < 65536) (hidle : s.store.ucodeMask = 0)
    (himg : s.ucodeAt = some img) : ∃ s', exec (.flyUcodeGo .can (bytesLE 2 mask)) s = .next s' ∧ CanSaid s' 0 ∧
      (imageOk s.store.owners 2 img = true → s'.store.ucodeMask = mask ∧ s'.store.ucodeImage = img) ∧
      (imageOk s.store.owners 2 img = false → s'.store.ucodeMask = 0 ∧ s'.store.ucode = s.store.ucode) := by
  have hval : leNat (bytesLE 2 mask) = mask := by rw [leNat_bytesLE]; omega
  obtain ⟨t, hgo, hfab, htaken, hkept⟩ : ∃ t, s.ucodeGo mask = .ok t ∧ t.fab = s.fab ∧
      (imageOk s.store.owners 2 img = true → t.store.ucodeMask = mask ∧ t.store.ucodeImage = img) ∧
      (imageOk s.store.owners 2 img = false → t.store = s.store) := by
    unfold State.ucodeGo
    rw [if_neg (not_not_intro hidle), himg]
    dsimp only
    split
    next hok => exact ⟨_, rfl, rfl, fun _ => ⟨Nat.mod_eq_of_lt hmask, rfl⟩, fun h => absurd (hok.symm.trans h) (by decide)⟩
    next hbad => exact ⟨_, rfl, (s.logFault_noted _).fab, fun h => absurd h hbad, fun _ => (s.logFault_noted _).store⟩
  have hdone := State.entryWrite_quiet h takesLive_flyUcodeGo
    (State.live_of_ok (s.live_flyUcodeGo _) (hval.symm ▸ hgo)) (by rw [Quiet, hfab]; exact h.2.2.2.2)
  refine ⟨t.done, congrArg Host.Outcome.next hdone, t.done_said, htaken, fun hbad => ?_⟩
  rw [t.done_store, hkept hbad]
  exact ⟨hidle, rfl⟩

end Store

/-! ## Ports -/

theorem State.toRetrain_phase {s : State} {n : Nat} (hup : (s.port n).phase = .up) (hheld : s.fab.held = []) :
    ((s.toRetrain n).port n).phase = .retrain ∧ (s.toRetrain n).fab.held = [] := by
  have hset : ((s.setPort n { s.port n with phase := .retrain, retryDue := false }).port n).phase = .retrain := by
    simp [State.setPort, State.port]
  have hkeeps : (s.setPort n { s.port n with phase := .retrain, retryDue := false }).Keeps (s.toRetrain n) := by
    unfold State.toRetrain State.toPhase
    rw [if_pos ⟨hup, by decide⟩]
    exact (State.portGone_keeps ..).trans ((State.count_keeps ..).trans (State.send_keeps ..))
  exact ⟨(hkeeps.phases n).trans hset, hkeeps.held.trans hheld⟩

/-- PORT_RETRAIN takes an UP port that is not the last of its group to RETRAIN (R346). -/
theorem exec_portRetrain_up {s : State} (h : OnCan s) {n : Fin 24} (hup : (s.port n.val).phase = .up) (hlast : s.lastPort n.val = false) :
    ∃ s', exec (.portRetrain .can n [1]) s = .next s' ∧ (s'.port n.val).phase = .retrain := by
  have hlive : s.live none 0x2907 (n.val + 1) 0 [1] = .ok (s.toRetrain n.val) := by
    rw [State.live_portRetrain, State.portRetrain, Nat.add_sub_cancel, hlast, if_neg (by decide), if_neg (by decide), if_pos hup,
      State.orRefused]
  have hwrite := State.entryWrite_ok (d := [1]) h (takesLive_portRetrain n) hlive
  obtain ⟨hphase, hheld⟩ := State.toRetrain_phase hup h.2.2.2.2.1
  generalize s.toRetrain n.val = t at hwrite hphase hheld
  have hkeeps := (t.send_keeps (.can 3 [0])).trans (State.releaseHeld_keeps hheld)
  exact ⟨_, congrArg Host.Outcome.next hwrite, (hkeeps.phases _).trans hphase⟩

/-- Settles O53, entry by entry: a write that is taken is the entry's effect, then the node's answer, then a release that lets nothing go
but held threads; a cue the dimmer posts either leaves or is kept back through the release. -/
theorem liveEntries : Obligations.LiveEntries := by
  intro s h hod
  refine ⟨fun v hv => ⟨exec_cap_taken h hod, exec_cap_above h hv, exec_cap_below h, exec_stepMax_taken h hod,
      exec_currentLimit_taken h hod⟩,
    exec_coolantReenable_refused h, exec_coolantReenable_resumes h, fun v hv => ⟨fun t => exec_curtain_done h hv,
      fun t => exec_curtain_refused h hv, exec_discard_done h hv⟩,
    fun p => ⟨exec_layerCounters_all h p, fun l => exec_layerCounters_one h p, exec_partReset_active h p⟩, exec_errorCount_done h,
    fun sub h1 h3 hst => ⟨exec_store_done h h1 h3 hst, exec_restore_done h h1 h3 hst, fun v => exec_store_unsigned h h1 h3 hst⟩,
    fun mask img => exec_flyUcodeGo_done h, fun n => exec_portRetrain_up h⟩

end Sys2Proof.Machine

/-! Contexts, prefixes and key-value appends (O41): what the page operations leave unchanged, then each context operation and the append
of a row (R169, R172 to R180, R188, R222). -/

namespace Sys2Proof.Machine

open Sys2Proof

/-! ## Fields within fields -/

theorem testBit_fld {w : Nat} (x : BitVec w) (hi lo i : Nat) :
    (fld x hi lo).testBit i = (decide (i < hi + 1 - lo) && x.toNat.testBit (lo + i)) := by
  rw [fld, Nat.testBit_mod_two_pow, Nat.testBit_shiftRight]

theorem fld_eq_div {w : Nat} (x : BitVec w) (hi lo : Nat) : fld x hi lo = x.toNat / 2 ^ lo % 2 ^ (hi + 1 - lo) := by
  rw [fld, Nat.shiftRight_eq_div_pow]

theorem fld_lt {w : Nat} (x : BitVec w) (hi lo : Nat) : fld x hi lo < 2 ^ (hi + 1 - lo) := Nat.mod_lt _ (Nat.two_pow_pos _)

/-- Words that agree in a field agree in the fields within it. -/
theorem fld_within {v w : Nat} {x : BitVec v} {y : BitVec w} {hi lo : Nat} (h : fld x hi lo = fld y hi lo) {hi' lo' : Nat} (hlo : lo ≤ lo')
    (hhi : hi' ≤ hi) : fld x hi' lo' = fld y hi' lo' := by
  obtain ⟨d, rfl⟩ := Nat.exists_eq_add_of_le hlo
  refine Nat.eq_of_testBit_eq fun i => ?_
  rw [testBit_fld, testBit_fld]
  by_cases hlt : i < hi' + 1 - (lo + d)
  · have hbit := congrArg (Nat.testBit · (d + i)) h
    simp only [testBit_fld, ← Nat.add_assoc] at hbit
    rw [decide_eq_true (by omega), Bool.true_and, Bool.true_and] at hbit
    rw [hbit]
  · rw [decide_eq_false hlt, Bool.false_and, Bool.false_and]

/-- A field of a field taken out as a word of its own. -/
theorem fld_ofNat_fld {w : Nat} (x : BitVec w) {m hi lo : Nat} (hm : hi + 1 - lo ≤ m) {hi' : Nat} (lo' : Nat) (hhi : lo + hi' ≤ hi) :
    fld (BitVec.ofNat m (fld x hi lo)) hi' lo' = fld x (lo + hi') (lo + lo') := by
  have hnat : (BitVec.ofNat m (fld x hi lo)).toNat = fld x hi lo :=
    Nat.mod_eq_of_lt ((fld_lt x hi lo).trans_le (Nat.pow_le_pow_right (by decide) hm))
  refine Nat.eq_of_testBit_eq fun i => ?_
  rw [testBit_fld, hnat, testBit_fld, testBit_fld, ← Nat.add_assoc, Nat.add_assoc lo hi' 1, Nat.add_sub_add_left]
  by_cases h : i < hi' + 1 - lo'
  · rw [decide_eq_true (p := lo' + i < hi + 1 - lo) (by omega), Bool.true_and]
  · rw [decide_eq_false h, Bool.false_and, Bool.false_and]

theorem bit_ofNat_fld {w : Nat} (x : BitVec w) {m hi lo i : Nat} (hm : hi + 1 - lo ≤ m) (hhi : lo + i ≤ hi) :
    bit (BitVec.ofNat m (fld x hi lo)) i = bit x (lo + i) := by
  rw [bit, BitVec.getLsbD_ofNat, testBit_fld, decide_eq_true (by omega), decide_eq_true (by omega), Bool.true_and, Bool.true_and, bit,
    BitVec.getLsbD]

/-- A field below one that is replaced keeps its value. -/
theorem fld_setFld_below {w : Nat} (x : BitVec w) {hi lo : Nat} (v : Nat) (hlo : lo ≤ hi) (hhi : hi < w) {hi' lo' : Nat} (h : hi' < lo) :
    fld (setFld x hi lo v) hi' lo' = fld x hi' lo' := by
  refine fld_within (hi := hi') (lo := 0) ?_ (Nat.zero_le _) (Nat.le_refl _)
  have hdvd : 2 ^ (hi' + 1) ∣ 2 ^ lo := Nat.pow_dvd_pow 2 h
  simp only [fld, setFld_toNat x v hlo hhi, Nat.shiftRight_zero, Nat.sub_zero]
  rw [Nat.add_mod, Nat.mod_eq_zero_of_dvd (hdvd.mul_left _), Nat.zero_add, Nat.mod_mod, Nat.mod_mod_of_dvd _ hdvd]

/-! ## The words of a context operation -/

theorem wordA_toNat (w : W512) : (wordA w).toNat = fld w 511 448 := Nat.mod_eq_of_lt (fld_lt w 511 448)
theorem wordB_toNat (w : W512) : (wordB w).toNat = fld w 447 384 := Nat.mod_eq_of_lt (fld_lt w 447 384)
theorem wordC_toNat (w : W512) : (wordC w).toNat = fld w 383 320 := Nat.mod_eq_of_lt (fld_lt w 383 320)

theorem zeroFld_of_lt {a : W64} (h : a.toNat < 2 ^ 52) : zeroFld a 63 52 = true := by
  rwa [zeroFld, beq_iff_eq, fld_top_eq_zero_iff]

theorem zeroFld_ofNat_of_lt {n : Nat} (h : n < 2 ^ 52) : zeroFld (BitVec.ofNat 64 n) 63 52 = true :=
  zeroFld_of_lt (by rw [BitVec.toNat_ofNat]; omega)

/-! ## An entry that is taken -/

/-- Entry k is accepted and not complete. -/
def State.Pending (s : State) (k : Nat) : Prop := ∃ x, SMap.find? k s.entries = some x ∧ x.done = none

/-- The state with what acceptance sets: the queues, the next number and the entries. -/
def State.withEntries (s : State) (queues : SMap Queue) (nextNo : Nat) (entries : SMap Entry) : State :=
  { s with queues := queues, nextNo := nextNo, entries := entries }

/-- Acceptance enters an entry that is not complete, and moves the head of its queue (R280). -/
theorem Takes.accepted {s s1 : State} {q : QRef} {e w : W512} {k : Nat} (h : Takes s q e s1 k w) : s1.Pending k ∧
    ∃ queues nextNo entries, s1 = s.withEntries queues nextNo entries := by
  obtain ⟨-, -, -, x, hacc, -, -⟩ := h
  unfold State.accept at hacc
  dsimp only at hacc
  split at hacc
  · cases hacc
  · split at hacc
    · cases hacc
    · cases hacc
      exact ⟨⟨_, SMap.find?_put_self .., rfl⟩, _, _, _, rfl⟩

theorem State.withEntry_of_takes {s s1 : State} {q : QRef} {e w : W512} {k : Nat} (h : Takes s q e s1 k w) {mine : Nat → Bool}
    (hmine : mine (fld w 7 0) = true) (run : State → Nat → Nat → W512 → State) :
    s.withEntry q e mine run = .next (run s1 k (qPart q) w) := by
  obtain ⟨hheld, hmay, hactive, x, hacc, rfl, hgo⟩ := h
  simp [State.withEntry, hheld, hmay, hacc, hmine, hactive, hgo]

section Finish
variable {s t : State} {k : Nat}

theorem State.finish_eq (s : State) (k : Nat) (st : Byte) (v : W64) : ∃ entries, s.finish k st v = { s with entries := entries } := by
  unfold State.finish
  split
  · split <;> exact ⟨_, rfl⟩
  · exact ⟨_, rfl⟩

@[simp] theorem State.finish_mem (st : Byte) (v : W64) : (s.finish k st v).mem = s.mem := by
  obtain ⟨_, h⟩ := s.finish_eq k st v; rw [h]
@[simp] theorem State.finish_parts (st : Byte) (v : W64) : (s.finish k st v).parts = s.parts := by
  obtain ⟨_, h⟩ := s.finish_eq k st v; rw [h]
@[simp] theorem State.finish_ctxs (st : Byte) (v : W64) : (s.finish k st v).ctxs = s.ctxs := by
  obtain ⟨_, h⟩ := s.finish_eq k st v; rw [h]
@[simp] theorem State.finish_ctxExtra (st : Byte) (v : W64) : (s.finish k st v).ctxExtra = s.ctxExtra := by
  obtain ⟨_, h⟩ := s.finish_eq k st v; rw [h]
@[simp] theorem State.finish_counters (st : Byte) (v : W64) : (s.finish k st v).counters = s.counters := by
  obtain ⟨_, h⟩ := s.finish_eq k st v; rw [h]

theorem State.finish_part (st : Byte) (v : W64) (p : Nat) : (s.finish k st v).part p = s.part p := by rw [State.part, s.finish_parts]; rfl

/-- An entry that was not complete is, once operations that keep the entries finish it. -/
theorem State.Pending.finish (h : s.Pending k) (ht : t.entries = s.entries) {st : Byte} {v : W64} : Done (t.finish k st v) k st v := by
  obtain ⟨x, hx, hopen⟩ := h
  rw [← ht] at hx
  exact ⟨{ x with done := some (st, v) }, by simp [State.finish, hx, hopen], rfl⟩

end Finish

/-! ## What the page operations leave unchanged -/

/-- Contexts, their progress, entries and threads are the same, and memory stays canonical. -/
structure State.SameCtxs (s t : State) : Prop where
  ctxs : t.ctxs = s.ctxs
  ctxExtra : t.ctxExtra = s.ctxExtra
  entries : t.entries = s.entries
  threads : t.threads = s.threads
  wf : Memory.wf s.mem = true → Memory.wf t.mem = true

section SameCtxs
variable {s t u : State}

theorem State.SameCtxs.refl (s : State) : s.SameCtxs s := ⟨rfl, rfl, rfl, rfl, id⟩

theorem State.SameCtxs.trans (h : s.SameCtxs t) (h' : t.SameCtxs u) : s.SameCtxs u :=
  ⟨h'.ctxs.trans h.ctxs, h'.ctxExtra.trans h.ctxExtra, h'.entries.trans h.entries, h'.threads.trans h.threads, h'.wf ∘ h.wf⟩

theorem State.SameCtxs.foldl {α : Type} {f : State → α → State} (hf : ∀ (s : State) (a : α), s.SameCtxs (f s a)) (l : List α) (s : State) :
    s.SameCtxs (l.foldl f s) :=
  List.foldlRecOn l f (.refl s) fun t ht a _ => ht.trans (hf t a)

theorem State.FabricOnly.sameCtxs (h : s.FabricOnly t) : s.SameCtxs t := by
  obtain ⟨_, _, rfl⟩ := h
  exact ⟨rfl, rfl, rfl, rfl, id⟩

theorem State.homeWrite_sameCtxs (s : State) (a : Nat) (bs : List Byte) : s.SameCtxs (s.homeWrite a bs) :=
  .trans (t := s.writeMem a bs) ⟨rfl, rfl, rfl, rfl, Memory.wf_writeMem s a bs⟩ (s.homeWrite_fabricOnly a bs inputOwn).sameCtxs

theorem State.homeWrite_mem (s : State) (a : Nat) (bs : List Byte) : (s.homeWrite a bs).mem = (s.writeMem a bs).mem := by
  obtain ⟨_, _, h⟩ := s.homeWrite_fabricOnly a bs inputOwn
  rw [h]

theorem State.byte_homeWrite {s : State} (hmem : Memory.wf s.mem = true) (a : Nat) (bs : List Byte) (m : Nat) :
    (s.homeWrite a bs).byte m = if a ≤ m ∧ m < a + bs.length then bs.getD (m - a) 0 else s.byte m := by
  rw [State.byte, s.homeWrite_mem]
  exact byte_writeMem_eq hmem a bs m

theorem State.homeWrites_sameCtxs (s : State) (ps : List (Nat × List Byte)) : s.SameCtxs (s.homeWrites ps) :=
  .foldl (fun s _ => s.homeWrite_sameCtxs _ _) ps s

theorem State.setPageEntry_sameCtxs (s : State) (d : W512) (l h k page : Nat) (shared sealed : Bool) :
    s.SameCtxs (s.setPageEntry d l h k page shared sealed) := s.homeWrite_sameCtxs _ _

theorem State.keyColumn_sameCtxs (s : State) (again : Bool) (addr P n : Nat) (bs : List EncBlock) :
    s.SameCtxs (s.keyColumn again addr P n bs) := by
  unfold State.keyColumn
  exact s.homeWrites_sameCtxs _

theorem State.valRow_sameCtxs (s : State) (again : Bool) (addr P r : Nat) (elems : List Nat) :
    s.SameCtxs (s.valRow again addr P r elems).1 := by
  unfold State.valRow
  exact s.homeWrites_sameCtxs _

/-- A row of a half page: its key columns, its bits in the value tiles, and last the codes of its value blocks (R169). -/
theorem State.halfRow_eq (s : State) (again : Bool) (base nb P r : Nat) (row : PageRow) : ∃ t : State × Nat, s.SameCtxs t.1 ∧
    s.halfRow again base nb P r row = (t.1.homeWrite (base + r * nb) (row.v.map fun b => BitVec.ofNat 8 b.code), t.2) := by
  have hkeys := s.keyColumn_sameCtxs again (base + keyTileOff nb P (r / 64)) P (r % 64) row.k
  unfold State.halfRow
  dsimp only
  generalize hrows : List.foldl _ _ row.v.zipIdx = t
  refine ⟨t, ?_, rfl⟩
  rw [← hrows]
  refine List.foldlRecOn (motive := fun a : State × Nat => s.SameCtxs a.1) _ _ ?_ fun a ha b _ => ?_ <;> dsimp only
  · exact hkeys
  · exact ha.trans (a.1.valRow_sameCtxs again (base + valTileOff nb P b.2) P r b.1.elems)

end SameCtxs

/-! ## Pools -/

/-- s' is s but for the partitions, whose handles are the same. -/
def State.PoolsOnly (s s' : State) : Prop := ∃ parts, s' = { s with parts := parts } ∧ ∀ p, (s'.part p).handles = (s.part p).handles

section PoolsOnly
variable {s t u : State}

theorem State.PoolsOnly.refl (s : State) : s.PoolsOnly s := ⟨s.parts, rfl, fun _ => rfl⟩

theorem State.PoolsOnly.trans (h : s.PoolsOnly t) (h' : t.PoolsOnly u) : s.PoolsOnly u := by
  obtain ⟨_, rfl, ht⟩ := h
  obtain ⟨_, rfl, hu⟩ := h'
  exact ⟨_, rfl, fun p => (hu p).trans (ht p)⟩

theorem State.PoolsOnly.foldl {α : Type} {f : State → α → State} (hf : ∀ (s : State) (a : α), s.PoolsOnly (f s a)) (l : List α)
    (s : State) : s.PoolsOnly (l.foldl f s) :=
  List.foldlRecOn l f (.refl s) fun t ht a _ => ht.trans (hf t a)

theorem State.PoolsOnly.sameCtxs (h : s.PoolsOnly t) : s.SameCtxs t := by
  obtain ⟨_, rfl, -⟩ := h
  exact ⟨rfl, rfl, rfl, rfl, id⟩

theorem State.PoolsOnly.mem (h : s.PoolsOnly t) : t.mem = s.mem := by
  obtain ⟨_, rfl, -⟩ := h
  rfl

theorem State.part_modPart (s : State) (p : Nat) (f : Part → Part) : (s.modPart p f).part p = f (s.part p) := SMap.get_put_self ..

theorem State.count_part (s : State) (c : CtrName) (i n p : Nat) : (s.count c i n).part p = s.part p := rfl

theorem State.setPool_poolsOnly (s : State) (p n : Nat) (x : Pool) : s.PoolsOnly (s.setPool p n x) := by
  refine ⟨_, rfl, fun r => ?_⟩
  simp only [State.setPool, State.modPart, State.setPart, State.part, SMap.get_put]
  split
  next h => rw [h]
  next => rfl

theorem State.holdPage_poolsOnly (s : State) (p n page : Nat) : s.PoolsOnly (s.holdPage p n page) := by
  unfold State.holdPage
  split
  · exact .refl s
  · exact s.setPool_poolsOnly ..

theorem State.dropPage_poolsOnly (s : State) (p n page : Nat) : s.PoolsOnly (s.dropPage p n page) := by
  unfold State.dropPage
  split
  · exact .refl s
  · exact s.setPool_poolsOnly ..

end PoolsOnly

/-! ## Pools and contexts taken -/

/-- Four fields packed into a number and taken out again, and the gap above the second, which is zero. -/
theorem packed_fields {a b c d : Nat} (ha : a < 2 ^ (447 + 1 - 384)) (hb : b < 2 ^ (351 + 1 - 294)) (hc : c < 2 ^ (293 + 1 - 282))
    (hd : d < 2 ^ (240 + 1 - 237)) : let n := a * 2 ^ 384 + b * 2 ^ 294 + c * 2 ^ 282 + d * 2 ^ 237
    n < 2 ^ 512 ∧ n / 2 ^ 384 % 2 ^ (447 + 1 - 384) = a ∧ n / 2 ^ 352 % 2 ^ (383 + 1 - 352) = 0 ∧ n / 2 ^ 294 % 2 ^ (351 + 1 - 294) = b ∧
      n / 2 ^ 237 % 2 ^ (240 + 1 - 237) = d := by
  omega

/-- The fields that a context takes from its image (R173). -/
def ctxImage (img : W512) : W512 := BitVec.ofNat 512 (fld img 447 384 * 2 ^ 384 + fld img 351 294 * 2 ^ 294 +
  fld img 293 282 * 2 ^ 282 + fld img 240 237 * 2 ^ 237)

section FreshCtx
variable (img : W512) (p tenure use : Nat)

theorem freshCtx_eq : freshCtx img p tenure use = setFld (setFld (setFld (ctxImage img) 281 275 p) 274 272 1) 271 241
    (tenure % 16 * 2 ^ 27 + use % 2 ^ 27) := rfl

theorem fld_ctxImage : fld (ctxImage img) 447 384 = fld img 447 384 ∧ fld (ctxImage img) 383 352 = 0 ∧
    fld (ctxImage img) 351 294 = fld img 351 294 ∧ fld (ctxImage img) 240 237 = fld img 240 237 := by
  obtain ⟨hlt, htable, hlen, hshape, hpool⟩ := packed_fields (fld_lt img 447 384) (fld_lt img 351 294) (fld_lt img 293 282)
    (fld_lt img 240 237)
  have hnum : (ctxImage img).toNat = fld img 447 384 * 2 ^ 384 + fld img 351 294 * 2 ^ 294 + fld img 293 282 * 2 ^ 282 +
      fld img 240 237 * 2 ^ 237 := by
    rw [ctxImage, BitVec.toNat_ofNat]
    omega
  rw [← hnum] at htable hlen hshape hpool
  exact ⟨(fld_eq_div ..).trans htable, (fld_eq_div ..).trans hlen, (fld_eq_div ..).trans hshape, (fld_eq_div ..).trans hpool⟩

theorem fld_freshCtx_above {hi lo : Nat} (h : 281 < lo) : fld (freshCtx img p tenure use) hi lo = fld (ctxImage img) hi lo := by
  rw [freshCtx_eq, fld_setFld_above _ _ (by decide) (by decide) (by omega), fld_setFld_above _ _ (by decide) (by decide) (by omega),
    fld_setFld_above _ _ (by decide) (by decide) h]

theorem ctxTableExt_freshCtx : ctxTableExt (freshCtx img p tenure use) = ctxTableExt img := by
  obtain ⟨htable, -, hshape, -⟩ := fld_ctxImage img
  simp only [ctxTableExt, fld_freshCtx_above img p tenure use (lo := 384) (by decide), htable,
    fld_freshCtx_above img p tenure use (lo := 304) (by decide), fld_freshCtx_above img p tenure use (lo := 298) (by decide),
    fld_freshCtx_above img p tenure use (lo := 336) (by decide), fld_within hshape (hi' := 319) (lo' := 304) (by decide) (by decide),
    fld_within hshape (hi' := 303) (lo' := 298) (by decide) (by decide), fld_within hshape (hi' := 351) (lo' := 336) (by decide) (by decide)]

theorem ctxLen_freshCtx : ctxLen (freshCtx img p tenure use) = 0 :=
  (fld_freshCtx_above img p tenure use (by decide)).trans (fld_ctxImage img).2.1

theorem ctxPool_freshCtx : ctxPool (freshCtx img p tenure use) = ctxPool img := by
  obtain ⟨-, -, -, hpool⟩ := fld_ctxImage img
  rw [ctxPool, freshCtx_eq, fld_setFld_below _ _ (by decide) (by decide) (by decide), fld_setFld_below _ _ (by decide) (by decide) (by decide),
    fld_setFld_below _ _ (by decide) (by decide) (by decide), hpool, ctxPool]

theorem ctxState_freshCtx : ctxState (freshCtx img p tenure use) = 1 := by
  rw [ctxState, freshCtx_eq, fld_setFld_above _ _ (by decide) (by decide) (by decide), fld_setFld_self _ _ (by decide) (by decide)]
  rfl

theorem ctxPart_freshCtx (h : p < 128) : ctxPart (freshCtx img p tenure use) = p := by
  rw [ctxPart, freshCtx_eq, fld_setFld_above _ _ (by decide) (by decide) (by decide), fld_setFld_above _ _ (by decide) (by decide) (by decide),
    fld_setFld_self _ _ (by decide) (by decide)]
  exact Nat.mod_eq_of_lt h

theorem ctxGen_freshCtx : ctxGen (freshCtx img p tenure use) / 2 ^ 27 = tenure % 16 := by
  rw [ctxGen, freshCtx_eq, fld_setFld_self _ _ (by decide) (by decide)]
  omega

end FreshCtx

section Clear
variable (s : State) (a n : Nat)

theorem State.clearMem_mem : (s.clearMem a n).mem = SMap.keep (fun k _ => !(decide (a ≤ k) && decide (k < a + n))) s.mem := by
  obtain ⟨_, _, h⟩ := s.dropCopies_fabricOnly a n none
  simp only [State.clearMem, h]

theorem State.clearMem_sameCtxs : s.SameCtxs (s.clearMem a n) := by
  obtain ⟨hctxs, hextra, hentries, hthreads, -⟩ := (s.dropCopies_fabricOnly a n none).sameCtxs
  exact ⟨hctxs, hextra, hentries, hthreads, fun h => by rw [s.clearMem_mem]; exact SMap.wf_keep _ _ h⟩

/-- A cleared range reads as zero and the rest as before. -/
theorem State.byte_clearMem {s : State} (hmem : Memory.wf s.mem = true) (m : Nat) :
    (s.clearMem a n).byte m = if a ≤ m ∧ m < a + n then 0 else s.byte m := by
  have hsorted : SMap.sortedFrom 0 s.mem = true := Memory.sorted_of_wf hmem
  simp only [State.byte, s.clearMem_mem, SMap.get, SMap.find?_keep _ _ hsorted]
  by_cases h : a ≤ m ∧ m < a + n
  · rw [if_pos h]
    cases SMap.find? m s.mem <;> simp [h]
  · rw [if_neg h]
    have hkeep : (!(decide (a ≤ m) && decide (m < a + n))) = true := by simp; omega
    cases SMap.find? m s.mem <;> simp only [Option.filter, hkeep, if_true]

end Clear

/-! ## Context operations

What each operation does, given what its checks find. -/

section Operation
variable {s : State} {k p : Nat} {w : W512}

/-- The pool that a POOL entry describes (R177). -/
def newPool (w : W512) : Pool :=
  { base := (wordB w).toNat, size := (wordC w).toNat, dblk := fld (wordD w) 63 48 / 32, pmax := fld (wordD w) 47 44, train := bit (wordD w) 43 }

theorem newPool_fields (w : W512) : (newPool w).base = fld w 447 384 ∧ (newPool w).size = fld w 383 320 ∧
    (newPool w).dblk = fld w 319 304 / 32 ∧ (newPool w).pmax = fld w 303 300 ∧ (newPool w).train = bit w 299 ∧ (newPool w).counts = [] :=
  ⟨wordB_toNat w, wordC_toNat w, congrArg (· / 32) (fld_ofNat_fld w (by decide) 48 (by decide)), fld_ofNat_fld w (by decide) 44 (by decide),
    bit_ofNat_fld w (by decide) (by decide), rfl⟩

/-- POOL over memory of the partition sets the pool (R177). -/
theorem State.poolOp_of_inAllocs (hfree : ∀ x, s.pool? p (fld w 511 448) = some x → x.counts = []) (hbase : fld w 447 384 < 2 ^ 52)
    (hin : s.inAllocs p (fld w 447 384) (fld w 383 320) = true) :
    s.poolOp k p w = (s.setPool p (fld w 511 448) (newPool w)).finish k stOk := by
  have hbusy : ((s.pool? p (fld w 511 448)).any fun x => !x.counts.isEmpty) = false := by
    cases h : s.pool? p (fld w 511 448) with
    | none => rfl
    | some x => simp [hfree x h]
  have haddr : zeroFld (wordB w) 63 52 = true := zeroFld_of_lt ((wordB_toNat w).trans_lt hbase)
  simp [State.poolOp, newPool, wordA_toNat, hbusy, haddr, wordB_toNat, wordC_toNat, hin]

theorem State.poolOp_denied (hin : s.inAllocs p (fld w 447 384) (fld w 383 320) = false) : s.poolOp k p w = s.finish k stDenied := by
  have hin' : s.inAllocs p (wordB w).toNat (wordC w).toNat = false := by rwa [wordB_toNat, wordC_toNat]
  simp [State.poolOp, hin']

/-- A reference that fails its checks gives the check's status (R175). -/
theorem State.ops_of_refCheck_error {st : Byte} (h : s.refCheck p (wordA w) = .error st) :
    ∀ op ∈ [State.ctxReleaseOp, .publishOp, .mapOp, .ctxQueryOp], op s k p w = s.finish k st := by
  simp [State.ctxReleaseOp, State.publishOp, State.mapOp, State.ctxQueryOp, h]

section Alloc
variable {img : W512}

/-- The descriptor that CTX_ALLOC enters at an index for an image (R173, R174). -/
def State.newCtx (s : State) (p i : Nat) (img : W512) : W512 :=
  freshCtx img p s.fab.tenure ((((SMap.find? i s.ctxs).map fun d => ctxGen d % 2 ^ 27).getD 0) + 1)

variable (ha : fld w 511 448 < 2 ^ 52) (hperm : s.permits p (fld w 511 448) 64 = true) (hpoison : s.poisoned (fld w 511 448) 64 = false)
  (himg : s.word512 (fld w 511 448) = img) (htab : (ctxTableExt img).1 < 2 ^ 52)
  (hin : s.inAllocs p (ctxTableExt img).1 (ctxTableExt img).2 = true)
include ha hperm hpoison himg htab hin

theorem State.ctxAllocOp_takes {i : Nat} (hfree : SMap.lowestFree 2097152 (SMap.keep (fun _ d => ctxState d != 0) s.ctxs) = some i)
    (hpool : ctxTrain img = true → ∀ x, s.pool? p (ctxPool img) = some x → x.train = true) (hquota : s.usedH p + 64 ≤ s.quotaH p) :
    s.ctxAllocOp k p w = ((s.clearMem (ctxTableExt img).1 (ctxTableExt img).2).setCtx i (s.newCtx p i img)).finish k stOk
      (s.ctxRef i (s.newCtx p i img)) := by
  have haddr : zeroFld (wordA w) 63 52 = true := zeroFld_of_lt ((wordA_toNat w).trans_lt ha)
  have htable : zeroFld (BitVec.ofNat 64 (ctxTableExt img).1) 63 52 = true := zeroFld_ofNat_of_lt htab
  have hbad : (ctxTrain img && (s.pool? p (ctxPool img)).any fun x => !x.train) = false := by
    cases htrain : ctxTrain img
    · rfl
    · cases h : s.pool? p (ctxPool img) with
      | none => rfl
      | some x => simp [hpool htrain x h]
  simp [State.ctxAllocOp, haddr, wordA_toNat, himg, hperm, hpoison, htable, hin, hfree, hbad, Nat.not_lt.2 hquota, State.newCtx]

theorem State.ctxAllocOp_quota (h : SMap.lowestFree 2097152 (SMap.keep (fun _ d => ctxState d != 0) s.ctxs) = none ∨
    s.quotaH p < s.usedH p + 64) : s.ctxAllocOp k p w = s.finish k stQuota := by
  have haddr : zeroFld (wordA w) 63 52 = true := zeroFld_of_lt ((wordA_toNat w).trans_lt ha)
  have htable : zeroFld (BitVec.ofNat 64 (ctxTableExt img).1) 63 52 = true := zeroFld_ofNat_of_lt htab
  cases hfree : SMap.lowestFree 2097152 (SMap.keep (fun _ d => ctxState d != 0) s.ctxs) with
  | none => simp [State.ctxAllocOp, haddr, wordA_toNat, himg, hperm, hpoison, htable, hin, hfree]
  | some i =>
    have hquota : s.quotaH p < s.usedH p + 64 := h.resolve_left (by simp [hfree])
    simp [State.ctxAllocOp, haddr, wordA_toNat, himg, hperm, hpoison, htable, hin, hfree, hquota]

end Alloc

/-- A release is accepted and waits (R180). -/
theorem State.ctxReleaseOp_waits {i : Nat} {d : W512} (h : s.refCheck p (wordA w) = .ok (i, d)) : ∃ x,
    SMap.find? i (s.ctxReleaseOp k p w).ctxExtra = some x ∧ x.releasing = some k ∧ (s.ctxReleaseOp k p w).ctxs = s.ctxs ∧
    (s.ctxReleaseOp k p w).mem = s.mem := by
  have heq : s.ctxReleaseOp k p w = s.modExtra i fun x => { x with releasing := some k } := by simp [State.ctxReleaseOp, h]
  rw [heq]
  exact ⟨_, SMap.find?_put_self .., rfl, rfl, rfl⟩

theorem State.ctxQueryOp_writes {i : Nat} {d : W512} (h : s.refCheck p (wordA w) = .ok (i, d)) (ha : fld w 447 384 < 2 ^ 52)
    (hmay : s.mayStore p (fld w 447 384) 64 = true) :
    s.ctxQueryOp k p w = (s.homeWrite (fld w 447 384) (bytesLE 64 d.toNat)).finish k stOk := by
  have haddr : zeroFld (wordB w) 63 52 = true := zeroFld_of_lt ((wordB_toNat w).trans_lt ha)
  simp [State.ctxQueryOp, h, haddr, wordB_toNat, hmay]

theorem State.ctxQueryOp_denied {i : Nat} {d : W512} (h : s.refCheck p (wordA w) = .ok (i, d))
    (hmay : s.mayStore p (fld w 447 384) 64 = false) : s.ctxQueryOp k p w = s.finish k stDenied := by
  simp [State.ctxQueryOp, h, wordB_toNat, hmay]

end Operation

/-! ## The end of a release -/

/-- The pools once the pages and the scratch pages of a context are dropped (R179). -/
def State.dropContext (s : State) (i : Nat) (d : W512) : State :=
  (SMap.get {} s.ctxExtra i).scratch.foldl (fun s e => s.dropPage (ctxPart d) (ctxPool d) e.2.page)
    ((s.ctxEntries d).foldl (fun s e => s.dropPage (ctxPart d) (ctxPool d) (entryPage e.2.2.2)) s)

theorem State.dropContext_poolsOnly (s : State) (i : Nat) (d : W512) : s.PoolsOnly (s.dropContext i d) :=
  (State.PoolsOnly.foldl (fun s _ => s.dropPage_poolsOnly ..) _ s).trans (.foldl (fun s _ => s.dropPage_poolsOnly ..) _ _)

section Release
variable {s : State} {i : Fin 2097152} {k : Nat} {d : W512}

theorem exec_ctxReleaseComplete_of_named (hrel : (SMap.get {} s.ctxExtra i.val).releasing = some k) (hd : SMap.find? i.val s.ctxs = some d)
    (h : s.ctxNamed i.val d = true) : exec (.ctxReleaseComplete i) s = .next s := by
  change execCtxReleaseComplete i s = _
  simp only [execCtxReleaseComplete, hrel, hd, h, if_true]

/-- Once no task names it, the context's pages are dropped, its progress is forgotten and the descriptor is FREE (R180). -/
theorem exec_ctxReleaseComplete_of_unnamed (hrel : (SMap.get {} s.ctxExtra i.val).releasing = some k)
    (hd : SMap.find? i.val s.ctxs = some d) (h : s.ctxNamed i.val d = false) : exec (.ctxReleaseComplete i) s =
      .next ((({ s.dropContext i d with ctxExtra := SMap.del i.val (s.dropContext i d).ctxExtra } : State).setCtx i.val
        (setFld d 274 272 0)).finish k stOk) := by
  change execCtxReleaseComplete i s = _
  simp only [execCtxReleaseComplete, hrel, hd, h, Bool.false_eq_true, if_false]
  rfl

/-- The descriptor is FREE, its progress forgotten and its entry complete once no task names the context (R180). -/
theorem exec_ctxReleaseComplete_frees (hrel : (SMap.get {} s.ctxExtra i.val).releasing = some k) (hd : SMap.find? i.val s.ctxs = some d)
    (h : s.ctxNamed i.val d = false) (hk : s.Pending k) (hsorted : SMap.sorted s.ctxExtra = true) : ∃ s' d',
      exec (.ctxReleaseComplete i) s = .next s' ∧ SMap.find? i.val s'.ctxs = some d' ∧ ctxState d' = 0 ∧ Done s' k 0 0 ∧
      SMap.find? i.val s'.ctxExtra = none ∧ s'.mem = s.mem := by
  have hpools := s.dropContext_poolsOnly i.val d
  have hsame := hpools.sameCtxs
  refine ⟨_, setFld d 274 272 0, exec_ctxReleaseComplete_of_unnamed hrel hd h, ?_, ?_, ?_, ?_, ?_⟩
  · rw [State.finish_ctxs]
    exact SMap.find?_put_self ..
  · rw [ctxState, fld_setFld_self _ _ (by decide) (by decide)]
    rfl
  · exact hk.finish (by exact hsame.entries)
  · rw [State.finish_ctxExtra]
    refine (SMap.find?_del _ _ (m := (s.dropContext i.val d).ctxExtra) (lo := 0) ?_).trans (if_pos rfl)
    rwa [hsame.ctxExtra]
  · rw [State.finish_mem]
    exact hpools.mem

end Release

/-! ## Prefixes -/

section Published
variable {s : State} {k p : Nat} {w : W512} {i : Nat} {d : W512} {x : Prefix}

theorem State.publishOp_standing (h : s.refCheck p (wordA w) = .ok (i, d))
    (hx : SMap.find? (fld w 447 384) (s.part p).handles = some x) : s.publishOp k p w = s.finish k stOk (BitVec.ofNat 64 x.len) := by
  simp [State.publishOp, h, wordB_toNat, hx]

/-- PUBLISH of whole pages shares them, counts them and registers them under the handle (R178, R179). -/
theorem State.publishOp_registers (h : s.refCheck p (wordA w) = .ok (i, d)) {len : Nat} (hlen : min (fld w 383 320) (ctxLen d) = len)
    (hnone : SMap.find? (fld w 447 384) (s.part p).handles = none) (hh : fld w 447 384 ≠ 0) (hpos : len ≠ 0) (hwhole : len % 256 = 0)
    (hroom : (s.part p).handles.length < 65536) (hquota : s.usedH p + 8 * ((ctxHeads d).length * (len / 256)) ≤ s.quotaH p) :
    ∃ t x, s.SameCtxs t ∧ x.len = len ∧ x.snaps = [] ∧ s.publishOp k p w =
      ((t.modPart p fun y => { y with handles := SMap.put (fld w 447 384) x y.handles }).count .handlePublishes p).finish k stOk
        (BitVec.ofNat 64 len) := by
  have hhandle : wordB w ≠ 0 := fun h0 => hh (by rw [← wordB_toNat, h0]; rfl)
  unfold State.publishOp
  simp only [h, wordB_toNat, hnone, wordC_toNat, hlen, hpos, hhandle, hwhole, or_self, if_false]
  rw [if_neg]
  · exact ⟨_, _, .foldl (fun s e => (s.setPageEntry_sameCtxs ..).trans (State.holdPage_poolsOnly ..).sameCtxs) _ s, rfl, rfl, rfl⟩
  · simpa using ⟨hroom, hquota⟩

theorem State.mapOp_miss (h : s.refCheck p (wordA w) = .ok (i, d)) (hnone : SMap.find? (fld w 447 384) (s.part p).handles = none) :
    s.mapOp k p w = (s.count .handleMisses p).finish k stOk 0 := by
  simp [State.mapOp, h, wordB_toNat, hnone]

/-- MAP of published whole pages that fit enters them in the table, counts them, and sets LEN and the handle (R179). -/
theorem State.mapOp_maps (h : s.refCheck p (wordA w) = .ok (i, d)) (hx : SMap.find? (fld w 447 384) (s.part p).handles = some x)
    (hfits : x.fits d = true) (hsnaps : x.snaps = []) : ∃ t, s.SameCtxs t ∧ s.mapOp k p w =
      ((t.setCtx i (setFld (setFld d 383 352 x.len) 511 448 (fld w 447 384))).count .handleMaps p).finish k stOk
        (BitVec.ofNat 64 x.len) := by
  simp only [State.mapOp, h, wordB_toNat, hx, hfits, hsnaps]
  refine ⟨_, .foldl (fun s e => .foldl (fun s j => ?_) _ s) _ s, rfl⟩
  refine .trans ?_ ((State.setPageEntry_sameCtxs ..).trans (State.holdPage_poolsOnly ..).sameCtxs)
  split
  · exact (State.dropPage_poolsOnly ..).sameCtxs
  · exact .refl _

theorem mapped_fields {len h : Nat} (hlen : len < 2 ^ 32) (hh : h < 2 ^ 64) : let d' := setFld (setFld d 383 352 len) 511 448 h
    ctxLen d' = len ∧ fld d' 511 448 = h ∧ ctxState d' = ctxState d ∧ ctxGen d' = ctxGen d := by
  refine ⟨?_, ?_, ?_, ?_⟩
  · rw [ctxLen, fld_setFld_below _ _ (by decide) (by decide) (by decide), fld_setFld_self _ _ (by decide) (by decide)]
    exact Nat.mod_eq_of_lt hlen
  · rw [fld_setFld_self _ _ (by decide) (by decide)]
    exact Nat.mod_eq_of_lt hh
  · rw [ctxState, fld_setFld_below _ _ (by decide) (by decide) (by decide), fld_setFld_below _ _ (by decide) (by decide) (by decide), ctxState]
  · rw [ctxGen, fld_setFld_below _ _ (by decide) (by decide) (by decide), fld_setFld_below _ _ (by decide) (by decide) (by decide), ctxGen]

/-- UNPUBLISH drops the pages of a handle and removes it (R179). -/
theorem State.unpublishOp_removes (hk : s.Pending k) (hsorted : SMap.sorted (s.part p).handles = true) :
    Done (s.unpublishOp k p w) k 0 0 ∧ SMap.find? (fld w 511 448) ((s.unpublishOp k p w).part p).handles = none ∧
      (s.unpublishOp k p w).ctxs = s.ctxs ∧ (s.unpublishOp k p w).mem = s.mem := by
  cases h : SMap.find? (fld w 511 448) (s.part p).handles with
  | none =>
    have heq : s.unpublishOp k p w = s.finish k stOk := by simp [State.unpublishOp, wordA_toNat, h]
    rw [heq]
    exact ⟨hk.finish rfl, by rwa [State.finish_part], s.finish_ctxs stOk 0, s.finish_mem stOk 0⟩
  | some x =>
    obtain ⟨t, ht, heq⟩ : ∃ t, s.PoolsOnly t ∧ s.unpublishOp k p w =
        (t.modPart p fun y => { y with handles := SMap.del (fld w 511 448) y.handles }).finish k stOk :=
      ⟨_, .foldl (fun s (e : Nat × Nat) => s.dropPage_poolsOnly p x.pool e.2) (x.pages ++ x.snaps) s, by
        simp [State.unpublishOp, wordA_toNat, h]⟩
    rw [heq]
    have hsorted' : SMap.sorted (t.part p).handles = true := by
      obtain ⟨_, -, hhandles⟩ := ht
      rwa [hhandles p]
    refine ⟨?_, ?_, ?_, ?_⟩
    · exact hk.finish (by exact ht.sameCtxs.entries)
    · rw [State.finish_part, State.part_modPart]
      exact (SMap.find?_del _ _ hsorted').trans (if_pos rfl)
    · rw [State.finish_ctxs, State.modPart_ctxs, ht.sameCtxs.ctxs]
    · rw [State.finish_mem, State.modPart_mem, ht.mem]

end Published

/-! ## The append of a row -/

/-- s' is s after events of a layer: partitions, the CAN FD node, counters and functions' pages differ, and the outbox has grown. -/
def State.LayerCounted (s s' : State) : Prop := ∃ parts can counters hostFns out, s' =
  { s with parts := parts, can := can, counters := counters, hostFns := hostFns, outbox := s.outbox ++ out }

section LayerCounted
variable {s t u : State}

theorem State.LayerCounted.trans (h : s.LayerCounted t) (h' : t.LayerCounted u) : s.LayerCounted u := by
  obtain ⟨_, _, _, _, o, rfl⟩ := h
  obtain ⟨_, _, _, _, o', rfl⟩ := h'
  exact ⟨_, _, _, _, o ++ o', by rw [List.append_assoc]⟩

theorem State.Reported.layerCounted (h : s.Reported t) : s.LayerCounted t := by
  obtain ⟨_, _, _, _, rfl⟩ := h
  exact ⟨_, _, _, _, _, rfl⟩

theorem State.count_layerCounted (s : State) (c : CtrName) (i n : Nat) : s.LayerCounted (s.count c i n) :=
  State.Reported.layerCounted (.of_eq rfl)

theorem State.modPart_layerCounted (s : State) (p : Nat) (f : Part → Part) : s.LayerCounted (s.modPart p f) :=
  ⟨_, s.can, s.counters, s.hostFns, [], by rw [List.append_nil]; rfl⟩

theorem State.nwEvents_layerCounted (p l reason : Nat) : ∀ (n : Nat) (s : State), s.LayerCounted (s.nwEvents p l reason n)
  | 0, _ => (State.Reported.refl _).layerCounted
  | n + 1, s => ((s.modPart_layerCounted ..).trans ((State.count_layerCounted ..).trans (State.emcy_reported ..).layerCounted)).trans
      (nwEvents_layerCounted p l reason n (s.nwEvent p l reason))

theorem State.layerCounts_layerCounted (s : State) (p l : Nat) (c : EncCounts) : s.LayerCounted (s.layerCounts p l c) := by
  unfold State.layerCounts
  split
  · exact (State.Reported.refl s).layerCounted
  · exact (s.modPart_layerCounted ..).trans (State.nwEvents_layerCounted ..)

theorem State.LayerCounted.sameCtxs (h : s.LayerCounted t) : s.SameCtxs t := by
  obtain ⟨_, _, _, _, _, rfl⟩ := h
  exact ⟨rfl, rfl, rfl, rfl, id⟩

theorem State.LayerCounted.mem (h : s.LayerCounted t) : t.mem = s.mem := by
  obtain ⟨_, _, _, _, _, rfl⟩ := h
  rfl

end LayerCounted

section Append
variable {s : State} {p i : Nat} {d : W512} {again : Bool} {l g pos : Nat} {keys vals : List W32}

/-- A reference that passes its checks names a descriptor (R175). -/
theorem State.ctx_of_refCheck {r : W64} (h : s.refCheck p r = .ok (i, d)) : SMap.find? i s.ctxs = some d := by
  unfold State.refCheck at h
  dsimp only at h
  split at h
  · cases h
  · split at h <;> cases h
  · split at h
    · cases h
    · split at h
      · cases h
      next hd =>
        split at h
        · cases h
        · cases h
          exact hd

theorem State.appendRow_past (hd : SMap.find? i s.ctxs = some d) (hpos : ctxPages d * 256 ≤ pos) :
    s.appendRow again p i l g pos keys vals = (s, stQuota) := by
  simp only [State.appendRow, hd, if_pos hpos]

theorem State.pageRow_of_not_train (s : State) (again : Bool) (base nb P r : Nat) (row : PageRow) :
    s.pageRow again base nb P r false row = s.halfRow again base nb P r row := rfl

/-- A row within an open page, or written again: the rows of the page's tiles, last the codes of the value blocks, and the counters
(R169). -/
theorem State.appendRow_open (hd : SMap.find? i s.ctxs = some d) (hpos : pos < ctxPages d * 256)
    (hopen : again = false → pos % 256 ≠ 0 ∧ pos % 256 ≠ 255) (htrain : ctxTrain d = false) {base P : Nat}
    (hbase : entryPage (s.pageEntry d l g (pos / 256)) = base) (hP : s.pagePrec p (ctxPool d) base = P) : ∃ t u, s.SameCtxs t ∧
      (t.homeWrite (base + pos % 256 * ctxBlocks d)
        ((encodeBlocks (.int P 0) (recStatic (s.layerRec p l)) vals).1.map fun b => BitVec.ofNat 8 b.code)).LayerCounted u ∧
      s.appendRow again p i l g pos keys vals = (u, stOk) := by
  have hfirst : ¬(pos % 256 = 0 ∧ (!again) = true) := fun h => (hopen (by simpa using h.2)).1 h.1
  have hseal : ¬(pos % 256 = 255 ∧ (!again) = true) := fun h => (hopen (by simpa using h.2)).2 h.1
  rcases hkeys : encodeBlocks (.int P 0) (recStatic (s.layerRec p l)) keys with ⟨kb, c1⟩
  rcases hvals : encodeBlocks (.int P 0) (recStatic (s.layerRec p l)) vals with ⟨vb, c2⟩
  obtain ⟨⟨t, n⟩, ht, hrow⟩ := s.halfRow_eq again base (ctxBlocks d) P (pos % 256) { k := kb, v := vb }
  refine ⟨t, _, ht, ((State.count_layerCounted _ .vtileRewrites p n).trans (State.count_layerCounted _ .kvAppends p
    (if again then 0 else 1))).trans (State.layerCounts_layerCounted _ p l (c1.add c2)), ?_⟩
  simp only [State.appendRow, hd, if_neg (Nat.not_le.2 hpos), if_neg hfirst, if_neg hseal, htrain, State.pageRow_of_not_train, hbase, hP,
    hkeys, hvals, hrow]

end Append

section KvRow
variable {s t : State} {p i a : Nat} {d : W512} {u : KvWrite} {st : Byte}
  (ha : SMap.get 0 (SMap.get {} s.ctxExtra i).appended (groupKey u.layer u.group) = a)
include ha

theorem State.kvRow_gap (h : a < u.row) : s.kvRow p i d u = s := by
  simp [State.kvRow, ha, h, Nat.lt_asymm h]

/-- A row appended before in the step is written again, and nothing counts it (R169). -/
theorem State.kvRow_again (h : u.row < a)
    (happend : s.appendRow true p i u.layer u.group (ctxLen d + u.row) u.keys u.vals = (t, st)) :
    s.kvRow p i d u = t.send (.kvDone u.ref st) := by
  simp [State.kvRow, ha, h, happend]

theorem State.kvRow_refused (h : u.row = a)
    (happend : s.appendRow false p i u.layer u.group (ctxLen d + u.row) u.keys u.vals = (t, st)) (hst : st ≠ stOk) :
    s.kvRow p i d u = t.send (.kvDone u.ref st) := by
  rw [h] at happend
  simp [State.kvRow, ha, h, happend, hst]

/-- The next row of the step is counted (R169). -/
theorem State.kvRow_next (h : u.row = a)
    (happend : s.appendRow false p i u.layer u.group (ctxLen d + u.row) u.keys u.vals = (t, stOk)) : ∃ f, s.kvRow p i d u =
      ((t.modExtra i fun x => { x with appended := SMap.put (groupKey u.layer u.group) (a + 1) x.appended }).modPart p f).send
        (.kvDone u.ref stOk) := by
  rw [h] at happend
  exact ⟨_, by simp [State.kvRow, ha, h, happend]; rfl⟩

end KvRow

section KvAppend
variable {s : State} {u : KvWrite} {i a : Nat} {d : W512} (hwork : s.working = true) (hactive : (s.part u.p.val).phase = .active)
include hwork hactive

theorem exec_kvAppend_of_refCheck_error {st : Byte} (h : s.refCheck u.p.val u.ref = .error st) :
    exec (.kvAppend u) s = .next (s.send (.kvDone u.ref st)) := by
  change execKvAppend u s = _
  simp [execKvAppend, hwork, hactive, h]

variable (hok : s.refCheck u.p.val u.ref = .ok (i, d)) (hstate : ctxState d = 1) (hfits : kvFits u d = true) (hnode : u.node = none)
include hok hstate hfits hnode

theorem exec_kvAppend_of_row : exec (.kvAppend u) s = .next (s.kvRow u.p.val i d u) := by
  change execKvAppend u s = _
  simp [execKvAppend, hwork, hactive, hok, hstate, hfits, hnode]

variable (ha : SMap.get 0 (SMap.get {} s.ctxExtra i).appended (groupKey u.layer u.group) = a) (hrow : u.row ≤ a)
include ha hrow

/-- A row past the context's pages is refused for want of room, and writes nothing. -/
theorem exec_kvAppend_past (hpos : ctxPages d * 256 ≤ ctxLen d + u.row) :
    exec (.kvAppend u) s = .next (s.send (.kvDone u.ref stQuota)) := by
  have hd := State.ctx_of_refCheck hok
  rw [exec_kvAppend_of_row hwork hactive hok hstate hfits hnode]
  rcases Nat.lt_or_eq_of_le hrow with hlt | heq
  · rw [State.kvRow_again ha hlt (State.appendRow_past hd hpos)]
  · rw [State.kvRow_refused ha heq (State.appendRow_past hd hpos) (by decide)]

/-- A row of an open page leaves the codes of its value blocks at the page base, and is counted where it is the step's next. -/
theorem exec_kvAppend_open (hpos : ctxLen d + u.row < ctxPages d * 256)
    (hopen : u.row = a → (ctxLen d + u.row) % 256 ≠ 0 ∧ (ctxLen d + u.row) % 256 ≠ 255) (htrain : ctxTrain d = false)
    (hmem : Memory.wf s.mem = true) {base P : Nat}
    (hbase : entryPage (s.pageEntry d u.layer u.group ((ctxLen d + u.row) / 256)) = base) (hP : s.pagePrec u.p.val (ctxPool d) base = P) :
    ∃ s', exec (.kvAppend u) s = .next s' ∧
      SMap.get 0 (SMap.get {} s'.ctxExtra i).appended (groupKey u.layer u.group) = max a (u.row + 1) ∧
      s'.outbox.getLast? = some (.kvDone u.ref 0) ∧ s'.threads = s.threads ∧ s'.ctxs = s.ctxs ∧
      ∀ n b, (encodeBlocks (.int P 0) (recStatic (s.layerRec u.p.val u.layer)) u.vals).1[n]? = some b →
        s'.byte (base + (ctxLen d + u.row) % 256 * ctxBlocks d + n) = BitVec.ofNat 8 b.code := by
  have hd := State.ctx_of_refCheck hok
  rw [exec_kvAppend_of_row hwork hactive hok hstate hfits hnode]
  obtain ⟨t, v, ht, hv, happend⟩ := State.appendRow_open (again := decide (u.row < a)) (p := u.p.val) (l := u.layer) (g := u.group)
    (keys := u.keys) (vals := u.vals) hd hpos (fun h => hopen (Nat.le_antisymm hrow (Nat.not_lt.1 (of_decide_eq_false h)))) htrain hbase hP
  have hsame := ht.trans ((t.homeWrite_sameCtxs _ _).trans hv.sameCtxs)
  have hbyte : ∀ n b, (encodeBlocks (.int P 0) (recStatic (s.layerRec u.p.val u.layer)) u.vals).1[n]? = some b →
      v.byte (base + (ctxLen d + u.row) % 256 * ctxBlocks d + n) = BitVec.ofNat 8 b.code := by
    intro n b hb
    obtain ⟨hn, rfl⟩ := List.getElem?_eq_some_iff.1 hb
    rw [State.byte, hv.mem]
    refine (State.byte_homeWrite (ht.wf hmem) _ _ _).trans ?_
    rw [if_pos (by rw [List.length_map]; omega), Nat.add_sub_cancel_left]
    simp [hn]
  rcases Nat.lt_or_eq_of_le hrow with hlt | heq
  · rw [decide_eq_true hlt] at happend
    rw [State.kvRow_again ha hlt happend]
    refine ⟨_, rfl, ?_, by simp [State.send]; rfl, hsame.threads, hsame.ctxs, hbyte⟩
    rw [State.send_ctxExtra, hsame.ctxExtra, ha]
    omega
  · rw [decide_eq_false (by omega)] at happend
    obtain ⟨f, hf⟩ := State.kvRow_next ha heq happend
    rw [hf]
    refine ⟨_, rfl, ?_, by simp [State.send]; rfl, hsame.threads, hsame.ctxs, hbyte⟩
    rw [State.send_ctxExtra, State.modPart_ctxExtra, State.modExtra, SMap.get_put_self, SMap.get_put_self]
    omega

end KvAppend

/-! ## The entries of context operations -/

section Entry
variable {s s1 : State} {q : QRef} {e w : W512} {k : Nat}

/-- An entry that is taken runs its operation. -/
theorem exec_of_takes (h : Takes s q e s1 k w) {f : Instr} {code : Nat} {op : State → Nat → Nat → W512 → State}
    (hf : exec f s = s.withEntry q e (isCtxOp code) op) (hcode : fld w 7 0 = 0x40 + code) : exec f s = .next (op s1 k (qPart q) w) := by
  rw [hf]
  exact State.withEntry_of_takes h (by rw [hcode, isCtxOp, beq_self_eq_true]) op

/-- An operation that only completes its entry leaves contexts, memory and partitions as they were. -/
theorem exec_of_takes_finish (h : Takes s q e s1 k w) {f : Instr} {code : Nat} {op : State → Nat → Nat → W512 → State} {st : Byte} {v : W64}
    (hf : exec f s = s.withEntry q e (isCtxOp code) op) (hcode : fld w 7 0 = 0x40 + code)
    (hop : ∀ queues n entries, op (s.withEntries queues n entries) k (qPart q) w = (s.withEntries queues n entries).finish k st v) :
    ∃ s', exec f s = .next s' ∧ Done s' k st v ∧ s'.ctxs = s.ctxs ∧ s'.mem = s.mem ∧ s'.parts = s.parts := by
  have hexec := exec_of_takes h hf hcode
  obtain ⟨hk, queues, n, entries, rfl⟩ := h.accepted
  rw [hop] at hexec
  exact ⟨_, hexec, hk.finish rfl, State.finish_ctxs st v, State.finish_mem st v, State.finish_parts st v⟩

theorem exec_pool_sets (h : Takes s q e s1 k w) (hcode : fld w 7 0 = 0x41)
    (hfree : ∀ x, s.pool? (qPart q) (fld w 511 448) = some x → x.counts = []) (hbase : fld w 447 384 < 2 ^ 52)
    (hin : s.inAllocs (qPart q) (fld w 447 384) (fld w 383 320) = true) : ∃ s', exec (.pool q e) s = .next s' ∧ Done s' k 0 0 ∧
      s'.mem = s.mem ∧ s'.pool? (qPart q) (fld w 511 448) = some (newPool w) := by
  have hexec := exec_of_takes h (f := .pool q e) rfl hcode
  obtain ⟨hk, queues, n, entries, rfl⟩ := h.accepted
  rw [State.poolOp_of_inAllocs (s := s.withEntries queues n entries) hfree hbase hin] at hexec
  refine ⟨_, hexec, ?_, State.finish_mem stOk 0, ?_⟩
  · exact hk.finish (by rfl)
  · rw [State.pool?, State.finish_part, State.setPool, State.part_modPart]
    exact SMap.find?_put_self ..

theorem exec_ctxAlloc_takes (h : Takes s q e s1 k w) (hcode : fld w 7 0 = 0x42) {img : W512} (ha : fld w 511 448 < 2 ^ 52)
    (hperm : s.permits (qPart q) (fld w 511 448) 64 = true) (hpoison : s.poisoned (fld w 511 448) 64 = false)
    (himg : s.word512 (fld w 511 448) = img) (htab : (ctxTableExt img).1 < 2 ^ 52)
    (hin : s.inAllocs (qPart q) (ctxTableExt img).1 (ctxTableExt img).2 = true) (hmem : Memory.wf s.mem = true) {i : Nat}
    (hfree : SMap.lowestFree 2097152 (SMap.keep (fun _ d => ctxState d != 0) s.ctxs) = some i)
    (hpool : ctxTrain img = true → ∀ x, s.pool? (qPart q) (ctxPool img) = some x → x.train = true)
    (hquota : s.usedH (qPart q) + 64 ≤ s.quotaH (qPart q)) : ∃ s', exec (.ctxAlloc q e) s = .next s' ∧
      Done s' k 0 (s.ctxRef i (s.newCtx (qPart q) i img)) ∧ s'.ctxs = SMap.put i (s.newCtx (qPart q) i img) s.ctxs ∧
      ∀ m, s'.byte m = if (ctxTableExt img).1 ≤ m ∧ m < (ctxTableExt img).1 + (ctxTableExt img).2 then 0 else s.byte m := by
  have hexec := exec_of_takes h (f := .ctxAlloc q e) rfl hcode
  obtain ⟨hk, queues, n, entries, rfl⟩ := h.accepted
  rw [State.ctxAllocOp_takes (s := s.withEntries queues n entries) ha hperm hpoison himg htab hin hfree hpool hquota] at hexec
  have hsame := (s.withEntries queues n entries).clearMem_sameCtxs (ctxTableExt img).1 (ctxTableExt img).2
  refine ⟨_, hexec, ?_, ?_, fun m => ?_⟩
  · exact hk.finish (by exact hsame.entries)
  · rw [State.finish_ctxs]
    exact congrArg (SMap.put i _) hsame.ctxs
  · rw [State.byte, State.finish_mem]
    exact State.byte_clearMem (s := s.withEntries queues n entries) _ _ hmem m

theorem exec_ctxRelease_waits (h : Takes s q e s1 k w) (hcode : fld w 7 0 = 0x43) {i : Nat} {d : W512}
    (hok : s.refCheck (qPart q) (wordA w) = .ok (i, d)) : ∃ s' x, exec (.ctxRelease q e) s = .next s' ∧
      SMap.find? i s'.ctxExtra = some x ∧ x.releasing = some k ∧ s'.ctxs = s.ctxs ∧ s'.mem = s.mem := by
  have hexec := exec_of_takes h (f := .ctxRelease q e) rfl hcode
  obtain ⟨-, queues, n, entries, rfl⟩ := h.accepted
  obtain ⟨x, hx, hrel, hctxs, hmem⟩ := State.ctxReleaseOp_waits (s := s.withEntries queues n entries) (k := k) hok
  exact ⟨_, x, hexec, hx, hrel, hctxs, hmem⟩

theorem exec_ctxQuery_writes (h : Takes s q e s1 k w) (hcode : fld w 7 0 = 0x47) {i : Nat} {d : W512}
    (hok : s.refCheck (qPart q) (wordA w) = .ok (i, d)) (hmem : Memory.wf s.mem = true) (ha : fld w 447 384 < 2 ^ 52)
    (hmay : s.mayStore (qPart q) (fld w 447 384) 64 = true) : ∃ s', exec (.ctxQuery q e) s = .next s' ∧ Done s' k 0 0 ∧
      (∀ j, j < 64 → s'.byte (fld w 447 384 + j) = BitVec.ofNat 8 (d.toNat / 256 ^ j)) ∧
      ∀ m, m < fld w 447 384 ∨ fld w 447 384 + 64 ≤ m → s'.byte m = s.byte m := by
  have hexec := exec_of_takes h (f := .ctxQuery q e) rfl hcode
  obtain ⟨hk, queues, n, entries, rfl⟩ := h.accepted
  rw [State.ctxQueryOp_writes (s := s.withEntries queues n entries) hok ha hmay] at hexec
  refine ⟨_, hexec, hk.finish (State.homeWrite_sameCtxs ..).entries, fun j hj => ?_, fun m hm => ?_⟩ <;>
    rw [State.byte, State.finish_mem] <;>
    refine (State.byte_homeWrite (s := s.withEntries queues n entries) hmem _ _ _).trans ?_ <;> rw [bytesLE_length]
  · rw [if_pos (by omega), Nat.add_sub_cancel_left, bytesLE_getD _ _ hj, Nat.shiftRight_eq_div_pow, Nat.pow_mul]
  · rw [if_neg (by omega)]
    rfl

theorem exec_publish_registers (h : Takes s q e s1 k w) (hcode : fld w 7 0 = 0x44) {i : Nat} {d : W512}
    (hok : s.refCheck (qPart q) (wordA w) = .ok (i, d)) {len : Nat} (hlen : min (fld w 383 320) (ctxLen d) = len)
    (hnone : SMap.find? (fld w 447 384) (s.part (qPart q)).handles = none) (hh : fld w 447 384 ≠ 0) (hpos : len ≠ 0)
    (hwhole : len % 256 = 0) (hroom : (s.part (qPart q)).handles.length < 65536)
    (hquota : s.usedH (qPart q) + 8 * ((ctxHeads d).length * (len / 256)) ≤ s.quotaH (qPart q)) : ∃ s' x,
      exec (.publish q e) s = .next s' ∧ Done s' k 0 (BitVec.ofNat 64 len) ∧
      SMap.find? (fld w 447 384) (s'.part (qPart q)).handles = some x ∧ x.len = len ∧ x.snaps = [] ∧ s'.ctxs = s.ctxs := by
  have hexec := exec_of_takes h (f := .publish q e) rfl hcode
  obtain ⟨hk, queues, n, entries, rfl⟩ := h.accepted
  obtain ⟨t, x, ht, hx, hsnaps, hop⟩ :=
    State.publishOp_registers (s := s.withEntries queues n entries) (k := k) hok hlen hnone hh hpos hwhole hroom hquota
  rw [hop] at hexec
  refine ⟨_, x, hexec, ?_, ?_, hx, hsnaps, ?_⟩
  · exact hk.finish (by exact ht.entries)
  · rw [State.finish_part, State.count_part, State.part_modPart]
    exact SMap.find?_put_self ..
  · rw [State.finish_ctxs]
    exact ht.ctxs

theorem exec_map_misses (h : Takes s q e s1 k w) (hcode : fld w 7 0 = 0x45) {i : Nat} {d : W512}
    (hok : s.refCheck (qPart q) (wordA w) = .ok (i, d)) (hnone : SMap.find? (fld w 447 384) (s.part (qPart q)).handles = none) : ∃ s',
      exec (.map q e) s = .next s' ∧ Done s' k 0 0 ∧ s'.ctxs = s.ctxs ∧ s'.mem = s.mem ∧
      (SMap.sorted s.counters = true → s'.ctr .handleMisses (qPart q) = s.ctr .handleMisses (qPart q) + 1) := by
  have hexec := exec_of_takes h (f := .map q e) rfl hcode
  obtain ⟨hk, queues, n, entries, rfl⟩ := h.accepted
  rw [State.mapOp_miss (s := s.withEntries queues n entries) hok hnone] at hexec
  refine ⟨_, hexec, ?_, State.finish_ctxs stOk 0, State.finish_mem stOk 0, fun hsorted => ?_⟩
  · exact hk.finish (by rfl)
  · rw [State.ctr, State.finish_counters]
    exact (State.ctr_count hsorted ..).trans (if_pos rfl)

theorem exec_map_maps (h : Takes s q e s1 k w) (hcode : fld w 7 0 = 0x45) {i : Nat} {d : W512}
    (hok : s.refCheck (qPart q) (wordA w) = .ok (i, d)) {x : Prefix}
    (hx : SMap.find? (fld w 447 384) (s.part (qPart q)).handles = some x) (hfits : x.fits d = true) (hsnaps : x.snaps = []) : ∃ s',
      exec (.map q e) s = .next s' ∧ Done s' k 0 (BitVec.ofNat 64 x.len) ∧
      SMap.find? i s'.ctxs = some (setFld (setFld d 383 352 x.len) 511 448 (fld w 447 384)) := by
  have hexec := exec_of_takes h (f := .map q e) rfl hcode
  obtain ⟨hk, queues, n, entries, rfl⟩ := h.accepted
  obtain ⟨t, ht, hop⟩ := State.mapOp_maps (s := s.withEntries queues n entries) (k := k) hok hx hfits hsnaps
  rw [hop] at hexec
  refine ⟨_, hexec, ?_, ?_⟩
  · exact hk.finish (by exact ht.entries)
  · rw [State.finish_ctxs]
    exact SMap.find?_put_self ..

theorem exec_unpublish_removes (h : Takes s q e s1 k w) (hcode : fld w 7 0 = 0x46)
    (hsorted : SMap.sorted (s.part (qPart q)).handles = true) : ∃ s', exec (.unpublish q e) s = .next s' ∧ Done s' k 0 0 ∧
      SMap.find? (fld w 511 448) (s'.part (qPart q)).handles = none ∧ s'.ctxs = s.ctxs ∧ s'.mem = s.mem := by
  have hexec := exec_of_takes h (f := .unpublish q e) rfl hcode
  obtain ⟨hk, queues, n, entries, rfl⟩ := h.accepted
  exact ⟨_, hexec, State.unpublishOp_removes hk hsorted⟩

/-- A reference that fails its checks gives the check's status, whatever the operation (R175). -/
theorem exec_of_refCheck_error (h : Takes s q e s1 k w) {st : Byte} (herr : s.refCheck (qPart q) (wordA w) = .error st) :
    ∀ f ∈ [(Instr.ctxRelease q e, 0x43), (.publish q e, 0x44), (.map q e, 0x45), (.ctxQuery q e, 0x47)], fld w 7 0 = f.2 →
      ∃ s', exec f.1 s = .next s' ∧ Done s' k st 0 ∧ s'.ctxs = s.ctxs ∧ s'.mem = s.mem ∧ s'.parts = s.parts := by
  have hops (queues n entries) : ∀ op ∈ [State.ctxReleaseOp, .publishOp, .mapOp, .ctxQueryOp],
      op (s.withEntries queues n entries) k (qPart q) w = (s.withEntries queues n entries).finish k st :=
    State.ops_of_refCheck_error (s := s.withEntries queues n entries) herr
  simp only [List.forall_mem_cons, List.not_mem_nil, false_implies, implies_true, and_true] at hops ⊢
  exact ⟨fun hcode => exec_of_takes_finish h rfl hcode fun a b c => (hops a b c).1,
    fun hcode => exec_of_takes_finish h rfl hcode fun a b c => (hops a b c).2.1,
    fun hcode => exec_of_takes_finish h rfl hcode fun a b c => (hops a b c).2.2.1,
    fun hcode => exec_of_takes_finish h rfl hcode fun a b c => (hops a b c).2.2.2⟩

end Entry

/-- Settles O41: each context operation by the state it leaves once its entry is taken, the end of a release by the pages it drops, and an
append by the row it writes last. The page table cleared by CTX_ALLOC, the status of an append in the outbox, the gap row that is not
written and the row written again at its place are the model's choices (log 47). -/
theorem contexts : Obligations.Contexts := by
  refine ⟨⟨fun s s1 q e w k h => ⟨?pool, ?poolDenied, ?alloc, fun st herr => exec_of_refCheck_error h herr, ?named⟩, ?released⟩,
    fun s s1 q e w k h => ⟨fun i d hok => ⟨?publish, ?map⟩, fun hcode hsorted => exec_unpublish_removes h hcode hsorted⟩, ?append⟩
  case pool =>
    intro hcode hfree hbase hin
    obtain ⟨s', hexec, hdone, hmem, hpool⟩ := exec_pool_sets h hcode hfree hbase hin
    exact ⟨s', newPool w, hexec, hdone, hmem, hpool, newPool_fields w⟩
  case poolDenied =>
    intro hcode hin
    obtain ⟨s', hexec, hdone, -, -, hparts⟩ := exec_of_takes_finish h (f := .pool q e) rfl hcode fun a b c =>
      State.poolOp_denied (s := s.withEntries a b c) hin
    exact ⟨s', hexec, hdone, hparts⟩
  case alloc =>
    refine fun hcode ha hperm hpoison htab hin hmem hp => ⟨fun i hfree hpool hquota => ?_, fun hfull => ?_⟩
    · obtain ⟨s', hexec, hdone, hctxs, hbytes⟩ := exec_ctxAlloc_takes h hcode ha hperm hpoison rfl htab hin hmem hfree hpool hquota
      exact ⟨s', _, hexec, hdone, by rw [hctxs, SMap.find?_put_self], ctxState_freshCtx .., ctxPart_freshCtx _ _ _ _ hp, ctxLen_freshCtx ..,
        ctxGen_freshCtx .., ctxTableExt_freshCtx .., ctxPool_freshCtx .., fun j hj => by rw [hctxs, SMap.find?_put_ne hj],
        fun m hlo hhi => (hbytes m).trans (if_pos ⟨hlo, hhi⟩), fun m hm => (hbytes m).trans (if_neg (by omega))⟩
    · obtain ⟨s', hexec, hdone, hctxs, hmem, -⟩ := exec_of_takes_finish h (f := .ctxAlloc q e) rfl hcode fun a b c =>
        State.ctxAllocOp_quota (s := s.withEntries a b c) ha hperm hpoison rfl htab hin hfull
      exact ⟨s', hexec, hdone, hctxs, hmem⟩
  case named =>
    refine fun i d hok => ⟨fun hcode => exec_ctxRelease_waits h hcode hok, fun hcode hmem =>
      ⟨fun ha hmay => exec_ctxQuery_writes h hcode hok hmem ha hmay, fun hmay => ?_⟩⟩
    obtain ⟨s', hexec, hdone, -, hmem, -⟩ := exec_of_takes_finish h (f := .ctxQuery q e) rfl hcode fun a b c =>
      State.ctxQueryOp_denied (s := s.withEntries a b c) hok hmay
    exact ⟨s', hexec, hdone, hmem⟩
  case released =>
    exact fun s i k d e hrel hd => ⟨fun hnamed => exec_ctxReleaseComplete_of_named hrel hd hnamed, fun hfree he hopen hsorted =>
      exec_ctxReleaseComplete_frees hrel hd hfree ⟨e, he, hopen⟩ hsorted⟩
  case publish =>
    refine fun hcode => ⟨fun x hx => ?_, fun hnone hh hpos hwhole hroom hquota =>
      exec_publish_registers h hcode hok rfl hnone hh hpos hwhole hroom hquota⟩
    obtain ⟨s', hexec, hdone, -, hmem, hparts⟩ := exec_of_takes_finish h (f := .publish q e) rfl hcode fun a b c =>
      State.publishOp_standing (s := s.withEntries a b c) hok hx
    exact ⟨s', hexec, hdone, hparts, hmem⟩
  case map =>
    refine fun hcode => ⟨fun hnone => exec_map_misses h hcode hok hnone, fun x hx hfits hsnaps hlen => ?_⟩
    obtain ⟨s', hexec, hdone, hctx⟩ := exec_map_maps h hcode hok hx hfits hsnaps
    exact ⟨s', _, hexec, hdone, hctx, mapped_fields hlen (fld_lt w 447 384)⟩
  case append =>
    refine fun s u hwork hactive => ⟨fun st herr => exec_kvAppend_of_refCheck_error hwork hactive herr, fun i d hok hstate hfits hnode =>
      ⟨fun hgap => ?_, fun hrow hpos => exec_kvAppend_past hwork hactive hok hstate hfits hnode rfl hrow hpos,
      fun hrow hpos hopen htrain hmem => exec_kvAppend_open hwork hactive hok hstate hfits hnode rfl hrow hpos hopen htrain hmem rfl rfl⟩⟩
    rw [exec_kvAppend_of_row hwork hactive hok hstate hfits hnode, State.kvRow_gap rfl hgap]

end Sys2Proof.Machine

/-! Casting calls and their segments (O42, O43): what the receiver makes of a COLL request, and a call of one rank that writes lines of
which a die of another package holds copies (R206, R260, R263, R267). -/

namespace Sys2Proof.Machine

open Sys2Proof

/-! ## Segments that arrive -/

/-- A fresh COLL request of a partition's job is answered with DENIED, whatever the partition would make of it: the model takes every OP
from 0x0A on for a control message, COLL (0x10) among them, and those come with JOB_ID 0 only (R260). -/
theorem State.arrive_coll_of_fresh {s : State} {r : FabReq} (h : Fresh s r) (hjob : r.jobId ≠ 0) :
    (s.arrive 0x10 r).outbox = s.outbox ++ [.response r.src r.seq 0x10 stDenied []] := by
  obtain ⟨s1, hs1, harr⟩ := State.arrive_of_fresh h 0x10
  obtain ⟨hwait, hcoord⟩ := hs1.performs h (s.contextNoted 0x10 r)
  have hcontrol : s1.controlReq 0x10 (s.contextNoted 0x10 r) = (s1, stDenied) := if_pos (.inl hjob)
  have htake : s1.takeReq 0x10 (s.contextNoted 0x10 r) true = s1.respond 0x10 (s.contextNoted 0x10 r) stDenied [] := by
    refine State.takeReq_of_performed ?_ true
    unfold State.performReq
    simp only [hwait, hcontrol]
    simp [hcoord, State.contextNoted, knownOp, State.answer_of_not_atom, isAtomOp]
  obtain ⟨_, _, hs', hearly⟩ := s1.respond_eq 0x10 (s.contextNoted 0x10 r) stDenied []
  rw [(harr (by rw [htake]; exact hearly.trans hs1.early)).trans htake, hs']
  obtain ⟨_, rfl⟩ := hs1.eq
  rfl

/-- Each of the eight segments arrives as a COLL request (R206). -/
theorem exec_segTable {f : FabReq → Segment → Instr} (hf : f ∈ segTable) (r : FabReq) (g : Segment) (s : State) :
    exec (f r g) s = .next (s.arrive 0x10 { r with seg := .cast g }) := by
  simp only [segTable, List.mem_cons, List.not_mem_nil, or_false] at hf
  rcases hf with rfl | rfl | rfl | rfl | rfl | rfl | rfl | rfl <;> rfl

/-- A package at coordinate 0 with port 0 UP, whose partition 0 is ACTIVE, with a fabric context of job 1 over X 0 to 3 and no call. -/
def segHome : State :=
  ({ house := { deviceState := 1, started := true, running := true }, parts := [(0, { phase := .active })]
     fab := { coord := some 0, ports := [(0, { phase := .up })] } } : State).setCfg 0x2410 1 0 (bytesLE 64 (2 ^ 368 + 3 * 2 ^ 360))

/-- The first OC1 request of job 1 from the neighbour in X. -/
def segRequest : FabReq := { port := 0, dst := 0, src := 0x100, jobId := 1, cls := 1, seq := 0x80000001 }

/-- COUNTS of step 0, layer 0, rank 0. -/
def countsOfRank0 : Segment := { hdr := BitVec.ofNat 512 (4 * 2 ^ 243) }

theorem segHome_fresh : SegFresh segHome segRequest := by decide +kernel

/-- The request passes the receiver's checks, no such segment has come before, and there is no call. -/
theorem segHome_holds : segHome.contextCheck 0x10 segRequest = some 0 ∧ (segHome.part 0).phase = .active ∧
    (segHome.part 0).heardSegs = [] ∧ (segHome.part 0).call = none ∧ fld countsOfRank0.hdr 245 243 = 4 := by decide +kernel

/-- Refutes O42: no segment of a casting call arrives in this model, since a COLL request is taken for a control message and answered with
DENIED (`State.arrive_coll_of_fresh`). In `segHome` a COUNTS segment of a call that has not started is to be held unanswered. -/
theorem not_segmentsArrive : ¬ Obligations.SegmentsArrive := by
  unfold Obligations.SegmentsArrive
  intro h
  have hmem : Instr.countsSegment ∈ segTable := by simp [segTable]
  obtain ⟨hcheck, hactive, hheard, hcall, hphase⟩ := segHome_holds
  obtain ⟨-, hfresh⟩ := h _ hmem segHome segRequest countsOfRank0
  obtain ⟨-, hpart⟩ := hfresh segHome_fresh
  obtain ⟨-, -, hheld, -⟩ := hpart 0 hcheck
  obtain ⟨s', hexec, hout, -⟩ := hheld hactive (by simp [hheard]) (by simp [hphase, hcall])
  rw [exec_segTable hmem] at hexec
  obtain rfl := Host.Outcome.next.inj hexec
  have hdenied := State.arrive_coll_of_fresh (s := segHome) (r := { segRequest with seg := .cast countsOfRank0 })
    segHome_fresh.1 segHome_fresh.2.1
  simp [hdenied] at hout

/-! ## A call of one rank -/

/-- A dispatched casting task whose partition has no call and no earlier one waiting is handed to the casting unit (R198). -/
theorem exec_castingCall_of_first {s : State} {k : Nat} {t : Task} (ht : s.task? k = some t) (hwork : s.working = true)
    (htype : dType t.desc = 0x63) (hrun : t.phase = .running) (hopen : t.handed = false) (hcall : (s.part t.part).call = none)
    (hfirst : ∀ e ∈ s.tasks, e.1 < k → e.2.part = t.part → dType e.2.desc = 0x63 → e.2.phase = .running → e.2.handed = true) :
    exec (.castingCall k) s = .next (s.handCall k t).pumpSends := by
  have hnone : (s.tasks.any fun e => decide (e.1 < k) && e.2.part == t.part && dType e.2.desc == 0x63 && e.2.phase == .running &&
      !e.2.handed) = false := by
    simp only [List.any_eq_false, Bool.and_eq_true, decide_eq_true_eq, beq_iff_eq, Bool.not_eq_true', not_and, Bool.not_eq_false]
    exact fun e he ⟨⟨⟨hlt, hpart⟩, hcast⟩, hphase⟩ => hfirst e he hlt hpart hcast hphase
  change execCastingCall k s = _
  simp [execCastingCall, ht, hwork, htype, hrun, hopen, hcall, hnone]

/-- The digest of zeros is 0. -/
theorem crc64_replicate_zero (n : Nat) : crc64 (List.replicate n 0) = 0 := by
  induction n with
  | zero => rfl
  | succ n ih => exact ih

/-- A map and a bias of zeros have digests 0. -/
theorem State.callCrcs_of_zeros {s : State} {c : CastCall} {n m : Nat}
    (hmap : s.bytes c.map (512 + 16 * c.experts) = List.replicate n 0)
    (hbias : s.bytes (c.bias c.step) (4 * c.experts) = List.replicate m 0) :
    s.callCrcs c = { c with mapCrc := 0, biasCrc := 0, cfgCrc := crc64 (bytesLE 32 c.cfg.toNat) } := by
  simp only [State.callCrcs, hmap, hbias, crc64_replicate_zero]

/-- A call whose fields, extents, ranks and inputs stand begins, with its CRC-64 words (R197, R198). -/
theorem State.handCall_of_stands {s u : State} {k : Nat} {t : Task} {c : CastCall} (hu : s.setTask k { t with handed := true } = u)
    (hc : u.callOf k t = c) (hword : u.inAllocs t.part (dAux t.desc) 64 = true) (hfields : u.callFieldsOk c = true)
    (hbias : u.inAllocs t.part (c.bias 0) (2 * castSstr c.experts) = true) (hexts : (c.reads ++ c.writes).all (u.extOk t.part) = true)
    (hguard : c.writes.any (fun e => u.guarded e.1 e.2) = false)
    (hranks : u.coordsStatus t.part (((List.range c.group).filter (· ≠ c.rank)).map (u.rankCoord c))
      (((List.range c.group).filter (· ≠ c.rank)).map (u.rankCoord c)) = (u, stOk))
    (hreads : u.readExts t.part k ((dAux t.desc, 64) :: c.reads) = none) :
    s.handCall k t = ((u.setTask k { t with handed := true, guards := t.guards ++ (u.callCrcs c).reads }).callBegin t.part
      (u.callCrcs c)).takeHeld t.part (u.callCrcs c) := by
  simp only [State.handCall, hu, hc, hword, hfields, hbias, hexts, hguard, hranks, hreads, Bool.not_true, Bool.or_self,
    Bool.false_eq_true, if_false, ne_eq, not_true_eq_false]

/-- A call word (Table 08-3): scores at 0x104000, map, bias, lists and table behind them, counters at 0x109000; one token of 32 values,
G = 1. -/
def soloWord : W512 := BitVec.ofNat 512 (0x104000 * 2 ^ 448 + 0x105000 * 2 ^ 384 + 0x106000 * 2 ^ 320 + 0x107000 * 2 ^ 256 +
  0x108800 * 2 ^ 192 + 0x109000 * 2 ^ 128 + 2 ^ 45 + 2 ^ 33)

/-- Its dispatched task, with the word at AUX 0x100C00. -/
def soloTask : Task :=
  { part := 0, desc := BitVec.ofNat 512 (0x100C00 * 2 ^ 256 + 0x63), step := 0, home := 0, phase := .running, dispatched := true }

/-- A layer's record of one expert, capacity 1 and expert choice (Table 08-2). -/
def soloCfg : BitVec 256 := BitVec.ofNat 256 (2 ^ 32)

/-- Its package at coordinate 0; its directory says that die 4, of the neighbour in X, holds a copy of the line of the counters. -/
def soloHome : State :=
  ({ house := { deviceState := 1, started := true, running := true }, parts := [(0, { phase := .active })], tasks := [(0, soloTask)]
     allocs := [(0x100000, { size := 0x10000, part := 0 })]
     mem := (bytesLE 64 soloWord.toNat).zipIdx.map fun x => (0x100C00 + x.2, x.1)
     fab := { coord := some 0, directory := [(0x109000 / 64, 2 ^ 4)] } } : State).setCfg 0x270E 1 0 (bytesLE 32 soloCfg.toNat)

/-- The package once the task is handed over. -/
def soloHanded : State := soloHome.setTask 0 { soloTask with handed := true }

/-- Its call, with the CRC-64 words of its headers: the map and the bias read as zeros. -/
def soloCall : CastCall :=
  { task := 0, word := soloWord, cfg := soloCfg, step := 0, mapCrc := 0, biasCrc := 0, cfgCrc := crc64 (bytesLE 32 soloCfg.toNat) }

theorem soloHanded_callCrcs : soloHanded.callCrcs (soloHanded.callOf 0 soloTask) = soloCall := by
  have hcall : soloHanded.callOf 0 soloTask = { soloCall with cfgCrc := 0 } := by decide +kernel
  rw [hcall, State.callCrcs_of_zeros (n := 528) (m := 4) (by decide +kernel) (by decide +kernel)]
  rfl

/-- The call stands, so it begins. -/
theorem soloHome_begins : soloHome.handCall 0 soloTask = ((soloHanded.setTask 0 { soloTask with
    handed := true, guards := soloTask.guards ++ soloCall.reads }).callBegin 0 soloCall).takeHeld 0 soloCall := by
  have h := State.handCall_of_stands (s := soloHome) (k := 0) (t := soloTask) (u := soloHanded) rfl rfl (by decide +kernel)
    (by decide +kernel) (by decide +kernel) (by decide +kernel) (by decide +kernel) (by decide +kernel) (by decide +kernel)
  rwa [soloHanded_callCrcs] at h

/-- The write of the counters invalidates the copy: a coherence message leaves (R267). -/
theorem soloHome_sends : ((soloHome.handCall 0 soloTask).pumpSends).outbox = [.coherence 4 (0x109000 / 64) false] := by
  rw [soloHome_begins]
  decide +kernel

/-- Refutes O43: a call of one rank is handed over at once, but its outputs are written then, and a line of them of which a die of the
tray holds a copy is invalidated by a coherence message (R267), so what has left the package grows. `soloHome` is such a call. -/
theorem not_castingAndBias : ¬ Obligations.CastingAndBias := by
  unfold Obligations.CastingAndBias
  intro h
  obtain ⟨⟨hcall, -⟩, -⟩ := h
  have htask : soloHome.task? 0 = some soloTask := by decide +kernel
  have hidle : soloHome.working = true ∧ (soloHome.part 0).call = none ∧ (soloHome.part 0).heldSegs = [] ∧ soloHome.outbox = [] := by
    decide +kernel
  obtain ⟨hwork, hnone, hheld, hempty⟩ := hidle
  have hfirst : ∀ e ∈ soloHome.tasks, e.1 < 0 → e.2.part = 0 →
      dType e.2.desc = 0x63 → e.2.phase = .running → e.2.handed = true :=
    fun e _ hlt => absurd hlt (Nat.not_lt_zero _)
  obtain ⟨-, hstands⟩ := hcall soloHome 0 soloTask htask hwork (by decide +kernel) rfl rfl hnone hfirst (by decide +kernel) hheld
  obtain ⟨halone, -⟩ := hstands (by decide +kernel) (by decide +kernel) (by decide +kernel) (by decide +kernel) (by decide +kernel)
    (by decide +kernel) (by decide +kernel) (by decide +kernel) (by decide +kernel)
  obtain ⟨s', t', hexec, -, -, -, hout⟩ := halone (by decide +kernel)
  rw [exec_castingCall_of_first htask hwork (by decide +kernel) rfl rfl hnone hfirst] at hexec
  obtain rfl := Host.Outcome.next.inj hexec
  rw [soloHome_sends, hempty] at hout
  exact List.cons_ne_nil _ _ hout

end Sys2Proof.Machine
/-! The invariant of the model (O4): no command and no idle cycle leaves memory out of order or an ill-formed command in the queue
(R220, R33). Few operations touch memory or the queue at all; a lemma for each operation says that it keeps the invariant, by the lemmas of
the operations it is made of, in the order of the model. -/

namespace Sys2Proof.Machine

open Sys2Proof

/-! ## Rules of the invariant -/

section Rules
variable {s t u : State} {α β : Type}

/-- A state changed in other fields than memory and the queue. -/
theorem State.Inv.update {clk poison tileWrites lines threads cores arrays nextNo nextDseq entries tasks queues parts
    requests customers ctxs ctxExtra allocs objects keys fills fab dim therm faults od wings wingEntries mailboxes can store house pins
    hostFns numVfs counters outbox draws} (h : s.Inv) :
    State.Inv ⟨s.pending, clk, s.mem, poison, tileWrites, lines, threads, cores, arrays, nextNo, nextDseq, entries, tasks, queues,
      parts, requests, customers, ctxs, ctxExtra, allocs, objects, keys, fills, fab, dim, therm, faults, od, wings, wingEntries,
      mailboxes, can, store, house, pins, hostFns, numVfs, counters, outbox, draws⟩ := h

/-- A choice between two states that meet the invariant. -/
theorem State.Inv.ite {c : Prop} {_ : Decidable c} (hs : s.Inv) (ht : t.Inv) : (if c then s else t).Inv := by
  split
  · exact hs
  · exact ht

theorem State.Inv.ite_fst {c : Prop} {_ : Decidable c} {a b : State × α} (ha : a.1.Inv) (hb : b.1.Inv) : (if c then a else b).1.Inv := by
  split
  · exact ha
  · exact hb

/-- A pass over a list whose every step keeps the invariant. -/
theorem State.Inv.foldl {f : State → α → State} {l : List α} (hf : ∀ (u : State) (x : α), u.Inv → (f u x).Inv) (h : s.Inv) :
    (l.foldl f s).Inv :=
  List.foldlRecOn l f h fun u hu x _ => hf u x hu

/-- A pass over a list that carries a value beside the state. -/
theorem State.Inv.foldl_fst {f : State × β → α → State × β} {l : List α} {a : State × β}
    (hf : ∀ (b : State × β) (x : α), b.1.Inv → (f b x).1.Inv) (h : a.1.Inv) : (l.foldl f a).1.Inv :=
  List.foldlRecOn (motive := fun b => b.1.Inv) l f h fun b hb x _ => hf b x hb

/-- The state that comes out beside a value. -/
theorem State.Inv.of_fst {p : State × α} {x : α} (h : p.1.Inv) (hp : p = (t, x)) : t.Inv := by
  rwa [hp] at h

/-- A command that answers a next state answers one that meets the invariant. -/
def KeepsInv (r : Result) : Prop := ∀ s', r = .next s' → s'.Inv

theorem KeepsInv.next (h : s.Inv) : KeepsInv (.next s) := by
  rintro _ ⟨⟩
  exact h

theorem KeepsInv.ite {c : Prop} {_ : Decidable c} {r r' : Result} (hr : KeepsInv r) (hr' : KeepsInv r') :
    KeepsInv (if c then r else r') := by
  split
  · exact hr
  · exact hr'

/-- A write of the dictionary that is accepted leaves the invariant. -/
def OkInv {ε : Type} (r : Except ε State) : Prop := ∀ t, r = .ok t → t.Inv

theorem OkInv.ok {ε : Type} (h : s.Inv) : OkInv (.ok s : Except ε State) := by
  rintro _ ⟨⟩
  exact h

theorem OkInv.error {ε : Type} {e : ε} : OkInv (.error e) := by
  rintro _ ⟨⟩

theorem OkInv.ite {ε : Type} {c : Prop} {_ : Decidable c} {r r' : Except ε State} (hr : OkInv r) (hr' : OkInv r') :
    OkInv (if c then r else r') := by
  split
  · exact hr
  · exact hr'

end Rules

section Operations
variable {s : State}

/-! ## Setters and counters -/

theorem State.Inv.count {c : CtrName} {unit n : Nat} (h : s.Inv) : (s.count c unit n).Inv := h

theorem State.Inv.setCtr {c : CtrName} {unit : Nat} {v : W64} (h : s.Inv) : (s.setCtr c unit v).Inv := h

theorem State.Inv.setThread {t : Tid} {x : Thread} (h : s.Inv) : (s.setThread t x).Inv := h

theorem State.Inv.setCore {k : Nat} {x : Core} (h : s.Inv) : (s.setCore k x).Inv := h

theorem State.Inv.setArray {k : Nat} {x : ArrayUnit} (h : s.Inv) : (s.setArray k x).Inv := h

theorem State.Inv.setTask {k : Nat} {x : Task} (h : s.Inv) : (s.setTask k x).Inv := h

theorem State.Inv.setPart {p : Nat} {x : Part} (h : s.Inv) : (s.setPart p x).Inv := h

theorem State.Inv.modPart {p : Nat} {f : Part → Part} (h : s.Inv) : (s.modPart p f).Inv := h.setPart

theorem State.Inv.setQueue {c : Nat} {x : Queue} (h : s.Inv) : (s.setQueue c x).Inv := h

theorem State.Inv.setPort {n : Nat} {x : Port} (h : s.Inv) : (s.setPort n x).Inv := h

theorem State.Inv.setPeer {c : BitVec 12} {x : Peer} (h : s.Inv) : (s.setPeer c x).Inv := h

theorem State.Inv.setMailbox {m : Nat} {x : Mailbox} (h : s.Inv) : (s.setMailbox m x).Inv := h

theorem State.Inv.setHostFn {f : Nat} {x : HostFn} (h : s.Inv) : (s.setHostFn f x).Inv := h

theorem State.Inv.setCustomer {c : Nat} {x : Customer} (h : s.Inv) : (s.setCustomer c x).Inv := h

theorem State.Inv.send {o : Out} (h : s.Inv) : (s.send o).Inv := h

theorem State.Inv.draw (h : s.Inv) : s.draw.2.Inv := h

theorem State.Inv.setCfgByte {idx sub off : Nat} {b : Byte} (h : s.Inv) : (s.setCfgByte idx sub off b).Inv := h

theorem State.Inv.setCfg {idx sub off : Nat} {bs : List Byte} (h : s.Inv) : (s.setCfg idx sub off bs).Inv := by
  induction bs generalizing s off with
  | nil => exact h
  | cons b bs ih => exact ih h.setCfgByte

theorem State.Inv.writeMem {a : Nat} {bs : List Byte} {input : Nat} (h : s.Inv) : (s.writeMem a bs input).Inv :=
  ⟨Memory.wf_memPut bs _ a h.1, h.2⟩

theorem State.Inv.writeAll {ps : List (Nat × List Byte)} (h : s.Inv) : (s.writeAll ps).Inv := .foldl (fun _ _ ht => ht.writeMem) h

theorem State.Inv.addPoison {line : Nat} (h : s.Inv) : (s.addPoison line).Inv := h

theorem State.Inv.refuseCount (h : s.Inv) : s.refuseCount.Inv := h.count

theorem State.Inv.countHold {task : Option Nat} {l n : Nat} (h : s.Inv) : (s.countHold task l n).Inv := .ite h.count h

/-! ## Messages, service records and the fault log -/

theorem State.Inv.portSend {n vc : Nat} {bs : List Byte} (h : s.Inv) : (s.portSend n vc bs).Inv := h.setPort

theorem State.Inv.emit {op : Nat} {r : FabReq} (h : s.Inv) : (s.emit op r).Inv := h.send.portSend

theorem State.Inv.respondTo {via : Option Nat} {dst : BitVec 12} {job : BitVec 16} {op : Nat} {seq : W32} {st : Byte} {body : List Byte}
    (h : s.Inv) : (s.respondTo via dst job op seq st body).Inv := by
  unfold State.respondTo
  dsimp only
  split
  · exact h.send.portSend
  · split
    · exact h.send.portSend
    · exact h.send

theorem State.Inv.respond {op : Nat} {r : FabReq} {st : Byte} {body : List Byte} (h : s.Inv) : (s.respond op r st body).Inv :=
  .respondTo (.ite h h.setPeer)

theorem State.Inv.sendNak {r : FabReq} {expect : Nat} (h : s.Inv) : (s.sendNak r expect).Inv := by
  unfold State.sendNak
  dsimp only
  split
  · exact h.send.portSend
  · exact h.send

theorem State.Inv.post {p : Option Nat} {op : Nat} {r : FabReq} {kind : PendKind} {task : Option Nat} (h : s.Inv) :
    (s.post p op r kind task).Inv := h

theorem State.Inv.postSeg {p : Nat} {dst : BitVec 12} {g : FabSeg} {kind : PendKind} {task : Option Nat} (h : s.Inv) :
    (s.postSeg p dst g kind task).Inv := h.post

theorem State.Inv.cohPort {dst : BitVec 12} {die line : Nat} {ack : Bool} (h : s.Inv) : (s.cohPort dst die line ack).Inv := by
  unfold State.cohPort
  split
  · exact h.portSend
  · exact h

theorem State.Inv.cohSend {dst : BitVec 12} {die line : Nat} {ack : Bool} (h : s.Inv) : (s.cohSend dst die line ack).Inv := h.send.cohPort

theorem State.Inv.cohPump (h : s.Inv) : s.cohPump.Inv := .foldl (fun _ _ ht => ht.cohPort) h

theorem State.Inv.msix {f v : Nat} (h : s.Inv) : (s.msix f v).Inv := .ite h (.ite h.send h.setHostFn)

theorem State.Inv.emcySend {e : Emcy} (h : s.Inv) : (s.emcySend e).Inv := .update h.send

theorem State.Inv.emcy {e : Emcy} (h : s.Inv) : (s.emcy e).Inv := .msix (.ite h (.ite (.emcySend h) (.ite h (.count h))))

theorem State.Inv.emcyDrain {n : Nat} (h : s.Inv) : (State.emcyDrain n s).Inv := by
  induction n generalizing s with
  | zero => exact h
  | succ n ih =>
    unfold State.emcyDrain
    split
    · exact h
    · split
      · exact h
      · exact ih (.emcySend h)

theorem State.Inv.emcyGo (h : s.Inv) : s.emcyGo.Inv := h.emcyDrain

theorem State.Inv.settle (h : s.Inv) : s.settle.Inv := .ite (.emcy h) h

theorem State.Inv.logOnly {r : FaultRec} (h : s.Inv) : (s.logOnly r).1.Inv := h

theorem State.Inv.logFault {r : FaultRec} (h : s.Inv) : (s.logFault r).Inv := h.logOnly.emcy

theorem State.Inv.noteTransient {x : Site} (h : s.Inv) : (s.noteTransient x).Inv := .count h

theorem State.Inv.transient {x : Site} {cause : Nat} {detail detail2 : W64} {status : Byte} {part : Nat} (h : s.Inv) :
    (s.transient x cause detail detail2 status part).Inv := h.noteTransient.logFault

theorem State.Inv.memError {l : Nat} {syndrome : W64} {status : Byte} {part : Nat} (h : s.Inv) : (s.memError l syndrome status part).Inv :=
  by
  unfold State.memError
  split
  · exact h.transient
  · exact h.count.logFault

theorem State.Inv.haltNow {r : FaultRec} (h : s.Inv) : (s.haltNow r).Inv := by
  unfold State.haltNow
  refine .ite h ?_
  exact .settle (.logFault (.update (.foldl (fun _ _ ht => ht.send.send) (.foldl (fun _ _ ht => ht.emit) h))))

/-! ## Caches, copies and the writes of the home -/

theorem State.Inv.dropLines {f : Nat → Nat → Bool} (h : s.Inv) : (s.dropLines f).Inv := h

theorem State.Inv.evict {die : Nat} (h : s.Inv) : (s.evict die).Inv := by
  unfold State.evict
  dsimp only
  split
  · exact .ite (.update h.draw) h.draw
  · exact h.draw

theorem State.Inv.cacheFill {die line : Nat} {w : W512} (h : s.Inv) : (s.cacheFill die line w).Inv := .ite h (.update (.ite h h.evict))

theorem State.Inv.markIf {f : PendReq → Bool} (h : s.Inv) : (s.markIf f).Inv := h

theorem State.Inv.markFills {home : BitVec 12} {l n : Nat} {served : Bool} (h : s.Inv) : (s.markFills home l n served).Inv := h

theorem State.Inv.cacheStore {a : W64} {bs : List Byte} (h : s.Inv) : (s.cacheStore a bs).Inv := h

theorem State.Inv.nearDrop {die : Nat} {a : W64} {n : Nat} (h : s.Inv) : (s.nearDrop die a n).Inv := .ite h.dropLines h

theorem State.Inv.writeDone {q : PendReq} (h : s.Inv) : (s.writeDone q).Inv := .ite h.markIf (.ite h.markIf.cacheStore h.markIf.dropLines)

theorem State.Inv.acquireDrop {die : Nat} {b n : W64} (h : s.Inv) : (s.acquireDrop die b n).Inv := .ite h h.dropLines.markIf

theorem State.Inv.invalidate {home : BitVec 12} {l n : Nat} (h : s.Inv) : (s.invalidate home l n).Inv := h.dropLines

theorem State.Inv.noteCopies {die l n : Nat} (h : s.Inv) : (s.noteCopies die l n).Inv := h

theorem State.Inv.dropCopies {l n : Nat} {except : Option Nat} (h : s.Inv) : (s.dropCopies l n except).Inv :=
  .update (.foldl (fun _ _ ht => .foldl (fun _ _ ht => ht.cohSend) ht) h)

theorem State.Inv.homeWrite {a : Nat} {bs : List Byte} {input : Nat} (h : s.Inv) : (s.homeWrite a bs input).Inv :=
  .ite h.dropCopies.writeMem (.update h.dropCopies.writeMem)

theorem State.Inv.homeWrites {ps : List (Nat × List Byte)} (h : s.Inv) : (s.homeWrites ps).Inv := .foldl (fun _ _ ht => ht.homeWrite) h

/-! ## Tasks, casts and steps -/

theorem State.Inv.finish {k : Nat} {st : Byte} {result : W64} (h : s.Inv) : (s.finish k st result).Inv := by
  unfold State.finish
  split
  · exact .ite h h
  · exact h

theorem State.Inv.dropJobs {f : EngineJob → Bool} (h : s.Inv) : (s.dropJobs f).Inv := h

theorem State.Inv.freeThreads {k : Nat} (h : s.Inv) : (s.freeThreads k).Inv := .update h.dropJobs

theorem State.Inv.wakeAcmd {arr : Nat} (h : s.Inv) : (s.wakeAcmd arr).Inv := h

theorem State.Inv.releaseArrays {k : Nat} (h : s.Inv) : (s.releaseArrays k).Inv := .foldl (fun _ _ ht => ht.wakeAcmd) h

theorem State.Inv.wakeHeld (h : s.Inv) : s.wakeHeld.Inv := h

theorem State.Inv.taskStatus {k : Nat} {st : Byte} (h : s.Inv) : (s.taskStatus k st).Inv := by
  unfold State.taskStatus
  split
  · exact h.setTask
  · exact h

theorem State.Inv.endCast {k : Nat} {st : Byte} {abrupt : Bool} (h : s.Inv) : (s.endCast k st abrupt).Inv := by
  have hover (t : State) (ht : t.Inv) : (match t.task? k with
      | some x => t.setTask k { x with castOver := true }
      | none => t).Inv := by
    split
    · exact ht.setTask
    · exact ht
  unfold State.endCast
  extract_lets s1 s2
  have h2 : s2.Inv := hover s1 h.taskStatus.freeThreads
  exact .ite h2.releaseArrays (.foldl (fun _ _ ht => ht.wakeAcmd) (.update h2))

theorem State.Inv.endRequest {slot : Nat} {extra : Byte} (h : s.Inv) : (s.endRequest slot extra).Inv := by
  unfold State.endRequest
  split
  · exact h
  · exact .update (.homeWrite (.ite h.count h))

theorem State.Inv.digestRange {p l : Nat} {r : Range} (h : s.Inv) : (s.digestRange p l r).Inv := by
  unfold State.digestRange
  dsimp only
  split
  · exact h.setPart
  · split
    · exact h.setPart
    · exact h.draw.setPart

theorem State.Inv.digestTask {t : Task} {st : Byte} (h : s.Inv) : (s.digestTask t st).Inv :=
  .ite h (.ite h.setPart (.ite h (.foldl (fun _ _ ht => ht.digestRange) h)))

theorem State.Inv.markPos {p : Nat} (h : s.Inv) : (s.markPos p).Inv := .foldl (fun _ _ ht => ht.modPart) h

theorem State.Inv.positions {p : Nat} (h : s.Inv) : (s.positions p).Inv := by
  unfold State.positions
  dsimp only
  split
  · exact h.markPos
  · exact .foldl (fun _ _ ht => .foldl (fun _ _ ht => ht.setCore) ht) h.markPos.setPart

theorem State.Inv.freeEncore {p l : Nat} (h : s.Inv) : (s.freeEncore p l).Inv := by
  unfold State.freeEncore
  split
  · exact h
  · exact .modPart (.foldl (fun _ _ ht => ht.setCore) h)

theorem State.Inv.freeEncores {p : Nat} (h : s.Inv) : (s.freeEncores p).Inv := .foldl (fun _ _ ht => ht.freeEncore) h

theorem State.Inv.layerDone {p l : Nat} (h : s.Inv) : (s.layerDone p l).Inv := .ite h.freeEncore h

theorem State.Inv.commitTask {k : Nat} (h : s.Inv) : (s.commitTask k).Inv := by
  unfold State.commitTask
  split
  · exact h
  · next t _ =>
    extract_lets st s1 s2 s3 s4
    have h2 : s2.Inv := by
      unfold s2
      split
      · exact h.digestTask.modPart
      · exact h.digestTask
    have h3 : s3.Inv := by
      unfold s3
      split
      · split
        · exact .ite (.ite (.endRequest h2) h2) h2
        · exact h2
      · exact h2
    exact .positions (.layerDone (.update h3.finish))

theorem State.Inv.countCall {p : Nat} {c : CastCall} (h : s.Inv) : (s.countCall p c).Inv :=
  h.count.count.count.count.count.count.count.count.count.count

theorem State.Inv.failCall {p : Nat} {st : Byte} {tell : Bool} (h : s.Inv) : (s.failCall p st tell).Inv := by
  unfold State.failCall
  split
  · exact h
  · refine .modPart ?_
    refine .countCall ?_
    refine .taskStatus ?_
    refine .ite (.ite (.foldl (fun _ _ ht => ht.postSeg) h) h) ?_
    exact .homeWrite (.ite (.foldl (fun _ _ ht => ht.postSeg) h) h)

theorem State.Inv.endColl {p id : Nat} {st : Byte} {tell : Bool} (h : s.Inv) : (s.endColl p id st tell).Inv := by
  unfold State.endColl
  split
  · exact h
  · exact .ite h (.modPart (.taskStatus (.ite (.foldl (fun _ _ ht => .ite ht ht.postSeg) h) h)))

theorem State.Inv.dropVerdicts {p : Nat} (h : s.Inv) : (s.dropVerdicts p).Inv := h.freeEncores.modPart

theorem State.Inv.dropFills {p : Nat} (h : s.Inv) : (s.dropFills p).Inv := .update h.dropJobs

theorem State.Inv.resetSteps {p : Nat} (h : s.Inv) : (s.resetSteps p).Inv := by
  unfold State.resetSteps
  refine .wakeHeld ?_
  refine .foldl (fun _ _ ht => ht.endRequest) ?_
  refine .modPart ?_
  refine .update ?_
  refine .dropFills ?_
  refine .modPart ?_
  refine .foldl (fun u x hu => ?_) (.failCall (.dropVerdicts (.foldl (fun _ _ ht => ht.freeThreads.releaseArrays) h)))
  exact hu.endColl

theorem State.Inv.jobFault {p cause : Nat} {detail detail2 : W64} (h : s.Inv) : (s.jobFault p cause detail detail2).Inv :=
  .ite h h.modPart.logFault.resetSteps.settle

theorem State.Inv.raiseVclock {p : Nat} (h : s.Inv) : (s.raiseVclock p).Inv := by
  unfold State.raiseVclock
  refine .ite h ?_
  split
  · exact .ite h.setCtr h
  · exact h

theorem State.Inv.stopMember {k : Nat} (h : s.Inv) : (s.stopMember k).Inv := by
  unfold State.stopMember
  split
  · exact h
  · refine .setTask ?_
    refine .ite (.modPart (.ite h.raiseVclock.freeThreads.releaseArrays.modPart h.raiseVclock.freeThreads.releaseArrays)) ?_
    exact .ite h.raiseVclock.freeThreads.releaseArrays.modPart h.raiseVclock.freeThreads.releaseArrays

theorem State.Inv.startReplay {k : Nat} {reader : List Nat} (h : s.Inv) : (s.startReplay k reader).Inv := by
  unfold State.startReplay
  split
  · exact h
  · dsimp only
    split
    · exact h.count.jobFault
    · exact .modPart (.count (.count (.foldl (fun _ _ ht => ht.stopMember) h)))

theorem State.Inv.readError {p l : Nat} {reader : List Nat} (h : s.Inv) : (s.readError p l reader).1.Inv := by
  unfold State.readError
  dsimp only
  split
  · exact h.memError.startReplay
  · exact h.memError

/-! ## Layers -/

theorem State.Inv.takeLayer {p l : Nat} (h : s.Inv) : (s.takeLayer p l).Inv := .ite h h.setPart

theorem State.Inv.nwEvent {p l reason : Nat} (h : s.Inv) : (s.nwEvent p l reason).Inv := h.modPart.count.emcy

theorem State.Inv.nwEvents {p l reason n : Nat} (h : s.Inv) : (s.nwEvents p l reason n).Inv := by
  induction n generalizing s with
  | zero => exact h
  | succ n ih => exact ih h.nwEvent

theorem State.Inv.layerCounts {p l : Nat} {c : EncCounts} (h : s.Inv) : (s.layerCounts p l c).Inv := .ite h h.modPart.nwEvents

/-! ## Results of an instruction -/

theorem State.Inv.raise {t : Tid} {x : Thread} {e : Exc} {addr : W64} (h : s.Inv) : (s.raise t x e addr).Inv := by
  unfold State.raise
  dsimp only
  split
  · exact h.setThread
  · split
    · exact h.setThread
    · exact .ite h.setThread.jobFault h.setThread.endCast

theorem KeepsInv.issue {t : Tid} {pred : BitVec 3} {neg ok always legal : Bool} {run : Thread → Task → State} (h : s.Inv)
    (hrun : ∀ x k, (run x k).Inv) : KeepsInv (s.issue t pred neg ok always legal run) := by
  intro s' hs'
  obtain rfl | ⟨x, k, -, -, -, hx⟩ := State.issue_cases hs'
  · exact h
  · obtain ⟨e, a, -, rfl⟩ | rfl | rfl | rfl := hx
    · exact .raise (.ite h.memError h)
    · exact h.raise
    · exact h.setThread
    · exact hrun x k

theorem KeepsInv.sOp {t : Tid} {f : SOp} {u : SUse} {extra legal : Bool} {eff : Thread → Thread} (h : s.Inv) :
    KeepsInv (s.sOp t f u extra legal eff) :=
  .issue h fun _ _ => h.setThread

theorem KeepsInv.iOp {t : Tid} {f : IOp} {eff : Thread → Thread} (h : s.Inv) : KeepsInv (s.iOp t f eff) :=
  .issue h fun _ _ => h.setThread

/-! ## Requests that leave and their answers -/

theorem State.Inv.sendVia {hop : Hop} {p : Option Nat} {op : Nat} {r : FabReq} {task : Option Nat} {kind : PendKind} (h : s.Inv) :
    (s.sendVia hop p op r task kind).1.Inv := by
  unfold State.sendVia
  refine .ite_fst h ?_
  refine .ite_fst h ?_
  split
  · exact h.logFault
  · exact .ite_fst h (.emit (.update h.setPeer))

theorem State.Inv.sendReq {p : Option Nat} {op : Nat} {r : FabReq} {task : Option Nat} {kind : PendKind} (h : s.Inv) :
    (s.sendReq p op r task kind).1.Inv := h.sendVia

theorem State.Inv.jobLoads {m : Nat} {j : FarRead} (h : s.Inv) : (State.jobLoads m s j).1.Inv := by
  induction m generalizing s j with
  | zero => exact h
  | succ m ih =>
    unfold State.jobLoads
    split
    · exact h
    · have hsent : (match s.jobHop j with
          | some hop => s.sendVia hop (some j.part) 1 (reqTo j.addr 1 (loadPiece (glocal j.addr) j.left)) none (.engine j.job)
          | none => (s, .lost)).1.Inv := by
        split
        · exact h.sendVia
        · exact h
      dsimp only
      split
      · next e => exact ih (hsent.of_fst e)
      · next e => exact hsent.of_fst e
      · exact h

theorem State.Inv.pumpJobs (h : s.Inv) : s.pumpJobs.Inv := by
  unfold State.pumpJobs
  exact .update (.foldl_fst (fun _ _ ht => ht.jobLoads) h)

theorem State.Inv.startJob {job : EngineJob} {p : Nat} {a : W64} {n : Nat} (h : s.Inv) : (s.startJob job p a n).Inv := .pumpJobs h

theorem State.Inv.jobFailed {job : EngineJob} {st : Byte} (h : s.Inv) : (s.jobFailed job st).Inv := h

theorem State.Inv.endJob {job : EngineJob} (h : s.Inv) : (s.endJob job).1.Inv := h

theorem State.Inv.farStatus {n : Nat} {st : Byte} (h : s.Inv) : (s.farStatus n st).1.Inv := .ite_fst h h.transient

theorem State.Inv.jobStatus {job : EngineJob} {st : Byte} (h : s.Inv) : (s.jobStatus job st).1.Inv := h.endJob.farStatus

theorem State.Inv.takeLog {k : Nat} {t : Task} {r : AtomRec} (h : s.Inv) : (s.takeLog k t r).Inv := .update h.setTask

theorem State.Inv.takeSeg {k : Option Nat} (h : s.Inv) : (s.takeSeg k).Inv := by
  unfold State.takeSeg
  split
  · exact h
  · exact .update h.setTask

/-! ## Array commands -/

theorem KeepsInv.acmd {t : Tid} {f : AOp} (h : s.Inv) : KeepsInv (execAcmd t f s) := by
  unfold execAcmd
  refine .issue h fun x k => ?_
  refine .ite h.raise ?_
  refine .ite h.setThread ?_
  refine .ite h.setThread ?_
  refine .ite h.setThread.count ?_
  exact .ite (.ite h.readError h.readError.raise) (.ite h.raise h.setArray.setTask.setThread)

theorem KeepsInv.await {t : Tid} {f : AOp} (h : s.Inv) : KeepsInv (execAwait t f s) := by
  unfold execAwait
  refine .issue h fun x k => ?_
  dsimp only
  split
  · exact h.setThread
  · split
    · exact h.setThread
    · exact h.setThread

/-! ## The arrays at work -/

theorem State.Inv.engineTime {p n : Nat} (h : s.Inv) : (s.engineTime p n).Inv := h.count.count

theorem State.Inv.loadCycles {arr : Nat} {t : Task} (h : s.Inv) : (s.loadCycles arr t).Inv := .ite h.engineTime.count h.engineTime.count

theorem State.Inv.runLoad {arr task : Nat} {t : Task} {w : W512} (h : s.Inv) : (s.runLoad arr task t w).1.Inv := by
  unfold State.runLoad
  dsimp only
  split
  · exact .ite_fst h.loadCycles.readError h.loadCycles.readError.count
  · exact h.loadCycles.count.count.layerCounts

theorem KeepsInv.load {a : ArrRef} (h : s.Inv) : KeepsInv (execLoad a s) := by
  unfold execLoad
  dsimp only
  split
  · exact .next h
  · refine .ite (.next h) ?_
    split
    · next e1 => exact .next (h.runLoad.of_fst e1)
    · next e1 => exact .next (h.runLoad.of_fst e1).setArray

theorem State.Inv.streamPut {r : StreamRun} {a arr : Nat} {bs : List Byte} (h : r.s.Inv) : (r.put a bs arr).s.Inv :=
  .ite h.writeMem.count h.writeMem

theorem State.Inv.foldl_run {α : Type} {f : StreamRun → α → StreamRun} {l : List α} {r : StreamRun}
    (hf : ∀ (r : StreamRun) (x : α), r.s.Inv → (f r x).s.Inv) (h : r.s.Inv) : (l.foldl f r).s.Inv :=
  List.foldlRecOn (motive := fun r => r.s.Inv) l f h fun r hr x _ => hf r x hr

theorem State.Inv.streamTile {r : StreamRun} {arr mode i : Nat} {c : ArrCmd} {t : Task} {b : Block} (h : r.s.Inv) :
    (r.tile arr c t b mode i).s.Inv := by
  unfold StreamRun.tile
  split
  · exact h
  · dsimp only
    split
    · exact h
    · exact h.readError
    · refine .ite (.count ?_) ?_
      all_goals refine .foldl_run (fun r n hr => .foldl_run (fun r tc hr => hr.streamPut) hr) (.count (.logFault ?_))
      all_goals
        split
        · exact h.transient
        · exact h
    · refine .ite (.count ?_) ?_
      all_goals
        refine .foldl_run (fun r e hr => .foldl_run (fun r tc hr => ?_) hr) h.count
        split
        · exact hr.streamPut
        · refine .streamPut ?_
          split
          · exact hr.count
          · exact hr

theorem State.Inv.lateTile {k : Nat} {c : ArrCmd} {t : Task} (h : s.Inv) : (s.lateTile k c t).1.Inv := by
  unfold State.lateTile
  split
  · exact h
  · exact .ite_fst h h.setArray.count

theorem KeepsInv.stream {a : ArrRef} (h : s.Inv) : KeepsInv (execStream a s) := by
  unfold execStream
  extract_lets k u
  split
  · exact .next h
  · extract_lets ext
    split
    · exact .next h
    · split
      · next hs => exact .next (h.lateTile.of_fst hs)
      · next hs =>
        extract_lets mode r s1 time s2 s3 s4
        have hr : r.s.Inv := .foldl_run (fun r i hr => hr.streamTile) (h.lateTile.of_fst hs)
        have h4 : s4.Inv := by
          have h3 : s3.Inv := .engineTime (.ite hr.count hr.count)
          unfold s4
          split
          · exact h3.setTask
          · exact h3
        exact .ite (.next hr) (.next h4.setArray)

theorem KeepsInv.release {a : ArrRef} (h : s.Inv) : KeepsInv (execRelease a s) := by
  unfold execRelease
  dsimp only
  split
  · exact .next h
  · exact .next h.setArray

theorem State.Inv.wakeAwait {arr seq : Nat} {st : Byte} (h : s.Inv) : (s.wakeAwait arr seq st).Inv := h

theorem KeepsInv.arrayCommandComplete {a : ArrRef} (h : s.Inv) : KeepsInv (execArrayCommandComplete a s) := by
  unfold execArrayCommandComplete
  dsimp only
  split
  · exact .next h
  · refine .ite (.next h) ?_
    refine .next ?_
    refine .wakeAcmd ?_
    refine .wakeAwait ?_
    refine .setArray ?_
    split
    · exact .ite h.setTask h
    · exact h

/-! ## Home accesses, holds and partitions -/

theorem State.Inv.farFail {t : Tid} {x : Thread} {st : Byte} {a : W64} (h : s.Inv) : (s.farFail t x st a).Inv := h.raise

theorem State.Inv.landFill {q : PendReq} {die : Nat} {st : Byte} {body : List Byte} (h : s.Inv) : (s.landFill q die st body).Inv :=
  .ite h (.foldl (fun _ _ ht => ht.cacheFill) h)

theorem State.Inv.storeFail {t : Tid} {task : Option Nat} {st : Byte} {a : W64} (h : s.Inv) : (s.storeFail t task st a).Inv := by
  unfold State.storeFail
  dsimp only
  split
  · refine .ite h.setThread ?_
    split
    · exact h.taskStatus
    · exact h
  · split
    · exact h.taskStatus
    · exact h

theorem State.Inv.waitvEnd {t : Tid} {x : Thread} {gd : Nat} {v : W64} {hit : Bool} (h : s.Inv) : (s.waitvEnd t x gd v hit).Inv :=
  h.setThread

theorem State.Inv.pollValue {t : Tid} {x : Thread} {v : W64} (h : s.Inv) : (s.pollValue t x v).Inv := by
  unfold State.pollValue
  split
  · exact .ite h.waitvEnd h.setThread
  · exact h

theorem State.Inv.bar4Fail {f : Nat} {a : W64} {st : Byte} (h : s.Inv) : (s.bar4Fail f a st).Inv := .ite h.count.send.setHostFn h.count.send

theorem State.Inv.hostPiece {id pos : Nat} {st : Byte} {body : List Byte} (h : s.Inv) : (s.hostPiece id pos st body).Inv := by
  unfold State.hostPiece
  split
  · exact h
  · exact .ite h (.send h)

theorem State.Inv.setColl {p : Nat} {c : CollRun} (h : s.Inv) : (s.setColl p c).Inv := h.modPart

theorem State.Inv.collPost {p : Nat} {dst : BitVec 12} {g : CollSegment} (h : s.Inv) : (s.collPost p dst g).Inv := h.postSeg.modPart

theorem State.Inv.collEnd {p : Nat} {c : CollRun} (h : s.Inv) : (s.collEnd p c).Inv := h.setColl.count.modPart

theorem State.Inv.collFeed {p id : Nat} (h : s.Inv) : (s.collFeed p id).Inv := by
  unfold State.collFeed
  split
  · exact h
  · refine .ite h ?_
    refine .ite (.collEnd (.foldl (fun _ _ ht => ht.collPost) h.setColl)) ?_
    exact .foldl (fun _ _ ht => ht.collPost) h.setColl

theorem State.Inv.segDone {k : PendKind} {st : Byte} (h : s.Inv) : (s.segDone k st).Inv := by
  unfold State.segDone
  split
  · exact .ite h.endColl h.collFeed
  · exact .ite h.failCall h
  · exact h

/-- A result that is put down in a thread's task. -/
theorem State.Inv.setSome {k : Nat} {o : Option Task} {f : Task → Task} (h : s.Inv) :
    (match o with
      | some x => s.setTask k (f x)
      | none => s).Inv := by
  split
  · exact h.setTask
  · exact h

theorem State.Inv.deliver {q : PendReq} {st : Byte} {body : List Byte} (h : s.Inv) : (s.deliver q st body).Inv := by
  unfold State.deliver
  extract_lets a s1 tid
  have h1 : s1.Inv := .ite h h.writeDone
  split
  · dsimp only
    split
    · exact h.landFill
    · exact .ite h.landFill.farFail h.landFill.setThread
  · dsimp only
    split
    · exact h.landFill
    · exact .ite h.landFill.farFail h.landFill.setThread
  · dsimp only
    split
    · exact h.landFill
    · refine .ite h.landFill ?_
      split
      · exact .ite h.landFill.farFail h.landFill.pollValue
      · exact h.landFill
  · exact .ite h.storeFail h.writeDone
  · exact .ite h.storeFail h
  · extract_lets v s2
    have h2 : s2.Inv := by
      unfold s2
      split
      · exact h1.setSome
      · exact h1
    clear_value s2
    split
    · exact h2
    · exact .ite h2.farFail h2.setSome.setThread
  · split
    · exact h
    · exact h.setThread
  · exact .hostPiece (.ite h.bar4Fail h)
  · exact .ite h.bar4Fail h.writeDone
  · exact h
  · exact .ite h.jobFailed h
  · exact h.segDone
  · exact h.segDone

theorem State.Inv.completeOne {q : PendReq} {st : Byte} {body : List Byte} (h : s.Inv) : (s.completeOne q st body).Inv := .deliver h

theorem State.Inv.failAll {qs : List PendReq} {st : Byte} (h : s.Inv) : (s.failAll qs st).Inv := .foldl (fun _ _ ht => ht.completeOne) h

theorem State.Inv.complete {q : PendReq} {st : Byte} {body : List Byte} (h : s.Inv) : (s.complete q st body).Inv := by
  unfold State.complete
  refine .ite (.setPeer (.failAll (.completeOne (.ite (.foldl (fun _ _ ht => ht.completeOne) h) h)))) ?_
  exact .completeOne (.ite (.foldl (fun _ _ ht => ht.completeOne) h) h)

theorem State.Inv.reroute {q : PendReq} (h : s.Inv) : (s.reroute q).Inv := by
  unfold State.reroute
  refine .ite h ?_
  split
  · exact .emit h
  · exact h.logFault.complete

theorem State.Inv.pumpSends (h : s.Inv) : s.pumpSends.Inv := by
  unfold State.pumpSends
  refine .foldl (fun u x hu => ?_) h
  refine .ite hu ?_
  split
  · next e => exact (hu.sendReq.of_fst e).takeSeg
  · next e => exact (hu.sendReq.of_fst e).deliver
  · exact hu

theorem State.Inv.failSends {c : BitVec 12} (h : s.Inv) : (s.failSends c).Inv := .foldl (fun _ _ ht => ht.deliver) h

theorem State.Inv.portGone {n : Nat} (h : s.Inv) : (s.portGone n).Inv := .foldl (fun _ _ ht => ht.reroute) h

/-! ## Collectives at work -/

theorem State.Inv.linkSend {p l : Nat} {vs : List W32} (h : s.Inv) : (s.linkSend p l vs).1.Inv := h.layerCounts

theorem State.Inv.linkRead {p l n : Nat} {bs : List Byte} (h : s.Inv) : (s.linkRead p l n bs).1.Inv := h.layerCounts

theorem State.Inv.collSend {p : Nat} {dst : BitVec 12} {c : CollRun} {stage pos : Nat} {body : List Byte} (h : s.Inv) :
    (s.collSend p dst c stage pos body).Inv := h.collPost

theorem State.Inv.collDone {p : Nat} {c : CollRun} {out : List (Nat × List Byte)} (h : s.Inv) : (s.collDone p c out).Inv :=
  h.homeWrites.collEnd

theorem State.Inv.ringEncode {p : Nat} {c : CollRun} {link : Bool} {vs : List W32} (h : s.Inv) : (s.ringEncode p c link vs).1.Inv :=
  .ite_fst h.linkSend h

theorem State.Inv.ringStart {p : Nat} {c : CollRun} {rs : List Ring} {a : Nat} (h : s.Inv) : (s.ringStart p c rs a).Inv := by
  unfold State.ringStart
  split
  · exact h
  · exact h.ringEncode.collSend

theorem State.Inv.gatherStart {p : Nat} {c : CollRun} {rs : List Ring} {a : Nat} (h : s.Inv) : (s.gatherStart p c rs a).Inv := by
  unfold State.gatherStart
  split
  · exact h
  · exact .foldl (fun _ _ ht => ht.collSend) h

theorem State.Inv.gatherOut {p : Nat} {c : CollRun} {rs : List Ring} (h : s.Inv) : (s.gatherOut p c rs).1.Inv := by
  refine .foldl_fst (fun b i hb => ?_) h
  exact State.Inv.linkRead (n := (keptRange (cCount c.desc) (rs.map (·.n)) (s.ringPlaces p c i) rs.length).2) hb

theorem State.Inv.reduced {p : Nat} {c : CollRun} {rs : List Ring} (h : s.Inv) : (s.reduced p c rs).Inv :=
  .ite h.collDone (.ite h.collDone h.linkSend.setColl.gatherStart)

theorem State.Inv.ringHop {p : Nat} {c : CollRun} {rs : List Ring} {a : Nat} {g : CollSegment} (h : s.Inv) :
    (s.ringHop p c rs a g).Inv := by
  unfold State.ringHop
  split
  · exact h
  · extract_lets k x e link
    split
    next hu =>
      replace h := State.Inv.of_fst (.ite_fst h.linkRead h) hu
      exact .ite (.ite h.setColl.reduced h.setColl.ringStart) h.collSend

theorem State.Inv.gatherHop {p : Nat} {c : CollRun} {rs : List Ring} {g : CollSegment} (h : s.Inv) : (s.gatherHop p c rs g).Inv := by
  unfold State.gatherHop
  dsimp only
  split
  · exact h
  · refine .ite (.setColl (.ite h h.collSend)) ?_
    refine .ite (.collDone (.gatherOut (.setColl (.ite h h.collSend)))) ?_
    exact .gatherStart (.setColl (.setColl (.ite h h.collSend)))

theorem State.Inv.ownPartials {p : Nat} {c : CollRun} (h : s.Inv) : (s.ownPartials p c).1.Inv :=
  .foldl_fst (fun _ _ ht => .ite_fst ht ht.linkSend) h

theorem State.Inv.mergePosition {p : Nat} {c : CollRun} {r : Nat} (h : s.Inv) : (s.mergePosition p c r).1.Inv := by
  have hread (gs : List CollSegment) : (gs.foldl (fun (a : State × List (List W32)) g =>
      ((a.1.linkRead p (cLayer c.desc) 256 g.body).1, a.2 ++ [(a.1.linkRead p (cLayer c.desc) 256 g.body).2])) (s, [])).1.Inv :=
    .foldl_fst (fun _ _ ht => ht.linkRead (n := 256)) h
  unfold State.mergePosition
  dsimp only
  split
  · split
    · exact h
    · exact h
  · split
    · exact hread _
    · exact hread _

theorem State.Inv.mergeAll {p : Nat} {c : CollRun} (h : s.Inv) : (s.mergeAll p c).Inv :=
  .ite h (.collDone (.foldl_fst (fun _ _ ht => ht.mergePosition) h))

theorem State.Inv.gatherAll {p : Nat} {c : CollRun} (h : s.Inv) : (s.gatherAll p c).Inv := .ite h h.collDone

theorem State.Inv.credit {r : FabReq} (h : s.Inv) : (s.credit r).Inv := .ite h h.respond

theorem State.Inv.refuseSeg {r : FabReq} (h : s.Inv) : (s.refuseSeg r).Inv := .ite h h.count.respond

theorem State.Inv.collUse {p : Nat} {c : CollRun} {g : CollSegment} (h : s.Inv) : (s.collUse p c g).Inv :=
  .ite (.ite h.ringHop h.gatherHop) h.gatherAll

theorem State.Inv.collRun {p id n : Nat} (h : s.Inv) : (s.collRun p id n).Inv := by
  induction n generalizing s with
  | zero => exact h
  | succ n ih =>
    unfold State.collRun
    split
    · exact h
    · split
      · exact h
      · split
        · exact h
        · dsimp only
          split
          · exact ih h.setColl.collUse
          · exact h

theorem State.Inv.mergeRun {p id n : Nat} (h : s.Inv) : (s.mergeRun p id n).Inv := by
  induction n generalizing s with
  | zero => exact h
  | succ n ih =>
    unfold State.mergeRun
    split
    · exact h
    · split
      · exact h
      · split
        · exact h
        · exact ih h.setColl.count.credit.mergeAll

theorem State.Inv.collResend {p : Nat} {c : CollRun} {dst : BitVec 12} (h : s.Inv) : (s.collResend p c dst).Inv :=
  .ite h (.foldl (fun _ _ ht => ht.postSeg) h.setColl)

theorem State.Inv.collTake {p : Nat} {r : FabReq} {g : CollSegment} (h : s.Inv) : (s.collTake p r g).Inv := by
  unfold State.collTake
  dsimp only
  split
  · exact .ite h.count.credit h.modPart
  · refine .ite h.refuseSeg ?_
    refine .ite h.count.credit.collResend ?_
    exact .ite h.credit (.ite h.endColl.credit (.ite h.setColl.mergeRun h.setColl.credit.collRun))

theorem State.Inv.collStart {p : Nat} {c : CollRun} (h : s.Inv) : (s.collStart p c).Inv := by
  unfold State.collStart
  dsimp only
  split
  · exact .collTake (.foldl (fun _ _ ht => .ite ht ht.collSend) h)
  · exact .collTake (.foldl (fun _ _ ht => .ite ht ht.collSend) h)
  · refine .ite (.ite h.ownPartials.mergeAll (.foldl (fun _ _ ht => ht.collTake) h.ownPartials)) ?_
    exact h.ownPartials.setColl.collFeed
  · refine .ite (.ite h.ownPartials.mergeAll (.foldl (fun _ _ ht => ht.collTake) h.ownPartials)) ?_
    exact h.ownPartials.setColl.collFeed
  · exact .ite h.reduced h.ringStart

/-! ## Entries and queues -/

theorem State.Inv.qError {c cause : Nat} (h : s.Inv) : (s.qError c cause).Inv := h.setQueue

theorem State.Inv.doorbellError {c : Nat} (h : s.Inv) : (s.doorbellError c).Inv := .ite h.count h.count

theorem State.Inv.ringTail {c t : Nat} (h : s.Inv) : (s.ringTail c t).Inv := .ite h.doorbellError (.ite h.qError h.setQueue)

theorem State.Inv.sqTailWrite {c : Nat} {v : W64} (h : s.Inv) : (s.sqTailWrite c v).Inv := .ite h h.ringTail

theorem State.Inv.cqHeadWrite {c : Nat} {v : W64} (h : s.Inv) : (s.cqHeadWrite c v).Inv := .ite h.doorbellError h.setQueue

theorem State.Inv.bellWrite {c : Nat} {tail : Bool} {v : W64} (h : s.Inv) : (s.bellWrite c tail v).Inv := .ite h.sqTailWrite h.cqHeadWrite

theorem State.Inv.bell {c : Nat} {tail : Bool} {v : W64} (h : s.Inv) : (s.bell c tail v).Inv := .ite h h.bellWrite

theorem State.Inv.devRingWrite {c : Nat} {r : RingReg} {v : W64} (h : s.Inv) : (s.devRingWrite c r v).Inv := by
  unfold State.devRingWrite
  refine .ite h ?_
  dsimp only
  split
  · exact h.setQueue
  · exact .ite h.setQueue h
  · exact h.setQueue
  · exact .ite h.setQueue h
  · exact h

theorem State.Inv.ringCfgWrite {c : Nat} {v : W64} (h : s.Inv) : (s.ringCfgWrite c v).Inv :=
  .ite (.ite h h.setQueue) (.ite h.setQueue (.ite h.setQueue h.setQueue))

theorem State.Inv.hostRingWrite {c : Nat} {r : RingReg} {v : W64} (h : s.Inv) : (s.hostRingWrite c r v).Inv := by
  unfold State.hostRingWrite
  refine .ite h.ringCfgWrite ?_
  refine .ite h.setQueue ?_
  refine .ite h ?_
  split
  · exact h.setQueue
  · exact .ite h.setQueue h
  · exact h.setQueue
  · exact .ite h.setQueue h
  · exact h

theorem State.Inv.ringWrite {c : Nat} {r : RingReg} {v : W64} (h : s.Inv) : (s.ringWrite c r v).Inv := .ite h.hostRingWrite h.devRingWrite

theorem State.Inv.qresetWrite {c : Nat} {v : W64} (h : s.Inv) : (s.qresetWrite c v).Inv := .ite h.setQueue h

theorem State.Inv.qDefaults {c : Nat} (h : s.Inv) : (s.qDefaults c).Inv := .setQueue h

theorem State.Inv.accept {c p : Nat} {e : W512} (h : s.Inv) : (s.accept c p e).1.Inv :=
  .ite_fst h.memError.qError (.ite_fst h.qError (.update h.setQueue))

theorem KeepsInv.withEntry {q : QRef} {e : W512} {mine : Nat → Bool} {run : State → Nat → Nat → W512 → State} (h : s.Inv)
    (hrun : ∀ (t : State) (k p : Nat) (w : W512), t.Inv → (run t k p w).Inv) : KeepsInv (s.withEntry q e mine run) := by
  have haccept {t : State} {x : Option (Nat × Entry)} (ht : s.accept (qCode q) (qPart q) e = (t, x)) : t.Inv := h.accept.of_fst ht
  dsimp only [State.withEntry]
  split
  · split
    · split
      · split
        · next ht =>
          split
          · exact .next (haccept ht).modPart
          · exact .next h
        · next ht => exact .next (haccept ht)
      · exact .next h
    · split
      · exact .next h
      · exact .next (hrun _ _ _ _ h.modPart)
  · split
    · exact .next h
    · split
      · next ht => exact .next (haccept ht)
      · next ht =>
        split
        · exact .next h
        · split
          · exact .next (haccept ht).finish
          · split
            · exact .next (haccept ht).modPart
            · exact .next (hrun _ _ _ _ (haccept ht))

theorem State.Inv.queueMessage {c : Nat} {failNow : Bool} (h : s.Inv) : (s.queueMessage c failNow).Inv := .ite h.setQueue.msix h

theorem State.Inv.qSettle {c : Nat} (h : s.Inv) : (s.qSettle c).Inv := .ite h.setQueue h

theorem State.Inv.writeNotice {c k : Nat} {e : Entry} {st : Byte} {result : W64} (h : s.Inv) : (s.writeNotice c k e st result).Inv := by
  unfold State.writeNotice
  refine .ite (.qSettle h) ?_
  exact .ite h (.ite (.qError h) (.qSettle (.queueMessage (.setQueue (.ite (.homeWrite h) (.send h))))))

/-! ## Pages and contexts -/

theorem State.Inv.initHalf {base nb P : Nat} (h : s.Inv) : (s.initHalf base nb P).Inv :=
  .foldl (fun _ _ ht => ht.homeWrite) (.foldl (fun _ _ ht => ht.homeWrite) h.homeWrite)

theorem State.Inv.keyColumn {again : Bool} {addr P n : Nat} {bs : List EncBlock} (h : s.Inv) : (s.keyColumn again addr P n bs).Inv :=
  h.homeWrites

theorem State.Inv.valRow {again : Bool} {addr P r : Nat} {elems : List Nat} (h : s.Inv) : (s.valRow again addr P r elems).1.Inv :=
  h.homeWrites

theorem State.Inv.halfRow {again : Bool} {base nb P r : Nat} {row : PageRow} (h : s.Inv) :
    (s.halfRow again base nb P r row).1.Inv := by
  unfold State.halfRow
  extract_lets s1
  have h1 : s1.Inv := h.keyColumn
  clear_value s1
  split
  next hu =>
    refine .homeWrite (.of_fst (.foldl_fst (fun a b ha => ?_) h1) hu)
    split
    next hv => exact ha.valRow.of_fst hv

theorem State.Inv.pageRow {again : Bool} {base nb P r : Nat} {train : Bool} {row : PageRow} (h : s.Inv) :
    (s.pageRow again base nb P r train row).1.Inv := .ite_fst h.halfRow h.halfRow.halfRow

theorem State.Inv.initPage {base nb P : Nat} {train : Bool} (h : s.Inv) : (s.initPage base nb P train).Inv :=
  .ite h.initHalf.initHalf h.initHalf

theorem State.Inv.copyRows {src dst nb P : Nat} {train : Bool} {n : Nat} (h : s.Inv) : (s.copyRows src dst nb P train n).Inv :=
  .foldl (fun _ _ ht => ht.pageRow) h.initPage

theorem State.Inv.setPageEntry {d : W512} {l h' k page : Nat} {shared sealed : Bool} (h : s.Inv) :
    (s.setPageEntry d l h' k page shared sealed).Inv := h.homeWrite

theorem State.Inv.setCtx {i : Nat} {d : W512} (h : s.Inv) : (s.setCtx i d).Inv := h

theorem State.Inv.modExtra {i : Nat} {f : CtxExtra → CtxExtra} (h : s.Inv) : (s.modExtra i f).Inv := h

theorem State.Inv.setPool {p n : Nat} {x : Pool} (h : s.Inv) : (s.setPool p n x).Inv := h.modPart

theorem State.Inv.takeSlot {p n P : Nat} {x : State × Nat} (h : s.Inv) (hx : s.takeSlot p n P = some x) : x.1.Inv := by
  revert hx
  unfold State.takeSlot
  split
  · exact nofun
  · split
    · exact nofun
    · rintro ⟨⟩
      exact h.setPool.count

theorem State.Inv.holdPage {p n page : Nat} (h : s.Inv) : (s.holdPage p n page).Inv := by
  unfold State.holdPage
  split
  · exact h
  · exact h.setPool

theorem State.Inv.dropPage {p n page : Nat} (h : s.Inv) : (s.dropPage p n page).Inv := by
  unfold State.dropPage
  split
  · exact h
  · exact h.setPool

theorem State.Inv.setPrec {p n page P : Nat} (h : s.Inv) : (s.setPrec p n page P).Inv := by
  unfold State.setPrec
  split
  · exact h
  · exact h.setPool

theorem State.Inv.appendRow {again : Bool} {p i l h' pos : Nat} {keys vals : List W32} (h : s.Inv) :
    (s.appendRow again p i l h' pos keys vals).1.Inv := by
  unfold State.appendRow
  split
  · exact h
  · extract_lets n nb k r c e opened
    have hopened : ∀ x ∈ opened, x.1.Inv := by
      intro x hx
      unfold opened at hx
      split at hx
      · split at hx
        · cases hx
        · split at hx
          · cases hx
            exact h.setPrec.initPage.setPageEntry
          · obtain ⟨y, hy, rfl⟩ := Option.map_eq_some_iff.1 hx
            exact (h.takeSlot hy).initPage.setPageEntry
      · cases hx
        exact h
    clear_value opened
    split
    · exact h
    · split
      · exact h
      · have hu := hopened _ rfl
        exact .layerCounts (.count (.count (.ite hu.pageRow.setPageEntry hu.pageRow)))

theorem State.Inv.clearMem {a n : Nat} (h : s.Inv) : (s.clearMem a n).Inv := by
  obtain ⟨hmem, hpending⟩ : (s.dropCopies a n none).Inv := h.dropCopies
  exact ⟨SMap.wf_keep 0#8 (fun k _ => !(decide (a ≤ k) && decide (k < a + n))) hmem, hpending⟩

/-! ## Host page tables, mailboxes and the log -/

theorem State.Inv.noteArea {p k : Nat} (h : s.Inv) : (s.noteArea p k).Inv := by
  unfold State.noteArea
  refine .ite h ?_
  split
  · exact h.modPart
  · exact h

theorem State.Inv.arrivalList {p k : Nat} (h : s.Inv) : (s.arrivalList p k).Inv := by
  unfold State.arrivalList
  split
  · exact .ite h.homeWrite h
  · exact h

theorem State.Inv.partDone {t : Task} (h : s.Inv) : (s.partDone t).Inv := by
  unfold State.partDone
  split
  · exact h
  · refine .ite h ?_
    refine .ite (.modPart (.ite h.noteArea.homeWrite h.noteArea)) ?_
    refine .arrivalList ?_
    exact .modPart (.ite (.count (.ite h.noteArea.homeWrite h.noteArea)) (.ite h.noteArea.homeWrite h.noteArea))

theorem State.Inv.report {t : Task} {v : W32} (h : s.Inv) : (s.report t v).Inv := by
  unfold State.report
  split
  · exact h
  · exact .ite h h.modPart

theorem State.Inv.layerFails {p l : Nat} (h : s.Inv) : (s.layerFails p l).Inv := h.modPart

theorem State.Inv.taskDone {k : Nat} {t : Task} (h : s.Inv) : (s.taskDone k t).Inv := .ite h.setTask.partDone.layerFails h.setTask.partDone

theorem State.Inv.raiseLens {p : Nat} (h : s.Inv) : (s.raiseLens p).Inv := by
  unfold State.raiseLens
  refine .modPart ?_
  refine .foldl (fun u x hu => ?_) h
  split
  · exact hu.setCtx.modExtra
  · exact hu

theorem State.Inv.lensDone {p : Nat} (h : s.Inv) : (s.lensDone p).Inv := .ite h h.raiseLens

theorem State.Inv.skipTask {k : Nat} {st : Byte} {skipped : Bool} (h : s.Inv) : (s.skipTask k st skipped).Inv := by
  unfold State.skipTask
  split
  · exact h
  · exact h.taskDone.commitTask.lensDone

theorem State.Inv.emptyTerm {t : Task} {e : Nat} (h : s.Inv) : (s.emptyTerm t e).Inv := by
  unfold State.emptyTerm
  refine .ite h ?_
  split
  · exact h
  · exact h.setPart

theorem State.Inv.noteReady {k : Nat} (h : s.Inv) : (s.noteReady k).Inv := by
  unfold State.noteReady
  split
  · exact h
  · split
    · exact h.emptyTerm.skipTask
    · refine .ite h ?_
      dsimp only
      split
      · exact h.raiseVclock.setTask.count.skipTask
      · refine .ite h.raiseVclock.setTask.count.skipTask ?_
        exact .ite h.raiseVclock.setTask.count.skipTask h.raiseVclock.setTask
      · exact h.raiseVclock.setTask

theorem State.Inv.noteAll (h : s.Inv) : s.noteAll.Inv := .foldl (fun _ _ ht => ht.noteReady) h

theorem State.Inv.startRefetch {p pos : Nat} {es : List Nat} (h : s.Inv) : (s.startRefetch p pos es).Inv := h.setPart.count

theorem State.Inv.noteDispatch {k : Nat} {t : Task} (h : s.Inv) : (s.noteDispatch k t).Inv :=
  .count (.setTask (.update h.takeLayer.setPart))

theorem State.Inv.startCast {k : Nat} {t : Task} {c : Nat} (h : s.Inv) : (s.startCast k t c).Inv := by
  unfold State.startCast
  dsimp only
  split
  · exact .update h.setCore.count.noteDispatch
  · refine .ite (.update h.setCore.count.noteDispatch) ?_
    exact .arrivalList (.noteArea (.modPart (.update h.setCore.count.noteDispatch)))

theorem State.Inv.tryDispatch {k : Nat} {t : Task} {u : State} (h : s.Inv) (hu : s.tryDispatch k t = some u) : u.Inv := by
  revert hu
  unfold State.tryDispatch
  dsimp only
  split
  · exact nofun
  · split
    · rintro ⟨⟩
      exact h.jobFault
    · split
      · exact nofun
      · split
        · rw [Option.map_eq_some_iff]
          rintro ⟨i, -, rfl⟩
          exact h.noteDispatch
        · rw [Option.map_eq_some_iff]
          rintro ⟨c, -, rfl⟩
          exact .ite h.startCast h.startRefetch

theorem State.Inv.freeScratch {p i : Nat} (h : s.Inv) : (s.freeScratch p i).Inv := by
  unfold State.freeScratch
  split
  · exact h
  · exact .modExtra (.foldl (fun _ _ ht => ht.dropPage) h)

theorem State.Inv.appendPath {p i : Nat} {d : W512} {path : List Nat} {g : Nat} {x : Scratch} (h : s.Inv) :
    (s.appendPath p i d path g x).1.Inv := .foldl_fst (fun _ _ ht => .ite_fst ht (.ite_fst ht.appendRow ht.appendRow.modExtra)) h

theorem State.Inv.reportTree {t : Task} {accepted : Nat} {tokens : List W32} (h : s.Inv) : (s.reportTree t accepted tokens).Inv := by
  unfold State.reportTree
  split
  · exact .ite h h
  · exact h

theorem State.Inv.dropTree {k : Nat} {t : Task} (h : s.Inv) : (s.dropTree k t).Inv := by
  unfold State.dropTree
  split
  · exact h
  · split
    · exact .ite h h.freeScratch
    · exact h

theorem State.Inv.acceptTree {k : Nat} {t : Task} (h : s.Inv) : (s.acceptTree k t).Inv := by
  unfold State.acceptTree
  split
  · exact h
  · refine .ite h ?_
    split
    · exact h
    · refine .modPart ?_
      refine .freeScratch ?_
      exact .taskStatus (.foldl_fst (fun _ _ ht => ht.appendPath) (.count (.count (.count (.reportTree h)))))

theorem State.Inv.publish {p : Nat} {incomplete : Bool} (h : s.Inv) : (s.publish p incomplete).Inv := h.setPart

theorem State.Inv.ctxIntermission {r : W64} {st : Nat} (h : s.Inv) : (s.ctxIntermission r st).Inv := by
  unfold State.ctxIntermission
  refine .ite h ?_
  split
  · exact .ite h h.setCtx
  · exact h

theorem State.Inv.intermissions {p : Nat} (h : s.Inv) : (s.intermissions p).Inv :=
  .foldl (fun _ _ ht => .ctxIntermission (.update (.ite ht.count ht))) h

theorem State.Inv.roster {p : Nat} (h : s.Inv) : (s.roster p).Inv := .ite h.modPart h.modPart.homeWrite.modPart

theorem State.Inv.readyBits {old new : Option Sheet} (h : s.Inv) : (s.readyBits old new).Inv :=
  .foldl (fun _ _ ht => ht.setCore) (.foldl (fun _ _ ht => ht.setCore) h)

theorem State.Inv.applySelect {p : Nat} (h : s.Inv) : (s.applySelect p).Inv := h.modPart.readyBits

theorem State.Inv.takePreset {p : Nat} (h : s.Inv) : (s.takePreset p).Inv := h.modPart

theorem State.Inv.startStep {p inc : Nat} (h : s.Inv) : (s.startStep p inc).Inv := by
  unfold State.startStep
  refine .modPart ?_
  refine .takePreset ?_
  refine .roster ?_
  refine .intermissions ?_
  refine .applySelect ?_
  refine .ite (.setCfg (.modPart (.update (.foldl (fun _ _ ht => ht.freeScratch) (.update h.freeEncores.dropJobs))))) ?_
  exact .modPart (.update (.foldl (fun _ _ ht => ht.freeScratch) (.update h.freeEncores.dropJobs)))

/-! ## Fly operations and fetches -/

theorem State.Inv.countTier {p tier n : Nat} (h : s.Inv) : (s.countTier p tier n).Inv := h.count

theorem State.Inv.engineRead {p : Nat} {rs : List (Nat × Nat)} (h : s.Inv) : (s.engineRead p rs).1.Inv := by
  unfold State.engineRead
  dsimp only
  split
  · exact h.countHold
  · refine .ite_fst h ?_
    split
    · exact h.readError
    · exact h

theorem State.Inv.farRead {job : EngineJob} {n : Nat} {b : Arrival} (h : s.Inv) : (s.farRead job n b).1.Inv := .ite_fst h h.jobStatus

theorem State.Inv.fetch {job : EngineJob} {p u : Nat} {o : W512} {ext : Bool} {off n : Nat} {b : Arrival} (h : s.Inv) :
    (s.fetch job p u o ext off n b).1.Inv := by
  unfold State.fetch
  extract_lets r tier tags raw
  have hraw : raw.1.Inv := by
    unfold raw
    split
    · exact h.refuseCount
    · dsimp only
      split
      · exact h
      · split
        · next ht => exact h.engineRead.of_fst ht
        · next ht => exact h.engineRead.of_fst ht
    · split
      · next ht => exact h.engineRead.of_fst ht
      · next ht =>
        split
        · next hu => exact (h.engineRead.of_fst ht).farRead.of_fst hu
        · next hu => exact (h.engineRead.of_fst ht).farRead.of_fst hu
  clear_value raw
  split
  · exact hraw
  · dsimp only
    split
    · exact hraw.countTier
    · split
      · exact hraw.countTier
      · exact .foldl (fun _ _ hu => hu.count.logFault) hraw.countTier

theorem State.Inv.tileFail {p u : Nat} {bs : List Byte} (h : s.Inv) : (s.tileFail p u bs).Inv := h.logFault

theorem State.Inv.checkTiles {p u : Nat} {bs : List Byte} {ts : List (Nat × Nat)} (h : s.Inv) : (s.checkTiles p u bs ts).1.Inv :=
  .foldl_fst (fun _ _ ht => .ite_fst ht ht.count.tileFail) h

theorem State.Inv.flyDone {k p : Nat} {st : Byte} (h : s.Inv) : (s.flyDone k p st).Inv := .finish (.ite h.count h)

theorem State.Inv.flyOp {unused : List (Nat × Nat)} {run : State → Nat → Nat → W512 → State} {k p : Nat} {w : W512} (h : s.Inv)
    (hrun : (run s k p w).Inv) : (State.flyOp unused run s k p w).Inv := .ite h.finish hrun

/-! ## Cue sheets -/

theorem State.Inv.cueLoadOp {k p : Nat} {w : W512} (h : s.Inv) : (s.cueLoadOp k p w).Inv := by
  unfold State.cueLoadOp
  dsimp only
  split
  · exact h.count.flyDone
  · exact .ite h.flyDone h.modPart.flyDone

theorem State.Inv.cueSelectOp {k p : Nat} {w : W512} (h : s.Inv) : (s.cueSelectOp k p w).Inv :=
  .ite h.flyDone (.ite h.modPart h.modPart.applySelect)

theorem State.Inv.cueUnloadOp {k p : Nat} {w : W512} (h : s.Inv) : (s.cueUnloadOp k p w).Inv := .ite h.flyDone h.setPart.flyDone

theorem State.Inv.askFar {job : EngineJob} {p : Nat} {o : W512} {ext : Bool} {off n : Nat} (h : s.Inv) :
    (s.askFar job p o ext off n).Inv := by
  unfold State.askFar
  split
  · exact h.startJob
  · exact h

theorem State.Inv.takeEntry {p i e : Nat} (h : s.Inv) : (s.takeEntry p i e).Inv := h.modPart

theorem KeepsInv.cueEntryStart {p : Fin 128} {i : Nat} (h : s.Inv) : KeepsInv (execCueEntryStart p i s) := by
  unfold execCueEntryStart
  refine .ite ?_ (.next h)
  dsimp only
  split
  · exact .next h.takeEntry
  · split
    · exact .next h.takeEntry
    · exact .next h.takeEntry.askFar

theorem State.Inv.setReady {x : Part} {e : CueEntry} {bad : List Nat} (h : s.Inv) : (s.setReady x e bad).Inv := .ite h h.setCore

theorem State.Inv.poisonEntry {p u : Nat} {e : CueEntry} {cause : Byte} (h : s.Inv) : (s.poisonEntry p u e cause).Inv :=
  h.count.logFault.setReady

theorem State.Inv.placeEntry {p u : Nat} {e : CueEntry} {f : Fetched} (h : s.Inv) : (s.placeEntry p u e f).Inv := by
  unfold State.placeEntry
  split
  · exact h.poisonEntry
  · exact .setReady (.ite h.checkTiles.homeWrite.count h.checkTiles.homeWrite.count.count.logFault)

theorem KeepsInv.cueEntryPlaced {p : Fin 128} {i : Nat} {b : Arrival} (h : s.Inv) : KeepsInv (execCueEntryPlaced p i b s) := by
  unfold execCueEntryPlaced
  dsimp only
  split
  · exact .next h
  · split
    · exact .next h
    · refine .ite (.next h) ?_
      split
      · exact .next h
      · split
        · next e4 => exact .next (h.fetch.of_fst e4)
        · next e4 => exact .next (.wakeHeld (.ite (h.fetch.of_fst e4).modPart.poisonEntry (h.fetch.of_fst e4).modPart.placeEntry))

/-! ## The casting unit -/

theorem State.Inv.segsOut {p : Nat} {c : CastCall} {phase round : Nat} {f : Nat → Nat × List Byte} (h : s.Inv) :
    (s.segsOut p c phase round f).1.Inv := .foldl (fun _ _ ht => ht.postSeg) h

theorem State.Inv.setCall {p : Nat} {c : CastCall} (h : s.Inv) : (s.setCall p c).Inv := h.modPart

theorem State.Inv.sendCounts {p : Nat} {c : CastCall} (h : s.Inv) : (s.sendCounts p c).1.Inv := h.segsOut

theorem State.Inv.sendScores {p : Nat} {c : CastCall} (h : s.Inv) : (s.sendScores p c).1.Inv := h.segsOut

theorem State.Inv.selectExperts {p : Nat} {c : CastCall} {gs : List (Nat × Segment)} (h : s.Inv) : (s.selectExperts p c gs).Inv :=
  h.segsOut.sendCounts.setCall

theorem State.Inv.sendOffers {p : Nat} {c : CastCall} {round : Nat} {offers : List (Nat × Nat)} (h : s.Inv) :
    (s.sendOffers p c round offers).1.Inv := h.segsOut

theorem State.Inv.offerWeight {c : CastCall} {e : Nat} {b : W32} (h : s.Inv) : (s.offerWeight c e b).1.Inv := .ite_fst h h.draw

theorem State.Inv.takeOffers {c : CastCall} {slot e : Nat} {mine : List (Nat × W32)} (h : s.Inv) : (s.takeOffers c slot e mine).1.Inv := by
  refine State.Inv.foldl_fst (fun b o hb => ?_) h
  dsimp only
  split
  · exact hb
  · exact hb.offerWeight

theorem State.Inv.reofferCount {c : CastCall} {lost : List (Nat × Nat)} (h : s.Inv) : (s.reofferCount c lost).1.Inv := .ite_fst h h.draw

theorem State.Inv.answerOffers {p : Nat} {c : CastCall} {gs : List (Nat × Segment)} (h : s.Inv) : (s.answerOffers p c gs).Inv :=
  .setCall (.segsOut (.reofferCount (.foldl_fst (fun _ _ ht => ht.takeOffers) h)))

theorem State.Inv.settleOthers {c : CastCall} (h : s.Inv) : (s.settleOthers c).1.Inv := .foldl_fst (fun _ _ ht => .ite_fst ht ht.draw) h

theorem State.Inv.writeAssigns {p : Nat} {c : CastCall} (h : s.Inv) : (s.writeAssigns p c).Inv := h.homeWrites.setCall

theorem State.Inv.gatherCounts {p : Nat} {c : CastCall} {gs : List (Nat × Segment)} (h : s.Inv) : (s.gatherCounts p c gs).Inv :=
  h.homeWrites.setCall

theorem State.Inv.endCall {p : Nat} {c : CastCall} (h : s.Inv) : (s.endCall p c).Inv := by
  unfold State.endCall
  dsimp only
  split
  · exact .setTask (.modPart (.countCall (.foldl (fun _ _ ht => ht.homeWrite) h)))
  · exact .modPart (.countCall (.foldl (fun _ _ ht => ht.homeWrite) h))

theorem State.Inv.callSettle {p : Nat} (h : s.Inv) : (s.callSettle p).Inv := by
  unfold State.callSettle
  split
  · exact h
  · exact .ite h.endCall h

theorem State.Inv.callStep {p : Nat} {c : CastCall} {t : State} (h : s.Inv) (ht : s.callStep p c = some t) : t.Inv := by
  revert ht
  unfold State.callStep
  split
  · rw [Option.map_eq_some_iff]
    rintro ⟨gs, -, rfl⟩
    exact h.selectExperts
  · rw [Option.map_eq_some_iff]
    rintro ⟨gs, -, rfl⟩
    exact h.answerOffers
  · rw [Option.map_eq_some_iff]
    rintro ⟨gs, -, rfl⟩
    dsimp only
    split
    · exact h.settleOthers.sendCounts.writeAssigns
    · exact h.sendOffers.setCall
  · rw [Option.map_eq_some_iff]
    rintro ⟨gs, -, rfl⟩
    exact h.writeAssigns
  · rw [Option.map_eq_some_iff]
    rintro ⟨gs, -, rfl⟩
    exact h.gatherCounts
  · exact nofun

theorem State.Inv.callRun {p n : Nat} (h : s.Inv) : (s.callRun p n).Inv := by
  induction n generalizing s with
  | zero => exact h
  | succ n ih =>
    unfold State.callRun
    split
    · exact h
    · split
      · next ht => exact ih (h.callStep ht)
      · exact h.callSettle

theorem State.Inv.callTake {p : Nat} {g : Segment} (h : s.Inv) : (s.callTake p g).Inv := by
  unfold State.callTake
  split
  · exact h
  · exact .ite h.failCall (.ite h.count.failCall h.setCall.callRun)

theorem State.Inv.segArrive {p : Nat} {r : FabReq} {g : Segment} (h : s.Inv) : (s.segArrive p r g).Inv := by
  unfold State.segArrive
  refine .ite h.count.credit ?_
  split
  · exact .ite h.setPart (.ite h.refuseSeg h.setPart.credit.callTake)
  · exact h.setPart

theorem State.Inv.rowsFor {p : Nat} {c : CastCall} {d : W512} {phase i r : Nat} (h : s.Inv) : (s.rowsFor p c d phase i r).1.Inv :=
  .ite_fst h h.linkSend

theorem State.Inv.rowsUse {p : Nat} {c : CastCall} {a : CollRun} {r : FabReq} {g : Segment} (h : s.Inv) :
    (s.rowsUse p c a r g).Inv := by
  unfold State.rowsUse
  split
  · exact h.refuseSeg
  · dsimp only
    split
    · exact h.collTake
    · exact h.linkRead.collTake

theorem State.Inv.rowsTake {p : Nat} {r : FabReq} {g : Segment} (h : s.Inv) : (s.rowsTake p r g).Inv := by
  unfold State.rowsTake
  dsimp only
  split
  · exact .ite h.rowsUse h.setPart
  · exact h.setPart

theorem State.Inv.rowsArrive {p : Nat} {r : FabReq} {g : Segment} (h : s.Inv) : (s.rowsArrive p r g).Inv :=
  .ite h.count.credit h.setPart.rowsTake

theorem State.Inv.heldRows {p : Nat} (h : s.Inv) : (s.heldRows p).Inv := by
  unfold State.heldRows
  refine .foldl (fun u x hu => ?_) h.setPart
  split
  · exact hu.rowsTake
  · exact hu

theorem State.Inv.rowsStart {p : Nat} {c : CastCall} {a : CollRun} {phase : Nat} (h : s.Inv) : (s.rowsStart p c a phase).Inv := by
  unfold State.rowsStart
  refine .foldl (fun u x hu => ?_) (.foldl (fun _ _ ht => .ite ht.rowsFor.rowsUse ht.rowsFor.postSeg) h)
  exact .ite hu.collTake hu.collPost

theorem State.Inv.callBegin {p : Nat} {c : CastCall} (h : s.Inv) : (s.callBegin p c).Inv := .ite h.sendScores.setCall h.sendOffers.setCall

theorem State.Inv.takeHeld {p : Nat} {c : CastCall} (h : s.Inv) : (s.takeHeld p c).Inv := by
  unfold State.takeHeld
  refine .callRun ?_
  refine .foldl (fun u x hu => ?_) h.setPart
  split
  · exact .ite hu.credit.callTake hu.refuseSeg
  · exact hu

/-! ## Dimmer and permits -/

theorem State.Inv.limits (h : s.Inv) : s.limits.Inv := by
  unfold State.limits
  exact .update h

theorem State.Inv.setRequest {c : BitVec 12} {n : Nat} (h : s.Inv) : (s.setRequest c n).Inv := h

theorem State.Inv.sendCues {force : Bool} (h : s.Inv) : (s.sendCues force).Inv := by
  unfold State.sendCues
  split
  · exact h
  · exact .pumpSends (.foldl (fun _ _ ht => ht.post) h)

theorem State.Inv.request {lower : Bool} (h : s.Inv) : (s.request lower).Inv := by
  unfold State.request
  refine .ite h ?_
  split
  · exact h
  · exact .ite (.update h.setRequest.sendCues) h.setRequest.sendCues

theorem State.Inv.commandVolts {step : Nat} (h : s.Inv) : (s.commandVolts step).Inv := h.send.send

theorem State.Inv.startRaise {n : Nat} (h : s.Inv) : (s.startRaise n).Inv := .commandVolts h

theorem State.Inv.cancelRaise (h : s.Inv) : s.cancelRaise.Inv := .ite h (.ite (.commandVolts h) h.startRaise)

theorem State.Inv.steer (h : s.Inv) : s.steer.Inv := by
  unfold State.steer
  split
  · exact .ite h (.ite h.startRaise h)
  · exact .ite h.cancelRaise h
  · exact .ite h.cancelRaise h
  · exact h

theorem State.Inv.blackoutFor {reason : Nat} {on : Bool} (h : s.Inv) : (s.blackoutFor reason on).Inv := h

theorem State.Inv.noteReason {n : Nat} (h : s.Inv) : (s.noteReason n).Inv := h

theorem State.Inv.bindReasons (h : s.Inv) : s.bindReasons.Inv := .settle (.foldl (fun _ _ ht => ht.noteReason) h)

theorem State.Inv.slewMark {i : Nat} (h : s.Inv) : (s.slewMark i).Inv := h

theorem State.Inv.slewOn (h : s.Inv) : s.slewOn.Inv := by
  have hhop : (match s.dim.slew, s.dim.move with
      | .hop, .lowerHop _ => s
      | .hop, .raiseHop _ => s
      | .hop, _ => { s.slewMark 1 with dim := { (s.slewMark 1).dim with slew := .voltage } }
      | _, _ => s).Inv := by
    split
    · exact h
    · exact h
    · exact .update h.slewMark
    · exact h
  unfold State.slewOn
  dsimp only
  split
  · exact .update hhop.slewMark
  · exact hhop

theorem State.Inv.setBlackout {estimate : Bool} (h : s.Inv) : (s.setBlackout estimate).Inv :=
  .ite h.blackoutFor.blackoutFor (.ite (.update h.blackoutFor.slewMark.blackoutFor) h.blackoutFor)

theorem State.Inv.reassess {estimate : Bool} (h : s.Inv) : (s.reassess estimate).Inv :=
  .bindReasons (.slewOn (.steer (.setBlackout (.ite (.update h.limits) (.request (.update h.limits))))))

theorem State.Inv.repermit (h : s.Inv) : s.repermit.Inv := h.reassess

theorem State.Inv.slewWrite (h : s.Inv) : s.slewWrite.Inv := by
  unfold State.slewWrite
  refine .ite h.repermit ?_
  refine .bindReasons ?_
  refine .slewOn ?_
  split
  · refine .ite ?_ (.blackoutFor (.blackoutFor (.setBlackout (.ite (.update (.limits h)) (.request (.update (.limits h)))))))
    refine .update ?_
    exact .blackoutFor (.blackoutFor (.setBlackout (.ite (.update (.limits h)) (.request (.update (.limits h))))))
  · refine .update ?_
    exact .blackoutFor (.blackoutFor (.setBlackout (.ite (.update (.limits h)) (.request (.update (.limits h))))))
  · refine .steer ?_
    exact .blackoutFor (.blackoutFor (.setBlackout (.ite (.update (.limits h)) (.request (.update (.limits h))))))

theorem State.Inv.lockBarrier {p : Nat} (h : s.Inv) : (s.lockBarrier p).Inv := .ite h (.repermit h)

theorem State.Inv.lockCommitted (h : s.Inv) : s.lockCommitted.Inv := .ite (.repermit h) (.repermit (.ite (.request h) h))

theorem State.Inv.lockForget {c : BitVec 12} (h : s.Inv) : (s.lockForget c).Inv := .ite h.setRequest h

theorem State.Inv.takeCue {src : BitVec 12} {w : Nat} (h : s.Inv) : (s.takeCue src w).Inv :=
  .ite h.count (.ite (.repermit (.update h.setRequest)) h.setRequest)

/-! ## Ports -/

theorem State.Inv.lasers (h : s.Inv) : s.lasers.Inv := h

theorem State.Inv.toPhase {n : Nat} {ph : PortPhase} (h : s.Inv) : (s.toPhase n ph).Inv := .ite h.setPort.portGone h.setPort

theorem State.Inv.train {n : Nat} (h : s.Inv) : (s.train n).Inv := h.toPhase.setPort.send

theorem State.Inv.toRetrain {n : Nat} (h : s.Inv) : (s.toRetrain n).Inv := h.toPhase.count.send

theorem State.Inv.flitsAgain {n : Nat} (h : s.Inv) : (s.flitsAgain n).Inv := h.setPort.count.count

theorem State.Inv.pumpPort {n : Nat} (h : s.Inv) : (s.pumpPort n).Inv := h.setPort

theorem State.Inv.checkPort {n : Nat} (h : s.Inv) : (s.checkPort n).Inv :=
  .ite h.setPort.flitsAgain.pumpPort.cohPump.settle h.setPort.logOnly.logFault.settle

theorem State.Inv.retired {r : FaultRec} (h : s.Inv) : (s.retired r).Inv := .update h.count.logOnly

theorem State.Inv.trainFail {n : Nat} (h : s.Inv) : (s.trainFail n).Inv := h.transient

theorem State.Inv.retireHalves {n : Nat} {mask : BitVec 2} (h : s.Inv) : (s.retireHalves n mask).Inv :=
  .ite (.lasers (.toPhase (.setPort h))) (.ite (.toRetrain (.setPort h)) (.setPort h))

theorem State.Inv.trained {n : Nat} {far : Identity} (h : s.Inv) : (s.trained n far).Inv := .ite h.retireHalves.retired h.setPort.checkPort

theorem State.Inv.relight {n : Nat} (h : s.Inv) : (s.relight n).Inv := .ite h (.ite h.checkPort h.train)

theorem State.Inv.withdraw {tierD : Bool} {x n : Nat} (h : s.Inv) : (s.withdraw tierD x n).Inv := by
  induction n generalizing s with
  | zero => exact h
  | succ n ih =>
    unfold State.withdraw
    dsimp only
    split
    · exact h
    · split
      · exact h
      · exact ih (.logFault h)

theorem State.Inv.retireChannel {tierD : Bool} {x : Nat} (h : s.Inv) : (s.retireChannel tierD x).Inv := .update (.withdraw h)

theorem State.Inv.coreLost {c p : Nat} (h : s.Inv) : (s.coreLost c p).Inv := by
  unfold State.coreLost
  refine .ite h ?_
  refine .ite h.count.jobFault ?_
  split
  · exact h.count.jobFault
  · split
    · exact h
    · exact h.startReplay

theorem State.Inv.retireCore {c : Nat} (h : s.Inv) : (s.retireCore c).Inv :=
  .setArray (.setArray (.update (.foldl (fun _ _ ht => ht.coreLost) h)))

theorem State.Inv.retireSite {x : Site} (h : s.Inv) : (s.retireSite x).Inv := by
  unfold State.retireSite
  split
  · exact h.retireChannel
  · exact h.retireChannel
  · exact h.retireCore
  · exact h.retireHalves
  · exact .ite h.retireHalves h.retireHalves
  · exact h

theorem State.Inv.makePermanent {x : Site} {cause : Nat} {detail detail2 : W64} {status : Byte} {part : Nat} (h : s.Inv) :
    (s.makePermanent x cause detail detail2 status part).Inv := .retired (.update h.retireSite)

/-! ## Port commands -/

theorem State.Inv.nakSeen {n ack : Nat} (h : s.Inv) : (s.nakSeen n ack).Inv :=
  .ite h.setPort.flitsAgain.setPort.toRetrain h.setPort.flitsAgain

theorem State.Inv.noteSymbols {n : Nat} {w : List Nat} (h : s.Inv) : (s.noteSymbols n w).Inv := h.setPort

theorem State.Inv.codewords {n : Nat} {c : FlitCheck} (h : s.Inv) : (s.codewords n c).Inv := by
  unfold State.codewords
  split
  · exact h.count.count.noteSymbols
  · exact h.count
  · exact h

theorem KeepsInv.flit {n : Fin 24} {f : Flit} {check : FlitCheck} (h : s.Inv) : KeepsInv (execFlit n f check s) := by
  unfold execFlit
  refine .ite (.next h) ?_
  refine .ite (.next h.codewords.setPort.send) ?_
  refine .ite (.next (.ite h.codewords.setPort.nakSeen h.codewords.setPort)) ?_
  refine .next ?_
  refine .ite (.setPort (.pumpPort (.ite h.codewords.setPort.nakSeen h.codewords.setPort))) ?_
  exact .pumpPort (.ite h.codewords.setPort.nakSeen h.codewords.setPort)

theorem State.Inv.lightGone {n : Nat} (h : s.Inv) : (s.lightGone n).Inv := .ite h h.toPhase.setPort.settle

/-! ## Store operations -/

theorem State.Inv.storeJob {j : StoreJob} (h : s.Inv) : (s.storeJob j).Inv := .ite h h

theorem OkInv.storeCmd {w : Nat} (h : s.Inv) : OkInv (s.storeCmd w) :=
  .ite (.ite .error (.ite (.ok h) .error)) <|
  .ite (.ite .error (.ite .error (.ite (.ok (.storeJob h)) (.ok h)))) <|
  .ite (.ite .error (.ite .error (.ok h))) <|
  .ite (.ite .error (.ite .error (.ok h.storeJob))) <|
  .ite (.ite .error (.ite .error (.ok h.storeJob))) .error

theorem OkInv.storeSave {sub : Nat} {restore : Bool} (h : s.Inv) : OkInv (s.storeSave sub restore) := .ite .error (.ok (.storeJob h))

theorem OkInv.storeOwner {r : List Byte} (h : s.Inv) : OkInv (s.storeOwner r) := by
  refine .ite .error ?_
  split
  · exact .error
  · exact .ok (.storeJob h)

/-! ## Allocations, objects, keys and fills -/

theorem State.Inv.allocOp {k p : Nat} {w : W512} (h : s.Inv) : (s.allocOp k p w).Inv := .ite h.flyDone (.ite h.flyDone (.flyDone h))

theorem State.Inv.freeOp {k p : Nat} {w : W512} (h : s.Inv) : (s.freeOp k p w).Inv := by
  unfold State.freeOp
  dsimp only
  split
  · exact h.flyDone
  · exact .ite h.flyDone (.flyDone h)

theorem State.Inv.objRegisterOp {k p : Nat} {w : W512} (h : s.Inv) : (s.objRegisterOp k p w).Inv :=
  .ite h.flyDone (.ite h.memError.flyDone (.ite h.flyDone (.ite h.flyDone (.flyDone h))))

theorem State.Inv.objRetireOp {k p : Nat} {w : W512} (h : s.Inv) : (s.objRetireOp k p w).Inv := by
  unfold State.objRetireOp
  dsimp only
  split
  · exact h.flyDone
  · exact .ite h.flyDone (.flyDone h)

theorem State.Inv.fillOp {k p : Nat} {w : W512} (h : s.Inv) : (s.fillOp k p w).Inv := by
  unfold State.fillOp
  refine .ite (.flyDone (.ite h.refuseCount h)) ?_
  split
  · dsimp only
    split
    · exact .startJob (.update (.ite h.refuseCount h))
    · exact .update (.ite h.refuseCount h)
  · exact .ite h.refuseCount h

theorem State.Inv.countFill {p : Nat} {w : W512} {n : Nat} (h : s.Inv) : (s.countFill p w n).Inv := by
  unfold State.countFill
  split
  · split
    · exact h.countTier
    · exact h.countTier
    · exact h.countTier
    · exact h
  · exact .ite h.countTier h

theorem State.Inv.fillWrite {a : Nat} {bs : List Byte} {bad : List (Nat × Nat)} (h : s.Inv) : (s.fillWrite a bs bad).Inv :=
  .foldl (fun _ _ ht => ht.addPoison) h.homeWrite

theorem State.Inv.fillVerify {p u : Nat} {o : W512} {ext : Bool} {off n : Nat} (h : s.Inv) : (s.fillVerify p u o ext off n).1.Inv := by
  unfold State.fillVerify
  refine .ite_fst h ?_
  refine .foldl_fst (fun u x hu => ?_) h
  dsimp only
  split
  · exact hu
  · exact hu.count.logFault

theorem KeepsInv.fillComplete {k : Nat} {b : Arrival} (h : s.Inv) : KeepsInv (execFillComplete k b s) := by
  have hdone (t : State) (ht : t.Inv) : ({ t.dropJobs (· == .fill k) with fills := SMap.del k t.fills } : State).Inv :=
    .update ht.dropJobs
  unfold execFillComplete
  split
  · exact .next h
  · split
    · exact .next h
    · extract_lets w p ext n done held src
      have hsrc : src.1.Inv := by
        unfold src
        split
        · split
          · exact h.countHold
          · split
            · exact h
            · extract_lets bad
              have hbad : (bad.foldl (fun (x : State × Bool) l => if x.2 then x else x.1.readError p (l * 64)) (s, false)).1.Inv := by
                refine .foldl_fst (fun x l hx => ?_) h
                split
                · exact hx
                · exact hx.readError
              split
              next hu =>
                split
                · exact hbad.of_fst hu
                · exact hbad.of_fst hu
        · split
          · next ht => exact h.farRead.of_fst ht
          · next ht => exact h.farRead.of_fst ht
      clear_value src
      split
      · exact .next (.flyDone (.update h))
      · refine .ite (.next h.countHold) (.ite (.next (hdone _ h).flyDone) ?_)
        split
        · exact .next hsrc
        · refine .ite (.next (hdone _ hsrc).flyDone) (.next (.flyDone (hdone _ ?_)))
          exact hsrc.countFill.fillWrite.draw.fillVerify

theorem State.Inv.keyLoadOp {k p : Nat} {w : W512} (h : s.Inv) : (s.keyLoadOp k p w).Inv := by
  unfold State.keyLoadOp
  refine .ite h.flyDone ?_
  split
  · exact h.memError.flyDone
  · dsimp only
    split
    · exact h.count.flyDone
    · exact .ite h.flyDone (.flyDone h)

theorem State.Inv.keyDropOp {k p : Nat} {w : W512} (h : s.Inv) : (s.keyDropOp k p w).Inv := .ite (.flyDone h) h.flyDone

/-! ## Wing entries -/

theorem State.Inv.wingWrite {idx sub off : Nat} {d : List Byte} (h : s.Inv) : (s.wingWrite idx sub off d).Inv := h

theorem State.Inv.emptyWings {held : List (Nat × Nat)} (h : s.Inv) : (s.emptyWings held).Inv := h

theorem State.Inv.adoptPart {p : Nat} (h : s.Inv) : (s.adoptPart p).Inv := by
  unfold State.adoptPart
  dsimp only
  split
  · exact .ite h h.modPart.startStep.lockBarrier.positions
  · exact h.modPart
  · exact h

theorem State.Inv.adoptLinks (h : s.Inv) : s.adoptLinks.Inv :=
  .settle (.lasers (.foldl (fun _ _ ht => .ite (.ite ht ht.toPhase) (.ite ht.checkPort ht.relight)) h))

theorem State.Inv.adoptPreset {p : Nat} (h : s.Inv) : (s.adoptPreset p).Inv := h.modPart

theorem State.Inv.adopt {e : Nat × Nat} (h : s.Inv) : (s.adopt e).Inv := by
  unfold State.adopt
  dsimp only
  split
  · exact .ite (.lockCommitted (.ite h.storeJob h)) (.ite h.storeJob h)
  · exact .adoptLinks (.ite h.storeJob h)
  · exact .update (.ite h.storeJob h)
  · exact .adoptPreset (.ite h.storeJob h)
  · exact .ite (.adoptPart (.ite h.storeJob h)) (.ite h.storeJob h)

theorem OkInv.curtain {v : Nat} (h : s.Inv) : OkInv (s.curtain v) := by
  unfold State.curtain
  dsimp only
  split
  · exact .error
  · exact .ok (.settle (.count (.foldl (fun _ _ ht => ht.adopt) (.emptyWings h))))

theorem State.Inv.curtainRefused {v : Nat} {t : State} (h : s.Inv) (ht : s.curtain v = .error t) : t.Inv := by
  unfold State.curtain at ht
  dsimp only at ht
  split at ht
  · cases ht
    exact .count h
  · cases ht

/-! ## Dictionary operations -/

theorem OkInv.keep {idx sub off : Nat} {d : List Byte} (h : s.Inv) : OkInv (s.keep idx sub off d) := .ok h.setCfg

theorem OkInv.ranged {idx sub : Nat} {d : List Byte} {lo hi : Nat} {f : State → State} (h : s.Inv)
    (hf : ∀ t : State, t.Inv → (f t).Inv) : OkInv (s.ranged idx sub d lo hi f) :=
  .ite .error (.ite .error (.ok (hf _ h.setCfg)))

theorem OkInv.resume {v : Nat} (h : s.Inv) : OkInv (s.resume v) :=
  .ite .error (.ite .error (.ok (.bindReasons (.logFault (.blackoutFor h)))))

theorem OkInv.clearLayer {p v : Nat} (h : s.Inv) : OkInv (s.clearLayer p v) := .ite (.ok h.modPart) (.ite (.ok h.modPart) .error)

theorem OkInv.ucodeGo {mask : Nat} (h : s.Inv) : OkInv (s.ucodeGo mask) := by
  refine .ite .error ?_
  split
  · exact .ite (.ok h) (.ok h.logFault)
  · exact .ok h.logFault

theorem OkInv.portRetrain {n v : Nat} (h : s.Inv) : OkInv (s.portRetrain n v) :=
  .ite .error (.ite .error (.ite (.ok h.toRetrain) (.ok h)))

theorem State.Inv.budgets {off : Nat} {d : List Byte} (h : s.Inv) : (s.budgets off d).Inv := .foldl (fun _ _ ht => .ite ht.setCfgByte ht) h

theorem State.Inv.takeNonce {d : List Byte} (h : s.Inv) : (s.takeNonce d).Inv := .ite h h

theorem OkInv.stage {off : Nat} {d : List Byte} (h : s.Inv) : OkInv (s.stage off d) := .ite .error (.ok h)

theorem OkInv.liveCan {idx sub : Nat} {d : List Byte} (h : s.Inv) : OkInv (s.liveCan idx sub d) :=
  .ite (.ite (.ok h) .error) <|
  .ite (.ite .error (.ite .error (.storeSave h))) <|
  .ite (.ite .error (.keep h)) <|
  .ite (.ite (.keep h) .error) <|
  .ite (.ranged h fun _ ht => ht) (.keep h)

/-- A live write that is refused leaves the invariant as well as one that is accepted. -/
def LiveInv (r : Except (State × W32) State) : Prop := OkInv r ∧ ∀ t e, r = .error (t, e) → t.Inv

theorem LiveInv.ok (h : s.Inv) : LiveInv (.ok s) := ⟨.ok h, by rintro _ _ ⟨⟩⟩

theorem LiveInv.error {e : W32} (h : s.Inv) : LiveInv (.error (s, e)) := by
  refine ⟨.error, ?_⟩
  rintro _ _ ⟨⟩
  exact h

theorem State.Inv.live {scope : Option Nat} {idx sub off : Nat} {d : List Byte} (h : s.Inv) : LiveInv (s.live scope idx sub off d) := by
  unfold State.live
  extract_lets v lift
  have hlift {r : Except W32 State} (hr : OkInv r) : LiveInv (lift r) := by
    cases r with
    | ok t => exact .ok (hr t rfl)
    | error e => exact .error h
  split
  · split
    · exact hlift (.ranged h fun _ ht => ht.slewWrite)
    · split
      · exact hlift (.ranged h fun _ ht => ht.repermit)
      · exact hlift (.ranged h fun _ ht => ht.repermit)
  · split
    · exact hlift (.resume h)
    · exact hlift (.ranged h fun _ ht => ht)
  · exact hlift (.clearLayer h)
  · split
    · exact hlift (.ucodeGo h)
    · exact hlift (.keep h)
  · exact hlift (.portRetrain h)
  · split
    · exact .error h
    · split
      · split
        · next ht => exact .ok (OkInv.curtain h _ ht)
        · next ht => exact .error (h.curtainRefused ht)
      · exact .ok h.emptyWings
  · exact hlift (.stage h)
  · exact hlift (.storeCmd h)
  · exact hlift (.storeOwner h)
  · exact .ok h.takeNonce
  · exact .ok h.budgets
  · split
    · split
      · exact .ok h.jobFault
      · exact .error h
    · split
      · exact hlift (.liveCan h)
      · exact hlift (.keep h)

theorem OkInv.idle {idx sub : Nat} {d : List Byte} (h : s.Inv) : OkInv (s.idle idx sub d) := by
  refine .ite (.ite .error (.ite .error (.keep h))) ?_
  split
  · exact .error
  · exact .keep h

theorem State.Inv.dictWrite {scope : Option Nat} {x : OdAddr} {d : List Byte} (h : s.Inv) : (s.dictWrite scope x d).1.Inv := by
  have hrefuse {t : State} (ht : t.Inv) (e : W32) : ((if e = abScope then t.count .scopeRefusals else t).count .aborts).Inv :=
    .count (.ite ht.count ht)
  unfold State.dictWrite
  extract_lets idx sub off refuse
  split
  · exact hrefuse h _
  · split
    · split
      · exact hrefuse h _
      · exact h.wingWrite
    · split
      · exact hrefuse h _
      · split
        · next ht => exact OkInv.idle h _ ht
        · exact hrefuse h _
    · split
      · exact hrefuse h _
      · split
        · next ht => exact h.live.1 _ ht
        · next ht => exact hrefuse (h.live.2 _ _ ht) _

theorem State.Inv.dictRead {scope : Option Nat} {x : OdAddr} {n : Option Nat} {wings : Bool} (h : s.Inv) :
    (s.dictRead scope x n wings).1.Inv := by
  unfold State.dictRead
  split
  · exact h
  · exact .count (.ite h.count h)

/-! ## Mailboxes -/

theorem State.Inv.mbxDone {m : Nat} {ab : W32} {count : Nat} (h : s.Inv) : (s.mbxDone m ab count).Inv :=
  .ite h.setMailbox.msix (.ite h.setMailbox.msix h.setMailbox)

theorem State.Inv.mbxPerform {m op : Nat} (h : s.Inv) : (s.mbxPerform m op).Inv := by
  unfold State.mbxPerform
  refine .ite h.count.mbxDone ?_
  refine .ite h.count.mbxDone ?_
  refine .ite h.setMailbox.mbxDone ?_
  refine .ite h.count.mbxDone ?_
  refine .ite (.ite h.dictWrite.mbxDone h.dictWrite.mbxDone) ?_
  split
  · next e =>
      split
      · next e => exact (h.dictRead.of_fst e).setMailbox.mbxDone
      · next e => exact (h.dictRead.of_fst e).mbxDone

theorem State.Inv.mbxGo {m op : Nat} {seq : W32} (h : s.Inv) : (s.mbxGo m op seq).Inv :=
  .ite h.count (.ite h.setMailbox.mbxPerform (.update h.setMailbox))

theorem State.Inv.mbxRun {m op : Nat} {c : MbxCmd} (h : s.Inv) : (s.mbxRun m op c).Inv := .mbxGo (.ite h h.setMailbox)

theorem State.Inv.mbxStore {m off : Nat} {d : List Byte} (h : s.Inv) : (s.mbxStore m off d).Inv :=
  .ite (.mbxGo (.ite h h.setMailbox)) (.ite h h.setMailbox)

theorem State.Inv.usdoAnswer {r : Except W32 (List Byte)} (h : s.Inv) : (s.usdoAnswer r).Inv := by
  unfold State.usdoAnswer
  split
  · exact h.send
  · exact h.count.send

theorem State.Inv.usdoWrite {x : OdAddr} {d : List Byte} (h : s.Inv) : (s.usdoWrite x d).Inv :=
  .ite h.count.usdoAnswer h.dictWrite.usdoAnswer

theorem State.Inv.usdoRead {x : OdAddr} {segmented : Bool} (h : s.Inv) : (s.usdoRead x segmented).Inv := by
  unfold State.usdoRead
  split
  · next e =>
      split
      · next e => exact (h.dictRead.of_fst e).usdoAnswer
      · next e => exact .ite (.usdoAnswer (.update (h.dictRead.of_fst e))) (h.dictRead.of_fst e).usdoAnswer

theorem State.Inv.usdoPerform {write : Bool} {x : OdAddr} {d : List Byte} {segmented : Bool} (h : s.Inv) :
    (s.usdoPerform write x d segmented).Inv := .ite h (.ite h.usdoWrite h.usdoRead)

theorem State.Inv.writeBy {a : Acc} {x : OdAddr} {d : List Byte} (h : s.Inv) : (s.writeBy a x d).Inv := by
  unfold State.writeBy
  split
  · exact .ite h (.ite h h.dictWrite.usdoAnswer)
  · exact h.mbxRun

theorem State.Inv.serveReady (h : s.Inv) : s.serveReady.Inv := by
  unfold State.serveReady
  refine .foldl (fun u x hu => ?_) h
  split
  · exact hu.mbxPerform
  · exact hu.usdoPerform

/-! ## Host writes -/

theorem State.Inv.apertureWrite {f : Nat} {v : W64} (h : s.Inv) : (s.apertureWrite f v).Inv := .ite h.count h.setHostFn

theorem State.Inv.ctlWrite {v : W64} {a : CtlReg} (h : s.Inv) : (s.ctlWrite v a).Inv := by
  unfold State.ctlWrite
  split
  · exact h
  · split
    · exact h.ringWrite
    · exact h.ringWrite
    · exact h.ringWrite
    · exact h.ringWrite
    · exact h.ringWrite
    · exact h.sqTailWrite
    · exact h.cqHeadWrite
    · exact h.ringWrite
    · exact h.qresetWrite
    · exact h
  · split
    · exact h.ringWrite
    · exact h.ringWrite
    · exact h.ringWrite
    · exact h.sqTailWrite
    · exact h.ringWrite
    · exact h.cqHeadWrite
    · exact h.qresetWrite
    · exact h
  · exact .ite h.apertureWrite h

theorem State.Inv.ctlStore {o : Nat} {d : List Byte} (h : s.Inv) : (s.ctlStore o d).Inv :=
  .ite (.ite h.mbxStore.mbxStore h.mbxStore) (.foldl (fun _ _ ht => .ite ht.ctlWrite ht) h)

theorem State.Inv.homeRead {p : Nat} {reader : List Nat} {l n : Nat} (h : s.Inv) : (s.homeRead p reader l n).1.Inv := by
  unfold State.homeRead
  refine .ite_fst h ?_
  split
  · exact h
  · exact h.readError

theorem State.Inv.putHere {l : Nat} {d : List Byte} {input : Nat} (h : s.Inv) : (s.putHere l d input).Inv := .ite h.ctlStore h.writeMem

theorem State.Inv.homeGo {p : Nat} {reader : List Nat} {l : Nat} {o : HomeOp} {input : Nat} (h : s.Inv) :
    (s.homeGo p reader l o input).1.Inv := by
  unfold State.homeGo
  split
  · split
    · next e => exact h.homeRead.of_fst e
    · next e => exact h.homeRead.of_fst e
    · next e => exact h.homeRead.of_fst e
  · exact .foldl (fun _ _ ht => ht.putHere) h
  · dsimp only
    split
    · next e =>
        split
        · exact (h.homeRead.of_fst e).putHere
        · exact h.homeRead.of_fst e
    · next e => exact h.homeRead.of_fst e
    · next e => exact h.homeRead.of_fst e

theorem State.Inv.homeTry {p : Nat} {reader : List Nat} {except : Option Nat} {l : Nat} {o : HomeOp} {act : HomeAct} (h : s.Inv) :
    (s.homeTry p reader except l o act).1.Inv := .ite_fst h.homeGo (.update (.foldl (fun _ _ ht => ht.dropCopies) h))

theorem State.Inv.touched {k : Nat} {ps : List (Nat × Nat)} (h : s.Inv) : (s.touched k ps).Inv := by
  unfold State.touched
  split
  · exact h.setTask
  · exact h

theorem State.Inv.threadEnd {t : Tid} {x : RelAccess} {out : HomeOut} (h : s.Inv) : (s.threadEnd t x out).Inv := by
  unfold State.threadEnd
  split
  · exact h
  · split
    · exact h.setThread
    · exact h
    · split
      · exact h.touched.setThread
      · refine .ite h.raise ?_
        refine .setThread ?_
        split
        · exact h.setTask
        · exact h

/-! ## Memory instructions -/

theorem State.Inv.hold {t : Tid} {x : Thread} {w : Wait} (h : s.Inv) : (s.hold t x w).Inv := h.setThread

theorem State.Inv.threadLoad {t : Tid} {x : Thread} {k : Task} {a : W64} {n align : Nat} {pre : State → State}
    {kind : Nat → PendKind} (h : s.Inv) (hpre : (pre s).Inv) : (s.threadLoad t x k a n align pre kind).1.Inv := by
  unfold State.threadLoad
  dsimp only
  split
  · exact h.raise
  · split
    · exact h.refuseCount.raise
    · split
      · exact h.raise
      · split
        · exact h.hold
        · split
          · exact h.countHold.hold
          · split
            · next hu => exact hpre.homeRead.of_fst hu
            · next hu => exact (hpre.homeRead.of_fst hu).raise
            · next hu => exact hpre.homeRead.of_fst hu
    · split
      · exact h.count.hold
      · split
        · exact h.hold
        · split
          · exact hpre
          · split
            · next hu => exact (hpre.sendReq.of_fst hu).setThread
            · next hu => exact (hpre.sendReq.of_fst hu).farFail
            · exact h.hold

theorem KeepsInv.ld {t : Tid} {f : MOp} (h : s.Inv) : KeepsInv (execLd t f s) := by
  refine .issue h fun x k => ?_
  split
  · next hu => exact ((h.threadLoad h).of_fst hu).setThread
  · next hu => exact (h.threadLoad h).of_fst hu

theorem KeepsInv.ldv {t : Tid} {f : MOp} (h : s.Inv) : KeepsInv (execLdv t f s) := by
  refine .issue h fun x k => ?_
  dsimp only
  split
  · next hu => exact ((h.threadLoad h).of_fst hu).setThread
  · next hu => exact (h.threadLoad h).of_fst hu

theorem KeepsInv.ldai {t : Tid} {f : SOp} (h : s.Inv) : KeepsInv (execLdai t f s) := by
  refine .issue h fun x k => ?_
  split
  · next hu => exact ((h.threadLoad h.acquireDrop).of_fst hu).setThread
  · next hu => exact (h.threadLoad h.acquireDrop).of_fst hu

theorem State.Inv.sendPieces {t : Tid} {task part : Nat} {cls : BitVec 2} {ps : List (W64 × List Byte)} {u : State} (h : s.Inv)
    (hu : s.sendPieces t task part cls ps = some u) : u.Inv := by
  induction ps generalizing s with
  | nil => cases hu; exact h
  | cons p ps ih =>
    have hsend {w : State} {x : Sent} (hw : (s.nearDrop (t.core.val / 64) p.1 p.2.length).sendReq (some part) 2
        (reqTo p.1 cls p.2.length (t.core.val / 64) p.2) (some task) (.store t) = (w, x)) : w.Inv := h.nearDrop.sendReq.of_fst hw
    revert hu
    unfold State.sendPieces
    dsimp only
    split
    · next hw => exact ih (hsend hw)
    · next hw => exact ih (hsend hw).storeFail
    · exact nofun

theorem State.Inv.storeNow {t : Tid} {x : Thread} {k : Task} {a : W64} {n : Nat} {cls : BitVec 2} {ps : List (W64 × List Byte)}
    {wait : Wait} (h : s.Inv) : (s.storeNow t x k a n cls ps wait).Inv := by
  unfold State.storeNow
  refine .ite h.setThread ?_
  refine .ite (.ite h.hold (.ite h.countHold.hold h.homeTry.threadEnd)) ?_
  refine .ite h.count.hold ?_
  refine .ite h.hold ?_
  split
  · next e =>
      split
      · exact .setThread (h.sendPieces e)
      · exact h.sendPieces e
  · exact h.hold

theorem State.Inv.threadStore {t : Tid} {x : Thread} {k : Task} {a : W64} {n align : Nat} {ps : List (W64 × List Byte)}
    {release relaxed : Bool} (h : s.Inv) : (s.threadStore t x k a n align ps release relaxed).Inv := by
  unfold State.threadStore
  refine .ite h.raise ?_
  split
  · exact h.refuseCount.raise
  · exact .ite (.ite h.raise (.ite h.hold h.storeNow)) h.raise
  · exact .ite h.raise (.ite h.raise (.ite h.hold h.storeNow))

theorem State.Inv.atomHere {t : Tid} {x : Thread} {k : Task} {op : AtomOp} {a : W64} {wide : Bool} {b c : W64} {gd : Nat} {acq : Bool}
    {wait : Wait} (h : s.Inv) : (s.atomHere t x k op a wide b c gd acq wait).Inv := by
  unfold State.atomHere
  dsimp only
  split
  · exact h.threadEnd
  · exact .ite h.hold (.ite h.countHold.hold (.ite h.hold (.threadEnd (.homeTry (.ite h h.takeLog)))))

theorem State.Inv.atomFar {t : Tid} {x : Thread} {k : Task} {op : AtomOp} {a : W64} {wide : Bool} {b c : W64} {gd : Nat} {release : Bool}
    {wait : Wait} (h : s.Inv) : (s.atomFar t x k op a wide b c gd release wait).Inv := by
  unfold State.atomFar
  refine .ite h.count.hold ?_
  refine .ite h.hold ?_
  refine .ite h.hold ?_
  refine .ite h.count.hold ?_
  dsimp only
  split
  · next e => exact .setThread (.of_fst (.sendReq (.nearDrop (.ite h h.setPeer.takeLog))) e)
  · exact h.farFail
  · exact h.hold

theorem State.Inv.atomNow {t : Tid} {x : Thread} {k : Task} {op : AtomOp} {a : W64} {wide : Bool} {b c : W64} {gd : Nat}
    {acq release : Bool} {wait : Wait} (h : s.Inv) : (s.atomNow t x k op a wide b c gd acq release wait).Inv := .ite h.atomHere h.atomFar

theorem KeepsInv.threadAtomic {t : Tid} {f : SOp} {op : AtomOp} {u : SUse} {legal : Bool} (h : s.Inv) :
    KeepsInv (s.threadAtomic t f op u legal) := by
  refine .issue h fun x k => ?_
  refine .ite h.raise (.ite h.raise ?_)
  split
  · exact h.refuseCount.raise
  · exact .ite (.ite h.hold h.atomNow) h.raise
  · exact .ite h.raise (.ite h.hold h.atomNow)

/-! ## Serving a request -/

theorem State.Inv.refuseReq (h : s.Inv) : (s.refuseReq).1.Inv := h.count

theorem State.Inv.logAtom {r : FabReq} {st : Byte} {v : W64} (h : s.Inv) : (s.logAtom r st v).Inv := h.setPeer

theorem State.Inv.answer {op : Nat} {r : FabReq} {st : Byte} {body : List Byte} (h : s.Inv) : (s.answer op r st body).Inv :=
  .respond (.ite h.logAtom h)

theorem State.Inv.hostStored {f a : Nat} {st : Byte} (h : s.Inv) : (s.hostStored f a st).Inv := .ite h.bar4Fail h

theorem State.Inv.hostLoaded {f id pos a : Nat} {st : Byte} {body : List Byte} (h : s.Inv) : (s.hostLoaded f id pos a st body).Inv :=
  .hostPiece (.ite h.bar4Fail h)

theorem State.Inv.keepAct {a : HomeAct} (h : s.Inv) : (s.keepAct a).Inv := h

theorem State.Inv.orphanDone {x : RelAccess} (h : s.Inv) : (s.orphanDone x).Inv := by
  unfold State.orphanDone
  split
  · exact h.homeGo
  · exact h

theorem State.Inv.homeDone {act : HomeAct} (h : s.Inv) : (s.homeDone act).Inv := by
  unfold State.homeDone
  split
  · split
    · exact .ite h.orphanDone h.homeGo.threadEnd
    · exact h.orphanDone
  · exact h.orphanDone
  · exact h
  · split
    · next e => exact (h.homeGo.of_fst e).answer
    · next e => exact (h.homeGo.of_fst e).keepAct
  · split
    · next e => exact (h.homeGo.of_fst e).hostStored
    · next e => exact (h.homeGo.of_fst e).keepAct
  · split
    · next e => exact (h.homeGo.of_fst e).hostLoaded
    · next e => exact (h.homeGo.of_fst e).keepAct
  · exact h.bellWrite

theorem State.Inv.acknowledge {f : Nat × Nat → Option (Nat × Nat)} (h : s.Inv) : (s.acknowledge f).Inv :=
  .foldl (fun _ _ ht => ht.homeDone) h

theorem State.Inv.mailboxReq {op : Nat} {r : FabReq} (h : s.Inv) : (s.mailboxReq op r).1.Inv := by
  have hclaim (o n : Nat) (boxes : List Nat) : (boxes.foldl (fun s m =>
      if overlap (m * 0x10000 + 0x10) 8 o n then s.setMailbox m { s.mailbox m with claim := some r.src } else s) s).Inv :=
    .foldl (fun _ _ ht => .ite ht.setMailbox ht) h
  unfold State.mailboxReq
  dsimp only
  generalize r.addr.toNat - baseCtl = o
  split
  · exact h.refuseReq
  · split
    · exact h
    · exact (hclaim ..).ctlStore

/-! ## Loss of a package -/

theorem State.Inv.forgetLines {c : BitVec 12} (h : s.Inv) : (s.forgetLines c).Inv := .ite h.dropLines (.acknowledge (.update h.dropLines))

theorem State.Inv.endShared {c : BitVec 12} (h : s.Inv) : (s.endShared c).Inv := by
  unfold State.endShared
  refine .foldl (fun u x hu => ?_) h
  refine .foldl (fun _ _ ht => .ite ht.endColl ht) ?_
  split
  · exact .ite hu.failCall hu
  · exact hu

theorem State.Inv.loseTasks {c : BitVec 12} (h : s.Inv) : (s.loseTasks c).Inv := by
  unfold State.loseTasks
  refine .foldl (fun u x hu => ?_) h
  split
  · exact hu
  · exact .ite hu.endCast hu.taskDone

theorem State.Inv.loseEntries {c : BitVec 12} (h : s.Inv) : (s.loseEntries c).Inv := by
  unfold State.loseEntries
  refine .foldl (fun u x hu => ?_) h
  split
  · exact hu
  · exact .foldl (fun _ _ ht => .ite ht.poisonEntry.dropJobs.modPart ht) hu

theorem State.Inv.loseCoord {c : BitVec 12} (h : s.Inv) : (s.loseCoord c).Inv := by
  unfold State.loseCoord
  refine .wakeHeld ?_
  exact .lockForget (.update h.failAll.failAll.failSends.forgetLines.endShared.loseTasks.loseEntries.setPeer)

theorem State.Inv.takeRoute {c : BitVec 12} {e : W64} (h : s.Inv) : (s.takeRoute c e).Inv :=
  .ite (.storeJob (.update (.update (.ite h h.loseCoord)))) (.update (.ite h h.loseCoord))

theorem State.Inv.spreadRoute {c : BitVec 12} {e : W64} (h : s.Inv) : (s.spreadRoute c e).Inv :=
  .takeRoute (.pumpSends (.foldl (fun _ _ ht => ht.post) h))

theorem State.Inv.declareLost {c : BitVec 12} {halted : Bool} (h : s.Inv) : (s.declareLost c halted).Inv :=
  .ite h (.ite h.retireSite.retired.spreadRoute (.emit (.update h.retireSite.retired.failAll.setPeer)))

theorem State.Inv.assumed {c : BitVec 12} {st : Byte} (h : s.Inv) : (s.assumed c st).Inv := by
  unfold State.assumed
  split
  · exact h
  · exact .ite (.spreadRoute h) h.spreadRoute

theorem State.Inv.assume {r : FabReq} (h : s.Inv) : (s.assume r).Inv := .storeJob (.foldl (fun _ _ ht => ht.adoptPart) h)

/-! ## Requests that arrive -/

theorem State.Inv.serveInval {v : Serving} (h : s.Inv) : (s.serveInval v).Inv := .update h.invalidate.markFills

theorem State.Inv.controlReq {op : Nat} {r : FabReq} (h : s.Inv) : (s.controlReq op r).1.Inv := by
  unfold State.controlReq
  refine .ite_fst h ?_
  exact .ite_fst h.takeCue (.ite_fst (.ite_fst h.takeRoute h) (.ite_fst h (.ite_fst h.declareLost h)))

theorem State.Inv.accessReq {op : Nat} {r : FabReq} (h : s.Inv) : (s.accessReq op r).1.Inv := by
  unfold State.accessReq
  dsimp only
  split
  · exact h.refuseReq.answer
  · refine .ite_fst h.count.answer ?_
    refine .ite_fst h ?_
    split
    · next e1 =>
        refine .answer ?_
        split
        · exact .ite (h.homeTry.of_fst e1).noteCopies (h.homeTry.of_fst e1)
        · exact h.homeTry.of_fst e1
    · next e1 => exact h.homeTry.of_fst e1
    · next e1 => exact h.homeTry.of_fst e1

theorem State.Inv.freshAtom {op : Nat} {r : FabReq} {p : Peer} (h : s.Inv) : (s.freshAtom op r p).1.Inv :=
  .ite_fst h.logFault.respond h.accessReq

theorem State.Inv.atomReq {op : Nat} {r : FabReq} (h : s.Inv) : (s.atomReq op r).1.Inv := by
  unfold State.atomReq
  dsimp only
  split
  · exact .ite_fst h.count.respond h.freshAtom
  · exact h.freshAtom

theorem State.Inv.collReq {r : FabReq} (h : s.Inv) : (s.collReq r).Inv := by
  unfold State.collReq
  split
  · exact .ite h.credit h.collTake.pumpSends
  · exact .ite h.credit (.pumpSends (.ite h.rowsArrive h.segArrive))
  · exact h.refuseSeg

theorem State.Inv.performReq {op : Nat} {r : FabReq} (h : s.Inv) : (s.performReq op r).1.Inv := by
  unfold State.performReq
  refine .ite_fst h ?_
  refine .ite_fst (.ite_fst h.assume.respond h.refuseReq.answer) ?_
  refine .ite_fst h.refuseReq.answer ?_
  refine .ite_fst h.transient.answer ?_
  refine .ite_fst h.controlReq.answer ?_
  refine .ite_fst (.ite_fst h.mailboxReq.answer h.refuseReq.answer) ?_
  refine .ite_fst h.collReq ?_
  refine .ite_fst h.atomReq ?_
  refine .ite_fst h.accessReq ?_
  split
  · exact h.refuseReq.answer
  · exact .ite_fst h.answer h.serveInval

theorem State.Inv.takeReq {op : Nat} {r : FabReq} {first : Bool} (h : s.Inv) : (s.takeReq op r first).Inv := by
  unfold State.takeReq
  split
  · next e => exact h.performReq.of_fst e
  · next e => exact .keepAct (.ite (h.performReq.of_fst e).countHold (h.performReq.of_fst e))

theorem State.Inv.duplicate {op : Nat} {r : FabReq} (h : s.Inv) : (s.duplicate op r).Inv :=
  .ite h.count (.ite h.count.takeReq h.count.respond)

theorem State.Inv.drainEarly {n : Nat} {c : BitVec 12} (h : s.Inv) : (State.drainEarly n s c).Inv := by
  induction n generalizing s with
  | zero => exact h
  | succ n ih =>
    unfold State.drainEarly
    dsimp only
    split
    · exact h
    · exact ih h.setPeer.takeReq

theorem State.Inv.passOn {op : Nat} {r : FabReq} (h : s.Inv) : (s.passOn op r).Inv := by
  unfold State.passOn
  refine .ite h.refuseReq.respond ?_
  refine .ite h.respond ?_
  split
  · exact h.emit
  · exact h.logFault.respond

theorem State.Inv.arrive {op : Nat} {r : FabReq} (h : s.Inv) : (s.arrive op r).Inv := by
  unfold State.arrive
  refine .ite h ?_
  refine .ite h.takeReq ?_
  refine .ite h.passOn ?_
  refine .ite (.ite h.setPeer.duplicate h.setPeer.setPeer.takeReq) ?_
  refine .ite h.setPeer.setPeer.takeReq.drainEarly ?_
  exact .ite h.setPeer.duplicate (.ite h.setPeer.count (.ite h.setPeer.sendNak h.setPeer.setPeer))

theorem State.Inv.hostStore {f a : Nat} {d : List Byte} (h : s.Inv) : (s.hostStore f a d).Inv := by
  unfold State.hostStore
  refine .ite h.keepAct ?_
  refine .ite h.hostStored ?_
  split
  · next e => exact (h.homeTry.of_fst e).hostStored
  · next e => exact h.homeTry.of_fst e
  · next e => exact (h.homeTry.of_fst e).keepAct

theorem State.Inv.hostLoad {f id pos a n : Nat} (h : s.Inv) : (s.hostLoad f id pos a n).Inv := by
  unfold State.hostLoad
  refine .ite h.keepAct ?_
  refine .ite h.hostLoaded ?_
  split
  · next e => exact (h.homeGo.of_fst e).hostLoaded
  · next e => exact (h.homeGo.of_fst e).keepAct

theorem State.Inv.hostRefused {f : Nat} (h : s.Inv) : (s.hostRefused f).Inv := .ite h h.refuseCount

theorem State.Inv.hostPut {f a : Nat} {d : List Byte} (h : s.Inv) : (s.hostPut f a d).Inv := by
  unfold State.hostPut
  refine .ite h.keepAct ?_
  split
  · exact h.hostStore
  · exact h.hostRefused.hostStored
  · refine .ite h.hostStored ?_
    split
    · next e1 => exact h.nearDrop.sendReq.of_fst e1
    · next e1 => exact (h.nearDrop.sendReq.of_fst e1).hostStored
    · exact h.keepAct

theorem State.Inv.hostGet {f id pos a n : Nat} (h : s.Inv) : (s.hostGet f id pos a n).Inv := by
  unfold State.hostGet
  refine .ite h.keepAct ?_
  split
  · exact h.hostLoad
  · exact h.hostRefused.hostLoaded
  · split
    · next e1 => exact h.sendReq.of_fst e1
    · next e1 => exact (h.sendReq.of_fst e1).hostLoaded
    · exact h.keepAct

theorem State.Inv.actAgain {a : HomeAct} (h : s.Inv) : (s.actAgain a).Inv := by
  unfold State.actAgain
  split
  · exact h
  · exact h
  · exact h
  · exact h.takeReq
  · exact h.hostPut
  · exact h.hostGet
  · exact h.bell

theorem State.Inv.releaseHeld (h : s.Inv) : s.releaseHeld.Inv :=
  .wakeHeld (.cohPump (.pumpSends (.pumpJobs (.foldl (fun _ _ ht => ht.actAgain) h))))

/-! ## The CAN node -/

theorem State.Inv.usdoClear (h : s.Inv) : s.usdoClear.Inv := h

theorem KeepsInv.usdoInitiate {write : Bool} {x : OdAddr} {d : List Byte} {segmented : Bool} (h : s.Inv) :
    KeepsInv (execUsdoInitiate write x d segmented s) := by
  unfold execUsdoInitiate
  refine .ite (.next h) ?_
  exact .ite (.next (.usdoAnswer (.update h.usdoClear))) (.next h.usdoClear.usdoPerform.releaseHeld)

theorem KeepsInv.usdoSegment {d : List Byte} {last : Bool} (h : s.Inv) : KeepsInv (execUsdoSegment d last s) := by
  unfold execUsdoSegment
  refine .ite (.next h) ?_
  split
  · exact .next h.usdoAnswer
  · refine .ite (.ite (.next h.usdoClear.usdoPerform.releaseHeld) (.next (.usdoAnswer h))) ?_
    exact .next h.usdoClear.usdoAnswer

theorem KeepsInv.usdoTimeout (h : s.Inv) : KeepsInv (execUsdoTimeout s) := by
  unfold execUsdoTimeout
  split
  · exact .next h
  · exact .next h.usdoClear.count.usdoAnswer

theorem State.Inv.toNmt {x : Nmt} (h : s.Inv) : (s.toNmt x).Inv := .emcyGo h

theorem State.Inv.hmRestart (h : s.Inv) : s.hmRestart.Inv := .usdoClear h

/-! ## Collectives -/

theorem State.Inv.readExts {p k : Nat} {es : List (Nat × Nat)} {x : State × Bool} (h : s.Inv) (hx : s.readExts p k es = some x) :
    x.1.Inv := by
  revert hx
  unfold State.readExts
  split
  · exact nofun
  · rintro ⟨⟩
    exact h.readError

theorem State.Inv.coordsStatus {p : Nat} {dests members : List (BitVec 12)} (h : s.Inv) : (s.coordsStatus p dests members).1.Inv :=
  .foldl (fun _ _ ht => ht.refuseCount) h

theorem State.Inv.noteAllToAll {p : Nat} {d : W512} (h : s.Inv) : (s.noteAllToAll p d).Inv := h.modPart

theorem State.Inv.collBegin {p : Nat} {c : CollRun} (h : s.Inv) : (s.collBegin p c).Inv := by
  unfold State.collBegin
  refine .foldl (fun u x hu => ?_) ?_
  · split
    · exact hu.collTake
    · exact hu
  · dsimp only
    split
    · exact h.takeLayer.noteAllToAll.setPart.rowsStart
    · exact h.takeLayer.noteAllToAll.setPart.collStart

theorem State.Inv.postColl {k : Nat} {t : Task} (h : s.Inv) : (s.postColl k t).Inv := by
  unfold State.postColl
  refine .ite h.setTask.taskStatus ?_
  refine .ite h.setTask.jobFault ?_
  dsimp only
  split
  · exact h.setTask.taskStatus
  · refine .ite h.setTask.taskStatus ?_
    refine .ite h.setTask.coordsStatus.taskStatus ?_
    split
    · next e1 => exact h.setTask.coordsStatus.readExts e1
    · next e1 => exact .taskStatus (h.setTask.coordsStatus.readExts e1)
    · exact h.setTask.coordsStatus.collBegin

theorem KeepsInv.collective {k : Nat} (h : s.Inv) : KeepsInv (execCollective k s) := by
  unfold execCollective
  split
  · exact .next h
  · exact .ite (.next h) (.next h.postColl.heldRows.pumpSends)

theorem KeepsInv.collTimeout {p : Fin 128} (h : s.Inv) : KeepsInv (execCollTimeout p s) := by
  unfold execCollTimeout
  dsimp only
  split
  · exact .next h
  · exact .ite (.next h) (.next h.endColl.count)

/-! ## Casting calls -/

theorem State.Inv.handCall {k : Nat} {t : Task} (h : s.Inv) : (s.handCall k t).Inv := by
  unfold State.handCall
  extract_lets _ s1
  replace h : s1.Inv := h.setTask
  refine .ite h.taskStatus.count ?_
  refine .ite h.jobFault ?_
  refine .ite (.ite h.taskStatus.count.homeWrite h.taskStatus.count) ?_
  split
  · next hu =>
    replace h := h.coordsStatus.of_fst hu
    refine .ite h.setCall.failCall ?_
    split
    · next hv => exact h.readExts hv
    · next hv => exact .failCall (.setCall (h.readExts hv))
    · exact h.setTask.callBegin.takeHeld

theorem KeepsInv.castingCall {k : Nat} (h : s.Inv) : KeepsInv (execCastingCall k s) := by
  unfold execCastingCall
  split
  · exact .next h
  · exact .ite (.next h) (.next h.handCall.pumpSends)

theorem State.Inv.castSegment {r : FabReq} {g : Segment} (h : s.Inv) : (s.castSegment r g).Inv := h.arrive

theorem State.Inv.cancelObject {p id : Nat} (h : s.Inv) : (s.cancelObject p id).Inv := by
  unfold State.cancelObject
  dsimp only
  split
  · exact h
  · exact h.setPart.count

theorem State.Inv.slotEmpty {p l slot e id : Nat} (h : s.Inv) : (s.slotEmpty p l slot e id).Inv := h.cancelObject.modPart.noteAll

theorem KeepsInv.slotListFinal {p : Fin 128} {j : Fin 64} (h : s.Inv) : KeepsInv (execSlotListFinal p j s) := by
  unfold execSlotListFinal
  split
  · exact .next h
  · split
    · exact .next h
    · exact .ite (.next h) (.next (.ite h.homeWrite.setCall.callSettle.slotEmpty h.homeWrite.setCall.callSettle))

/-! ## Context operations -/

theorem State.Inv.poolOp {k p : Nat} {w : W512} (h : s.Inv) : (s.poolOp k p w).Inv := .ite h.finish h.setPool.finish

theorem State.Inv.ctxAllocOp {k p : Nat} {w : W512} (h : s.Inv) : (s.ctxAllocOp k p w).Inv := by
  unfold State.ctxAllocOp
  refine .ite h.finish ?_
  refine .ite h.memError.finish ?_
  refine .ite h.finish ?_
  dsimp only
  split
  · exact h.finish
  · exact .ite h.finish h.clearMem.setCtx.finish

theorem State.Inv.ctxReleaseOp {k p : Nat} {w : W512} (h : s.Inv) : (s.ctxReleaseOp k p w).Inv := by
  unfold State.ctxReleaseOp
  split
  · exact h.finish
  · exact h.modExtra

theorem KeepsInv.ctxReleaseComplete {i : Fin 2097152} (h : s.Inv) : KeepsInv (execCtxReleaseComplete i s) := by
  unfold execCtxReleaseComplete
  dsimp only
  split
  · refine .ite (.next h) ?_
    refine .next ?_
    exact .finish (.setCtx (.update (.foldl (fun _ _ ht => ht.dropPage) (.foldl (fun _ _ ht => ht.dropPage) h))))
  · exact .next h

theorem State.Inv.publishOp {k p : Nat} {w : W512} (h : s.Inv) : (s.publishOp k p w).Inv := by
  unfold State.publishOp
  split
  · exact h.finish
  · next x _ _ _ =>
      dsimp only
      split
      · exact h.finish
      · refine .ite h.finish ?_
        refine .ite h.finish ?_
        refine .finish ?_
        refine .count ?_
        refine .modPart ?_
        refine .ite_fst (.foldl (fun _ _ ht => ht.setPageEntry.holdPage) h) ?_
        refine .foldl_fst (fun u x hu => ?_) (.foldl (fun _ _ ht => ht.setPageEntry.holdPage) h)
        split
        · exact hu
        · next e2 => exact .count (.copyRows (hu.takeSlot e2))

theorem State.Inv.mapOp {k p : Nat} {w : W512} (h : s.Inv) : (s.mapOp k p w).Inv := by
  unfold State.mapOp
  split
  · exact h.finish
  · next x _ _ _ =>
      split
      · exact h.count.finish
      · refine .ite h.count.finish ?_
        refine .ite h.finish ?_
        refine .finish ?_
        refine .count ?_
        refine .setCtx ?_
        refine .foldl (fun u x hu => ?_) (.foldl (fun _ _ ht => .foldl (fun _ _ ht => .holdPage (.setPageEntry (.ite ht.dropPage ht))) ht)
            h)
        dsimp only
        split
        · exact hu
        · next e2 => exact .count (.setPageEntry (.copyRows (hu.takeSlot e2)))

theorem State.Inv.unpublishOp {k p : Nat} {w : W512} (h : s.Inv) : (s.unpublishOp k p w).Inv := by
  unfold State.unpublishOp
  dsimp only
  split
  · exact h.finish
  · exact .finish (.modPart (.foldl (fun _ _ ht => ht.dropPage) h))

theorem State.Inv.ctxQueryOp {k p : Nat} {w : W512} (h : s.Inv) : (s.ctxQueryOp k p w).Inv := by
  unfold State.ctxQueryOp
  split
  · exact h.finish
  · exact .ite h.finish h.homeWrite.finish

/-! ## Control instructions -/

theorem KeepsInv.fenceComplete {t : Tid} (h : s.Inv) : KeepsInv (execFenceComplete t s) := by
  unfold execFenceComplete
  split
  · exact .next h
  · split
    · exact .next (.ite h.setThread h)
    · exact .next h

theorem KeepsInv.releaseIssue {t : Tid} (h : s.Inv) : KeepsInv (execReleaseIssue t s) := by
  unfold execReleaseIssue
  split
  · exact .next h
  · split
    · refine .ite (.next h) ?_
      split
      · exact .next (.ite h.storeNow h)
      · exact .next (.ite h.atomNow h)
    · exact .next h

theorem KeepsInv.ffence {t : Tid} {f : SOp} (h : s.Inv) : KeepsInv (execFfence t f s) := by
  unfold execFfence
  refine .issue h fun x k => ?_
  dsimp only
  split
  · exact h.refuseCount.raise
  · exact .ite h.hold h.setThread
  · split
    · next e1 => exact (h.sendReq.of_fst e1).setThread
    · next e1 => exact (h.sendReq.of_fst e1).setThread
    · exact h.hold

theorem State.Inv.sendInvals {t : Tid} {x : Thread} {p : Nat} {home : BitVec 12} {ga gb : W64} {cs : List (BitVec 12)}
    {u : State} (h : s.Inv) (hu : s.sendInvals t x p home ga gb cs = some u) : u.Inv := by
  induction cs generalizing s with
  | nil => cases hu; exact h
  | cons c cs ih =>
    revert hu
    unfold State.sendInvals
    split
    · exact ih h.serveInval
    · dsimp only
      split
      · next hw => exact ih (h.sendReq.of_fst hw)
      · next hw => exact ih (h.sendReq.of_fst hw).storeFail
      · exact nofun

theorem KeepsInv.inv {t : Tid} {f : SOp} (h : s.Inv) : KeepsInv (execInv t f s) := by
  unfold execInv
  refine .issue h fun x k => ?_
  refine .ite h.refuseCount.raise ?_
  refine .ite h.hold ?_
  split
  · exact h.hold
  · next e =>
      split
      · exact .setThread (h.sendInvals e)
      · exact h.sendInvals e

theorem State.Inv.barCheck {k : Nat} (h : s.Inv) : (s.barCheck k).Inv := .ite h h

theorem State.Inv.poll {t : Tid} {x : Thread} {k : Task} {a : W64} (h : s.Inv) : (s.poll t x k a).Inv := by
  unfold State.poll
  refine .ite h.raise ?_
  split
  · exact h.refuseCount.raise
  · refine .ite h.raise ?_
    refine .ite h.countHold ?_
    split
    · next e1 => exact (h.homeRead.of_fst e1).pollValue
    · next e1 => exact (h.homeRead.of_fst e1).raise
    · next e1 => exact h.homeRead.of_fst e1
  · refine .ite h.count ?_
    refine .ite h ?_
    dsimp only
    split
    · exact h.acquireDrop.pollValue
    · split
      · next e2 => exact h.acquireDrop.sendReq.of_fst e2
      · next e2 => exact (h.acquireDrop.sendReq.of_fst e2).farFail
      · exact h

theorem KeepsInv.waitv {t : Tid} {f : SOp} (h : s.Inv) : KeepsInv (execWaitv t f s) := by
  unfold execWaitv
  split
  · exact .next h
  · split
    · exact .next (.ite h.poll h)
    · exact .issue h fun _ _ => h.setThread.poll

theorem KeepsInv.waitvTimeout {t : Tid} (h : s.Inv) : KeepsInv (execWaitvTimeout t s) := by
  unfold execWaitvTimeout
  split
  · exact .next h
  · split
    · exact .next (.ite h.waitvEnd h)
    · exact .next h

theorem KeepsInv.endThread {t : Tid} {f : BOp} (h : s.Inv) : KeepsInv (execEndThread t f s) := by
  unfold execEndThread
  refine .issue h fun x k => ?_
  dsimp only
  split
  · exact .ite (.endCast (.setThread (.ite h.report h))) (.barCheck (.setThread (.ite h.report h)))
  · exact .ite h.setThread.endCast h.setThread.barCheck

/-! ## Dictionary commands -/

theorem State.Inv.entryWrite {a : Acc} {idx sub : Nat} {d : List Byte} {off : Nat} (h : s.Inv) : (s.entryWrite a idx sub d off).Inv :=
  h.writeBy.releaseHeld

/-! ## Dimmer commands -/

theorem KeepsInv.hopComplete (h : s.Inv) : KeepsInv (execHopComplete s) := by
  unfold execHopComplete
  split
  · exact .next (.bindReasons (.slewOn (.commandVolts h)))
  · exact .next (.bindReasons (.slewOn (.steer h)))
  · exact .next h

theorem KeepsInv.voltageConfirm (h : s.Inv) : KeepsInv (execVoltageConfirm s) := by
  unfold execVoltageConfirm
  split
  · exact .next h
  · exact .next (.bindReasons (.steer (.slewOn h)))
  · exact .next h

theorem State.Inv.voltFailed {rail n : Nat} (h : s.Inv) : (s.voltFailed rail n).Inv :=
  .ite (.bindReasons (.update h.commandVolts.logFault)) (.repermit (.update h.commandVolts.logFault))

theorem KeepsInv.voltageTimeout {rail : Fin 12} (h : s.Inv) : KeepsInv (execVoltageTimeout rail s) := by
  unfold execVoltageTimeout
  split
  · exact .next h.voltFailed
  · exact .next h.voltFailed
  · exact .next h

theorem KeepsInv.voltageRetry (h : s.Inv) : KeepsInv (execVoltageRetry s) := by
  unfold execVoltageRetry
  split
  · exact .ite (.next h.startRaise) (.next (.commandVolts h))
  · exact .next h

theorem KeepsInv.lockForce (h : s.Inv) : KeepsInv (execLockForce s) := by
  unfold execLockForce
  refine .ite (.next h) ?_
  exact .ite (.next (.repermit (.update (.ite (.update h.sendCues) h)))) (.next (.ite (.update h.sendCues) h))

/-! ## Fabric commands -/

theorem KeepsInv.invalidateComplete {src : BitVec 12} {seq : W32} (h : s.Inv) : KeepsInv (execInvalidateComplete src seq s) := by
  unfold execInvalidateComplete
  split
  · exact .next h
  · exact .ite (.next h) (.next (.ite (.wakeHeld h) (.respondTo h)))

theorem State.Inv.passResponse {r : FabResp} {c : BitVec 12} (h : s.Inv) : (s.passResponse r c).Inv := by
  unfold State.passResponse
  split
  · exact h.portSend
  · exact h

theorem State.Inv.nakResend {c : BitVec 12} {expect : Nat} (h : s.Inv) : (s.nakResend c expect).Inv := .foldl (fun _ _ ht => ht.emit) h

theorem KeepsInv.response {r : FabResp} (h : s.Inv) : KeepsInv (execResponse r s) := by
  unfold execResponse
  refine .ite (.next h) ?_
  split
  · exact .next h.passResponse
  · refine .ite (.next h.nakResend) ?_
    split
    · exact .next h
    · exact .next (.releaseHeld (.ite h.farStatus.complete.assumed h.farStatus.complete))

theorem KeepsInv.e2eResend {dst : BitVec 12} {seq : W32} (h : s.Inv) : KeepsInv (execE2eResend dst seq s) := by
  unfold execE2eResend
  refine .ite (.next h) ?_
  split
  · exact .next h
  · exact .ite (.next (.emit (.count h))) (.next (.releaseHeld (.ite (.assumed (.complete h)) (.complete h))))

theorem KeepsInv.switchInComplete {c : BitVec 12} (h : s.Inv) : KeepsInv (execSwitchInComplete c s) := by
  unfold execSwitchInComplete
  split
  · exact .next h
  · exact .ite (.next h) (.next (.logFault (.count h)))

/-! ## Faults -/

theorem KeepsInv.checkFailure {c : CheckSite} (h : s.Inv) : KeepsInv (execCheckFailure c s) := by
  unfold execCheckFailure
  refine .ite (.next h) ?_
  split
  · split
    · exact .next h
    · exact .ite (.next h) (.next h.transient.startReplay)
  · split
    · exact .next h
    · exact .ite (.next h) (.next h.draw.draw.transient.startReplay)
  · refine .ite (.next h) ?_
    refine .next ?_
    split
    · exact h.addPoison.memError.startReplay
    · exact h.addPoison.memError

theorem KeepsInv.replayComplete {p : Fin 128} (h : s.Inv) : KeepsInv (execReplayComplete p s) := by
  unfold execReplayComplete
  refine .ite (.next h) ?_
  refine .next ?_
  refine .releaseHeld ?_
  refine .modPart ?_
  refine .foldl (fun u x hu => ?_) h
  split
  · exact hu.setTask
  · exact hu

theorem KeepsInv.laneCopyComplete {tierD : Bool} {region lane : Nat} {bad : List Nat} (h : s.Inv) :
    KeepsInv (execLaneCopyComplete tierD region lane bad s) := by
  unfold execLaneCopyComplete
  split
  · exact .next h
  · exact .ite (.next h) (.next (.releaseHeld (.foldl (fun _ _ ht => ht.addPoison) h)))

/-! ## The host port -/

theorem KeepsInv.sqTail {q : QRef} {v : W64} (h : s.Inv) : KeepsInv (execSqTail q v s) := by
  unfold execSqTail
  refine .ite (.next h) ?_
  split
  · exact .next h.bell
  · exact .next h.sqTailWrite

theorem KeepsInv.cqHead {q : QRef} {v : W64} (h : s.Inv) : KeepsInv (execCqHead q v s) := by
  unfold execCqHead
  refine .ite (.next h) ?_
  split
  · exact .next h.bell
  · exact .next h.cqHeadWrite

theorem KeepsInv.bar4Read {f : Fin 129} {off : BitVec 36} {n : Nat} (h : s.Inv) : KeepsInv (execBar4Read f off n s) := by
  unfold execBar4Read
  refine .ite (.next h) ?_
  exact .ite (.next h.send.send) (.ite (.next h.send) (.next (.foldl (fun _ _ ht => ht.hostGet) h)))

theorem State.Inv.fnDrop {f : Nat} (h : s.Inv) : (s.fnDrop f).Inv := h

theorem State.Inv.fnDefaults {f : Nat} (h : s.Inv) : (s.fnDefaults f).Inv := h.fnDrop.setHostFn.setCtr.setCtr.setCtr

theorem State.Inv.queueOff {c : Nat} (h : s.Inv) : (s.queueOff c).Inv := .ite h.ringCfgWrite.setQueue h.setQueue

theorem State.Inv.vfQueuesOff {p : Nat} (h : s.Inv) : (s.vfQueuesOff p).Inv := .foldl (fun _ _ ht => ht.queueOff) h

theorem State.Inv.vfQueuesReset {p : Nat} (h : s.Inv) : (s.vfQueuesReset p).Inv := .foldl (fun _ _ ht => .ite ht.setQueue ht.setQueue) h

theorem State.Inv.dropVfs {lo hi : Nat} (h : s.Inv) : (s.dropVfs lo hi).Inv := .foldl (fun _ _ ht => ht.fnDefaults.vfQueuesOff) h

/-! ## Key-value appends -/

theorem State.Inv.kvRow {p i : Nat} {d : W512} {u : KvWrite} (h : s.Inv) : (s.kvRow p i d u).Inv :=
  .ite h.appendRow.send (.ite h (.send (.ite h.appendRow h.appendRow.modExtra.modPart)))

theorem State.Inv.kvNode {p i : Nat} {d : W512} {u : KvWrite} {node : Nat} (h : s.Inv) : (s.kvNode p i d u node).Inv := by
  unfold State.kvNode
  extract_lets g c nb place
  have hplace : ∀ x ∈ place, x.1.Inv := by
    intro x hx
    unfold place at hx
    split at hx
    · cases hx
      exact h
    · split at hx
      · cases hx
      · obtain ⟨y, hy, rfl⟩ := Option.map_eq_some_iff.1 hx
        exact (h.takeSlot hy).initPage
  clear_value place
  split
  · exact h.send
  · have ht := hplace _ rfl
    exact .ite h (.send (.layerCounts (.count (.modExtra ht.pageRow))))

theorem KeepsInv.kvAppend {u : KvWrite} (h : s.Inv) : KeepsInv (execKvAppend u s) := by
  unfold execKvAppend
  refine .ite (.next h) ?_
  split
  · exact .next h.send
  · refine .ite (.next h) ?_
    split
    · exact .next h.kvRow
    · exact .next h.kvNode

/-! ## Start and restart -/

theorem State.Inv.packageReset (h : s.Inv) : s.packageReset.Inv := ⟨Memory.wf_reset, h.2⟩

theorem State.Inv.buildRoutes (h : s.Inv) : s.buildRoutes.Inv := by
  unfold State.buildRoutes
  dsimp only
  exact .update h

theorem State.Inv.settleLanes (h : s.Inv) : s.settleLanes.Inv := h

theorem State.Inv.applyLists {l : Retired} (h : s.Inv) : (s.applyLists l).Inv := by
  unfold State.applyLists
  refine .foldl (fun u x hu => ?_) (.foldl (fun _ _ ht => ht.retireChannel.settleLanes) (.foldl (fun _ _ ht => ht.retireHalves) h))
  exact hu.retireChannel.settleLanes

theorem State.Inv.hmServe (h : s.Inv) : s.hmServe.Inv := .releaseHeld (.serveReady (.emcyGo h))

theorem State.Inv.bootUp (h : s.Inv) : s.bootUp.Inv := .ite h (.send h)

theorem State.Inv.hmStart (h : s.Inv) : s.hmStart.Inv := h.bootUp.hmServe

theorem State.Inv.ghost {reason : Nat} (h : s.Inv) : (s.ghost reason).Inv := .settle h

theorem State.Inv.takeBank {b : Bank} (h : s.Inv) : (s.takeBank b).Inv := by
  unfold State.takeBank
  refine .ite (.repermit (.lasers (.buildRoutes (.applyLists h)))) ?_
  exact .storeJob (.setCfg (.repermit (.lasers (.buildRoutes (.applyLists h)))))

theorem State.Inv.bootDecide {u : StartReport} (h : s.Inv) : (s.bootDecide u).Inv := by
  unfold State.bootDecide
  dsimp only
  split
  · exact .ghost h
  · refine .ite (.hmStart (.ghost (.takeBank h))) ?_
    exact .ite (.ghost (.update (.takeBank h))) (.ite (.hmStart (.ghost (.takeBank h))) (.update (.takeBank h)))

theorem State.Inv.loadUcode (h : s.Inv) : s.loadUcode.Inv := h

theorem State.Inv.failsTest {x : Site} (h : s.Inv) : (s.failsTest x).Inv := h.draw.draw.makePermanent.settleLanes

theorem State.Inv.adoptParts (h : s.Inv) : s.adoptParts.Inv := .foldl (fun _ _ ht => ht.adoptPart) h

theorem KeepsInv.showReady {u : SelfTest} (h : s.Inv) : KeepsInv (execShowReady u s) := by
  unfold execShowReady
  refine .ite (.next h) ?_
  refine .ite (.next (.ghost (.storeJob (.foldl (fun _ _ ht => ht.failsTest) h)))) ?_
  exact .next (.settle (.adoptParts (.loadUcode (.update (.storeJob (.foldl (fun _ _ ht => ht.failsTest) h))))))

theorem KeepsInv.hmRestartComplete (h : s.Inv) : KeepsInv (execHmRestartComplete s) := by
  unfold execHmRestartComplete
  refine .ite (.next h) ?_
  refine .next ?_
  refine .ite (.hmServe (.bootUp (.ite (.update (.ite h (.logFault h))) (.ite h (.logFault h))))) ?_
  exact .hmServe (.ite (.update (.ite h (.logFault h))) (.ite h (.logFault h)))

/-! ## Resets and pins -/

theorem State.Inv.coldReset (h : s.Inv) : s.coldReset.Inv := .update h.packageReset

/-! ## Norm watch -/

theorem State.Inv.judge {p l : Nat} {grad : Bool} {n : W32} (h : s.Inv) : (s.judge p l grad n).1.Inv := by
  unfold State.judge
  dsimp only
  split
  · refine .nwEvent ?_
    split
    · exact h.modPart.nwEvent
    · exact h.modPart
  · split
    · exact h.modPart.nwEvent
    · exact h.modPart

theorem State.Inv.askExtensions {p l : Nat} (h : s.Inv) : (s.askExtensions p l).Inv := by
  unfold State.askExtensions
  refine .foldl (fun u x hu => ?_) h
  split
  · exact hu
  · exact hu.askFar

theorem State.Inv.startEncore {p l : Nat} {grad : Bool} (h : s.Inv) : (s.startEncore p l grad).Inv := by
  unfold State.startEncore
  dsimp only
  split
  · exact .ite h h.setPart
  · refine .ite h.nwEvent ?_
    split
    · exact h.count.nwEvent
    · exact h.setPart.askExtensions

theorem KeepsInv.normVerdict {p : Fin 128} {l : Fin 1024} {grad : Bool} (h : s.Inv) : KeepsInv (execNormVerdict p l grad s) := by
  unfold execNormVerdict
  extract_lets x key r act
  refine .ite (.next h) ?_
  split
  next u flag hu =>
    extract_lets t told
    have ht : t.Inv := (h.judge.of_fst hu).modPart
    clear_value t
    refine .ite (.next (.modPart (.ite ht.nwEvent ht))) ?_
    split
    · exact .next ht
    · exact .ite (.next ht.count.jobFault) (.ite (.next ht.startEncore) (.next ht))

theorem State.Inv.mergeTile {m : MergeRun} {p core : Nat} {t : Nat × Nat} (h : m.s.Inv) : (m.tile p core t).s.Inv := by
  unfold MergeRun.tile
  dsimp only
  refine .count (.homeWrite ?_)
  split
  · exact h.count
  · exact h.count.tileFail

theorem State.Inv.baseRead {p : Nat} {e : BitVec 256} (h : s.Inv) : (s.baseRead p e).1.Inv := by
  unfold State.baseRead
  split
  · next e1 => exact h.engineRead.of_fst e1
  · next e1 => exact h.engineRead.of_fst e1

theorem State.Inv.encoreFetch {p l u : Nat} {o : W512} {e : CueEntry × Nat} (h : s.Inv) : (s.encoreFetch p l u o e).1.Inv := by
  unfold State.encoreFetch
  split
  · next e1 => exact h.baseRead.of_fst e1
  · next e1 =>
      dsimp only
      split
      · next e2 => exact .of_fst (.fetch (.ite (.update (h.baseRead.of_fst e1)) (h.baseRead.of_fst e1))) e2
      · next e2 => exact .of_fst (.fetch (.ite (.update (h.baseRead.of_fst e1)) (h.baseRead.of_fst e1))) e2

theorem State.Inv.poisonRange {core a n : Nat} (h : s.Inv) : (s.poisonRange core a n).Inv := h.setCore

theorem State.Inv.mergeCore {p l core base : Nat} (h : s.Inv) : (s.mergeCore p l core base).1.Inv := by
  refine State.Inv.foldl_fst (fun a x ha => ?_) h
  dsimp only
  split
  · exact ha
  · split
    · next ht => exact ha.draw.encoreFetch.of_fst ht
    · next ht =>
      have ht := ha.draw.encoreFetch.of_fst ht
      split
      · exact ht.count.logFault.poisonRange
      · exact List.foldlRecOn (motive := fun (m : MergeRun) => m.s.Inv) _ _ ht fun m hm t _ => hm.mergeTile

theorem State.Inv.mergeWaits {p l : Nat} {u : State} (h : s.Inv) (hu : s.mergeWaits p l = some u) : u.Inv := by
  obtain ⟨e, -, he⟩ := List.exists_of_findSome?_eq_some hu
  split at he
  · cases he
  · split at he
    · cases he
      exact h
    · split at he
      · next ht =>
        cases he
        exact h.encoreFetch.of_fst ht
      · cases he

theorem KeepsInv.encoreReservation {p : Fin 128} {l : Fin 1024} (h : s.Inv) : KeepsInv (execEncoreReservation p l s) := by
  unfold execEncoreReservation
  dsimp only
  split
  · exact .next h
  · split
    · exact .next h
    · split
      · next hu => exact .next (h.mergeWaits hu)
      · refine .next (.count (.update (.modPart (.foldl (fun _ _ ht => ht.raiseVclock.setTask) ?_))))
        exact .foldl_fst (fun _ _ ht => ht.mergeCore) h

/-! ## Preemption -/

theorem State.Inv.fillSave {p n : Nat} (h : s.Inv) : (s.fillSave p n).Inv := .homeWrite (.update h.draw)

theorem State.Inv.saveCast {k : Nat} {t : Task} (h : s.Inv) : (s.saveCast k t).Inv := h.setTask.freeThreads.releaseArrays.count.fillSave

theorem KeepsInv.switchOut {k : Nat} (h : s.Inv) : KeepsInv (execSwitchOut k s) := by
  unfold execSwitchOut
  split
  · exact .next h
  · exact .ite (.next h) (.ite (.next h.count) (.next h.saveCast))

theorem KeepsInv.switchOutComplete {k : Nat} (h : s.Inv) : KeepsInv (execSwitchOutComplete k s) := by
  unfold execSwitchOutComplete
  split
  · exact .next h
  · exact .ite (.next h) (.next h.setTask)

theorem State.Inv.resumeArray {k : Nat} {t : Task} {e : Nat × ArrayUnit} (h : s.Inv) : (s.resumeArray k t e).Inv := by
  unfold State.resumeArray
  dsimp only
  split
  · exact h.setArray
  · refine .ite h.setArray.loadCycles ?_
    split
    · next e2 => exact (h.setArray.runLoad.of_fst e2).setArray
    · next e2 => exact h.setArray.runLoad.of_fst e2

theorem KeepsInv.castResume {k : Nat} (h : s.Inv) : KeepsInv (execCastResume k s) := by
  unfold execCastResume
  split
  · exact .next h
  · refine .ite (.next h) ?_
    exact .next (.foldl (fun _ _ ht => .ite ht.resumeArray ht) (.setTask (.update h.setCore.count.writeAll)))

/-! ## Requests -/

theorem State.Inv.reqOpenOp {k p : Nat} {w : W512} (h : s.Inv) : (s.reqOpenOp k p w).Inv := by
  unfold State.reqOpenOp
  split
  · exact .finish (.ite h.setCustomer.count h)
  · exact .finish h

theorem State.Inv.withRequest {k p : Nat} {w : W512} {clean : Bool} {f : State → Nat → Request → State} (h : s.Inv)
    (hf : ∀ slot r, (f s slot r).Inv) : (s.withRequest k p w clean f).Inv := by
  unfold State.withRequest
  dsimp only
  split
  · split
    · exact hf _ _
    · exact h.finish
  · exact h.finish

theorem State.Inv.charge {c n : Nat} (h : s.Inv) : (s.charge c n).Inv := h.setCustomer

theorem State.Inv.reqTokensOp {k p : Nat} {w : W512} (h : s.Inv) : (s.reqTokensOp k p w).Inv :=
  h.withRequest fun _ _ => .finish (.charge (.ite (.count (.ite (.count h) h)) (.ite (.count h) h)))

theorem State.Inv.reqPauseOp {k p : Nat} {w : W512} (h : s.Inv) : (s.reqPauseOp k p w).Inv :=
  h.withRequest fun _ _ => .ite h.finish (.finish h)

theorem State.Inv.reqResumeOp {k p : Nat} {w : W512} (h : s.Inv) : (s.reqResumeOp k p w).Inv := h.withRequest fun _ _ => .finish h

theorem State.Inv.reqCloseOp {k p : Nat} {w : W512} (h : s.Inv) : (s.reqCloseOp k p w).Inv :=
  h.withRequest fun _ _ => h.endRequest.finish

theorem State.Inv.appendStandins {p slot : Nat} {r : Request} {rec_ : BitVec 128} (h : s.Inv) : (s.appendStandins p slot r rec_).Inv :=
  .ringTail (.foldl (fun _ _ ht => .ite ht.homeWrite.memError.addPoison ht.homeWrite) h)

theorem State.Inv.standinSwitch {slot : Nat} {r : Request} {rec_ : BitVec 128} (h : s.Inv) : (s.standinSwitch slot r rec_).Inv :=
  .count (.appendStandins (.foldl (fun _ _ ht => ht.skipTask) h))

theorem State.Inv.monitor {slot : Nat} (h : s.Inv) : (s.monitor slot).Inv := by
  unfold State.monitor
  split
  · exact h
  · refine .ite h ?_
    extract_lets el budget
    split
    next ht =>
      replace h := State.Inv.of_fst (.ite_fst h h) ht
      refine .ite h (.ite h (.ite h.standinSwitch ?_))
      exact .ite (.count (.ite (.update h) (.count (.update h)))) (.ite (.update h) (.count (.update h)))

/-! ## Scalar instructions -/

theorem KeepsInv.binary {t : Tid} {f : SOp} {op : W64 → W64 → W64} (h : s.Inv) : KeepsInv (s.binary t f op) := .sOp h

theorem KeepsInv.unary {t : Tid} {f : SOp} {op : W64 → W64} (h : s.Inv) : KeepsInv (s.unary t f op) := .sOp h

theorem KeepsInv.immediate {t : Tid} {f : IOp} {op : W64 → W64 → W64} (h : s.Inv) : KeepsInv (s.immediate t f op) := .iOp h

theorem KeepsInv.rds {t : Tid} {f : IOp} (h : s.Inv) : KeepsInv (execRds t f s) := by
  unfold execRds
  refine .issue h fun x k => ?_
  split
  · exact h.setThread
  · exact h.raise

/-! ## Vector instructions -/

theorem KeepsInv.vOp {t : Tid} {f : VOp} {u : VUse} {legal : Bool} {eff : Thread → Thread} (h : s.Inv) :
    KeepsInv (s.vOp t f u legal eff) :=
  .issue h fun _ _ => h.setThread

theorem KeepsInv.vArith {t : Tid} {f : VOp} {fop : Fmt → Nat → Nat → Nat × FpFlags} {iop : Nat → Int → Int → Int} (h : s.Inv) :
    KeepsInv (s.vArith t f fop iop) := .vOp h

theorem KeepsInv.vBits {t : Tid} {f : VOp} {op : Nat → Nat → Nat → Nat} (h : s.Inv) : KeepsInv (s.vBits t f op) := .vOp h

theorem KeepsInv.vReduce {t : Tid} {f : VOp} {fop : Fmt → Nat → Nat → Nat × FpFlags} {fid : Fmt → Nat}
    {iop : Int → Int → Int} {iid : Nat → Int} (h : s.Inv) : KeepsInv (s.vReduce t f fop fid iop iid) := .vOp h

/-! ## Special functions -/

theorem State.Inv.noteTable {k slot : Nat} {x : TableSlot} (h : s.Inv) : (s.noteTable k slot x).Inv := by
  unfold State.noteTable
  split
  · exact h.setTask
  · exact h

theorem KeepsInv.sfe {t : Tid} {f : VOp} (h : s.Inv) : KeepsInv (execSfe t f s) := by
  unfold execSfe
  refine .issue h fun x k => ?_
  split
  · exact h.raise
  · exact .ite h.raise h.setThread.noteTable.count.count.count.count

theorem KeepsInv.sfload {t : Tid} {f : VOp} (h : s.Inv) : KeepsInv (execSfload t f s) := by
  unfold execSfload
  refine .issue h fun x k => ?_
  refine .ite h.raise ?_
  split
  · exact h.refuseCount.raise
  · exact .ite h.setThread h.setThread.setCore.startJob
  · exact .ite h.raise (.ite h.setThread h.setThread.setCore)

theorem State.Inv.tableRead {t : Tid} {x : Thread} {k : Task} {slot : Nat} {a : W64} {bs : List Byte} (h : s.Inv) :
    (s.tableRead t x k slot a bs).Inv := .ite h.count.raise h.setCore.noteTable.count.setThread

theorem KeepsInv.sfloadComplete {t : Tid} {far : List Byte} {status : Byte} (h : s.Inv) : KeepsInv (execSfloadComplete t far status s) := by
  unfold execSfloadComplete
  split
  · exact .next h
  · split
    · refine .ite (.next h) ?_
      refine .ite ?_ (.ite (.next h.setCore.jobStatus.raise) (.ite (.next h) (.next h.setCore.jobStatus.tableRead)))
      refine .ite (.next h) ?_
      refine .ite (.next h.setCore.raise) ?_
      split
      · exact .next (.ite h.setCore.readError h.setCore.readError.raise)
      · exact .next h.setCore.tableRead
    · exact .next h

/-! ## Commands of the stage -/

theorem State.Inv.taskOp {k p : Nat} {w : W512} (h : s.Inv) : (s.taskOp k p w).Inv := by
  unfold State.taskOp
  dsimp only
  split
  · exact .ite h.setTask.positions.noteArea.arrivalList h.setTask.positions
  · exact h.setTask.positions

theorem State.Inv.stepBeginOp {k p : Nat} {w : W512} (h : s.Inv) : (s.stepBeginOp k p w).Inv := .ite h.finish h.modPart.positions.lensDone

theorem KeepsInv.stepBoundary {p : Fin 128} (h : s.Inv) : KeepsInv (execStepBoundary p s) := by
  unfold execStepBoundary
  dsimp only
  split
  · exact .next h
  · exact .ite (.next h) (.next h.publish.raiseLens.startStep.modPart.lockBarrier.finish.positions)

theorem KeepsInv.dispatch {d : Fin 4} (h : s.Inv) : KeepsInv (execDispatch d s) := by
  unfold execDispatch
  refine .ite (.next h) ?_
  dsimp only
  split
  · next hu =>
    obtain ⟨e, -, he⟩ := List.exists_of_findSome?_eq_some hu
    exact .next (h.noteAll.tryDispatch he)
  · exact .next h.noteAll

theorem KeepsInv.taskComplete {k : Nat} (h : s.Inv) : KeepsInv (execTaskComplete k s) := by
  unfold execTaskComplete
  split
  · exact .next h
  · exact .ite (.next h) (.next (.taskDone (.ite (.ite h.count.count h.count) h)))

theorem KeepsInv.taskCommit {k : Nat} (h : s.Inv) : KeepsInv (execTaskCommit k s) := by
  unfold execTaskCommit
  split
  · exact .next h
  · refine .ite (.next h) ?_
    refine .next ?_
    refine .wakeHeld ?_
    refine .lensDone ?_
    refine .commitTask ?_
    exact .ite (.modPart (.ite (.ite h.dropTree h.acceptTree) h)) (.ite (.ite h.dropTree h.acceptTree) h)

theorem KeepsInv.completionNotice {q : QRef} (h : s.Inv) : KeepsInv (execCompletionNotice q s) := by
  unfold execCompletionNotice
  dsimp only
  split
  · split
    · exact .next h.writeNotice
    · exact .next h
  · exact .next h

/-! ## Store commands -/

theorem State.Inv.storeWrite {a : Acc} {op : Byte} {d : List Byte} (h : s.Inv) : (s.storeWrite a op d).Inv := h.entryWrite

theorem KeepsInv.bankWrite (h : s.Inv) : KeepsInv (execBankWrite s) := by
  unfold execBankWrite
  dsimp only
  split
  · exact .next h
  · exact .ite (.next h) (.next h)

theorem State.Inv.storeResult {e : W32} {state : Nat} (h : s.Inv) : (s.storeResult e state).Inv := h

theorem State.Inv.bankDone {j : StoreJob} {e : W32} (h : s.Inv) : (s.bankDone j e).Inv := by
  unfold State.bankDone
  split
  · exact .foldl (fun _ _ ht => ht.emcy) h
  · exact h.storeResult
  · exact h.storeResult
  · exact h.storeResult
  · exact h.hmStart
  · exact h.hmStart
  · exact .ite h (.ite h.packageReset h.storeResult)
  · exact h.storeResult
  · exact .ite h.storeResult (.ite h.storeResult (.ite h.packageReset (.hmRestart h)))

theorem KeepsInv.bankWriteComplete {failed : Option (Fin 8)} {otherBad : Bool} (h : s.Inv) :
    KeepsInv (execBankWriteComplete failed otherBad s) := by
  unfold execBankWriteComplete
  dsimp only
  split
  · exact .next h
  · split
    · exact .next (.bankDone h)
    · refine .ite (.next (.haltNow (.update (.bankDone (.logFault (.count h)))))) ?_
      exact .next (.bankDone (.logFault (.count h)))

/-! ## Thermal commands -/

theorem State.Inv.trip {sensor : Nat} {t16 : ℤ} (h : s.Inv) : (s.trip sensor t16).Inv := .ite h (.haltNow h)

theorem KeepsInv.tempSample {ts : List ℤ} (h : s.Inv) : KeepsInv (execTempSample ts s) := by
  unfold execTempSample
  dsimp only
  split
  · exact .next (.trip (.ite (.repermit h) h))
  · exact .next (.ite (.repermit h) h)

theorem KeepsInv.hbmTempRead {ts : List ℤ} (h : s.Inv) : KeepsInv (execHbmTempRead ts s) := by
  unfold execHbmTempRead
  dsimp only
  split
  · exact .next (.trip (.ite (.repermit h) h))
  · exact .next (.ite (.repermit h) h)

theorem KeepsInv.coolantStop (h : s.Inv) : KeepsInv (execCoolantStop s) := by
  unfold execCoolantStop
  refine .ite (.next h) ?_
  exact .ite (.next (.bindReasons (.blackoutFor (.logFault (.count h))))) (.ite (.next h) (.next h))

/-! ## An idle cycle -/

theorem State.Inv.slotTime (h : s.Inv) : s.slotTime.Inv := .foldl (fun _ _ ht => .ite ht.engineTime ht) h

theorem State.Inv.ownerWaits (h : s.Inv) : s.ownerWaits.Inv := by
  unfold State.ownerWaits
  refine .foldl (fun u x hu => ?_) h
  split
  · exact hu.count
  · exact hu

theorem State.Inv.tileWait {k : Nat} {c : ArrCmd} (h : s.Inv) : (s.tileWait k c).1.Inv := by
  unfold State.tileWait
  split
  · exact .ite_fst h.lateTile h
  · exact h

theorem State.Inv.arrayCycle {k : Nat} (h : s.Inv) : (s.arrayCycle k).Inv := by
  unfold State.arrayCycle
  split
  · exact h
  · next c _ _ =>
    have hwait : (if c.ran then (s, false) else s.tileWait k c).1.Inv := by
      split
      · exact h
      · exact h.tileWait
    refine .ite h.count ?_
    split
    · next ht => exact (hwait.of_fst ht).count
    · next ht =>
      have hu := hwait.of_fst ht
      exact .ite hu (.ite hu.count (.ite hu.setArray hu))

theorem State.Inv.arrayWaits (h : s.Inv) : s.arrayWaits.Inv := .foldl (fun _ _ ht => ht.arrayCycle) h

theorem State.Inv.logWaits (h : s.Inv) : s.logWaits.Inv := .ite h h.count

theorem State.Inv.bookWaits (h : s.Inv) : s.bookWaits.Inv := .ite h.count h

theorem State.Inv.ringWaits (h : s.Inv) : s.ringWaits.Inv := .foldl (fun _ _ ht => .ite ht (.ite ht.count ht.count)) h

theorem State.Inv.destWaits (h : s.Inv) : s.destWaits.Inv := .foldl (fun _ _ ht => ht.count) h

theorem State.Inv.creditWaits (h : s.Inv) : s.creditWaits.Inv := .foldl (fun _ _ ht => .ite ht.count ht) h

theorem State.Inv.tileCycle (h : s.Inv) : s.tileCycle.Inv := by
  unfold State.tileCycle
  refine .update (.foldl (fun u e hu => ?_) h)
  refine .ite hu (.count ⟨?_, hu.2⟩)
  exact List.foldlRecOn (motive := fun m => Memory.wf m = true) _ _ hu.1 fun m hm w _ => Memory.wf_memPut w.2.2 m w.2.1 hm

theorem State.Inv.reasonTicks (h : s.Inv) : s.reasonTicks.Inv := h

theorem State.Inv.workCycle (h : s.Inv) : s.workCycle.Inv :=
  h.slotTime.ownerWaits.arrayWaits.logWaits.bookWaits.ringWaits.destWaits.creditWaits.noteAll

theorem State.Inv.tick (h : s.Inv) : s.tick.Inv := by
  unfold State.tick
  refine .ite h ?_
  exact .releaseHeld (.tileCycle (.ite (.workCycle (.ite h (.reasonTicks h))) (.ite h (.reasonTicks h))))

/-! ## Every command -/

/-- Every command keeps the invariant: each by the lemma of the operation it runs. -/
theorem exec_keepsInv (i : Instr) (h : s.Inv) : KeepsInv (exec i s) := by
  cases i with dsimp only [exec]
  | nop | cmp | sel | fadd | fmul | ffma | fcvtsf | fcvtfs => exact .sOp h
  | add | sub | mul | mulhu | mulhs | divu | divs | remu | rems | and | or | xor | shl | shr | sra | mins | maxs => exact .binary h
  | popc | clz => exact .unary h
  | addi | andi | ori | xori | shli | shri => exact .immediate h
  | movhi => exact .iOp h
  | rds => exact .rds h
  | wrs | eret | erets => exact .issue h fun _ _ => .ite h.setThread h.raise
  | ld => exact .ld h
  | st | stv => exact .issue h fun _ _ => h.threadStore
  | ldv => exact .ldv h
  | ldai => exact .ldai h
  | atadd | atfadd | cas | fpadd32 => exact .threadAtomic h
  | vadd | vsub | vmul | vmax | vmin => exact .vArith h
  | vfma | vcmp | vsel | vcvt | vbcast | vext | vins | vperm => exact .vOp h
  | vand | vor | vxor | vshl | vshr => exact .vBits h
  | vredsum | vredmax | vredmin => exact .vReduce h
  | sfe => exact .sfe h
  | sfload => exact .sfload h
  | sfloadComplete => exact .sfloadComplete h
  | acmd => exact .acmd h
  | await => exact .await h
  | astat | br | call | jr | yield => exact .issue h fun _ _ => h.setThread
  | flyhint => exact .issue h fun _ _ => .ite h.setThread (.ite h.setThread h.setThread.count)
  | fence => exact .issue h fun _ _ => .ite h.setThread h.hold
  | fenceComplete => exact .fenceComplete h
  | releaseIssue => exact .releaseIssue h
  | ffence => exact .ffence h
  | inv => exact .inv h
  | bar => exact .issue h fun _ _ => h.hold.barCheck
  | waitv => exact .waitv h
  | waitvTimeout => exact .waitvTimeout h
  | endThread => exact .endThread h
  | brk => exact .issue h fun _ _ => h.raise
  | load => exact .load h
  | stream => exact .stream h
  | release => exact .release h
  | arrayCommandComplete => exact .arrayCommandComplete h
  | taskEntry => exact .withEntry h fun _ _ _ _ ht => ht.taskOp
  | stepBegin => exact .withEntry h fun _ _ _ _ ht => ht.stepBeginOp
  | stepBoundary => exact .stepBoundary h
  | stepTimeout => exact .ite (.next h.jobFault) (.next h)
  | dispatch => exact .dispatch h
  | partitionResetComplete => exact .ite (.next h) (.next h.publish.startStep.lockBarrier.modPart.count.emcy.settle)
  | taskComplete => exact .taskComplete h
  | taskCommit => exact .taskCommit h
  | completionNotice => exact .completionNotice h
  | kvAppend => exact .kvAppend h
  | normVerdict => exact .normVerdict h
  | encoreReservation => exact .encoreReservation h
  | reqOpen => exact .withEntry h fun _ _ _ _ ht => ht.reqOpenOp
  | reqTokens => exact .withEntry h fun _ _ _ _ ht => ht.reqTokensOp
  | reqPause => exact .withEntry h fun _ _ _ _ ht => ht.reqPauseOp
  | reqResume => exact .withEntry h fun _ _ _ _ ht => ht.reqResumeOp
  | reqClose => exact .withEntry h fun _ _ _ _ ht => ht.reqCloseOp
  | callMonitorTick => exact .ite (.next h) (.next (.foldl (fun _ _ ht => ht.monitor) h))
  | budgetRefill => exact .next (.foldl (fun _ _ ht => .ite ht ht.setCustomer) h)
  | switchOut => exact .switchOut h
  | castResume => exact .castResume h
  | checkFailure => exact .checkFailure h
  | replayComplete => exact .replayComplete h
  | sitePermanent => exact .ite (.next h) (.next h.makePermanent.releaseHeld)
  | laneCopyComplete => exact .laneCopyComplete h
  | dieLinkFlitError => exact .ite (.next h) (.next h.count)
  | dieLinkRetryLimit => exact .ite (.next h) (.next h.haltNow)
  | pool => exact .withEntry h fun _ _ _ _ ht => ht.poolOp
  | ctxAlloc => exact .withEntry h fun _ _ _ _ ht => ht.ctxAllocOp
  | ctxRelease => exact .withEntry h fun _ _ _ _ ht => ht.ctxReleaseOp
  | ctxReleaseComplete => exact .ctxReleaseComplete h
  | publish => exact .withEntry h fun _ _ _ _ ht => ht.publishOp
  | map => exact .withEntry h fun _ _ _ _ ht => ht.mapOp
  | unpublish => exact .withEntry h fun _ _ _ _ ht => ht.unpublishOp
  | ctxQuery => exact .withEntry h fun _ _ _ _ ht => ht.ctxQueryOp
  | castingCall => exact .castingCall h
  | scoresSegment | offersSegment | responsesSegment | noticesSegment | countsSegment | dispatchSegment | returnSegment | failSegment =>
    exact .next h.castSegment
  | slotListFinal => exact .slotListFinal h
  | castTimeout => exact .ite (.next h) (.next h.failCall.count)
  | alloc => exact .withEntry h fun _ _ _ _ ht => .flyOp ht ht.allocOp
  | free => exact .withEntry h fun _ _ _ _ ht => .flyOp ht ht.freeOp
  | objRegister => exact .withEntry h fun _ _ _ _ ht => .flyOp ht ht.objRegisterOp
  | objRetire => exact .withEntry h fun _ _ _ _ ht => .flyOp ht ht.objRetireOp
  | fill => exact .withEntry h fun _ _ _ _ ht => .flyOp ht ht.fillOp
  | fillComplete => exact .fillComplete h
  | keyLoad => exact .withEntry h fun _ _ _ _ ht => .flyOp ht ht.keyLoadOp
  | keyDrop => exact .withEntry h fun _ _ _ _ ht => .flyOp ht ht.keyDropOp
  | cueLoad => exact .withEntry h fun _ _ _ _ ht => .flyOp ht ht.cueLoadOp
  | cueSelect => exact .withEntry h fun _ _ _ _ ht => .flyOp ht ht.cueSelectOp
  | cueSelectComplete => exact .ite (.next h) (.next (.foldl (fun _ _ ht => ht.finish) h.modPart))
  | cueUnload => exact .withEntry h fun _ _ _ _ ht => .flyOp ht ht.cueUnloadOp
  | cueEntryStart => exact .cueEntryStart h
  | cueEntryPlaced => exact .cueEntryPlaced h
  | flit => exact .flit h
  | retrain => exact .ite (.next h) (.next h.toRetrain)
  | retrainComplete | trainingComplete => exact .ite (.next h) (.next h.trained)
  | retrainTimeout => exact .ite (.next h) (.next h.trainFail.train)
  | lightDetected => exact .ite (.next h) (.next h.setPort.relight)
  | lightLost => exact .next h.lightGone
  | trainingTimeout => exact .ite (.next h) (.next h.trainFail.setPort)
  | trainingRetry => exact .ite (.next h) (.next h.train)
  | loadRequest | storeRequest | ataddRequest | atfaddRequest | casRequest | fpadd32Request | inval | fenceRequest | freqCue
  | routeUpdate | assume | halt | coll => exact .next h.arrive
  | invalidateComplete => exact .invalidateComplete h
  | unknownOperation => exact .ite (.next h) (.next h.arrive)
  | response => exact .response h
  | e2eResend => exact .e2eResend h
  | coherenceInvalidate => exact .ite (.next h) (.next h.dropLines.markFills.cohSend)
  | coherenceAck => exact .ite (.next h) (.next h.acknowledge.releaseHeld)
  | portDownTimeout => exact .ite (.next h) (.next h.declareLost)
  | switchInComplete => exact .switchInComplete h
  | collective => exact .collective h
  | collTimeout => exact .collTimeout h
  | fohLatencyMeasure => exact .ite (.next h.setPort) (.next h)
  | powerEstimate => exact .next (.reassess h)
  | gainUpdate => exact .ite (.next (.update (.draw h))) (.ite (.next h) (.ite (.next h) (.next h)))
  | hopComplete => exact .hopComplete h
  | voltageConfirm => exact .voltageConfirm h
  | voltageTimeout => exact .voltageTimeout h
  | voltageRetry => exact .voltageRetry h
  | droopStretch | droopRecovery => exact .next h.setCore
  | droopRateCheck | thermalPermitRise | hbmPermitRise => exact .ite (.next (.repermit h)) (.next h)
  | droopPermitRestore => exact .ite (.next h) (.next (.repermit h))
  | lockForce => exact .lockForce h
  | tempSample => exact .tempSample h
  | hbmTempRead => exact .hbmTempRead h
  | coolantOkFall | coolantOkRise | busOffWindowExpiry => exact .next (.settle h)
  | coolantStop => exact .coolantStop h
  | coolantReturned | flyUcodeEngineLoaded | reportSigned => exact .ite (.next h) (.next h)
  | coolantHoldExpiry => exact .ite (.next (.bindReasons (.haltNow h))) (.next h)
  | coolantReenable | cap | stepMax | currentLimit | curtain | discard | layerCounters | partReset | errorCount | store | restore
  | flyUcodeGo | portRetrain | image | ownerRequest | nonce => exact .next h.entryWrite
  | read | readWings | mailboxRelease => exact .next h.mbxRun
  | write => exact .next h.mbxRun.releaseHeld
  | mailboxClaimTimeout => exact .next h.setMailbox
  | dictionaryWrite => exact .next h.writeBy.releaseHeld
  | usdoInitiate => exact .usdoInitiate h
  | usdoSegment => exact .usdoSegment h
  | usdoTimeout => exact .usdoTimeout h
  | nmtStart | nmtPreOperational => exact .ite (.next h.toNmt) (.next h)
  | nmtStop => exact .ite (.next h.usdoClear.toNmt) (.next h)
  | nmtResetCommunication => exact .ite (.next h) (.next (.toNmt (.update (.usdoClear h))))
  | nmtResetNode => exact .ite (.next (.update h.hmRestart)) (.next h)
  | heartbeat | tpdoEvent | atsInvalidate => exact .ite (.next h.send) (.next h)
  | emcyInhibit => exact .next (.emcyGo h)
  | busOff => exact .ite (.next h) (.next (.settle (.count h)))
  | packageStart => exact .ite (.next h) (.next (.bootDecide h))
  | showReady => exact .showReady h
  | startTimeout => exact .ite (.next h.packageReset) (.next h)
  | watchdogExpiry => exact .ite (.next h) (.ite (.next h.packageReset) (.next h.hmRestart.count.logFault))
  | hmRestartComplete => exact .hmRestartComplete h
  | storeBegin | activate | abandon | retryStart | ghostNext => exact .next h.storeWrite
  | bankWrite => exact .bankWrite h
  | bankWriteComplete => exact .bankWriteComplete h
  | sqTail => exact .sqTail h
  | cqHead => exact .cqHead h
  | qreset => exact .ite (.next h.qresetWrite) (.next h)
  | queueResetComplete => exact .ite (.next h) (.next h.qDefaults)
  | queueRingWrite => exact .ite (.next h.ringWrite) (.next h)
  | enableSet | enableClear => exact .ite (.next h.ringCfgWrite) (.next h)
  | perst => exact .next (.update h.fnDefaults.dropVfs)
  | flr => exact .ite (.next h) (.ite (.next h.fnDefaults) (.next h.fnDefaults.jobFault.vfQueuesReset))
  | bar4Read => exact .bar4Read h
  | bar4Write => exact .ite (.next h) (.next (.releaseHeld (.foldl (fun _ _ ht => ht.hostPut) h)))
  | bar4FaultStatusRead => exact .ite (.next h) (.next h.setHostFn.send)
  | interruptTimer => exact .ite (.next h) (.next h.setQueue.msix)
  | msixUnmask => exact .ite (.next h) (.next (.ite h.setHostFn.send h.setHostFn))
  | mgmtRst | vauxLoss => exact .next (.update h.coldReset)
  | railFault => exact .ite (.next h.haltNow) (.next h)
  | refclkLoss => exact .next (.update (.ite h.haltNow h))
  | refclkReturn => exact .ite (.next (.serveReady h)) (.next h)
  | laserOkChange => exact .ite (.next h) (.next (.foldl (fun _ _ ht => ht.lightGone) h))
  | unknownEntryClass => exact .withEntry h fun _ _ _ _ ht => ht.finish
  | aperture => exact .ite (.next h.apertureWrite) (.next h)
  | numvfs => exact .ite (.next h) (.next (.update h.dropVfs))
  | promptBookParityError | lockUp => exact .ite (.next h) (.next h.draw.draw.haltNow)
  | switchOutComplete => exact .switchOutComplete h
  | ringAccessError => exact .ite (.next h) (.next h.qError.send)

end Operations

/-- Settles O4: an idle cycle keeps the invariant (`State.Inv.tick`), and a command that is taken from the queue keeps it as every command
does (`exec_keepsInv`). Memory in order and a queue of well-formed commands are the model's own representation (logs 6 and 86). -/
theorem stepKeepsInvariant : Obligations.StepKeepsInvariant := by
  unfold Obligations.StepKeepsInvariant
  intro s s' h hs
  unfold step at hs
  split at hs
  · cases hs
    exact h.tick
  · next c rest hp =>
    have hrest : ({ s with pending := rest } : State).Inv := ⟨h.1, fun d hd => h.2 d (hp ▸ List.mem_cons_of_mem _ hd)⟩
    exact exec_keepsInv c hrest s' hs

end Sys2Proof.Machine
/-! Fly operations on memory, objects, keys and fills (O39): what an engine's reads and completions leave unchanged, then each operation
by the state it leaves (R220, R222 to R229). -/

namespace Sys2Proof.Machine

open Sys2Proof

/-! ## What an engine's reads leave unchanged -/

/-- Memory, partitions, cores, entries and the tables of the fly engines are the same. -/
structure State.SameTables (s t : State) : Prop where
  mem : t.mem = s.mem
  parts : t.parts = s.parts
  cores : t.cores = s.cores
  entries : t.entries = s.entries
  allocs : t.allocs = s.allocs
  objects : t.objects = s.objects
  keys : t.keys = s.keys
  fills : t.fills = s.fills

section SameTables
variable {s t u : State}

theorem State.SameTables.refl (s : State) : s.SameTables s := ⟨rfl, rfl, rfl, rfl, rfl, rfl, rfl, rfl⟩

theorem State.SameTables.trans (h : s.SameTables t) (h' : t.SameTables u) : s.SameTables u :=
  ⟨h'.mem.trans h.mem, h'.parts.trans h.parts, h'.cores.trans h.cores, h'.entries.trans h.entries, h'.allocs.trans h.allocs,
    h'.objects.trans h.objects, h'.keys.trans h.keys, h'.fills.trans h.fills⟩

theorem State.SameTables.part (h : s.SameTables t) (p : Nat) : t.part p = s.part p := by rw [State.part, h.parts, State.part]

theorem State.SameTables.foldl_fst {α β : Type} {f : State × β → α → State × β} (hf : ∀ (a : State × β) (x : α), a.1.SameTables (f a x).1)
    (l : List α) (a : State × β) : a.1.SameTables (l.foldl f a).1 :=
  List.foldlRecOn (motive := fun b => a.1.SameTables b.1) l f (.refl a.1) fun b hb x _ => hb.trans (hf b x)

/-- The state that comes out beside a value. -/
theorem State.SameTables.of_pair {α : Type} {a : State × α} {x : α} (h : s.SameTables a.1) (ha : a = (t, x)) : s.SameTables t := by
  rwa [ha] at h

theorem State.Reported.sameTables (h : s.Reported t) : s.SameTables t := by
  obtain ⟨_, _, _, _, rfl⟩ := h
  exact ⟨rfl, rfl, rfl, rfl, rfl, rfl, rfl, rfl⟩

theorem State.FabricOnly.sameTables (h : s.FabricOnly t) : s.SameTables t := by
  obtain ⟨_, _, rfl⟩ := h
  exact ⟨rfl, rfl, rfl, rfl, rfl, rfl, rfl, rfl⟩

theorem State.count_sameTables (s : State) (c : CtrName) (unit n : Nat) : s.SameTables (s.count c unit n) :=
  ⟨rfl, rfl, rfl, rfl, rfl, rfl, rfl, rfl⟩

theorem State.logFault_sameTables (s : State) (r : FaultRec) : s.SameTables (s.logFault r) :=
  .trans (t := (s.logOnly r).1) ⟨rfl, rfl, rfl, rfl, rfl, rfl, rfl, rfl⟩ (s.logFault_reported r).sameTables

theorem State.transient_sameTables (s : State) (x : Site) (cause : Nat) (detail detail2 : W64) (status : Byte) (part : Nat) :
    s.SameTables (s.transient x cause detail detail2 status part) :=
  .trans (t := s.noteTransient x) ⟨rfl, rfl, rfl, rfl, rfl, rfl, rfl, rfl⟩ (State.logFault_sameTables ..)

theorem State.memError_sameTables (s : State) (l : Nat) (syndrome : W64) (status : Byte) (part : Nat) :
    s.SameTables (s.memError l syndrome status part) := by
  unfold State.memError
  split
  · exact s.transient_sameTables ..
  · exact (s.count_sameTables ..).trans (State.logFault_sameTables ..)

theorem State.countHold_sameTables (s : State) (task : Option Nat) (l n : Nat) : s.SameTables (s.countHold task l n) := by
  unfold State.countHold
  split
  · exact s.count_sameTables ..
  · exact .refl s

theorem State.sendVia_sameTables (s : State) (hop : Hop) (p : Option Nat) (op : Nat) (r : FabReq) (task : Option Nat) (kind : PendKind) :
    s.SameTables (s.sendVia hop p op r task kind).1 := by
  unfold State.sendVia
  dsimp only
  split
  · exact .refl s
  · split
    · exact .refl s
    · split
      · exact s.logFault_sameTables _
      · split
        · exact .refl s
        · exact ⟨rfl, rfl, rfl, rfl, rfl, rfl, rfl, rfl⟩

/-- The LOADs of an engine's job leave by the ports. -/
theorem State.jobLoads_sameTables (m : Nat) (s : State) (j : FarRead) : s.SameTables (s.jobLoads m j).1 := by
  induction m generalizing s j with
  | zero => exact .refl s
  | succ m ih =>
    have hsent : s.SameTables (match s.jobHop j with
        | some hop => s.sendVia hop (some j.part) 1 (reqTo j.addr 1 (loadPiece (glocal j.addr) j.left)) none (.engine j.job)
        | none => (s, .lost)).1 := by
      split
      · exact s.sendVia_sameTables ..
      · exact .refl s
    unfold State.jobLoads
    dsimp only
    split
    · exact .refl s
    · split
      · next h => exact (hsent.of_pair h).trans (ih ..)
      · next h => exact hsent.of_pair h
      · exact .refl s

theorem State.pumpJobs_sameTables (s : State) : s.SameTables s.pumpJobs :=
  .trans (State.SameTables.foldl_fst (f := fun (a : State × List FarRead) j => ((a.1.jobLoads pendLimit j).1,
      a.2 ++ [(a.1.jobLoads pendLimit j).2])) (fun a j => State.jobLoads_sameTables pendLimit a.1 j) s.fab.jobs (s, []))
    ⟨rfl, rfl, rfl, rfl, rfl, rfl, rfl, rfl⟩

theorem State.startJob_sameTables (s : State) (job : EngineJob) (p : Nat) (a : W64) (n : Nat) : s.SameTables (s.startJob job p a n) :=
  .trans (t := { s with fab := { s.fab with jobs := s.fab.jobs ++ [{ job := job, part := p, addr := a, left := n }] } })
    ⟨rfl, rfl, rfl, rfl, rfl, rfl, rfl, rfl⟩ (State.pumpJobs_sameTables _)

end SameTables

/-! ## The end of a fly operation -/

section FlyDone
variable {s t : State} {k p : Nat} {st : Byte}

theorem State.flyDone_eq (s : State) (k p : Nat) (st : Byte) :
    ∃ counters entries, s.flyDone k p st = { s with counters := counters, entries := entries } := by
  unfold State.flyDone
  split
  · obtain ⟨_, h⟩ := (s.count .quotaRefusals p).finish_eq k st 0
    exact ⟨_, _, h⟩
  · obtain ⟨_, h⟩ := s.finish_eq k st 0
    exact ⟨_, _, h⟩

@[simp] theorem State.flyDone_mem : (s.flyDone k p st).mem = s.mem := by obtain ⟨_, _, h⟩ := s.flyDone_eq k p st; rw [h]
@[simp] theorem State.flyDone_parts : (s.flyDone k p st).parts = s.parts := by obtain ⟨_, _, h⟩ := s.flyDone_eq k p st; rw [h]
@[simp] theorem State.flyDone_allocs : (s.flyDone k p st).allocs = s.allocs := by obtain ⟨_, _, h⟩ := s.flyDone_eq k p st; rw [h]
@[simp] theorem State.flyDone_objects : (s.flyDone k p st).objects = s.objects := by obtain ⟨_, _, h⟩ := s.flyDone_eq k p st; rw [h]
@[simp] theorem State.flyDone_keys : (s.flyDone k p st).keys = s.keys := by obtain ⟨_, _, h⟩ := s.flyDone_eq k p st; rw [h]
@[simp] theorem State.flyDone_fills : (s.flyDone k p st).fills = s.fills := by obtain ⟨_, _, h⟩ := s.flyDone_eq k p st; rw [h]

theorem State.flyDone_of_ne (hst : st ≠ stQuota) : s.flyDone k p st = s.finish k st := by rw [State.flyDone, if_neg hst]

/-- A QUOTA is counted (Table 09-11). -/
theorem State.flyDone_quota : s.flyDone k p stQuota = (s.count .quotaRefusals p).finish k stQuota := by rw [State.flyDone, if_pos rfl]

/-- An entry that was not complete is, once operations that keep the entries end it. -/
theorem State.Pending.flyDone (h : s.Pending k) (ht : t.entries = s.entries) : Done (t.flyDone k p st) k st 0 := by
  unfold State.flyDone
  split
  · exact h.finish (t := t.count .quotaRefusals p) ht
  · exact h.finish ht

end FlyDone

/-! ## The entries of fly operations -/

/-- The state with other partitions, allocations, objects and keys. -/
def State.setTables (s : State) (parts : SMap Part) (allocs : SMap Alloc) (objects : SMap Object) (keys : SMap KeySlot) : State :=
  { s with parts := parts, allocs := allocs, objects := objects, keys := keys }

section Entry
variable {s s1 : State} {q : QRef} {e w : W512} {k code : Nat} {unused : Nat × Nat} {op : State → Nat → Nat → W512 → State} {f : Instr}

theorem zeroFld_eq_true {n : Nat} {x : BitVec n} {hi lo : Nat} (h : fld x hi lo = 0) : zeroFld x hi lo = true := by
  rw [zeroFld, h, beq_self_eq_true]

/-- An entry that is taken runs its operation, where its reserved bits are 0. -/
theorem exec_fly (h : Takes s q e s1 k w) (hf : exec f s = s.withEntry q e (· == code) (State.flyOp [unused] op)) (hcode : fld w 7 0 = code)
    (hres : fld w 255 8 = 0) (hun : fld w unused.1 unused.2 = 0) : exec f s = .next (op s1 k (qPart q) w) := by
  rw [hf, State.withEntry_of_takes h (by rw [hcode, beq_self_eq_true])]
  simp [State.flyOp, zeroFld_eq_true hres, zeroFld_eq_true hun]

/-- One with a reserved bit set is refused, and nothing else is done. -/
theorem exec_fly_reserved (h : Takes s q e s1 k w) (hf : exec f s = s.withEntry q e (· == code) (State.flyOp [unused] op))
    (hcode : fld w 7 0 = code) (hres : fld w 255 8 ≠ 0 ∨ fld w unused.1 unused.2 ≠ 0) : exec f s = .next (s1.finish k stDenied) := by
  rw [hf, State.withEntry_of_takes h (by rw [hcode, beq_self_eq_true])]
  have hbad : (!zeroFld w 255 8 || [unused].any fun r => !zeroFld w r.1 r.2) = true := by simpa [zeroFld] using hres
  rw [State.flyOp, if_pos hbad]

/-- What is left by an operation that sets tables and ends its entry. -/
theorem exec_fly_ends (h : Takes s q e s1 k w) (hf : exec f s = s.withEntry q e (· == code) (State.flyOp [unused] op))
    (hcode : fld w 7 0 = code) (hres : fld w 255 8 = 0) (hun : fld w unused.1 unused.2 = 0) (parts : SMap Part := s.parts)
    (allocs : SMap Alloc := s.allocs) (objects : SMap Object := s.objects) (keys : SMap KeySlot := s.keys) {st : Byte}
    (hop : ∀ queues n entries, op (s.withEntries queues n entries) k (qPart q) w =
      ((s.withEntries queues n entries).setTables parts allocs objects keys).flyDone k (qPart q) st) :
    ∃ s', exec f s = .next s' ∧ Done s' k st 0 ∧ s'.mem = s.mem ∧ s'.parts = parts ∧ s'.allocs = allocs ∧ s'.objects = objects ∧
      s'.keys = keys := by
  have hexec := exec_fly h hf hcode hres hun
  obtain ⟨hk, queues, n, entries, rfl⟩ := h.accepted
  rw [hop] at hexec
  exact ⟨_, hexec, hk.flyDone rfl, State.flyDone_mem, State.flyDone_parts, State.flyDone_allocs, State.flyDone_objects, State.flyDone_keys⟩

/-- An operation that only ends its entry leaves the tables as they were. -/
theorem exec_fly_answers (h : Takes s q e s1 k w) (hf : exec f s = s.withEntry q e (· == code) (State.flyOp [unused] op))
    (hcode : fld w 7 0 = code) (hres : fld w 255 8 = 0) (hun : fld w unused.1 unused.2 = 0) {st : Byte}
    (hop : ∀ queues n entries, op (s.withEntries queues n entries) k (qPart q) w =
      (s.withEntries queues n entries).flyDone k (qPart q) st) :
    ∃ s', exec f s = .next s' ∧ Done s' k st 0 ∧ s'.mem = s.mem ∧ s'.parts = s.parts ∧ s'.allocs = s.allocs ∧ s'.objects = s.objects ∧
      s'.keys = s.keys :=
  exec_fly_ends h hf hcode hres hun (hop := hop)

/-- A refusal that is counted on the way leaves the tables as they were. -/
theorem exec_fly_counts (h : Takes s q e s1 k w) (hf : exec f s = s.withEntry q e (· == code) (State.flyOp [unused] op))
    (hcode : fld w 7 0 = code) (hres : fld w 255 8 = 0) (hun : fld w unused.1 unused.2 = 0) {st : Byte} {c : CtrName}
    (hop : ∀ queues n entries, op (s.withEntries queues n entries) k (qPart q) w =
      ((s.withEntries queues n entries).count c (qPart q)).finish k st) :
    ∃ s', exec f s = .next s' ∧ Done s' k st 0 ∧ s'.mem = s.mem ∧ s'.parts = s.parts ∧ s'.allocs = s.allocs ∧ s'.keys = s.keys ∧
      (SMap.sorted s.counters = true → s'.ctr c (qPart q) = s.ctr c (qPart q) + 1) := by
  have hexec := exec_fly h hf hcode hres hun
  obtain ⟨hk, queues, n, entries, rfl⟩ := h.accepted
  rw [hop] at hexec
  obtain ⟨fin, hfin⟩ := ((s.withEntries queues n entries).count c (qPart q)).finish_eq k st 0
  refine ⟨_, hexec, hk.finish (t := (s.withEntries queues n entries).count c (qPart q)) rfl, ?_⟩
  rw [hfin]
  exact ⟨rfl, rfl, rfl, rfl, fun hsorted => (State.ctr_count hsorted ..).trans (if_pos rfl)⟩

/-- The fly operations by their classes and reserved bits. -/
theorem exec_flyTable {g : (QRef → W512 → Instr) × Nat × Nat × Nat} (hg : g ∈ flyTable) (q : QRef) (e : W512) (s : State) :
    ∃ op, exec (g.1 q e) s = s.withEntry q e (· == g.2.1) (State.flyOp [(g.2.2.1, g.2.2.2)] op) := by
  simp only [flyTable, List.mem_cons, List.not_mem_nil, or_false] at hg
  rcases hg with rfl | rfl | rfl | rfl | rfl | rfl | rfl | rfl | rfl | rfl <;> exact ⟨_, rfl⟩

end Entry

/-! ## Allocations -/

section Alloc
variable {s : State} {k p a n : Nat} {w : W512}

/-- Whether ALLOC may enter a range: aligned, populated, above the first region, below the reserved top and free (R222). -/
def State.AllocFits (s : State) (a n : Nat) : Prop :=
  a % 0x200000 = 0 ∧ n % 0x200000 = 0 ∧ n ≠ 0 ∧ inTiers a = true ∧ s.populated a n = true ∧ regionH ≤ a ∧
    a + n ≤ s.reservedTop (decide (baseD ≤ a)) ∧ ∀ x ∈ s.allocs, overlap x.1 x.2.size a n = false

/-- Whether the quota has room for it. -/
def State.AllocRoom (s : State) (p a n : Nat) : Prop :=
  if decide (baseD ≤ a) then s.usedD p + n ≤ s.quotaD p else s.usedH p + n ≤ s.quotaH p

theorem State.allocFits_iff : s.AllocFits a n ↔ (decide (a % 0x200000 ≠ 0) || decide (n % 0x200000 ≠ 0) || decide (n = 0) || !inTiers a ||
    !s.populated a n || decide (a < regionH) || decide (s.reservedTop (decide (baseD ≤ a)) < a + n) ||
    s.allocs.any fun e => overlap e.1 e.2.size a n) = false := by
  simp [State.AllocFits, and_assoc]

theorem State.allocRoom_iff : s.AllocRoom p a n ↔
    (if decide (baseD ≤ a) then decide (s.quotaD p < s.usedD p + n) else decide (s.quotaH p < s.usedH p + n)) = false := by
  unfold State.AllocRoom
  split <;> simp

theorem State.allocOp_fits (hfits : s.AllocFits (fld w 511 448) (fld w 447 384)) (hroom : s.AllocRoom p (fld w 511 448) (fld w 447 384)) :
    s.allocOp k p w = (s.setTables s.parts (SMap.put (fld w 511 448) { size := fld w 447 384, part := p } s.allocs)
      s.objects s.keys).flyDone k p stOk := by
  rw [State.allocFits_iff] at hfits
  rw [State.allocRoom_iff] at hroom
  simp only [State.allocOp, wordA_toNat, wordB_toNat, hfits, hroom, Bool.false_eq_true, if_false]
  rfl

theorem State.allocOp_quota (hfits : s.AllocFits (fld w 511 448) (fld w 447 384))
    (hroom : ¬ s.AllocRoom p (fld w 511 448) (fld w 447 384)) : s.allocOp k p w = s.flyDone k p stQuota := by
  rw [State.allocFits_iff] at hfits
  rw [State.allocRoom_iff, Bool.not_eq_false] at hroom
  simp only [State.allocOp, wordA_toNat, wordB_toNat, hfits, hroom, Bool.false_eq_true, if_false, if_true]

theorem State.allocOp_unfit (hfits : ¬ s.AllocFits (fld w 511 448) (fld w 447 384)) : s.allocOp k p w = s.flyDone k p stDenied := by
  rw [State.allocFits_iff, Bool.not_eq_false] at hfits
  simp only [State.allocOp, wordA_toNat, wordB_toNat, hfits, if_true]

theorem State.freeOp_frees {x : Alloc} (hx : SMap.find? (fld w 511 448) s.allocs = some x) (hpart : x.part = p)
    (hused : s.rangeUsed (fld w 511 448) x.size = false) :
    s.freeOp k p w = (s.setTables s.parts (SMap.del (fld w 511 448) s.allocs) s.objects s.keys).flyDone k p stOk := by
  simp [State.freeOp, wordA_toNat, hx, hpart, hused, State.setTables]

theorem State.freeOp_denied
    (h : ∀ x, SMap.find? (fld w 511 448) s.allocs = some x → x.part ≠ p ∨ s.rangeUsed (fld w 511 448) x.size = true) :
    s.freeOp k p w = s.flyDone k p stDenied := by
  unfold State.freeOp
  rw [wordA_toNat]
  dsimp only
  split
  · rfl
  · next x hx => rw [if_pos (h x hx)]

end Alloc

/-! ## Objects and keys -/

section Objects
variable {s : State} {k p : Nat} {w : W512}

section Register
variable (ha : fld w 511 448 < 2 ^ 52) (hin : s.inAllocs p (fld w 511 448) 64 = true) (hclean : s.poisoned (fld w 511 448) 64 = false)
include ha hin hclean

/-- OBJ_REGISTER of a descriptor that is read whole. -/
theorem State.objRegisterOp_of_read {o : W512} (ho : s.word512 (fld w 511 448) = o) : s.objRegisterOp k p w =
    if !s.objectOk p o then s.flyDone k p stDenied
    else if fld (s.quotaRec p) 191 160 ≤ s.objectsOf p then s.flyDone k p stQuota
    else (s.setTables s.parts s.allocs (SMap.put (objId o) { desc := o, part := p } s.objects) s.keys).flyDone k p stOk := by
  have haddr : zeroFld (wordA w) 63 52 = true := zeroFld_of_lt ((wordA_toNat w).trans_lt ha)
  simp only [State.objRegisterOp, haddr, wordA_toNat, hin, hclean, ho, Bool.not_true, Bool.or_self, Bool.false_eq_true, if_false]
  rfl

theorem State.objRegisterOp_registers {o : W512} (ho : s.word512 (fld w 511 448) = o) (hok : s.objectOk p o = true)
    (hroom : s.objectsOf p < fld (s.quotaRec p) 191 160) : s.objRegisterOp k p w =
      (s.setTables s.parts s.allocs (SMap.put (objId o) { desc := o, part := p } s.objects) s.keys).flyDone k p stOk := by
  rw [State.objRegisterOp_of_read ha hin hclean ho, hok, if_neg (by decide), if_neg (Nat.not_le.2 hroom)]

theorem State.objRegisterOp_quota {o : W512} (ho : s.word512 (fld w 511 448) = o) (hok : s.objectOk p o = true)
    (hfull : fld (s.quotaRec p) 191 160 ≤ s.objectsOf p) : s.objRegisterOp k p w = s.flyDone k p stQuota := by
  rw [State.objRegisterOp_of_read ha hin hclean ho, hok, if_neg (by decide), if_pos hfull]

theorem State.objRegisterOp_denied {o : W512} (ho : s.word512 (fld w 511 448) = o) (hok : s.objectOk p o = false) :
    s.objRegisterOp k p w = s.flyDone k p stDenied := by
  rw [State.objRegisterOp_of_read ha hin hclean ho, hok, if_pos (by decide)]

end Register

theorem State.objRetireOp_retires {o : Object} (ho : SMap.find? (fld w 511 448) s.objects = some o) (hpart : o.part = p)
    (hnamed : s.objNamed (fld w 511 448) = false) :
    s.objRetireOp k p w = (s.setTables s.parts s.allocs (SMap.del (fld w 511 448) s.objects) s.keys).flyDone k p stOk := by
  simp [State.objRetireOp, wordA_toNat, ho, hpart, hnamed, State.setTables]

theorem State.objRetireOp_denied {o : Object} (ho : SMap.find? (fld w 511 448) s.objects = some o)
    (h : o.part ≠ p ∨ s.objNamed (fld w 511 448) = true) : s.objRetireOp k p w = s.flyDone k p stDenied := by
  simp only [State.objRetireOp, wordA_toNat, ho, if_pos h]

theorem State.poisonAt_of_clean {a n : Nat} (h : s.poisoned a n = false) : s.poisonAt a n = none := by
  rw [State.poisonAt, List.head?_eq_none_iff, List.map_eq_nil_iff, List.filter_eq_nil_iff]
  intro e he hbad
  rw [Bool.and_eq_true] at hbad
  rw [State.poisoned, hbad.1, Bool.true_and, List.any_eq_false] at h
  exact h e he hbad.2

/-- The key that KEY_LOAD puts in its slot (R227). -/
def newKey (bs : List Byte) (p : Nat) (key : List Byte) : KeySlot := { part := p, keyId := BitVec.ofNat 64 (numAt bs 56 8), key := key }

section KeyLoad
variable (hslot : fld w 511 448 < 256) (hother : ∀ x, SMap.find? (fld w 511 448) s.keys = some x → x.part = p)
  (hused : s.keyUsed (fld w 511 448) = false) (ha : fld w 447 384 < 2 ^ 52) (hin : s.inAllocs p (fld w 447 384) 1200 = true)
  (hroom : s.keys.countP (fun x => x.2.part == p) < fld (s.quotaRec p) 159 144) (hclean : s.poisoned (fld w 447 384) 1200 = false)
  (hzero : ∀ i < 56, s.byte (fld w 447 384 + i) = 0)
include hslot hother hused ha hin hroom hclean hzero

/-- KEY_LOAD of a record that is read whole. -/
theorem State.keyLoadOp_of_read {bs : List Byte} (hbs : s.bytes (fld w 447 384) 1200 = bs) : s.keyLoadOp k p w =
    match unwrapKey bs with
    | none => (s.count .keyRejects p).flyDone k p stDenied
    | some key => (s.setTables s.parts s.allocs s.objects (SMap.put (fld w 511 448) (newKey bs p key) s.keys)).flyDone k p stOk := by
  have hfree : ((SMap.find? (fld w 511 448) s.keys).any fun x => x.part != p) = false := by
    cases hx : SMap.find? (fld w 511 448) s.keys with
    | none => rfl
    | some x => simp [hother x hx]
  have haddr : zeroFld (wordB w) 63 52 = true := zeroFld_of_lt ((wordB_toNat w).trans_lt ha)
  have hgrant : s.inGrant p (fld w 447 384) 1200 = true := by rw [State.inGrant, hin, Bool.true_or]
  have hhead : (bs.take 56).all (· == 0) = true := by
    rw [← hbs, State.bytes, ← List.map_take, List.take_range]
    simpa using hzero
  simp only [State.keyLoadOp, wordA_toNat, wordB_toNat, hfree, hused, haddr, hgrant, Nat.not_le.2 hslot, Nat.not_le.2 hroom, hbs, hhead,
    State.poisonAt_of_clean hclean, Bool.true_eq_false, Bool.false_eq_true, or_self, if_false, if_true, decide_false]
  rfl

theorem State.keyLoadOp_loads {key : List Byte} (hkey : unwrapKey (s.bytes (fld w 447 384) 1200) = some key) : s.keyLoadOp k p w =
    (s.setTables s.parts s.allocs s.objects
      (SMap.put (fld w 511 448) (newKey (s.bytes (fld w 447 384) 1200) p key) s.keys)).flyDone k p stOk := by
  rw [State.keyLoadOp_of_read hslot hother hused ha hin hroom hclean hzero rfl, hkey]

theorem State.keyLoadOp_rejects (hkey : unwrapKey (s.bytes (fld w 447 384) 1200) = none) :
    s.keyLoadOp k p w = (s.count .keyRejects p).finish k stDenied := by
  rw [State.keyLoadOp_of_read hslot hother hused ha hin hroom hclean hzero rfl, hkey]
  exact State.flyDone_of_ne (by decide)

end KeyLoad

theorem State.keyDropOp_drops {x : KeySlot} (hx : SMap.find? (fld w 511 448) s.keys = some x) (hpart : x.part = p)
    (hused : s.keyUsed (fld w 511 448) = false) :
    s.keyDropOp k p w = (s.setTables s.parts s.allocs s.objects (SMap.del (fld w 511 448) s.keys)).flyDone k p stOk := by
  simp [State.keyDropOp, wordA_toNat, hx, hpart, hused, State.setTables]

theorem State.keyDropOp_denied {x : KeySlot} (hx : SMap.find? (fld w 511 448) s.keys = some x)
    (h : x.part ≠ p ∨ s.keyUsed (fld w 511 448) = true) : s.keyDropOp k p w = s.flyDone k p stDenied := by
  have hno : ¬ (x.part = p ∧ s.keyUsed (fld w 511 448) = false) := by
    rintro ⟨hpart, hused⟩
    simp [hpart, hused] at h
  simp [State.keyDropOp, wordA_toNat, hx, hno]

end Objects

/-! ## Fills -/

section Fill
variable {s s1 : State} {q : QRef} {e w : W512} {k p : Nat}

/-- The entry that acceptance enters. -/
theorem Takes.entry (h : Takes s q e s1 k w) : ∃ x, SMap.find? k s1.entries = some x ∧ x.word = w ∧ x.part = qPart q := by
  obtain ⟨-, -, -, x, hacc, hword, -⟩ := h
  unfold State.accept at hacc
  dsimp only at hacc
  split at hacc
  · cases hacc
  · split at hacc
    · cases hacc
    · cases hacc
      exact ⟨_, SMap.find?_put_self .., hword, rfl⟩

/-- The state once a source whose coordinate is refused is counted (R28). -/
def State.fillCounted (s : State) (p : Nat) (w : W512) : State := if s.fillRefused p w then s.refuseCount else s

theorem State.fillCounted_sameTables (s : State) (p : Nat) (w : W512) : s.SameTables (s.fillCounted p w) := by
  unfold State.fillCounted
  split
  · exact s.count_sameTables ..
  · exact .refl s

theorem State.fillOp_fails (hst : failing (s.fillCheck p w) = true) :
    s.fillOp k p w = (s.fillCounted p w).flyDone k p (s.fillCheck p w) := by
  rw [State.fillOp, if_pos hst]
  rfl

/-- A FILL that passes its checks is kept with its entry, and its far source asked (R229). -/
theorem State.fillOp_runs {x : Entry} (hx : SMap.find? k s.entries = some x) (hst : failing (s.fillCheck p w) = false) :
    SMap.find? k (s.fillOp k p w).fills = some x ∧ (s.fillOp k p w).mem = s.mem := by
  have hsame := s.fillCounted_sameTables p w
  obtain ⟨t, ht, hop⟩ : ∃ t, State.SameTables { s.fillCounted p w with fills := SMap.put k x (s.fillCounted p w).fills } t ∧
      s.fillOp k p w = t := by
    refine ⟨_, ?_, rfl⟩
    have hentry : SMap.find? k (if s.fillRefused p w then s.refuseCount else s).entries = some x := by
      rw [← hx]
      exact congrArg (SMap.find? k) hsame.entries
    simp only [State.fillOp, hst, Bool.false_eq_true, if_false, hentry]
    split
    · exact State.startJob_sameTables ..
    · exact .refl _
  rw [hop, ht.fills, ht.mem]
  exact ⟨SMap.find?_put_self .., hsame.mem⟩

end Fill

/-! ## The completion of a fill -/

/-- A FILL is not running any more. -/
def State.fillGone (s : State) (k : Nat) : State := { s.dropJobs (· == .fill k) with fills := SMap.del k s.fills }

theorem State.fillGone_fills (s : State) (k : Nat) : (s.fillGone k).fills = SMap.del k s.fills := rfl
theorem State.fillGone_mem (s : State) (k : Nat) : (s.fillGone k).mem = s.mem := rfl

theorem State.countFill_sameTables (s : State) (p : Nat) (w : W512) (n : Nat) : s.SameTables (s.countFill p w n) := by
  unfold State.countFill State.countTier
  split
  · split
    · exact s.count_sameTables ..
    · exact s.count_sameTables ..
    · exact s.count_sameTables ..
    · exact .refl s
  · split
    · exact s.count_sameTables ..
    · exact .refl s

theorem State.fillWrite_clean (s : State) (a : Nat) (bs : List Byte) : s.fillWrite a bs [] = s.homeWrite a bs := by
  simp [State.fillWrite]

section FillComplete
variable {s : State} {k : Nat} {b : Arrival}

theorem exec_fillComplete_of_none (h : SMap.find? k s.fills = none) : exec (.fillComplete k b) s = .next s := by
  change execFillComplete k b s = _
  simp only [execFillComplete, h]

variable {e x : Entry} {o : Object} {dst n : Nat} (hfill : SMap.find? k s.fills = some e) (hwork : s.working = true)
  (hobj : SMap.find? (fld e.word 511 448) s.objects = some o) (hn : fld e.word 319 256 = n)
  (hdst : (objBase o.desc (bit e.word 383)).toNat + fld e.word 359 320 = dst)
include hfill hwork hobj hn hdst

/-- A destination that is held makes it wait (R220, R336). -/
theorem exec_fillComplete_waits (hheld : s.homeHeld none dst n = true) :
    exec (.fillComplete k b) s = .next (s.countHold none dst n) := by
  change execFillComplete k b s = _
  simp only [execFillComplete, hfill, hwork, wordA_toNat, hobj, hn, hdst, hheld, Bool.not_true, Bool.false_eq_true, if_false, if_true]

variable (hfree : s.homeHeld none dst n = false)
include hfree

/-- A destination that cannot take the bytes refuses it. -/
theorem exec_fillComplete_barred (hpos : n ≠ 0) (hbar : s.populated dst n = false ∨ s.guarded dst n = true) :
    exec (.fillComplete k b) s = .next ((s.fillGone k).flyDone k e.part stDenied) := by
  change execFillComplete k b s = _
  simp only [execFillComplete, hfill, hwork, wordA_toNat, hobj, hn, hdst, hfree, hpos, hbar, Bool.not_true, Bool.false_eq_true, if_false,
    ne_eq, not_false_eq_true, and_self, if_true]
  rfl

/-- Bytes of this package that nothing holds and that are read whole are copied (R229). -/
theorem exec_fillComplete_copies (hopen : objSealed o.desc = false) {a : Nat} (hhere : s.fillHere e.part e.word = some a)
    (hclean : ∀ l ∈ s.poison, overlap (l.1 * 64) 64 a n = false) (hsrc : s.homeHeld none a n = false)
    (hmay : ¬ (n ≠ 0 ∧ (s.populated dst n = false ∨ s.guarded dst n = true))) (hpop : ¬ (n ≠ 0 ∧ s.populated a n = false)) :
    ∃ t, exec (.fillComplete k b) s = .next ((t.fillGone k).flyDone k e.part stOk) ∧
      ((s.countFill e.part e.word n).homeWrite dst (s.bytes a n)).SameTables t := by
  have hbad : s.poison.filter (fun l => overlap (l.1 * 64) 64 a n) = [] :=
    List.filter_eq_nil_iff.2 fun l hl => by rw [hclean l hl]; exact Bool.false_ne_true
  have hverify (t : State) (u off : Nat) : t.fillVerify e.part u o.desc (bit e.word 383) off n = (t, stOk) := by
    rw [State.fillVerify, hopen]
    rfl
  refine ⟨((s.countFill e.part e.word n).homeWrite dst (s.bytes a n)).draw.2, ?_, ⟨rfl, rfl, rfl, rfl, rfl, rfl, rfl, rfl⟩⟩
  change execFillComplete k b s = _
  simp only [execFillComplete, hfill, hwork, wordA_toNat, hobj, hn, hdst, hfree, Bool.not_true, Bool.false_eq_true, if_false, if_neg hmay,
    hhere, hsrc, if_neg hpop, hbad, List.map_nil, List.foldl_nil, linesWithin, State.fillWrite_clean, hverify]
  rfl

end FillComplete

/-! ## The operations of a taken entry -/

theorem numAt_lt (bs : List Byte) (o n : Nat) : numAt bs o n < 256 ^ n :=
  (leNat_lt _).trans_le (Nat.pow_le_pow_right (by decide) (List.length_take_le ..))

/-- A reserved bit makes a fly operation complete with DENIED and change nothing else (R222). -/
theorem exec_flyTable_reserved {s s1 : State} {q : QRef} {e w : W512} {k : Nat} (h : Takes s q e s1 k w)
    {g : (QRef → W512 → Instr) × Nat × Nat × Nat} (hg : g ∈ flyTable) (hcode : fld w 7 0 = g.2.1)
    (hres : fld w 255 8 ≠ 0 ∨ fld w g.2.2.1 g.2.2.2 ≠ 0) : ∃ s', exec (g.1 q e) s = .next s' ∧ Done s' k 0x15 0 ∧
      s'.mem = s.mem ∧ s'.allocs = s.allocs ∧ s'.objects = s.objects ∧ s'.keys = s.keys ∧ s'.fills = s.fills ∧ s'.parts = s.parts := by
  obtain ⟨op, hop⟩ := exec_flyTable hg q e s
  have hexec := exec_fly_reserved h hop hcode hres
  obtain ⟨hk, queues, n, entries, rfl⟩ := h.accepted
  obtain ⟨_, hfin⟩ := (s.withEntries queues n entries).finish_eq k stDenied 0
  refine ⟨_, hexec, hk.finish rfl, ?_⟩
  rw [hfin]
  exact ⟨rfl, rfl, rfl, rfl, rfl, rfl⟩

section Operations
variable {s s1 : State} {q : QRef} {e w : W512} {k : Nat} (h : Takes s q e s1 k w) (hres : fld w 255 8 = 0)
include h hres

theorem exec_free_frees (hcode : fld w 7 0 = 0x21) (hun : fld w 447 256 = 0) {x : Alloc}
    (hx : SMap.find? (fld w 511 448) s.allocs = some x) (hpart : x.part = qPart q) (hused : s.rangeUsed (fld w 511 448) x.size = false)
    (hsorted : SMap.sorted s.allocs = true) : ∃ s', exec (.free q e) s = .next s' ∧ Done s' k 0 0 ∧
      SMap.find? (fld w 511 448) s'.allocs = none ∧ s'.mem = s.mem ∧
      ∀ b, b ≠ fld w 511 448 → SMap.find? b s'.allocs = SMap.find? b s.allocs := by
  obtain ⟨s', hexec, hdone, hmem, -, hallocs, -⟩ := exec_fly_ends h (f := .free q e) rfl hcode hres hun
    (allocs := SMap.del (fld w 511 448) s.allocs)
    (hop := fun a b c => State.freeOp_frees (s := s.withEntries a b c) hx hpart hused)
  have hfind (b : Nat) : SMap.find? b s'.allocs = if b = fld w 511 448 then none else SMap.find? b s.allocs := by
    rw [hallocs]
    exact SMap.find?_del _ _ hsorted
  exact ⟨s', hexec, hdone, (hfind _).trans (if_pos rfl), hmem, fun b hb => (hfind b).trans (if_neg hb)⟩

theorem exec_objRetire_retires (hcode : fld w 7 0 = 0x23) (hun : fld w 447 256 = 0) {o : Object}
    (ho : SMap.find? (fld w 511 448) s.objects = some o) (hpart : o.part = qPart q) (hnamed : s.objNamed (fld w 511 448) = false)
    (hsorted : SMap.sorted s.objects = true) : ∃ s', exec (.objRetire q e) s = .next s' ∧ Done s' k 0 0 ∧
      SMap.find? (fld w 511 448) s'.objects = none ∧ s'.mem = s.mem := by
  obtain ⟨s', hexec, hdone, hmem, -, -, hobjects, -⟩ := exec_fly_ends h (f := .objRetire q e) rfl hcode hres hun
    (objects := SMap.del (fld w 511 448) s.objects)
    (hop := fun a b c => State.objRetireOp_retires (s := s.withEntries a b c) ho hpart hnamed)
  refine ⟨s', hexec, hdone, ?_, hmem⟩
  rw [hobjects]
  exact (SMap.find?_del _ _ hsorted).trans (if_pos rfl)

theorem exec_keyDrop_drops (hcode : fld w 7 0 = 0x26) (hun : fld w 447 256 = 0) {x : KeySlot}
    (hx : SMap.find? (fld w 511 448) s.keys = some x) (hpart : x.part = qPart q) (hused : s.keyUsed (fld w 511 448) = false)
    (hsorted : SMap.sorted s.keys = true) : ∃ s', exec (.keyDrop q e) s = .next s' ∧ Done s' k 0 0 ∧
      SMap.find? (fld w 511 448) s'.keys = none ∧ s'.mem = s.mem := by
  obtain ⟨s', hexec, hdone, hmem, -, -, -, hkeys⟩ := exec_fly_ends h (f := .keyDrop q e) rfl hcode hres hun
    (keys := SMap.del (fld w 511 448) s.keys)
    (hop := fun a b c => State.keyDropOp_drops (s := s.withEntries a b c) hx hpart hused)
  refine ⟨s', hexec, hdone, ?_, hmem⟩
  rw [hkeys]
  exact (SMap.find?_del _ _ hsorted).trans (if_pos rfl)

theorem exec_fill_runs (hcode : fld w 7 0 = 0x24) (hun : fld w 380 360 = 0) (hst : failing (s1.fillCheck (qPart q) w) = false) :
    ∃ s' x, exec (.fill q e) s = .next s' ∧ SMap.find? k s'.fills = some x ∧ x.word = w ∧ x.part = qPart q ∧ s'.mem = s.mem := by
  obtain ⟨x, hx, hword, hpart⟩ := h.entry
  obtain ⟨hfill, hmem⟩ := State.fillOp_runs hx hst
  have hexec := exec_fly h (f := .fill q e) rfl hcode hres hun
  obtain ⟨-, queues, n, entries, rfl⟩ := h.accepted
  exact ⟨_, x, hexec, hfill, hword, hpart, hmem⟩

theorem exec_fill_fails (hcode : fld w 7 0 = 0x24) (hun : fld w 380 360 = 0) (hst : failing (s1.fillCheck (qPart q) w) = true) :
    ∃ s', exec (.fill q e) s = .next s' ∧ Done s' k (s1.fillCheck (qPart q) w) 0 ∧ s'.fills = s.fills ∧ s'.mem = s.mem := by
  have hexec := exec_fly h (f := .fill q e) rfl hcode hres hun
  rw [State.fillOp_fails hst] at hexec
  have hsame := s1.fillCounted_sameTables (qPart q) w
  obtain ⟨hk, queues, n, entries, rfl⟩ := h.accepted
  exact ⟨_, hexec, hk.flyDone hsame.entries, State.flyDone_fills.trans hsame.fills, State.flyDone_mem.trans hsame.mem⟩

end Operations

/-- The bytes of a FILL are copied as they were, and its entry ends with OK (R220, R229). -/
theorem exec_fillComplete_ends {s : State} {k : Nat} {b : Arrival} {e : Entry} {o : Object} {dst n a : Nat} (hk : s.Pending k)
    (hfill : SMap.find? k s.fills = some e) (hwork : s.working = true) (hobj : SMap.find? (fld e.word 511 448) s.objects = some o)
    (hn : fld e.word 319 256 = n) (hdst : (objBase o.desc (bit e.word 383)).toNat + fld e.word 359 320 = dst)
    (hfree : s.homeHeld none dst n = false) (hopen : objSealed o.desc = false) (hhere : s.fillHere e.part e.word = some a)
    (hclean : ∀ l ∈ s.poison, overlap (l.1 * 64) 64 a n = false) (hsrc : s.homeHeld none a n = false)
    (hmay : ¬ (n ≠ 0 ∧ (s.populated dst n = false ∨ s.guarded dst n = true))) (hpop : ¬ (n ≠ 0 ∧ s.populated a n = false))
    (hsorted : SMap.sorted s.fills = true) (hmem : Memory.wf s.mem = true) :
    ∃ s', exec (.fillComplete k b) s = .next s' ∧ Done s' k 0 0 ∧ SMap.find? k s'.fills = none ∧
      (∀ i, i < n → s'.byte (dst + i) = s.byte (a + i)) ∧ ∀ j, j < dst ∨ dst + n ≤ j → s'.byte j = s.byte j := by
  obtain ⟨t, hexec, ht⟩ := exec_fillComplete_copies (b := b) hfill hwork hobj hn hdst hfree hopen hhere hclean hsrc hmay hpop
  have hcount := s.countFill_sameTables e.part e.word n
  have hwrite := (State.homeWrite_fabricOnly (s.countFill e.part e.word n) dst (s.bytes a n) inputOwn).sameTables.trans ht
  have hbyte (m : Nat) : t.byte m = if dst ≤ m ∧ m < dst + n then (s.bytes a n).getD (m - dst) 0 else s.byte m := by
    have hlen : (s.bytes a n).length = n := by simp [State.bytes]
    have hput := State.byte_homeWrite (hcount.mem ▸ hmem) dst (s.bytes a n) m
    rwa [hlen, State.byte, ← ht.mem, State.byte, hcount.mem] at hput
  have hentries : t.entries = s.entries := hwrite.entries.trans hcount.entries
  have hfills : t.fills = s.fills := hwrite.fills.trans hcount.fills
  have hend (m : Nat) : ((t.fillGone k).flyDone k e.part stOk).byte m = t.byte m := by
    rw [State.byte, State.flyDone_mem, State.fillGone_mem, State.byte]
  refine ⟨_, hexec, hk.flyDone hentries, ?_, fun i hi => ?_, fun j hj => ?_⟩
  · rw [State.flyDone_fills, State.fillGone_fills, hfills]
    exact (SMap.find?_del k k hsorted).trans (if_pos rfl)
  · rw [hend, hbyte, if_pos (by omega), Nat.add_sub_cancel_left, State.bytes_getD s a hi]
  · rw [hend, hbyte, if_neg (by omega)]

/-- Settles O39: each fly operation by the tables it sets before its entry ends, a FILL by the entry that runs, and its completion by the
bytes it writes. -/
theorem tiers : Obligations.Tiers := by
  refine ⟨fun s s1 q e w k h => ⟨fun g hg hcode hbad => exec_flyTable_reserved h hg hcode hbad, fun hres => ⟨?alloc, ?free⟩⟩,
    fun s s1 q e w k h hres => ⟨?register, ?retire, ?load, ?drop⟩, fun s s1 q e w k h hres hun hcode =>
      ⟨exec_fill_runs h hres hcode hun, exec_fill_fails h hres hcode hun⟩, fun s k b => ⟨exec_fillComplete_of_none, ?complete⟩⟩
  case alloc =>
    refine fun hcode hun => ⟨fun hfits hroom => ?_, fun hfits hroom => ?_, fun hfits => ?_⟩
    · obtain ⟨s', hexec, hdone, hmem, -, hallocs, -⟩ := exec_fly_ends h (f := .alloc q e) rfl hcode hres hun
        (allocs := SMap.put (fld w 511 448) { size := fld w 447 384, part := qPart q } s.allocs)
        (hop := fun a b c => State.allocOp_fits (s := s.withEntries a b c) hfits hroom)
      exact ⟨s', hexec, hdone, hmem, by rw [hallocs, SMap.find?_put_self], fun b hb => by rw [hallocs]; exact SMap.find?_put_ne hb ..⟩
    · obtain ⟨s', hexec, hdone, -, -, hallocs, -, hctr⟩ := exec_fly_counts h (f := .alloc q e) rfl hcode hres hun fun a b c =>
        (State.allocOp_quota (s := s.withEntries a b c) hfits hroom).trans State.flyDone_quota
      exact ⟨s', hexec, hdone, hallocs, hctr⟩
    · obtain ⟨s', hexec, hdone, -, -, hallocs, -⟩ := exec_fly_answers h (f := .alloc q e) rfl hcode hres hun fun a b c =>
        State.allocOp_unfit (s := s.withEntries a b c) hfits
      exact ⟨s', hexec, hdone, hallocs⟩
  case free =>
    refine fun hcode hun => ⟨fun x hx hpart hused hsorted => exec_free_frees h hres hcode hun hx hpart hused hsorted, fun hno => ?_⟩
    obtain ⟨s', hexec, hdone, -, -, hallocs, -⟩ := exec_fly_answers h (f := .free q e) rfl hcode hres hun fun a b c =>
      State.freeOp_denied (s := s.withEntries a b c) hno
    exact ⟨s', hexec, hdone, hallocs⟩
  case register =>
    refine fun hcode hun ha hin hclean => ⟨fun hok hroom => ?_, fun hok hfull => ?_, fun hbad => ?_⟩
    · obtain ⟨s', hexec, hdone, hmem, -, -, hobjects, -⟩ := exec_fly_ends h (f := .objRegister q e) rfl hcode hres hun
        (objects := SMap.put (objId (s.word512 (fld w 511 448))) { desc := s.word512 (fld w 511 448), part := qPart q } s.objects)
        (hop := fun a b c => State.objRegisterOp_registers (s := s.withEntries a b c) ha hin hclean rfl hok hroom)
      exact ⟨s', hexec, hdone, by rw [hobjects]; exact SMap.find?_put_self .., hmem,
        fun i hi => by rw [hobjects]; exact SMap.find?_put_ne hi ..⟩
    · obtain ⟨s', hexec, hdone, -, -, -, hobjects, -⟩ := exec_fly_answers h (f := .objRegister q e) rfl hcode hres hun fun a b c =>
        State.objRegisterOp_quota (s := s.withEntries a b c) ha hin hclean rfl hok hfull
      exact ⟨s', hexec, hdone, hobjects⟩
    · obtain ⟨s', hexec, hdone, -, -, -, hobjects, -⟩ := exec_fly_answers h (f := .objRegister q e) rfl hcode hres hun fun a b c =>
        State.objRegisterOp_denied (s := s.withEntries a b c) ha hin hclean rfl hbad
      exact ⟨s', hexec, hdone, hobjects⟩
  case retire =>
    refine fun hcode hun o ho => ⟨fun hpart hnamed hsorted => exec_objRetire_retires h hres hcode hun ho hpart hnamed hsorted,
      fun hno => ?_⟩
    obtain ⟨s', hexec, hdone, -, -, -, hobjects, -⟩ := exec_fly_answers h (f := .objRetire q e) rfl hcode hres hun fun a b c =>
      State.objRetireOp_denied (s := s.withEntries a b c) ho hno
    exact ⟨s', hexec, hdone, hobjects⟩
  case load =>
    intro hcode hun hslot hother hused ha hin hroom hclean hzero
    cases hkey : unwrapKey (s.bytes (fld w 447 384) 1200) with
    | none =>
      obtain ⟨s', hexec, hdone, hmem, -, -, hkeys, hctr⟩ := exec_fly_counts h (f := .keyLoad q e) rfl hcode hres hun fun a b c =>
        State.keyLoadOp_rejects (s := s.withEntries a b c) hslot hother hused ha hin hroom hclean hzero hkey
      exact ⟨s', hexec, hmem, nofun, fun _ => ⟨hdone, hkeys, hctr⟩⟩
    | some key =>
      obtain ⟨s', hexec, hdone, hmem, -, -, -, hkeys⟩ := exec_fly_ends h (f := .keyLoad q e) rfl hcode hres hun
        (keys := SMap.put (fld w 511 448) (newKey (s.bytes (fld w 447 384) 1200) (qPart q) key) s.keys)
        (hop := fun a b c => State.keyLoadOp_loads (s := s.withEntries a b c) hslot hother hused ha hin hroom hclean hzero hkey)
      refine ⟨s', hexec, hmem, ?_, nofun⟩
      rintro _ ⟨⟩
      refine ⟨hdone, _, by rw [hkeys]; exact SMap.find?_put_self .., rfl, rfl, ?_⟩
      exact Nat.mod_eq_of_lt (numAt_lt _ 56 8)
  case drop =>
    refine fun hcode hun x hx => ⟨fun hpart hused hsorted => exec_keyDrop_drops h hres hcode hun hx hpart hused hsorted, fun hno => ?_⟩
    obtain ⟨s', hexec, hdone, -, -, -, -, hkeys⟩ := exec_fly_answers h (f := .keyDrop q e) rfl hcode hres hun fun a b c =>
      State.keyDropOp_denied (s := s.withEntries a b c) hx hno
    exact ⟨s', hexec, hdone, hkeys⟩
  case complete =>
    intro e x o a hfill hwork hobj hopen hhere hsorted hmem hclean hx hdone
    have hk : s.Pending k := ⟨x, hx, hdone⟩
    refine ⟨fun hheld => ?_, fun hfree hpos hbar => ?_, fun hfree hsrc hpopd hguard hpop => ?_⟩
    · have hsame := s.countHold_sameTables none ((objBase o.desc (bit e.word 383)).toNat + fld e.word 359 320) (fld e.word 319 256)
      exact ⟨_, exec_fillComplete_waits hfill hwork hobj rfl rfl hheld, hsame.fills, hsame.mem⟩
    · refine ⟨_, exec_fillComplete_barred hfill hwork hobj rfl rfl hfree hpos hbar, hk.flyDone rfl, ?_, State.flyDone_mem⟩
      rw [State.flyDone_fills]
      exact (SMap.find?_del k k hsorted).trans (if_pos rfl)
    · refine exec_fillComplete_ends hk hfill hwork hobj rfl rfl hfree hopen hhere hclean hsrc ?_ ?_ hsorted hmem
      · rintro ⟨hpos, hno | hno⟩
        · exact absurd (hpopd hpos) (by rw [hno]; decide)
        · exact absurd (hguard hpos) (by rw [hno]; decide)
      · rintro ⟨hpos, hno⟩
        exact absurd (hpop hpos) (by rw [hno]; decide)

end Sys2Proof.Machine
/-! Cue sheets and cue entries (O40): loading, selecting and unloading a sheet, the completion of a selection, and an entry that starts and
is placed (R128, R230 to R235). -/

namespace Sys2Proof.Machine

open Sys2Proof

/-! ## Sheets -/

section Sheets
variable {s : State} {k p : Nat} {w : W512}

/-- The sheet that CUE_LOAD reads is that at its address, for a slot that is not selected. -/
theorem State.cueLoadOp_of_slot (hslot : fld w 511 448 < 8) (hsel : (s.part p).selected ≠ some (fld w 511 448))
    (ha : fld w 447 384 < 2 ^ 52) : s.cueLoadOp k p w = match s.readSheet p (fld w 447 384) with
      | none => (s.count .cueRefused p).flyDone k p stDenied
      | some sh =>
        if (sheetExts sh).any fun r => s.poisoned r.1 r.2 then s.flyDone k p stPoison
        else (s.modPart p fun x => { x with sheets := SMap.put (fld w 511 448) sh x.sheets }).flyDone k p stOk := by
  have haddr : zeroFld (wordB w) 63 52 = true := zeroFld_of_lt ((wordB_toNat w).trans_lt ha)
  simp only [State.cueLoadOp, wordA_toNat, wordB_toNat, haddr, Nat.not_le.2 hslot, hsel, Bool.true_eq_false, or_self, if_false] <;> rfl

/-- The partitions once a sheet is loaded. -/
def State.partsWithSheet (s : State) (p slot : Nat) (sh : Sheet) : SMap Part :=
  SMap.put p { s.part p with sheets := SMap.put slot sh (s.part p).sheets } s.parts

theorem State.cueLoadOp_loads (hslot : fld w 511 448 < 8) (hsel : (s.part p).selected ≠ some (fld w 511 448))
    (ha : fld w 447 384 < 2 ^ 52) {sh : Sheet} (hsheet : s.readSheet p (fld w 447 384) = some sh)
    (hclean : ∀ r ∈ sheetExts sh, s.poisoned r.1 r.2 = false) :
    s.cueLoadOp k p w = (s.setTables (s.partsWithSheet p (fld w 511 448) sh) s.allocs s.objects s.keys).flyDone k p stOk := by
  have hany : ((sheetExts sh).any fun r => s.poisoned r.1 r.2) = false := by
    rw [List.any_eq_false]
    exact fun r hr => by rw [hclean r hr]; exact Bool.false_ne_true
  rw [State.cueLoadOp_of_slot hslot hsel ha, hsheet]
  simp only [hany, Bool.false_eq_true, if_false]
  rfl

theorem State.cueLoadOp_refuses (hslot : fld w 511 448 < 8) (hsel : (s.part p).selected ≠ some (fld w 511 448))
    (ha : fld w 447 384 < 2 ^ 52) (hsheet : s.readSheet p (fld w 447 384) = none) :
    s.cueLoadOp k p w = (s.count .cueRefused p).finish k stDenied := by
  rw [State.cueLoadOp_of_slot hslot hsel ha, hsheet]
  exact State.flyDone_of_ne (by decide)

/-- A selection in a step that has begun only becomes pending (R231). -/
theorem State.cueSelectOp_pends (hslot : fld w 511 448 < 8) (hsheet : (SMap.find? (fld w 511 448) (s.part p).sheets).isSome = true)
    (hbegun : (s.part p).dispatchedAny = true) : s.cueSelectOp k p w =
      s.modPart p fun x => { x with pendingSel := some (fld w 511 448), selecting := x.selecting ++ [k] } := by
  have hno : ¬ (8 ≤ fld w 511 448 ∨ (SMap.find? (fld w 511 448) (s.part p).sheets).isNone = true) := by
    rw [Option.isSome_iff_ne_none] at hsheet
    rintro (h | h)
    · omega
    · exact hsheet (Option.isNone_iff_eq_none.1 h)
  simp only [State.cueSelectOp, wordA_toNat, if_neg hno, State.part_modPart, hbegun, if_true]

theorem State.cueUnloadOp_unloads (hslot : fld w 511 448 < 8) (hsel : (s.part p).selected ≠ some (fld w 511 448))
    (hpend : (s.part p).pendingSel ≠ some (fld w 511 448)) : s.cueUnloadOp k p w =
      (s.setTables (SMap.put p { s.part p with sheets := SMap.del (fld w 511 448) (s.part p).sheets } s.parts) s.allocs s.objects
        s.keys).flyDone k p stOk := by
  simp only [State.cueUnloadOp, wordA_toNat, Nat.not_le.2 hslot, hsel, hpend, or_self, if_false]
  rfl

theorem State.cueUnloadOp_denied (h : (s.part p).selected = some (fld w 511 448) ∨ (s.part p).pendingSel = some (fld w 511 448)) :
    s.cueUnloadOp k p w = s.flyDone k p stDenied := by
  simp only [State.cueUnloadOp, wordA_toNat, if_pos (Or.inr h : fld w 511 448 ≥ 8 ∨ _)]

end Sheets

/-! ## The completion of a selection -/

section Select
variable {s : State}

theorem State.find?_finish (s : State) (j k : Nat) (st : Byte) (v : W64) (h : j ≠ k) :
    SMap.find? j (s.finish k st v).entries = SMap.find? j s.entries := by
  unfold State.finish
  split
  · split
    · rfl
    · exact SMap.find?_put_ne h ..
  · rfl

/-- An entry that is complete stays as it is. -/
theorem State.finish_of_done {k : Nat} {st st' : Byte} {v v' : W64} (h : Done s k st v) : s.finish k st' v' = s := by
  obtain ⟨x, hx, hdone⟩ := h
  simp [State.finish, hx, hdone]

theorem State.done_finish {j k : Nat} {st st' : Byte} {v v' : W64} (h : Done s j st v) : Done (s.finish k st' v') j st v := by
  by_cases hjk : j = k
  · rw [← hjk, State.finish_of_done h]
    exact h
  · obtain ⟨x, hx, hdone⟩ := h
    exact ⟨x, by rw [State.find?_finish _ _ _ _ _ hjk, hx], hdone⟩

/-- Entries that complete one after another: each that was not complete is. -/
theorem State.done_foldl_finish {st : Byte} {k : Nat} {ks : List Nat} (hmem : k ∈ ks) (hk : s.Pending k) :
    Done (ks.foldl (fun s k => s.finish k st) s) k st 0 := by
  have hstays (l : List Nat) (t : State) (ht : Done t k st 0) : Done (l.foldl (fun s k => s.finish k st) t) k st 0 :=
    List.foldlRecOn (motive := fun t => Done t k st 0) l _ ht fun _ hu _ _ => State.done_finish hu
  induction ks generalizing s with
  | nil => cases hmem
  | cons j ks ih =>
    by_cases hjk : k = j
    · subst hjk
      exact hstays ks _ (hk.finish rfl)
    · refine ih ((List.mem_cons.1 hmem).resolve_left hjk) ?_
      obtain ⟨x, hx, hopen⟩ := hk
      exact ⟨x, by rw [State.find?_finish _ _ _ _ _ hjk, hx], hopen⟩

theorem State.foldl_finish_same (st : Byte) (ks : List Nat) (s : State) :
    (ks.foldl (fun s k => s.finish k st) s).parts = s.parts ∧ (ks.foldl (fun s k => s.finish k st) s).mem = s.mem :=
  List.foldlRecOn (motive := fun t : State => t.parts = s.parts ∧ t.mem = s.mem) ks _ ⟨rfl, rfl⟩ fun _ ht _ _ =>
    ⟨(State.finish_parts st 0).trans ht.1, (State.finish_mem st 0).trans ht.2⟩

/-- The selection that took effect is complete: the CUE_SELECTs it covers are no longer waited for. -/
def Part.selectDone (x : Part) : Part :=
  { x with selectRunning := false, selecting := x.selecting.filter fun k => decide (x.selectLimit ≤ k) }

theorem exec_cueSelectComplete_of_not {p : Fin 128} (h : (s.part p.val).selectRunning = false) :
    exec (.cueSelectComplete p) s = .next s := by
  change execCueSelectComplete p s = _
  simp only [execCueSelectComplete, h, Bool.not_false, if_true]

/-- The CUE_SELECTs that a selection covers complete with it (R231). -/
theorem exec_cueSelectComplete_completes {p : Fin 128} (hrun : (s.part p.val).selectRunning = true) :
    ∃ s', exec (.cueSelectComplete p) s = .next s' ∧ (s'.part p.val).selectRunning = false ∧ s'.mem = s.mem ∧
      ∀ k ∈ (s.part p.val).selecting, k < (s.part p.val).selectLimit → ∀ e, SMap.find? k s.entries = some e → e.done = none →
        Done s' k 0 0 := by
  obtain ⟨ks, hks⟩ : ∃ ks, (s.part p.val).selecting.filter (· < (s.part p.val).selectLimit) = ks := ⟨_, rfl⟩
  have hexec : exec (.cueSelectComplete p) s = .next (ks.foldl (fun s k => s.finish k stOk) (s.modPart p.val Part.selectDone)) := by
    change execCueSelectComplete p s = _
    simp only [execCueSelectComplete, hrun, Bool.not_true, Bool.false_eq_true, if_false, hks]
    rfl
  obtain ⟨hparts, hmem⟩ := State.foldl_finish_same stOk ks (s.modPart p.val Part.selectDone)
  refine ⟨_, hexec, ?_, hmem, fun k hk hlt e he hopen => ?_⟩
  · rw [State.part, hparts]
    exact congrArg Part.selectRunning (s.part_modPart p.val _)
  · exact State.done_foldl_finish (hks ▸ List.mem_filter.2 ⟨hk, by simpa using hlt⟩) ⟨e, he, hopen⟩

end Select

/-! ## Entries that start -/

section Start
variable {s : State} {p i : Nat}

/-- An entry that may start is one of a selected sheet (R232). -/
theorem State.selSheet_of_entryStarts (h : s.entryStarts p i = true) : ∃ sh, s.selSheet p = some sh := by
  unfold State.entryStarts at h
  dsimp only at h
  split at h
  · cases h
  · next sh hsh => exact ⟨sh, hsh⟩

theorem Sheet.engine_lt (sh : Sheet) (i : Nat) : sh.engine i < 16 := by
  unfold Sheet.engine
  split
  · exact Nat.mod_lt _ (by decide)
  · decide

theorem State.engineFor_lt (s : State) (sh : Sheet) (i : Nat) : s.engineFor sh i < 16 := by
  unfold State.engineFor
  split
  · exact Nat.mod_lt _ (by decide)
  · exact sh.engine_lt i

theorem State.askFar_sameTables (s : State) (job : EngineJob) (p : Nat) (o : W512) (ext : Bool) (off n : Nat) :
    s.SameTables (s.askFar job p o ext off n) := by
  unfold State.askFar
  split
  · exact s.startJob_sameTables ..
  · exact .refl s

/-- Its engine takes it, and a fetch from another package leaves in LOADs (R232, R50). -/
theorem exec_cueEntryStart_takes {p : Fin 128} (hwork : s.working = true) {sh : Sheet} (hsh : s.selSheet p.val = some sh)
    (hstarts : s.entryStarts p.val i = true) :
    ∃ t, exec (.cueEntryStart p i) s = .next t ∧ (s.takeEntry p.val i (s.engineFor sh i)).SameTables t := by
  change ∃ t, execCueEntryStart p i s = .next t ∧ _
  simp only [execCueEntryStart, hwork, hstarts, Bool.and_self, if_true, hsh, Option.map_some, Option.getD_some]
  split
  · exact ⟨_, rfl, .refl _⟩
  · split
    · exact ⟨_, rfl, .refl _⟩
    · exact ⟨_, rfl, State.askFar_sameTables ..⟩

theorem exec_cueEntryStart_of_not {p : Fin 128} (h : s.entryStarts p.val i = false) : exec (.cueEntryStart p i) s = .next s := by
  change execCueEntryStart p i s = _
  simp only [execCueEntryStart, h, Bool.and_false, Bool.false_eq_true, if_false]

end Start

/-! ## What a fetch leaves unchanged -/

section Fetch
variable {s t : State}

theorem State.farRead_sameTables (s : State) (job : EngineJob) (n : Nat) (b : Arrival) : s.SameTables (s.farRead job n b).1 := by
  have hstatus (u : State) (m : Nat) (st : Byte) : u.SameTables (u.farStatus m st).1 := by
    unfold State.farStatus
    split
    · exact .refl u
    · exact u.transient_sameTables ..
  unfold State.farRead
  split
  · exact .refl s
  · exact .trans (t := (s.endJob job).1) ⟨rfl, rfl, rfl, rfl, rfl, rfl, rfl, rfl⟩ (hstatus ..)

/-- An uncorrectable line that begins no replay is only reported. -/
theorem State.readError_sameTables {p l : Nat} (h : (s.readError p l).2 = false) : s.SameTables (s.readError p l).1 := by
  unfold State.readError at h ⊢
  dsimp only at h ⊢
  generalize (s.memError (l / 64 * 64) 0 stPoison p).producerOf p (l / 64 * 64) 64 = reader at h ⊢
  cases reader with
  | none => exact s.memError_sameTables ..
  | some k => cases h

/-- A read that answers began no replay. -/
theorem State.engineRead_sameTables {p : Nat} {rs : List (Nat × Nat)} {st : Byte} (h : s.engineRead p rs = (t, some st)) :
    s.SameTables t := by
  unfold State.engineRead at h
  dsimp only at h
  split at h
  · cases h
  · split at h
    · cases h
      exact .refl s
    · split at h
      · next l _ =>
        cases hbegan : (s.readError p l).2 with
        | true => simp [hbegan] at h
        | false =>
          obtain ⟨rfl, -⟩ := Prod.mk.inj h
          exact State.readError_sameTables hbegan
      · cases h
        exact .refl s

theorem State.fetch_sameTables {job : EngineJob} {p u : Nat} {o : W512} {ext : Bool} {off n : Nat} {b : Arrival} {f : Fetched}
    (h : s.fetch job p u o ext off n b = (t, some f)) : s.SameTables t := by
  have hfails (u : State) (xs : List (Nat × List Byte × Option (List Byte))) (r : Nat × List Byte × Option (List Byte) → FaultRec) :
      u.SameTables (xs.foldl (fun s e => (s.count .tagFails p).logFault (r e)) u) :=
    List.foldlRecOn (motive := fun v => u.SameTables v) xs _ (.refl u) fun v hv e _ =>
      hv.trans ((v.count_sameTables ..).trans (State.logFault_sameTables ..))
  unfold State.fetch at h
  extract_lets r tier tags raw at h
  have hraw {v : State} {x : List Byte × Byte} (hv : raw = (v, some x)) : s.SameTables v := by
    unfold raw at hv
    split at hv
    · cases hv
      exact s.count_sameTables ..
    · dsimp only at hv
      split at hv
      · cases hv
        exact .refl s
      · split at hv
        · cases hv
        · next hread =>
          cases hv
          exact State.engineRead_sameTables hread
    · split at hv
      · cases hv
      · next s' st hread =>
        split at hv
        · cases hv
        · next hfar =>
          cases hv
          exact (State.engineRead_sameTables hread).trans ((s'.farRead_sameTables ..).of_pair hfar)
  clear_value raw
  split at h
  · cases h
  · next v bs st =>
    have hv : s.SameTables (v.countTier p tier bs.length) := (hraw rfl).trans (v.count_sameTables ..)
    dsimp only at h
    split at h
    · cases h
      exact hv
    · split at h
      · cases h
        exact hv
      · cases h
        exact hv.trans (hfails ..)

end Fetch

/-! ## Entries that are placed -/

section Place
variable {s : State} {p u : Nat} {e : CueEntry} {f : Fetched}

/-- Tiles that pass are left as they are (R128). -/
theorem State.checkTiles_of_ok {bs : List Byte} {ts : List (Nat × Nat)} (h : ∀ t ∈ ts, tileOk ((bs.drop t.1).take 768) = true) :
    s.checkTiles p u bs ts = (s, bs) := by
  refine List.foldlRecOn (motive := fun a => a = (s, bs)) ts _ rfl ?_
  rintro _ rfl t ht
  exact if_pos (h t ht)

/-- First byte of an entry's place in the tile store of its core (R235). -/
def CueEntry.place (e : CueEntry) : Nat := tileBase (ceCore e.word) + 128 * ceDest e.word

/-- The core of a placed entry: its units ready, none poisoned (R234). -/
def Core.placed (c : Core) (w : BitVec 256) : Core :=
  { c with
    unready := c.unready.filter fun u => !(decide (ceDest w ≤ u) && decide (u < ceDest w + ceUnits w))
    poisonUnits := c.poisonUnits.filter fun u => !(decide (ceDest w ≤ u) && decide (u < ceDest w + ceUnits w)) }

theorem Core.placed_units (c : Core) (w : BitVec 256) {u : Nat} (hlo : ceDest w ≤ u) (hhi : u < ceDest w + ceUnits w) :
    u ∉ (c.placed w).unready ∧ u ∉ (c.placed w).poisonUnits := by
  simp [Core.placed, hlo, hhi]

theorem State.setReady_clean (x : Part) (hpos : e.pos ∉ x.committedPos) :
    s.setReady x e [] = s.setCore (ceCore e.word) ((s.core (ceCore e.word)).placed e.word) := by
  have hno : x.committedPos.contains e.pos = false := by simpa using hpos
  simp only [State.setReady, hno, Bool.false_eq_true, if_false, List.append_nil]
  rfl

/-- Bytes whose tiles all pass enter the tile store by the input of the engine's die, and their units are ready (R20, R234, R235). -/
theorem State.placeEntry_clean (hpos : e.pos ∉ (s.part p).committedPos) (hlost : f.lost = []) {ts : List (Nat × Nat)}
    (hwalk : walkTiles f.bytes [] (ceTiles e.word) 0 = some ts) (htiles : ∀ t ∈ ts, tileOk ((f.bytes.drop t.1).take 768) = true) :
    ∃ t, (s.homeWrite e.place f.bytes (inputOfEngine u)).SameTables t ∧
      s.placeEntry p u e f = t.setCore (ceCore e.word) ((t.core (ceCore e.word)).placed e.word) := by
  have hsame := State.homeWrite_fabricOnly s e.place f.bytes (inputOfEngine u)
  refine ⟨_, State.count_sameTables _ .tilesPlaced p ts.length, ?_⟩
  unfold State.placeEntry
  simp only [hlost, hwalk, State.checkTiles_of_ok htiles, List.isEmpty_nil, if_true, List.any_nil, List.filter_false, List.map_nil]
  refine State.setReady_clean _ (?_ : e.pos ∉ ((s.homeWrite e.place f.bytes (inputOfEngine u)).part p).committedPos)
  rwa [hsame.sameTables.part]

end Place

theorem State.byte_homeWrite_input {s : State} (hmem : Memory.wf s.mem = true) (a : Nat) (bs : List Byte) (input : Nat) (m : Nat) :
    (s.homeWrite a bs input).byte m = if a ≤ m ∧ m < a + bs.length then bs.getD (m - a) 0 else s.byte m := by
  obtain ⟨_, _, h⟩ := s.homeWrite_fabricOnly a bs input
  rw [State.byte, h]
  exact byte_writeMem_eq hmem a bs m

/-- A started entry that is read whole, and whose tiles pass, is placed: the one write to memory is that of its bytes (R232 to R235). -/
theorem exec_cueEntryPlaced_places {s s1 : State} {p : Fin 128} {i : Nat} {b : Arrival} {sh : Sheet} {e : CueEntry} {o : Object} {g : Nat}
    {f : Fetched} {ts : List (Nat × Nat)} (hwork : s.working = true) (hsh : s.selSheet p.val = some sh) (he : sh.entries[i]? = some e)
    (hphase : SMap.find? i (s.part p.val).entryPhase = some (.started g)) (ho : SMap.find? (ceObject e.word) s.objects = some o)
    (hfetch : s.fetch (.cue p.val i) p.val g o.desc false (ceSrc e.word) (128 * ceUnits e.word) b = (s1, some f))
    (hst : failing f.status = false) (hlost : f.lost = []) (hwalk : walkTiles f.bytes [] (ceTiles e.word) 0 = some ts)
    (htiles : ∀ t ∈ ts, tileOk ((f.bytes.drop t.1).take 768) = true) (hmem : Memory.wf s.mem = true)
    (hpos : e.pos ∉ (s.part p.val).committedPos) : ∃ t : State,
      exec (.cueEntryPlaced p i b) s = .next (t.setCore (ceCore e.word) ((t.core (ceCore e.word)).placed e.word)).wakeHeld ∧
      t.part p.val = (s.part p.val).entryDone i e.pos ∧
      ∀ m, t.byte m = if e.place ≤ m ∧ m < e.place + f.bytes.length then f.bytes.getD (m - e.place) 0 else s.byte m := by
  have hread := State.fetch_sameTables hfetch
  obtain ⟨u, hu⟩ : ∃ u, (s1.modPart p.val fun x => x.entryDone i e.pos) = u := ⟨_, rfl⟩
  have hupart : u.part p.val = (s.part p.val).entryDone i e.pos := by rw [← hu, State.part_modPart, hread.part]
  have humem : u.mem = s.mem := by rw [← hu, State.modPart_mem, hread.mem]
  have hcommitted : e.pos ∉ (u.part p.val).committedPos := by rwa [hupart]
  obtain ⟨t, ht, hplace⟩ := State.placeEntry_clean (u := g) hcommitted hlost hwalk htiles
  have hget : SMap.get .idle (s.part p.val).entryPhase i = .started g := by rw [SMap.get, hphase, Option.getD_some]
  refine ⟨t, ?_, ?_, fun m => ?_⟩
  · change execCueEntryPlaced p i b s = _
    simp only [execCueEntryPlaced, hsh, he, hget, hwork, EntryPhase.reads, EntryPhase.engine, Bool.not_true, Bool.or_self,
      Bool.false_eq_true, if_false, ho, hfetch, hst, hu, hplace]
  · have hwrite := (u.homeWrite_fabricOnly e.place f.bytes (inputOfEngine g)).sameTables
    rw [ht.part, hwrite.part, ← hupart]
    rfl
  · have hput := State.byte_homeWrite_input (humem ▸ hmem) e.place f.bytes (inputOfEngine g) m
    rwa [State.byte, ← ht.mem, State.byte, humem] at hput

/-- Settles O40: each operation on sheets by the partition it leaves, a selection by the entries it completes, and an entry by what its
engine leaves while it reads (`State.fetch_sameTables`) and by the one write of its bytes. -/
theorem cueSheets : Obligations.CueSheets := by
  refine ⟨⟨fun s s1 q e w k h hres => ⟨?load, ?select, ?unload⟩, fun s p =>
      ⟨exec_cueSelectComplete_completes, exec_cueSelectComplete_of_not⟩⟩,
    fun s p i => ⟨fun hwork hstarts => ?start, exec_cueEntryStart_of_not, ?placed⟩⟩
  case load =>
    obtain ⟨-, queues, n, entries, rfl⟩ := h.accepted
    refine fun hcode hun hslot hsel ha => ⟨fun sh hsheet hclean => ?_, fun hsheet => ?_⟩
    · obtain ⟨s', hexec, hdone, hmem, hparts, -⟩ := exec_fly_ends h (f := .cueLoad q e) rfl hcode hres hun
        (parts := s.partsWithSheet (qPart q) (fld w 511 448) sh)
        (hop := fun a b c => State.cueLoadOp_loads (s := s.withEntries a b c) hslot hsel ha hsheet hclean)
      refine ⟨s', hexec, hdone, ?_, hmem⟩
      rw [State.part, hparts, State.partsWithSheet, SMap.get_put_self]
      exact SMap.find?_put_self ..
    · obtain ⟨s', hexec, hdone, -, hparts, -, -, hctr⟩ := exec_fly_counts h (f := .cueLoad q e) rfl hcode hres hun fun a b c =>
        State.cueLoadOp_refuses (s := s.withEntries a b c) hslot hsel ha hsheet
      exact ⟨s', hexec, hdone, hparts, hctr⟩
  case select =>
    intro hcode hun hslot hsheet hbegun
    have hexec := exec_fly h (f := .cueSelect q e) rfl hcode hres hun
    obtain ⟨-, queues, n, entries, rfl⟩ := h.accepted
    rw [State.cueSelectOp_pends (s := s.withEntries queues n entries) hslot hsheet hbegun] at hexec
    refine ⟨_, hexec, ?_, ?_, ?_, rfl⟩ <;> rw [State.part_modPart] <;> rfl
  case unload =>
    refine fun hcode hun hslot => ⟨fun hsel hpend hsorted => ?_, fun hno => ?_⟩
    · obtain ⟨s', hexec, hdone, hmem, hparts, -⟩ := exec_fly_ends h (f := .cueUnload q e) rfl hcode hres hun
        (parts := SMap.put (qPart q) { s.part (qPart q) with sheets := SMap.del (fld w 511 448) (s.part (qPart q)).sheets } s.parts)
        (hop := fun a b c => State.cueUnloadOp_unloads (s := s.withEntries a b c) hslot hsel hpend)
      refine ⟨s', hexec, hdone, ?_, hmem⟩
      rw [State.part, hparts, SMap.get_put_self]
      exact (SMap.find?_del _ _ hsorted).trans (if_pos rfl)
    · obtain ⟨s', hexec, hdone, -, hparts, -⟩ := exec_fly_answers h (f := .cueUnload q e) rfl hcode hres hun fun a b c =>
        State.cueUnloadOp_denied (s := s.withEntries a b c) hno
      exact ⟨s', hexec, hdone, hparts⟩
  case start =>
    obtain ⟨sh, hsh⟩ := State.selSheet_of_entryStarts hstarts
    obtain ⟨t, hexec, ht⟩ := exec_cueEntryStart_takes hwork hsh hstarts
    refine ⟨t, s.engineFor sh i, hexec, ?_, s.engineFor_lt sh i, ht.mem⟩
    rw [ht.part, State.takeEntry, State.part_modPart]
    exact SMap.find?_put_self ..
  case placed =>
    intro b sh e o g s1 f ts hwork hsh he hphase ho hfetch hst hlost hwalk htiles hmem hpos
    obtain ⟨t, hexec, hpart, hbyte⟩ := exec_cueEntryPlaced_places hwork hsh he hphase ho hfetch hst hlost hwalk htiles hmem hpos
    refine ⟨_, hexec, ?_, fun j y hy => ?_, fun j hj => ?_, fun u hlo hhi => ?_⟩
    · refine (congrArg (fun x => SMap.find? i x.entryPhase) hpart).trans ?_
      rw [Part.entryDone, if_neg (by simpa using hpos)]
      exact SMap.find?_put_self ..
    · obtain ⟨hlt, hy⟩ := List.getElem?_eq_some_iff.1 hy
      refine (hbyte (e.place + j)).trans ?_
      rw [if_pos (by omega), Nat.add_sub_cancel_left, List.getD_eq_getElem _ _ hlt, hy]
    · have hout : j < e.place ∨ e.place + f.bytes.length ≤ j := hj
      exact (hbyte j).trans (if_neg (by omega))
    · have hcore : (t.setCore (ceCore e.word) ((t.core (ceCore e.word)).placed e.word)).wakeHeld.core (ceCore e.word) =
          (t.core (ceCore e.word)).placed e.word := SMap.get_put_self ..
      rw [hcore]
      exact Core.placed_units _ _ hlo hhi

end Sys2Proof.Machine
